-- ==== Sys2Proof/Word.lean ====
section
/-! DEFINITION. Words of the machine: 64-bit registers, bytes, and 512-byte vector registers (R1, R5). -/

namespace Sys2Proof

/-- A general or special register. -/
abbrev Word := BitVec 64
/-- A byte of memory. -/
abbrev Byte := BitVec 8
/-- A vector register: 512 bytes, byte k in bits 8k+7 to 8k. -/
abbrev VWord := BitVec 4096

end Sys2Proof
end

