-- ==== Sys2Proof/Config.lean ====
section
/-! DEFINITION. Config: what an implementation or the outside world decides and the spec leaves open. Each is a constant
without a body, so that no proof can rest on a value of it; the argument of most is the machine's count of draws. -/

namespace Sys2Proof

/-- Time, in fabric cycles less one, until an open-plane event is due: transport, translation, memory, pumps, cistern, host
commands (R391). -/
opaque Config.latency : Nat → Nat
/-- Does a station serve an access from a cached translation that covers it (R129)? -/
opaque Config.useCached : Nat → Bool
/-- Does a station serve a load from a read copy it holds, and keep a copy of a line it reads (R190)? -/
opaque Config.useCopy : Nat → Bool
/-- Is a pending vector result whose latency has passed written into its workspace words in a cycle, before its landing distance (R364)? -/
opaque Config.early : Nat → Bool
/-- Is one granule of a vector access that is in its beats performed in a core cycle; does a matrix command read one granule of its operands as it stood
when the command began? By the count of draws and the granule (R188, R197). -/
opaque Config.granule : Nat → Nat → Bool
/-- The 64 KiB frame number, within its stack, that firmware picks for cistern storage (R138). -/
opaque Config.ringFrame : Nat → BitVec 20
/-- Does a portal with commands to fetch read its next one in a fabric cycle? By 64 times the time plus the portal (R77, R391). -/
opaque Config.fetchNow : Nat → Bool
/-- Does a host node refuse an access of a portal or slab controller to its memory (R79, R130)? -/
opaque Config.hostRefuses : Nat → Bool
/-- The device key pair that the identity circuit derives at a power-up (R18). -/
opaque Config.deviceKey : Nat → Nat
/-- Stage-2 top node under which firmware reaches its own memory, that of the module root (R389). -/
opaque Config.rootTable : BitVec 40
/-- Address of the module root's region control block, which firmware chooses (R389). -/
opaque Config.rootRcb : BitVec 64

end Sys2Proof
end

