-- ==== Sys2Proof/Syntax.lean ====
section
/-! DEFINITION. Syntax: the instructions of the PLV-40A, one constructor per row of the opcode table.
Rows that the table gives an encoding are the instructions of word C and word A of a bundle (R249-R259).
Rows without an encoding are the events of the other agents of the module; their operands are the values that come from
outside the machine, or the name of the unit, operation or packet that the event concerns. -/

namespace Sys2Proof

/-- A general register number, g0-g31 (R5). -/
abbrev GReg := BitVec 5
/-- A vector register number, v0-v15 (R5). -/
abbrev VReg := BitVec 4
/-- A core id: slab in bits 19-14, local row in bits 13-7, local column in bits 6-0 (R6). -/
abbrev CoreId := BitVec 20
/-- A pump: slab in bits 11-6, pump number in bits 5-0 (R33). -/
abbrev PumpId := BitVec 12

/-- An immediate field that the extension word X replaces when L = 1 (R250, R251). -/
inductive Imm (w : Nat) where
  | short (v : BitVec w)
  | ext (x : BitVec 32)
  deriving DecidableEq, Repr

/-- The owner-signed configuration block (R18, R50, R51, R54, R57, R74, R87, R26, R393) as POWER_UP finds it. -/
structure ConfigBlock where
  /-- The signature over the block validates. -/
  signed : Bool
  /-- The owner's public key, and the versions of firmware and configuration, as ordinary fields. -/
  ownerKey : BitVec 768
  fwVersion : Nat
  cfgVersion : Nat
  /-- The firmware image matches the digest in the block. -/
  digest : Bool
  modId : BitVec 12
  /-- Module id of the frequency reference. -/
  refMod : BitVec 12
  /-- Pace epoch E: PTP seconds and nanoseconds. -/
  epochSec : BitVec 48
  epochNs : BitVec 32
  /-- System pace M - 1. -/
  mPace : BitVec 8
  ptpDomain : BitVec 7
  oneStep : Bool
  portal0 : BitVec 256
  irq0 : BitVec 128
  /-- Corrected-error threshold of stack retirement. -/
  errMax : Nat
  /-- Access-table entries of the owner's policy, in index order. -/
  policy : List (BitVec 64)
  deriving DecidableEq, Repr

/-- A fabric packet: header flit (R30), up to 16 payload flits, and the poison bit of each payload granule (R134). -/
structure Packet where
  hdr : BitVec 256
  body : BitVec 4096
  pois : BitVec 64
  deriving DecidableEq, Repr

/-- What a request asks of its target: load, store or atomic (KIND 0, 1, 2), with the address and the operands. -/
structure Access where
  kind : BitVec 2
  addr : Word
  /-- Bytes read or written: 1, 2, 4, 8 or 512. -/
  size : Nat
  data : BitVec 4096
  pois : BitVec 64
  /-- Bytes of a 512-byte access that are accessed: all, but for `vldm` and `vstm` in the stack window (R312, R116). -/
  mask : BitVec 512
  /-- Atomic operation, by the codes of R315; 10 is compare and swap. -/
  aop : BitVec 4
  /-- Expected value of a compare and swap. -/
  cmp : Word
  deriving DecidableEq, Repr

/-- What comes back for an operation: its value and poison, or a fault's cause word, trap address and data words. -/
inductive Answer where
  | done (data : BitVec 4096) (pois : BitVec 64)
  | fault (cause addr d0 d1 : Word)
  deriving DecidableEq, Repr

/-- What a packet of a request from outside the module asks: an access (KIND 0 to 2), or a cistern request (KIND 6) with its key
word, stamp, horizon or instant, record or limit. -/
inductive Ask where
  | mem (a : Access)
  | tst (key stamp : Word) (recd : BitVec 2048) (pois : BitVec 32)
  | tadv (key h : Word)
  | tld (key t lim : Word) (block hold : Bool)
  | tlow (key t : Word)
  /-- A cancel of the request that its sender made with the same tag (R151). -/
  | cancel
  deriving DecidableEq, Repr

/-- An access of krabex to the state of a core through the slab controllers (R217, R220). -/
inductive DebugAccess where
  | readWord (co : CoreId) (off : BitVec 19)
  | writeWord (co : CoreId) (off : BitVec 19) (v : Word)
  | readSlice (co : CoreId) (i : Fin 16)
  | writeSpecial (co : CoreId) (i : Fin 16) (c : Fin 11) (n : BitVec 12) (v : Word)
  | readCounter (slab : BitVec 6) (n : Fin 11)
  /-- The oldest record of the root queue is read, and FQHEAD advanced (R389). -/
  | rootRecord
  deriving DecidableEq, Repr

/-- A table that firmware or the management controller writes (R36, R42, R45, R47, R122-R126). -/
inductive TableWrite where
  | path (co : CoreId) (n : BitVec 8) (v : BitVec 192)
  | group (co : CoreId) (n : BitVec 8) (v : BitVec 8)
  | coreAccess (co : CoreId) (n : BitVec 5) (v : BitVec 64)
  | unitAccess (cls : BitVec 3) (did : BitVec 20) (n : BitVec 5) (v : BitVec 64)
  | present (m : BitVec 12) (on : Bool)
  | moduleClass (slab : BitVec 6) (m : BitVec 12) (v : BitVec 6)
  | pasidBase (frame : BitVec 40)
  | pasidEntry (pasid : BitVec 20) (v : Word)
  | pageEntry (frame : BitVec 40) (n : BitVec 15) (v : Word)
  | power (v : Word)
  /-- Slabs that report their FP8, E8 and ternary paths calibrated (R24). -/
  | calibrated (slabs : BitVec 40)
  /-- A port is configured for a host node, or for none (R44). -/
  | hostPort (port : BitVec 6) (node : Option (BitVec 12))
  /-- The oldest record of the root queue is read through a management port, and FQHEAD advanced (R389). -/
  | rootRecord
  deriving DecidableEq, Repr

/-- A soft error in the word at an address; a single-bit one is corrected (R25). -/
structure SoftError where
  addr : Nat
  single : Bool
  deriving DecidableEq, Repr

/-- Credits that a link returns on one of its channels: KIND 5, the responses, or the rest (R40). -/
structure CreditReturn where
  resp : Bool
  n : Nat
  deriving DecidableEq, Repr

/-- Where a PTP message comes from: the management port that hears it, and the domain it names (R51, R52). -/
structure PtpSource where
  port : Bool
  domain : BitVec 7
  deriving DecidableEq, Repr

/-- A Sync with the rank of the master that sends it, and the offset, in units of 0.4 ns, that the exchange it belongs to measures (R53). -/
structure PtpSync where
  src : PtpSource
  rank : Nat
  delta : Int
  deriving DecidableEq, Repr

/-- One constructor per row of the opcode table. -/
inductive Instr where
  /-- POWER_UP: At power-up every slab runs self-test, repairs failed columns onto spares and zeroes its stores, HBM, tags and poison (R19) -/
  | powerUp (b : ConfigBlock) (failed : List (BitVec 6)) (image : List Byte)
  /-- SLAB_JOIN: A slab that has passed self-test and had its HBM written joins service at a pace tick and becomes visible to placement (R23) -/
  | slabJoin (slab : BitVec 6)
  /-- MGMT_IMAGE_RELOAD: A host reloads the firmware image over the management path when validation has kept the slabs in reset (R18) -/
  | mgmtImageReload (b : ConfigBlock) (image : List Byte)
  /-- POWER_MEASUREMENT: Every 10 µs the controller measures module power and, above CAP, sets a lower step target for every slab (R14) -/
  | powerMeasurement (hot : Bool) (fit : BitVec 6)
  /-- STEP_RAISE: After power has stayed 5% below CAP for 1 ms, the controller raises the step target by one, up to CEIL (R14) -/
  | stepRaise
  /-- STEP_CHANGE_FORCED: If no superstep boundary comes within 80 µs of the target, the step change is applied at the next tick and EXC is incremented (R15) -/
  | stepChangeForced
  /-- THERMAL_TRIP: A slab sensor above 105 °C drops that slab to step 16 at the next tick, overriding R15, and the trip is counted (R16) -/
  | thermalTrip (slab : BitVec 6)
  /-- THERMAL_RECOVERY: When every sensor of a tripped slab reads below 95 °C, the slab leaves the forced step 16 (R16) -/
  | thermalRecovery (slab : BitVec 6)
  /-- SUPPLY_FAULT: The feed falling below 360 V, or a coolant loss of flow, sets the step target to 16 at once (R17) -/
  | supplyFault
  /-- SUPPLY_FAULT_HALT: A supply or coolant condition that persists for 1 s halts every slab and is reported on the management ports (R17) -/
  | supplyFaultHalt
  /-- FULL_SERVICE_ENTRY: Once calibration, port training and PTP lock are done, the module enters full service at a hush tick, and both clocks step to full rate at its end (R24) -/
  | fullServiceEntry
  /-- DOUBLE_BIT_ERROR: A double-bit soft error poisons the granule in which it lies, and the error is counted (R25) -/
  | doubleBitError (slab : BitVec 6) (e : SoftError)
  /-- STACK_RETIREMENT: An HBM stack whose corrected-error rate passes the configured threshold is retired online through a redirection table (R26) -/
  | stackRetirement (stack : BitVec 6) (map : List (BitVec 40 × BitVec 40))
  /-- STACK_FRAME_COPY: A station finishes copying one frame of a retiring stack, and later requests for that frame are forwarded to its replacement (R133) -/
  | stackFrameCopy (frame : BitVec 40)
  /-- MODULE_REMOVAL: A module leaves the Stride domain, and neighbour firmware rewrites its path tables to avoid it (R27) -/
  | moduleRemoval (m : BitVec 12)
  /-- MODULE_JOIN: A joining module locks to the domain frequency and takes its pace count and tick position from a neighbour during port training (R55) -/
  | moduleJoin (pace : Word) (pos : Nat)
  /-- LANE_SPARING: A lane that fails or exceeds its error threshold is replaced by the spare at a codeword boundary, and the codeword in flight is resent (R49) -/
  | laneSparing (slab : BitVec 6)
  /-- PACE_TICK: At the start of each pace tick the tick's work (releases, timed actions, window openings and closings, step changes, copy drops) is done before any bundle issues (R392) -/
  | paceTick
  /-- ROUTER_FORWARD: A router takes a packet on a segment, forwards it by a hop or delivers it at a terminal segment, and discards malformed routes (R32) -/
  | routerForward (k : Nat)
  /-- MODULE_INGRESS: A packet that enters a module through an off-module port with SEGN = 0 has its route filled afresh (R35) -/
  | moduleIngress (p : Packet) (port : BitVec 6) (rq : Option Ask)
  /-- FLIT_REPLAY: A flit with a parity error, or an uncorrectable codeword, is rejected and resent from the replay buffer in the next cycle of its plane (R48) -/
  | flitReplay (slab : BitVec 6) (k : Nat)
  /-- LINK_CONTROL_FLIT: A KIND 7 flit that carries credits or acknowledgements arrives, and the link returns credits to the sender (R40) -/
  | linkControlFlit (port : BitVec 6) (credits : CreditReturn)
  /-- SCHEDULED_DELIVERY: The last flit of a scheduled transfer is written into the destination tile, and the tag is written after it (R37) -/
  | scheduledDelivery (k : Nat)
  /-- MESSAGE_ARRIVAL: A KIND 3 message arrives at a core and is written into the receive queue of slice DSLC, or is refused with subcode 16, 17 or 18 (R326) -/
  | messageArrival (k : Nat)
  /-- START_MESSAGE: A start message from a slab controller activates a slice's instruction-store partition; a start message from any other sender is discarded and counted (R117) -/
  | startMessage (k : Nat)
  /-- CORE_SPACE_REQUEST: A core-space load, store or atomic arrives at a target core, is checked against the access table and partition, and is performed or refused (R110) -/
  | coreSpaceRequest (k : Nat)
  /-- GLOBAL_REQUEST_TRANSLATION: The translating station takes a global request, translates it in two stages, checks permissions and forwards it to the home station (R123) -/
  | globalRequestTranslation (k : Nat)
  /-- HOME_REQUEST: The home station applies its access table and performs a global load, store or atomic, dropping read copies for a store to a page with MC = 0 (R322) -/
  | homeRequest (k : Nat)
  /-- REPLICA_STORE: The primary of a replicated page serialises a store and forwards it to the 39 other replicas, and the store completes when all have acknowledged it (R131) -/
  | replicaStore (k : Nat)
  /-- SPLIT_PHASE_COMPLETION: The response to a split-phase access arrives, and the core writes any returned data, then the completion slot, or sends the result to the fault queue (R322) -/
  | splitPhaseCompletion (k : Nat) (ext : Answer)
  /-- TRANSLATION_INVALIDATION: An invalidation store at the station window makes every station of the module drop the covered cached translations (R129) -/
  | translationInvalidation (k : Nat)
  /-- SYNC_MESSAGE: The Starter receives a PTP Sync, measures δ and updates its lock state (R53) -/
  | syncMessage (m : PtpSync)
  /-- ANNOUNCE_MESSAGE: The Starter receives a PTP Announce and runs the best master clock algorithm as a slave (R51) -/
  | announceMessage (src : PtpSource) (rank : Nat)
  /-- PDELAY_REQ: The Starter answers a PTP Pdelay_Req with a one-step or two-step Pdelay_Resp (R51) -/
  | pdelayReq (src : PtpSource) (seq : BitVec 16) (t2 t3 : Nat)
  /-- ANNOUNCE_RECEIPT_TIMEOUT: Expiry of announceReceiptTimeout on the active port switches PTP to the other port, or enters holdover when both ports have expired (R52) -/
  | announceReceiptTimeout
  /-- FREQUENCY_TRIM: The reference Starter trims the domain fabric frequency toward PTP time, within ±50 ppm and by at most 0.1 ppm per second (R56) -/
  | frequencyTrim (ppb : Int)
  /-- FREQUENCY_LOSS: Loss of the recovered frequency on every selected port isolates the module, frees its armed entries and suspends its pace slices (R73) -/
  | frequencyLoss
  /-- RELOCK: An isolated module relocks, reloads its pace count and moves every resident slice's deadline by the difference (R73) -/
  | relock (pace : Word) (pos : Nat)
  /-- TIMED_ACTION: At the action tick, a ready module launches, pre-empts, resumes or halts the gang's slices, writes its mailbox and reports to COORD (R63) -/
  | timedAction (n : Nat)
  /-- STRAGGLER: A module still not ready at Klast + 1 raises gang fault 0x18 subcode 1 and reports straggled to COORD (R67) -/
  | straggler (n : Nat)
  /-- STARTER_NOTICE: A Starter notice (acted, straggled or undo) arrives; it is matched to an entry, or discarded and counted (R69) -/
  | starterNotice (k : Nat)
  /-- COORD_COLLECT_TIMEOUT: At tick Klast + 64, COORD stops collecting reports and applies STRG to the shortfall (R68) -/
  | coordCollectTimeout (n : Nat)
  /-- UNDO: An undo takes effect at the second tick after it arrives, its first tick being a hush frame (R68) -/
  | undo (n : Nat)
  /-- ARM_ENTRY_FREE: An armed entry is freed 64 ticks after its final outcome, unless a retry keeps it (R70) -/
  | armEntryFree (n : Nat)
  /-- NOTIFY_WRITE: A host write to the notify page sets a portal's TAIL if every check passes, and otherwise increments ERR (R75) -/
  | notifyWrite (k : Nat)
  /-- RESET_NOTIFY: A notify write with bit 63 set waits for fetches to end, then sets HEAD = TAIL = N and clears FLT and ERR (R76) -/
  | resetNotify (k : Nat)
  /-- COMMAND_FETCH: While HEAD differs from TAIL, the station fetches the next command through translation, checks it and hands it to the slab controller (R77) -/
  | commandFetch (p : BitVec 6)
  /-- LAUNCH: Walks and checks the RCB subtree, then places its regions in pre-order with GANG 0, giving each region an id (R92) -/
  | launch (p : BitVec 6) (n : BitVec 32)
  /-- ARM: Checks a timed-launch record and arms it in one of the 64 entries, or refuses it with a reason code (R60) -/
  | arm (p : BitVec 6) (n : BitVec 32)
  /-- KILL_SUBTREE: KILL with MODE 0 stops the subtree's slices at their boundaries and removes them once their packets have been delivered (R83) -/
  | killSubtree (p : BitVec 6) (n : BitVec 32)
  /-- KILL_GANG: KILL with MODE 1 cancels the gang's armed entries before their deadline and halts its resident slices (R83) -/
  | killGang (p : BitVec 6) (n : BitVec 32)
  /-- QUERY_STARTER_STATUS: QUERY item 0 returns the Starter status word (R83) -/
  | queryStarterStatus (p : BitVec 6) (n : BitVec 32)
  /-- QUERY_POWER: QUERY item 1 returns the power control word (R83) -/
  | queryPower (p : BitVec 6) (n : BitVec 32)
  /-- QUERY_DESCRIPTOR: QUERY item 2 returns this portal's descriptor (R83) -/
  | queryDescriptor (p : BitVec 6) (n : BitVec 32)
  /-- QUERY_REGION: QUERY item 3 returns the region's slice counts, id and STATE, and its fault-queue fill (R83) -/
  | queryRegion (p : BitVec 6) (n : BitVec 32)
  /-- COPY: Splits a range into 64 KiB chunks and has the portal slab's pumps copy them, stopping each chunk at its first fault (R83) -/
  | copy (p : BitVec 6) (n : BitVec 32)
  /-- KEYPOOL: Configures a region's cistern pool, choosing its home slab and reserving ring frames (R138) -/
  | keypool (p : BitVec 6) (n : BitVec 32)
  /-- KEYPOOL_RELEASE: KEYPOOL with NKEY 0 releases the pool and returns its frames zeroed (R138) -/
  | keypoolRelease (p : BitVec 6) (n : BitVec 32)
  /-- CONFIG_POWER: CONFIG item 1 writes the power control word (R83) -/
  | configPower (p : BitVec 6) (n : BitVec 32)
  /-- CONFIG_DESCRIPTOR: CONFIG item 2 writes a portal descriptor, resetting HEAD and TAIL and clearing FLT (R74) -/
  | configDescriptor (p : BitVec 6) (n : BitVec 32)
  /-- CONFIG_REVOKE: CONFIG item 3 sets REV of the target portal and completes once that portal has no fetch in progress (R82) -/
  | configRevoke (p : BitVec 6) (n : BitVec 32)
  /-- CONFIG_INTERRUPT: CONFIG item 4 writes a portal's interrupt entry (R86) -/
  | configInterrupt (p : BitVec 6) (n : BitVec 32)
  /-- CONFIG_RETIRE_STACK: CONFIG item 5 names an HBM stack for online retirement (R26) -/
  | configRetireStack (p : BitVec 6) (n : BitVec 32)
  /-- RESUME: Resumes the stopped and suspended slices of a subtree and makes them eligible (R84) -/
  | resume (p : BitVec 6) (n : BitVec 32)
  /-- COMMAND_COMPLETION: When a command finishes, the station writes its completion record, with bytes 8–15 written last (R85) -/
  | commandCompletion (p : BitVec 6) (n : BitVec 32)
  /-- SLICE_RELEASE: At tick DEAD, the slice takes BREM = BUD and DEAD + PER, and an idle slice becomes ready (R98) -/
  | sliceRelease (co : CoreId) (i : Fin 16)
  /-- BUDGET_EXHAUSTION: BREM reaching 0 gives deadline fault 0x0F and the DFP policy, or, in class 3 free discipline, renews the quantum (R98) -/
  | budgetExhaustion (co : CoreId) (i : Fin 16)
  /-- SWITCH_COMPLETE: Once every outgoing context has stopped, the queue has gone quiet and the bank has been saved, the incoming slice switches in (R100) -/
  | switchComplete (co : CoreId)
  /-- SLICE_LEAVE: When all contexts have stopped, the slice leaves its table, its partitions and bank are released, and its cistern requests are cleaned up (R298) -/
  | sliceLeave (co : CoreId) (i : Fin 16)
  /-- B_SHARE_CLEAR: The unit finishes clearing the B shares of a departed slice, and their records become none (R169) -/
  | bShareClear (co : CoreId)
  /-- SBAR_ARRIVAL: Slice 0 receives a superstep arrival, combines the vote, and after the last arrival sends go messages with W = t + XGAP (R105) -/
  | sbarArrival (k : Nat)
  /-- GO_MESSAGE: A go message arrives at a slice, and its sbar records V and W, or takes 0x0E when the go arrived at or after W (R105) -/
  | goMessage (k : Nat)
  /-- EXCHANGE_WINDOW_OPEN: At tick W the exchange window opens, and the waiting sbar completes (R105) -/
  | exchangeWindowOpen (co : CoreId) (i : Fin 16)
  /-- EXCHANGE_WINDOW_CLOSE: At tick W + XLEN the window closes, xend completes, and BREM is reset to BUD (R104) -/
  | exchangeWindowClose (co : CoreId) (i : Fin 16)
  /-- XSEND_DEPARTURE: At window cycle gc, the scheduled injector reads the source granules and the head flit departs (R329) -/
  | xsendDeparture (co : CoreId)
  /-- CISTERN_TST_REQUEST: The home station applies a tst: binds the writer, checks the stamp, appends the sample or holds the store, and sets L and H (R145) -/
  | cisternTstRequest (k : Nat)
  /-- CISTERN_TADV_REQUEST: The home station raises a key's horizon and computes its horizon point (R146) -/
  | cisternTadvRequest (k : Nat)
  /-- CISTERN_TLD_REQUEST: The home station resolves a load by the rows of R148, answering it, refusing it or queueing it (R148) -/
  | cisternTldRequest (k : Nat)
  /-- CISTERN_TLOW_REQUEST: Station 0 registers or moves a reader's low-water instant and forwards the floor to the pool's other stations (R152) -/
  | cisternTlowRequest (k : Nat)
  /-- CISTERN_CANCEL: A cancel after an expired cwait removes a waiting load or held store, unless it has already been answered, and replies with L (R151) -/
  | cisternCancel (k : Nat)
  /-- MMA_EXECUTION: The matrix unit executes an mma: checks share and bank type, reads its operands, and accumulates group sums into the bank (R336) -/
  | mmaExecution (co : CoreId)
  /-- MLDB_EXECUTION: The unit copies the source columns into the B share and records the slice (R337) -/
  | mldbExecution (co : CoreId)
  /-- MZERO_EXECUTION: The unit clears the bank, its type, SAT and BC (R338) -/
  | mzeroExecution (co : CoreId)
  /-- MDRAIN_EXECUTION: The unit drains the bank through scale, activation and conversion to the tile, writes the tags, then writes the slot (R340) -/
  | mdrainExecution (co : CoreId)
  /-- KICK_WORD_STORE: A store-release to a kick word enqueues a job descriptor at the pump, or stalls while the queue is full (R179) -/
  | kickWordStore (k : Nat)
  /-- PUMP_COPY: Pump job type 0 copies bytes from SRC to DST (R181) -/
  | pumpCopy (u : PumpId)
  /-- PUMP_GATHER: Pump job type 1 gathers elements through an n32 index table (R181) -/
  | pumpGather (u : PumpId)
  /-- PUMP_SCATTER: Pump job type 2 scatters elements through an n32 index table (R181) -/
  | pumpScatter (u : PumpId)
  /-- PUMP_FILL: Pump job type 3 fills DST with the 8-byte pattern (R181) -/
  | pumpFill (u : PumpId)
  /-- PUMP_ADD_REDUCE: Pump job type 4 adds f32 elements into DST by xamo.fadd (R181) -/
  | pumpAddReduce (u : PumpId)
  /-- PUMP_CISTERN_STORE: Pump job type 5 issues tst for successive keys at stamp TIME (R181) -/
  | pumpCisternStore (u : PumpId)
  /-- PUMP_CISTERN_LOAD: Pump job type 6 issues tld.refuse.lin for successive keys and writes each status byte (R181) -/
  | pumpCisternLoad (u : PumpId)
  /-- PUMP_MICROCODE_READ: Pump job type 7 copies the pump's instruction store to DST (R181) -/
  | pumpMicrocodeRead (u : PumpId)
  /-- PUMP_JOB_COMPLETION: On job end the pump writes the mailbox with release and then updates the kicker's s.engst channel, or sends a fault record (R182) -/
  | pumpJobCompletion (u : PumpId)
  /-- BOUNDED_WAIT_EXPIRY: A bounded wait whose count reaches its limit takes 0x0C, and sends a cancel for a blocking cistern operation (R295) -/
  | boundedWaitExpiry (co : CoreId) (i : Fin 16) (c : Fin 11)
  /-- KRABEX_ATTACH: krabex sets a slice's attach bit so that its 0x14 causes halt to krabex (R217) -/
  | krabexAttach (co : CoreId) (i : Fin 16)
  /-- KRABEX_DETACH: krabex clears the attach bit and every breakpoint and watchpoint that names the slice (R217) -/
  | krabexDetach (co : CoreId) (i : Fin 16)
  /-- BREAKPOINT_WRITE: krabex writes one of a core's 4 instruction breakpoints (R218) -/
  | breakpointWrite (co : CoreId) (n : Fin 4) (v : Word)
  /-- WATCHPOINT_WRITE: krabex writes one of a core's 2 data watchpoints (R219) -/
  | watchpointWrite (co : CoreId) (n : Fin 2) (v : Word)
  /-- KRABEX_HALT: A halt request stops every live context after its current bundle, writes records with subcode 4 and suspends the slice (R220) -/
  | krabexHalt (co : CoreId) (i : Fin 16)
  /-- KRABEX_RESUME: krabex resumes a halted slice: each context continues as by rfe, and the deadline is advanced (R220) -/
  | krabexResume (co : CoreId) (i : Fin 16)
  /-- KRABEX_STEP: Single-bundle stepping makes the context raise 0x14 subcode 3 after each step (R221) -/
  | krabexStep (co : CoreId) (i : Fin 16) (c : Fin 11) (on : Bool)
  /-- TRACE_ENABLE: krabex enables per-core dispatcher trace into the slab's 4,096-record ring (R222) -/
  | traceEnable (co : CoreId) (on : Bool)
  /-- KRABEX_STATE_ACCESS: krabex reads or writes slice tables, workspaces and registers through the slab controllers (R217) -/
  | krabexStateAccess (a : DebugAccess)
  /-- REGISTER_WRITE: Firmware or management writes a table or register that has no row of its own (path, group or access tables, presence map, module-class table), effective from the next cycle (R36) -/
  | registerWrite (w : TableWrite)
  /-- SUPPLY_RECOVERY: The feed returns above 360 V, or coolant flow is restored, before the 1 s limit, ending the forced step-16 condition (R17) -/
  | supplyRecovery
  /-- CISTERN_COMPLETION: The answer to a tst, tadv, tlow or tld, or the reply to a cancel, reaches the issuing core, which writes any 4n-byte record at ga and then the completion slot (R344) -/
  | cisternCompletion (k : Nat) (ext : Answer)
  /-- ARMED_RECORD_PLACEMENT: The slab controllers finish placing an armed launch record's subtree into held slice-table entries, which makes the module ready for the record (R61) -/
  | armedRecordPlacement (n : Nat)
  /-- OFF_MODULE_PORT_TRAINING: An off-module port completes training or retraining, fixing its latency Lp and enabling the port for traffic (R37) -/
  | offModulePortTraining (port : BitVec 6) (lp : Nat)
  /-- NOP_C: C-slot no operation (R287) -/
  | nopC
  /-- HINT_C: C-slot hint, executed as nop (R260) -/
  | hintC (v : BitVec 22)
  /-- BR: Unconditional branch with a delay bundle (R284) -/
  | br (d : BitVec 22)
  /-- CALL: Call: writes g31 = P + 16 and branches (R284) -/
  | call (d : BitVec 22)
  /-- BT: Branch if a register bit is 1 (R284) -/
  | bt (r : GReg) (b : BitVec 6) (d : Imm 10)
  /-- BF: Branch if a register bit is 0 (R284) -/
  | bf (r : GReg) (b : BitVec 6) (d : Imm 10)
  /-- BNZ: Branch if the register is nonzero (R284) -/
  | bnz (r : GReg) (d : Imm 10)
  /-- BZ: Branch if the register is zero (R284) -/
  | bz (r : GReg) (d : Imm 10)
  /-- BSE: Branch if a bit of s.engst is set; reading DONE = 1 acquires (R284) -/
  | bse (b : BitVec 6) (d : Imm 10)
  /-- BSC: Branch if a bit of s.engst is clear (R284) -/
  | bsc (b : BitVec 6) (d : Imm 10)
  /-- GUARD: The partner A instruction executes only if the register bit is 1 (R285) -/
  | guard (r : GReg) (b : BitVec 6)
  /-- GUARDN: The partner A instruction executes only if the register bit is 0 (R285) -/
  | guardn (r : GReg) (b : BitVec 6)
  /-- REPT: Repeats the next n bundles c times, advancing their A register fields by k per pass (R289) -/
  | rept (n : BitVec 3) (c : BitVec 8) (k : BitVec 5)
  /-- LI: Loads a sign-extended imm17, or X, into rd (R286) -/
  | li (rd : GReg) (v : Imm 17)
  /-- LIH: Replaces bits 63–32 of rd with X (R286) -/
  | lih (rd : GReg) (x : BitVec 32)
  /-- START: Starts helper h at P + 8 × disp with a cleared status block (R292) -/
  | start (h : BitVec 5) (d : Imm 17)
  /-- CWAIT: Waits for a completion slot to be done or faulted; returns the value word or traps with the recorded fault (R319) -/
  | cwait (rd ra rb : GReg)
  /-- QWAIT: Waits until the receive queue holds a record and returns its address (R327) -/
  | qwait (rd rb : GReg)
  /-- HJOIN: Waits until no named helper is live, acquiring their work (R294) -/
  | hjoin (ra rb : GReg)
  /-- XEND: Waits for the exchange window's closing tick and acquires its deliveries (R301) -/
  | xend (rb : GReg)
  /-- MWAIT: Waits until the matrix queue is empty and complete, taking any recorded fault (R341) -/
  | mwait (rb : GReg)
  /-- SBAR_OR: Superstep barrier whose vote is combined by bitwise OR (R299) -/
  | sbarOr (rd ra rb : GReg)
  /-- SBAR_AND: Superstep barrier whose vote is combined by bitwise AND (R299) -/
  | sbarAnd (rd ra rb : GReg)
  /-- SBAR_MAX: Superstep barrier whose vote is combined by unsigned maximum (R299) -/
  | sbarMax (rd ra rb : GReg)
  /-- CALLR: Call to a register target (R284) -/
  | callr (ra : GReg)
  /-- JR: Jump to a register target (R284) -/
  | jr (ra : GReg)
  /-- RET: Jump to g31 (R284) -/
  | ret
  /-- HEND: Ends a helper after its pending results land (R293) -/
  | hend
  /-- YIELD: Places a boundary, makes the slice idle until its next release, and evaluates the dispatcher (R297) -/
  | yield
  /-- SEXIT: The slice enters leaving state and stops its helpers (R298) -/
  | sexit
  /-- VOTE: Reads the combined value of the last completed sbar (R300) -/
  | vote (rd : GReg)
  /-- RFE: Returns from a trap using the record in the workspace at s.wp (R306) -/
  | rfe
  /-- SWP: Moves the context to a new workspace, swapping its counters (R305) -/
  | swp (rd ra : GReg)
  /-- BRK: Raises 0x14 subcode 0 as an after trap (R303) -/
  | brk
  /-- HALT: Halts the slice to krabex, or stops it unvectored, with subcode 4 records (R304) -/
  | halt
  /-- TRAP: Software trap 0x13 with a 16-bit code, taken after the bundle (R302) -/
  | trap (k : BitVec 16)
  /-- MARK: Sets the region entry pc and the live-in mask (R296) -/
  | mark (x : BitVec 32)
  /-- GETSR: Reads a special register (R290) -/
  | getsr (rd : GReg) (n : BitVec 12)
  /-- SETSR: Writes a special register, with the register's own side effects (R291) -/
  | setsr (ra : GReg) (n : BitVec 12)
  /-- WAIT: Delays the context by n running cycles (R288) -/
  | wait (n : BitVec 12)
  /-- LD_I8: Local load of a byte, sign-extended (R308) -/
  | ldI8 (rd ra : GReg) (o : BitVec 2) (sc : BitVec 3) (off : Imm 7)
  /-- LD_N8: Local load of a byte, zero-extended (R308) -/
  | ldN8 (rd ra : GReg) (o : BitVec 2) (sc : BitVec 3) (off : Imm 7)
  /-- LD_I16: Local load of a halfword, sign-extended (R308) -/
  | ldI16 (rd ra : GReg) (o : BitVec 2) (sc : BitVec 3) (off : Imm 7)
  /-- LD_N16: Local load of a halfword, zero-extended (R308) -/
  | ldN16 (rd ra : GReg) (o : BitVec 2) (sc : BitVec 3) (off : Imm 7)
  /-- LD_I32: Local load of a word, sign-extended (R308) -/
  | ldI32 (rd ra : GReg) (o : BitVec 2) (sc : BitVec 3) (off : Imm 7)
  /-- LD_N32: Local load of a word, zero-extended (R308) -/
  | ldN32 (rd ra : GReg) (o : BitVec 2) (sc : BitVec 3) (off : Imm 7)
  /-- LD_D: Local load of 8 bytes (R308) -/
  | ldD (rd ra : GReg) (o : BitVec 2) (sc : BitVec 3) (off : Imm 7)
  /-- ST_B: Local store of a byte (R308) -/
  | stB (rs ra : GReg) (o : BitVec 2) (sc : BitVec 3) (off : Imm 7)
  /-- ST_H: Local store of a halfword (R308) -/
  | stH (rs ra : GReg) (o : BitVec 2) (sc : BitVec 3) (off : Imm 7)
  /-- ST_W: Local store of a word (R308) -/
  | stW (rs ra : GReg) (o : BitVec 2) (sc : BitVec 3) (off : Imm 7)
  /-- ST_D: Local store of 8 bytes (R308) -/
  | stD (rs ra : GReg) (o : BitVec 2) (sc : BitVec 3) (off : Imm 7)
  /-- LDX_I8: Indexed local load of a byte, sign-extended (R310) -/
  | ldxI8 (rd ra rb : GReg) (o : BitVec 2)
  /-- LDX_N8: Indexed local load of a byte, zero-extended (R310) -/
  | ldxN8 (rd ra rb : GReg) (o : BitVec 2)
  /-- LDX_I16: Indexed local load of a halfword, sign-extended (R310) -/
  | ldxI16 (rd ra rb : GReg) (o : BitVec 2)
  /-- LDX_N16: Indexed local load of a halfword, zero-extended (R310) -/
  | ldxN16 (rd ra rb : GReg) (o : BitVec 2)
  /-- LDX_I32: Indexed local load of a word, sign-extended (R310) -/
  | ldxI32 (rd ra rb : GReg) (o : BitVec 2)
  /-- LDX_N32: Indexed local load of a word, zero-extended (R310) -/
  | ldxN32 (rd ra rb : GReg) (o : BitVec 2)
  /-- LDX_D: Indexed local load of 8 bytes (R310) -/
  | ldxD (rd ra rb : GReg) (o : BitVec 2)
  /-- STX_B: Indexed local store of a byte (R310) -/
  | stxB (rs ra rb : GReg) (o : BitVec 2)
  /-- STX_H: Indexed local store of a halfword (R310) -/
  | stxH (rs ra rb : GReg) (o : BitVec 2)
  /-- STX_W: Indexed local store of a word (R310) -/
  | stxW (rs ra rb : GReg) (o : BitVec 2)
  /-- STX_D: Indexed local store of 8 bytes (R310) -/
  | stxD (rs ra rb : GReg) (o : BitVec 2)
  /-- VLD: Loads a 512-byte vector register (R312) -/
  | vld (vd : VReg) (ra : GReg) (o : BitVec 2) (sc : BitVec 3) (off : Option (BitVec 32))
  /-- VST: Stores a 512-byte vector register (R312) -/
  | vst (vs : VReg) (ra : GReg) (o : BitVec 2) (sc : BitVec 3) (off : Option (BitVec 32))
  /-- VLDM: Masked vector load (R312) -/
  | vldm (vd : VReg) (ra : GReg) (vm : VReg) (o : BitVec 2) (sc : BitVec 3) (off : Option (BitVec 32))
  /-- VSTM: Masked vector store (R312) -/
  | vstm (vs : VReg) (ra : GReg) (vm : VReg) (o : BitVec 2) (sc : BitVec 3) (off : Option (BitVec 32))
  /-- VLDT: Tag-checked vector load; a tag mismatch takes 0x0D (R313) -/
  | vldt (vd : VReg) (ra gt : GReg) (o : BitVec 2) (sc : BitVec 3) (off : Option (BitVec 32))
  /-- VSTT: Vector store that then writes the tile tag (R313) -/
  | vstt (vs : VReg) (ra gt : GReg) (o : BitVec 2) (sc : BitVec 3) (off : Option (BitVec 32))
  /-- VGATHER: Local gather through n16 indices (R314) -/
  | vgather (vd : VReg) (ra : GReg) (vi : VReg) (o : BitVec 2) (sc : BitVec 3) (el : BitVec 2) (off : Option (BitVec 32))
  /-- VSCATTER: Local scatter through n16 indices (R314) -/
  | vscatter (vs : VReg) (ra : GReg) (vi : VReg) (o : BitVec 2) (sc : BitVec 3) (el : BitVec 2) (off : Option (BitVec 32))
  /-- AMO_ADD: Local atomic add (R316) -/
  | amoAdd (rd ra rb : GReg) (o : BitVec 2) (dw : Bool)
  /-- AMO_AND: Local atomic AND (R316) -/
  | amoAnd (rd ra rb : GReg) (o : BitVec 2) (dw : Bool)
  /-- AMO_OR: Local atomic OR (R316) -/
  | amoOr (rd ra rb : GReg) (o : BitVec 2) (dw : Bool)
  /-- AMO_XOR: Local atomic XOR (R316) -/
  | amoXor (rd ra rb : GReg) (o : BitVec 2) (dw : Bool)
  /-- AMO_MIN: Local atomic signed minimum (R316) -/
  | amoMin (rd ra rb : GReg) (o : BitVec 2) (dw : Bool)
  /-- AMO_MAX: Local atomic signed maximum (R316) -/
  | amoMax (rd ra rb : GReg) (o : BitVec 2) (dw : Bool)
  /-- AMO_MINN: Local atomic unsigned minimum (R316) -/
  | amoMinn (rd ra rb : GReg) (o : BitVec 2) (dw : Bool)
  /-- AMO_MAXN: Local atomic unsigned maximum (R316) -/
  | amoMaxn (rd ra rb : GReg) (o : BitVec 2) (dw : Bool)
  /-- AMO_SWAP: Local atomic swap (R316) -/
  | amoSwap (rd ra rb : GReg) (o : BitVec 2) (dw : Bool)
  /-- AMO_FADD: Local atomic floating add, rounded to nearest even (R316) -/
  | amoFadd (rd ra rb : GReg) (o : BitVec 2) (dw : Bool)
  /-- CAS: Local compare and swap (R316) -/
  | cas (rd ra rb : GReg) (o : BitVec 2) (dw : Bool)
  /-- FENCE: Holds the context until earlier accesses complete at the scope (R317) -/
  | fence (sc : BitVec 3)
  /-- FENCE_SC: Fence that also waits for the next pace tick, or system pace tick (R202) -/
  | fenceSc (sc : BitVec 3)
  /-- XLD: Split-phase load into a completion slot (R321) -/
  | xld (ra rc : GReg) (o : BitVec 2) (sc : BitVec 3) (sz : BitVec 2)
  /-- XST: Split-phase store, including the invalidation store at the station window (R321) -/
  | xst (rv ra rc : GReg) (o : BitVec 2) (sc : BitVec 3) (sz : BitVec 2)
  /-- XVLD: Split-phase 512-byte load to the scratchpad (R321) -/
  | xvld (rv ra rc : GReg) (o : BitVec 2) (sc : BitVec 3)
  /-- XVST: Split-phase 512-byte store from the scratchpad (R321) -/
  | xvst (rv ra rc : GReg) (o : BitVec 2) (sc : BitVec 3)
  /-- XAMO_ADD: Remote atomic add (R322) -/
  | xamoAdd (rv ra rc : GReg) (o : BitVec 2) (sc : BitVec 3) (dw : Bool)
  /-- XAMO_AND: Remote atomic AND (R322) -/
  | xamoAnd (rv ra rc : GReg) (o : BitVec 2) (sc : BitVec 3) (dw : Bool)
  /-- XAMO_OR: Remote atomic OR (R322) -/
  | xamoOr (rv ra rc : GReg) (o : BitVec 2) (sc : BitVec 3) (dw : Bool)
  /-- XAMO_XOR: Remote atomic XOR (R322) -/
  | xamoXor (rv ra rc : GReg) (o : BitVec 2) (sc : BitVec 3) (dw : Bool)
  /-- XAMO_MIN: Remote atomic signed minimum (R322) -/
  | xamoMin (rv ra rc : GReg) (o : BitVec 2) (sc : BitVec 3) (dw : Bool)
  /-- XAMO_MAX: Remote atomic signed maximum (R322) -/
  | xamoMax (rv ra rc : GReg) (o : BitVec 2) (sc : BitVec 3) (dw : Bool)
  /-- XAMO_MINN: Remote atomic unsigned minimum (R322) -/
  | xamoMinn (rv ra rc : GReg) (o : BitVec 2) (sc : BitVec 3) (dw : Bool)
  /-- XAMO_MAXN: Remote atomic unsigned maximum (R322) -/
  | xamoMaxn (rv ra rc : GReg) (o : BitVec 2) (sc : BitVec 3) (dw : Bool)
  /-- XAMO_SWAP: Remote atomic swap (R322) -/
  | xamoSwap (rv ra rc : GReg) (o : BitVec 2) (sc : BitVec 3) (dw : Bool)
  /-- XAMO_FADD: Remote atomic floating add (R322) -/
  | xamoFadd (rv ra rc : GReg) (o : BitVec 2) (sc : BitVec 3) (dw : Bool)
  /-- XCAS: Remote compare and swap (R322) -/
  | xcas (rv ra rc : GReg) (o : BitVec 2) (sc : BitVec 3) (dw : Bool)
  /-- POST: Sends a message from an injection entry as a store-release at module scope (R324) -/
  | post (e : BitVec 4)
  /-- QNEXT: Releases the head record and returns the next record's address (R327) -/
  | qnext (rd : GReg)
  /-- XSEND: Schedules a transfer for a departure cycle of the exchange window (R329) -/
  | xsend (r1 r2 r3 : GReg) (p : BitVec 8) (n : BitVec 5) (tag : BitVec 16)
  /-- MMA_E4M3_E4M3: Queues an e4m3 × e4m3 matrix multiply-accumulate (R336) -/
  | mmaE4m3E4m3 (ra rb rs : GReg) (kb ba bb : BitVec 2) (ap : Bool)
  /-- MMA_E4M3_E5M2: Queues an e4m3 × e5m2 matrix multiply-accumulate (R336) -/
  | mmaE4m3E5m2 (ra rb rs : GReg) (kb ba bb : BitVec 2) (ap : Bool)
  /-- MMA_E5M2_E4M3: Queues an e5m2 × e4m3 matrix multiply-accumulate (R336) -/
  | mmaE5m2E4m3 (ra rb rs : GReg) (kb ba bb : BitVec 2) (ap : Bool)
  /-- MMA_E5M2_E5M2: Queues an e5m2 × e5m2 matrix multiply-accumulate (R336) -/
  | mmaE5m2E5m2 (ra rb rs : GReg) (kb ba bb : BitVec 2) (ap : Bool)
  /-- MMA_BF16_BF16: Queues a bf16 matrix multiply-accumulate (R336) -/
  | mmaBf16Bf16 (ra rb rs : GReg) (kb ba bb : BitVec 2) (ap : Bool)
  /-- MMA_F16_F16: Queues an f16 matrix multiply-accumulate (R336) -/
  | mmaF16F16 (ra rb rs : GReg) (kb ba bb : BitVec 2) (ap : Bool)
  /-- MMA_I8_I8: Queues an i8 integer matrix multiply-accumulate into an i32 bank (R336) -/
  | mmaI8I8 (ra rb rs : GReg) (kb ba bb : BitVec 2) (ap : Bool)
  /-- MMA_I8_T2: Queues an i8 × ternary matrix multiply-accumulate (R336) -/
  | mmaI8T2 (ra rb rs : GReg) (kb ba bb : BitVec 2) (ap : Bool)
  /-- MMA_E8O_I8: Queues an i8 × E8 octet matrix multiply-accumulate (R336) -/
  | mmaE8oI8 (ra rb rs : GReg) (kb ba bb : BitVec 2) (ap : Bool)
  /-- MMA_E8O_E4M3: Queues an e4m3 × E8 octet matrix multiply-accumulate (R336) -/
  | mmaE8oE4m3 (ra rb rs : GReg) (kb ba bb : BitVec 2) (ap : Bool)
  /-- MMA_E8O_BF16: Queues a bf16 × E8 octet matrix multiply-accumulate (R336) -/
  | mmaE8oBf16 (ra rb rs : GReg) (kb ba bb : BitVec 2) (ap : Bool)
  /-- MLDB: Queues a load of B columns into the core's B share (R337) -/
  | mldb (r1 r2 r3 : GReg)
  /-- MZERO: Queues a clear of the accumulator bank (R338) -/
  | mzero
  /-- MDRAIN: Queues a drain of the bank to a tile with a tag and completion slot (R340) -/
  | mdrain (r1 r2 r3 r4 : GReg) (ty act : BitVec 4)
  /-- TST: Sends a cistern store of a record at a stamp (R343) -/
  | tst (r1 r2 r3 r4 : GReg)
  /-- TADV: Sends a cistern horizon advance (R343) -/
  | tadv (r1 r2 r3 : GReg)
  /-- TLOW: Sends a reader low-water registration for a pool (R343) -/
  | tlow (r1 r2 r3 : GReg)
  /-- TLD: Sends a timed cistern load in refuse or block mode (R343) -/
  | tld (r1 r2 r3 r4 gc : GReg) (wm ik : Bool)
  /-- NOP_A: A-slot no operation (R287) -/
  | nopA
  /-- HINT_A: A-slot hint, executed as nop (R260) -/
  | hintA (v : BitVec 28)
  /-- ADD: Integer add (R346) -/
  | add (rd ra rb : GReg) (w32 : Bool)
  /-- SUB: Integer subtract (R346) -/
  | sub (rd ra rb : GReg) (w32 : Bool)
  /-- AND: Bitwise AND (R346) -/
  | and (rd ra rb : GReg)
  /-- OR: Bitwise OR (R346) -/
  | or (rd ra rb : GReg)
  /-- XOR: Bitwise XOR (R346) -/
  | xor (rd ra rb : GReg)
  /-- ANDN: ga AND NOT gb (R346) -/
  | andn (rd ra rb : GReg)
  /-- ORN: ga OR NOT gb (R346) -/
  | orn (rd ra rb : GReg)
  /-- SHL: Shift left (R346) -/
  | shl (rd ra rb : GReg) (w32 : Bool)
  /-- SHR: Logical shift right (R346) -/
  | shr (rd ra rb : GReg) (w32 : Bool)
  /-- SAR: Arithmetic shift right (R346) -/
  | sar (rd ra rb : GReg) (w32 : Bool)
  /-- ROL: Rotate left (R346) -/
  | rol (rd ra rb : GReg) (w32 : Bool)
  /-- MIN: Signed minimum (R346) -/
  | min (rd ra rb : GReg)
  /-- MAX: Signed maximum (R346) -/
  | max (rd ra rb : GReg)
  /-- MINN: Unsigned minimum (R346) -/
  | minn (rd ra rb : GReg)
  /-- MAXN: Unsigned maximum (R346) -/
  | maxn (rd ra rb : GReg)
  /-- SEQ: Set if equal (R346) -/
  | seq (rd ra rb : GReg)
  /-- SNE: Set if not equal (R346) -/
  | sne (rd ra rb : GReg)
  /-- SLT: Set if less than, signed (R346) -/
  | slt (rd ra rb : GReg)
  /-- SLTN: Set if less than, unsigned (R346) -/
  | sltn (rd ra rb : GReg)
  /-- SLE: Set if less than or equal, signed (R346) -/
  | sle (rd ra rb : GReg)
  /-- SLEN: Set if less than or equal, unsigned (R346) -/
  | slen (rd ra rb : GReg)
  /-- BGET: Reads one bit (R346) -/
  | bget (rd ra rb : GReg)
  /-- BSET: Sets one bit (R346) -/
  | bset (rd ra rb : GReg)
  /-- BCLR: Clears one bit (R346) -/
  | bclr (rd ra rb : GReg)
  /-- BFLIP: Inverts one bit (R346) -/
  | bflip (rd ra rb : GReg)
  /-- POPC: Population count (R346) -/
  | popc (rd ra : GReg)
  /-- CLZ: Count of leading zeros (R346) -/
  | clz (rd ra : GReg)
  /-- CTZ: Count of trailing zeros (R346) -/
  | ctz (rd ra : GReg)
  /-- REV: Bit reversal (R346) -/
  | rev (rd ra : GReg)
  /-- MOV: Register move (R346) -/
  | mov (rd ra : GReg)
  /-- CMOV: Conditional move if gb is nonzero (R346) -/
  | cmov (rd ra rb : GReg)
  /-- SEXT: Sign extension from a width of 8, 16 or 32 bits (R346) -/
  | sext (rd ra : GReg) (wc : BitVec 2)
  /-- ZEXT: Zero extension from a width of 8, 16 or 32 bits (R346) -/
  | zext (rd ra : GReg) (wc : BitVec 2)
  /-- MUL: Low product (R346) -/
  | mul (rd ra rb : GReg) (w32 : Bool)
  /-- MULH: High signed product (R346) -/
  | mulh (rd ra rb : GReg) (w32 : Bool)
  /-- MULHN: High unsigned product (R346) -/
  | mulhn (rd ra rb : GReg) (w32 : Bool)
  /-- DIV: Signed division with fixed edge cases (R347) -/
  | div (rd ra rb : GReg) (w32 : Bool)
  /-- DIVN: Unsigned division (R347) -/
  | divn (rd ra rb : GReg) (w32 : Bool)
  /-- REM: Signed remainder (R347) -/
  | rem (rd ra rb : GReg) (w32 : Bool)
  /-- REMN: Unsigned remainder (R347) -/
  | remn (rd ra rb : GReg) (w32 : Bool)
  /-- ADDI: Add of an immediate (R348) -/
  | addi (rd ra : GReg) (imm : BitVec 16)
  /-- ANDI: AND with an immediate (R348) -/
  | andi (rd ra : GReg) (imm : BitVec 16)
  /-- ORI: OR with an immediate (R348) -/
  | ori (rd ra : GReg) (imm : BitVec 16)
  /-- XORI: XOR with an immediate (R348) -/
  | xori (rd ra : GReg) (imm : BitVec 16)
  /-- SLTI: Set if less than an immediate, signed (R348) -/
  | slti (rd ra : GReg) (imm : BitVec 16)
  /-- MOVI: Moves a sign-extended immediate (R348) -/
  | movi (rd : GReg) (imm : BitVec 16)
  /-- BEXT: Extracts a bit field (R350) -/
  | bext (rd ra : GReg) (pos wd : BitVec 6)
  /-- BINS: Inserts a bit field (R350) -/
  | bins (rd ra : GReg) (pos wd : BitVec 6)
  /-- MOVHI: Builds a 32-bit value from the immediate and the low half of ga (R348) -/
  | movhi (rd ra : GReg) (imm : BitVec 16)
  /-- SHLI: Shift left by an immediate (R349) -/
  | shli (rd ra : GReg) (w32 : Bool) (amt : BitVec 6)
  /-- SHRI: Logical shift right by an immediate (R349) -/
  | shri (rd ra : GReg) (w32 : Bool) (amt : BitVec 6)
  /-- SARI: Arithmetic shift right by an immediate (R349) -/
  | sari (rd ra : GReg) (w32 : Bool) (amt : BitVec 6)
  /-- FADD: Floating add (R354) -/
  | fadd (rd ra rb : GReg) (t rm : BitVec 2)
  /-- FSUB: Floating subtract (R354) -/
  | fsub (rd ra rb : GReg) (t rm : BitVec 2)
  /-- FMUL: Floating multiply (R354) -/
  | fmul (rd ra rb : GReg) (t rm : BitVec 2)
  /-- FMA: Fused multiply-add with the addend taken from gd (R354) -/
  | fma (rd ra rb : GReg) (t rm : BitVec 2)
  /-- FMS: Fused multiply-subtract (R354) -/
  | fms (rd ra rb : GReg) (t rm : BitVec 2)
  /-- FNMA: Fused negated multiply-add (R354) -/
  | fnma (rd ra rb : GReg) (t rm : BitVec 2)
  /-- FDIV: Floating divide (R354) -/
  | fdiv (rd ra rb : GReg) (t rm : BitVec 2)
  /-- FSQRT: Floating square root (R354) -/
  | fsqrt (rd ra : GReg) (t rm : BitVec 2)
  /-- FRCP: Deterministic reciprocal estimate (R355) -/
  | frcp (rd ra : GReg) (t : BitVec 2)
  /-- FRSQ: Deterministic reciprocal square root estimate (R355) -/
  | frsq (rd ra : GReg) (t : BitVec 2)
  /-- FMIN: Floating minimum (R356) -/
  | fmin (rd ra rb : GReg) (t : BitVec 2)
  /-- FMAX: Floating maximum (R356) -/
  | fmax (rd ra rb : GReg) (t : BitVec 2)
  /-- FABS: Clears the sign bit (R356) -/
  | fabs (rd ra : GReg) (t : BitVec 2)
  /-- FNEG: Inverts the sign bit (R356) -/
  | fneg (rd ra : GReg) (t : BitVec 2)
  /-- FCPSGN: Copies the sign bit from gb (R356) -/
  | fcpsgn (rd ra rb : GReg) (t : BitVec 2)
  /-- FCLASS: Classifies a floating value as a one-hot mask (R357) -/
  | fclass (rd ra : GReg) (t : BitVec 2)
  /-- FEQ: Floating compare equal (R357) -/
  | feq (rd ra rb : GReg) (t : BitVec 2)
  /-- FLT: Floating compare less than (R357) -/
  | flt (rd ra rb : GReg) (t : BitVec 2)
  /-- FLE: Floating compare less than or equal (R357) -/
  | fle (rd ra rb : GReg) (t : BitVec 2)
  /-- FCVT: Converts between floating types (R358) -/
  | fcvt (rd ra : GReg) (t rm ax : BitVec 2)
  /-- FCVTI: Converts a float to an integer kind (R359) -/
  | fcvti (rd ra : GReg) (t rm ax : BitVec 2)
  /-- FCVTF: Converts an integer kind to a float (R359) -/
  | fcvtf (rd ra : GReg) (t rm ax : BitVec 2)
  /-- FEXP: Gives floor(log2 |ga|) as an integer (R360) -/
  | fexp (rd ra : GReg) (t : BitVec 2)
  /-- FSCL: Scales by a power of two (R360) -/
  | fscl (rd ra rb : GReg) (t rm : BitVec 2)
  /-- VADD: Element-wise vector add (R365) -/
  | vadd (vd va vb : VReg) (ty : BitVec 4)
  /-- VSUB: Element-wise vector subtract (R365) -/
  | vsub (vd va vb : VReg) (ty : BitVec 4)
  /-- VMUL: Element-wise vector multiply (R365) -/
  | vmul (vd va vb : VReg) (ty : BitVec 4)
  /-- VMULH: High half of the integer product (R365) -/
  | vmulh (vd va vb : VReg) (ty : BitVec 4)
  /-- VFMA: Fused vector multiply-add (R365) -/
  | vfma (vd va vb : VReg) (ty : BitVec 4)
  /-- VFMS: Fused vector multiply-subtract (R365) -/
  | vfms (vd va vb : VReg) (ty : BitVec 4)
  /-- VMIN: Element-wise minimum (R365) -/
  | vmin (vd va vb : VReg) (ty : BitVec 4)
  /-- VMAX: Element-wise maximum (R365) -/
  | vmax (vd va vb : VReg) (ty : BitVec 4)
  /-- VABS: Element-wise absolute value (R365) -/
  | vabs (vd va : VReg) (ty : BitVec 4)
  /-- VNEG: Element-wise negation (R365) -/
  | vneg (vd va : VReg) (ty : BitVec 4)
  /-- VAND: Bitwise AND of registers (R365) -/
  | vand (vd va vb : VReg) (ty : BitVec 4)
  /-- VOR: Bitwise OR of registers (R365) -/
  | vor (vd va vb : VReg) (ty : BitVec 4)
  /-- VXOR: Bitwise XOR of registers (R365) -/
  | vxor (vd va vb : VReg) (ty : BitVec 4)
  /-- VANDN: va AND NOT vb (R365) -/
  | vandn (vd va vb : VReg) (ty : BitVec 4)
  /-- VSHL: Element-wise shift left (R365) -/
  | vshl (vd va vb : VReg) (ty : BitVec 4)
  /-- VSHR: Element-wise logical shift right (R365) -/
  | vshr (vd va vb : VReg) (ty : BitVec 4)
  /-- VSAR: Element-wise arithmetic shift right (R365) -/
  | vsar (vd va vb : VReg) (ty : BitVec 4)
  /-- VCMP: Element-wise compare to a mask, condition given in aux (R366) -/
  | vcmp (vd va vb : VReg) (ty : BitVec 4) (cc : BitVec 3)
  /-- VSEL: Selects elements by a mask register (R365) -/
  | vsel (vd va vb : VReg) (ty : BitVec 4) (vm : VReg)
  /-- VMAND: Mask AND (R365) -/
  | vmand (vd va vb : VReg) (ty : BitVec 4)
  /-- VMOR: Mask OR (R365) -/
  | vmor (vd va vb : VReg) (ty : BitVec 4)
  /-- VMNOT: Mask NOT (R365) -/
  | vmnot (vd va : VReg) (ty : BitVec 4)
  /-- VCVT: Vector type conversion with widening or narrowing (R368) -/
  | vcvt (vd va : VReg) (ty src : BitVec 4)
  /-- VPERM: Permutes elements by index (R369) -/
  | vperm (vd va vb : VReg) (ty : BitVec 4)
  /-- VROT: Rotates elements (R369) -/
  | vrot (vd va vb : VReg) (ty : BitVec 4)
  /-- VSUM: Pairwise-tree sum reduction (R370) -/
  | vsum (vd va : VReg) (ty : BitVec 4)
  /-- VMAXR: Maximum reduction (R370) -/
  | vmaxr (vd va : VReg) (ty : BitVec 4)
  /-- VMINR: Minimum reduction (R370) -/
  | vminr (vd va : VReg) (ty : BitVec 4)
  /-- VDOT: Dot-product reduction (R370) -/
  | vdot (vd va vb : VReg) (ty : BitVec 4)
  /-- VLERP: Element-wise linear interpolation (R365) -/
  | vlerp (vd va vb : VReg) (ty : BitVec 4)
  /-- VCLAMP: Element-wise clamp (R365) -/
  | vclamp (vd va vb : VReg) (ty : BitVec 4)
  /-- VRCP: Vector reciprocal estimate (R365) -/
  | vrcp (vd va : VReg) (ty : BitVec 4)
  /-- VRSQ: Vector reciprocal square root estimate (R365) -/
  | vrsq (vd va : VReg) (ty : BitVec 4)
  /-- VEXP2: Vector exp2 estimate (R365) -/
  | vexp2 (vd va : VReg) (ty : BitVec 4)
  /-- VLOG2: Vector log2 estimate (R365) -/
  | vlog2 (vd va : VReg) (ty : BitVec 4)
  /-- VSINPI: Vector sin(πx) estimate (R365) -/
  | vsinpi (vd va : VReg) (ty : BitVec 4)
  /-- VCOSPI: Vector cos(πx) estimate (R365) -/
  | vcospi (vd va : VReg) (ty : BitVec 4)
  /-- VBCAST: Broadcasts a general register to every element (R371) -/
  | vbcast (vd : VReg) (gb : GReg) (ty : BitVec 4)
  /-- VINS: Inserts one element from a general register (R371) -/
  | vins (vd : VReg) (gi : BitVec 4) (gb : GReg) (ty : BitVec 4)
  /-- VEXT: Extracts one element to a general register (R371) -/
  | vext (vd : VReg) (gi : BitVec 4) (gb : GReg) (ty : BitVec 4)
  /-- VMPOP: Counts set mask bits (R371) -/
  | vmpop (gb : GReg) (va : VReg) (ty : BitVec 4)
  /-- VSCL: Scales elements by a power of two (R371) -/
  | vscl (vd va : VReg) (gb : GReg) (ty : BitVec 4)
  /-- VQE8: Quantises elements to E8 octets and counts shell overflows (R372) -/
  | vqe8 (vd va : VReg) (gb : GReg) (ty : BitVec 4)
  /-- VDE8: Decodes E8 octets to elements (R373) -/
  | vde8 (vd va : VReg) (gb : GReg) (ty : BitVec 4)
  /-- VFIX: Converts f32 elements to i64 fixed point at exponent E (R375) -/
  | vfix (vd va : VReg) (gb : GReg) (ty : BitVec 4)
  /-- VUNFIX: Converts i64 fixed point back to floats with one rounding (R376) -/
  | vunfix (vd va : VReg) (gb : GReg) (ty : BitVec 4)
  /-- VMAXE: Gives the largest biased exponent E of a register (R374) -/
  | vmaxe (gb : GReg) (va : VReg) (ty : BitVec 4)
  /-- VEX: Evaluates a postfix expression descriptor element-wise (R379) -/
  | vex (vd va vb : VReg) (gd gs : GReg) (ty : BitVec 4)
  deriving DecidableEq, Repr

end Sys2Proof
end

