-- ==== Sys2Proof/WellFormed.lean ====
section
/-! DEFINITION. WellFormed: the operand values that R254-R259 and the instruction chapters admit, and the bundles that can be
encoded (R249, R250). An operand outside these takes 0x01 (R260). -/

namespace Sys2Proof

/-- Element types i8 to n64 (R254). -/
def isInt (ty : BitVec 4) : Bool := ty.toNat ≤ 7
/-- Element types bf16, f16, f32 and f64 (R254). -/
def isFloat (ty : BitVec 4) : Bool := 10 ≤ ty.toNat && ty.toNat ≤ 13
/-- Element types bf16, f16 and f32 (R365). -/
def isShortFloat (ty : BitVec 4) : Bool := 10 ≤ ty.toNat && ty.toNat ≤ 12

/-- log2 of the width in bits of an element type (R254). -/
def lgBits (ty : BitVec 4) : Nat :=
  match ty.toNat with
  | 0 => 3 | 1 => 3 | 2 => 4 | 3 => 4 | 4 => 5 | 5 => 5 | 6 => 6 | 7 => 6
  | 8 => 3 | 9 => 3 | 10 => 4 | 11 => 4 | 12 => 5 | 13 => 6 | 14 => 2 | _ => 4

/-- vcvt: neither type e8o, a width ratio of 1, 2 or 4, and the wider side's registers aligned (R368). -/
def cvtForm (ty src : BitVec 4) (vd va : VReg) : Bool :=
  ty.toNat != 15 && src.toNat != 15 &&
  (lgBits ty == lgBits src || (lgBits ty == lgBits src + 1 && vd.toNat % 2 == 0) ||
   (lgBits ty == lgBits src + 2 && vd.toNat % 4 == 0) || (lgBits src == lgBits ty + 1 && va.toNat % 2 == 0) ||
   (lgBits src == lgBits ty + 2 && va.toNat % 4 == 0))

/-- The operand values of an encoded instruction are among those its chapter admits. Events have no encoding. -/
def Instr.wf : Instr → Bool
  | .start h _ => 1 ≤ h.toNat && h.toNat ≤ 10
  | .getsr _ n => n.toNat ≤ 21
  | .setsr _ n => n.toNat ≤ 21
  | .xcas rv _ _ _ _ _ => rv.toNat != 31
  | .xsend _ _ _ p n _ => 64 ≤ p.toNat && n.toNat ≤ 15
  | .mmaE4m3E4m3 _ _ _ kb ba bb _ => ba.toNat ≤ kb.toNat && bb.toNat ≤ kb.toNat
  | .mmaE4m3E5m2 _ _ _ kb ba bb _ => ba.toNat ≤ kb.toNat && bb.toNat ≤ kb.toNat
  | .mmaE5m2E4m3 _ _ _ kb ba bb _ => ba.toNat ≤ kb.toNat && bb.toNat ≤ kb.toNat
  | .mmaE5m2E5m2 _ _ _ kb ba bb _ => ba.toNat ≤ kb.toNat && bb.toNat ≤ kb.toNat
  | .mmaBf16Bf16 _ _ _ kb ba bb _ => ba.toNat ≤ kb.toNat && bb.toNat ≤ kb.toNat
  | .mmaF16F16 _ _ _ kb ba bb _ => ba.toNat ≤ kb.toNat && bb.toNat ≤ kb.toNat
  | .mmaI8I8 _ _ _ kb ba bb _ => ba.toNat ≤ kb.toNat && bb.toNat ≤ kb.toNat
  | .mmaI8T2 _ _ _ kb ba bb _ => ba.toNat ≤ kb.toNat && bb.toNat ≤ kb.toNat
  | .mmaE8oI8 _ _ _ kb ba bb _ => ba.toNat ≤ kb.toNat && bb.toNat ≤ kb.toNat
  | .mmaE8oE4m3 _ _ _ kb ba bb _ => ba.toNat ≤ kb.toNat && bb.toNat ≤ kb.toNat
  | .mmaE8oBf16 _ _ _ kb ba bb _ => ba.toNat ≤ kb.toNat && bb.toNat ≤ kb.toNat
  | .mdrain _ _ _ _ ty act => (ty.toNat == 15 || (8 ≤ ty.toNat && ty.toNat ≤ 12)) && act.toNat ≤ 3
  | .sext _ _ wc => wc.toNat ≤ 2
  | .zext _ _ wc => wc.toNat ≤ 2
  | .bext _ _ pos wd => pos.toNat + wd.toNat + 1 ≤ 64
  | .bins _ _ pos wd => pos.toNat + wd.toNat + 1 ≤ 64
  | .shli _ _ w32 amt => !w32 || amt.toNat < 32
  | .shri _ _ w32 amt => !w32 || amt.toNat < 32
  | .sari _ _ w32 amt => !w32 || amt.toNat < 32
  | .vadd _ _ _ ty => isInt ty || isFloat ty
  | .vsub _ _ _ ty => isInt ty || isFloat ty
  | .vmul _ _ _ ty => isInt ty || isFloat ty
  | .vmulh _ _ _ ty => isInt ty
  | .vfma _ _ _ ty => isFloat ty
  | .vfms _ _ _ ty => isFloat ty
  | .vmin _ _ _ ty => isInt ty || isFloat ty
  | .vmax _ _ _ ty => isInt ty || isFloat ty
  | .vabs _ _ ty => isInt ty || isFloat ty
  | .vneg _ _ ty => isInt ty || isFloat ty
  | .vshl _ _ _ ty => isInt ty
  | .vshr _ _ _ ty => isInt ty
  | .vsar _ _ _ ty => isInt ty
  | .vcmp _ _ _ ty cc => (ty.toNat ≤ 7 && cc.toNat ≤ 5) || (isFloat ty && cc.toNat ≤ 3)
  | .vcvt vd va ty src => cvtForm ty src vd va
  | .vperm _ _ _ ty => ty.toNat != 14
  | .vsum _ _ ty => isInt ty || isFloat ty
  | .vmaxr _ _ ty => isInt ty || isFloat ty
  | .vminr _ _ ty => isInt ty || isFloat ty
  | .vdot _ _ _ ty => isInt ty || isFloat ty
  | .vlerp _ _ _ ty => isFloat ty
  | .vclamp _ _ _ ty => isFloat ty
  | .vrcp _ _ ty => isShortFloat ty
  | .vrsq _ _ ty => isShortFloat ty
  | .vexp2 _ _ ty => isShortFloat ty
  | .vlog2 _ _ ty => isShortFloat ty
  | .vsinpi _ _ ty => isShortFloat ty
  | .vcospi _ _ ty => isShortFloat ty
  | .vscl _ _ _ ty => isFloat ty
  | .vqe8 _ _ _ ty => isShortFloat ty
  | .vde8 _ _ _ ty => ty.toNat == 10 || ty.toNat == 12
  | .vfix vd _ _ ty => ty.toNat == 12 && vd.toNat % 2 == 0
  | .vunfix _ va _ ty => (ty.toNat == 10 || ty.toNat == 12) && va.toNat % 2 == 0
  | .vmaxe _ _ ty => isShortFloat ty
  | .vex _ _ _ _ _ ty => isShortFloat ty
  | _ => true

/-- Is this an instruction of word C? -/
def Instr.isC : Instr → Bool
  | .nopC => true
  | .br .. => true
  | .call .. => true
  | .bt .. => true
  | .bf .. => true
  | .bnz .. => true
  | .bz .. => true
  | .bse .. => true
  | .bsc .. => true
  | .guard .. => true
  | .guardn .. => true
  | .rept .. => true
  | .li .. => true
  | .lih .. => true
  | .start .. => true
  | .cwait .. => true
  | .qwait .. => true
  | .hjoin .. => true
  | .xend .. => true
  | .mwait .. => true
  | .sbarOr .. => true
  | .sbarAnd .. => true
  | .sbarMax .. => true
  | .callr .. => true
  | .jr .. => true
  | .ret => true
  | .hend => true
  | .yield => true
  | .sexit => true
  | .vote .. => true
  | .rfe => true
  | .swp .. => true
  | .brk => true
  | .halt => true
  | .trap .. => true
  | .mark .. => true
  | .getsr .. => true
  | .setsr .. => true
  | .wait .. => true
  | .ldI8 .. => true
  | .ldN8 .. => true
  | .ldI16 .. => true
  | .ldN16 .. => true
  | .ldI32 .. => true
  | .ldN32 .. => true
  | .ldD .. => true
  | .stB .. => true
  | .stH .. => true
  | .stW .. => true
  | .stD .. => true
  | .ldxI8 .. => true
  | .ldxN8 .. => true
  | .ldxI16 .. => true
  | .ldxN16 .. => true
  | .ldxI32 .. => true
  | .ldxN32 .. => true
  | .ldxD .. => true
  | .stxB .. => true
  | .stxH .. => true
  | .stxW .. => true
  | .stxD .. => true
  | .vld .. => true
  | .vst .. => true
  | .vldm .. => true
  | .vstm .. => true
  | .vldt .. => true
  | .vstt .. => true
  | .vgather .. => true
  | .vscatter .. => true
  | .amoAdd .. => true
  | .amoAnd .. => true
  | .amoOr .. => true
  | .amoXor .. => true
  | .amoMin .. => true
  | .amoMax .. => true
  | .amoMinn .. => true
  | .amoMaxn .. => true
  | .amoSwap .. => true
  | .amoFadd .. => true
  | .cas .. => true
  | .fence .. => true
  | .fenceSc .. => true
  | .xld .. => true
  | .xst .. => true
  | .xvld .. => true
  | .xvst .. => true
  | .xamoAdd .. => true
  | .xamoAnd .. => true
  | .xamoOr .. => true
  | .xamoXor .. => true
  | .xamoMin .. => true
  | .xamoMax .. => true
  | .xamoMinn .. => true
  | .xamoMaxn .. => true
  | .xamoSwap .. => true
  | .xamoFadd .. => true
  | .xcas .. => true
  | .post .. => true
  | .qnext .. => true
  | .xsend .. => true
  | .mmaE4m3E4m3 .. => true
  | .mmaE4m3E5m2 .. => true
  | .mmaE5m2E4m3 .. => true
  | .mmaE5m2E5m2 .. => true
  | .mmaBf16Bf16 .. => true
  | .mmaF16F16 .. => true
  | .mmaI8I8 .. => true
  | .mmaI8T2 .. => true
  | .mmaE8oI8 .. => true
  | .mmaE8oE4m3 .. => true
  | .mmaE8oBf16 .. => true
  | .mldb .. => true
  | .mzero => true
  | .mdrain .. => true
  | .tst .. => true
  | .tadv .. => true
  | .tlow .. => true
  | .tld .. => true
  | .hintC .. => true
  | _ => false

/-- Is this an instruction of word A? -/
def Instr.isA : Instr → Bool
  | .nopA => true
  | .add .. => true
  | .sub .. => true
  | .and .. => true
  | .or .. => true
  | .xor .. => true
  | .andn .. => true
  | .orn .. => true
  | .shl .. => true
  | .shr .. => true
  | .sar .. => true
  | .rol .. => true
  | .min .. => true
  | .max .. => true
  | .minn .. => true
  | .maxn .. => true
  | .seq .. => true
  | .sne .. => true
  | .slt .. => true
  | .sltn .. => true
  | .sle .. => true
  | .slen .. => true
  | .bget .. => true
  | .bset .. => true
  | .bclr .. => true
  | .bflip .. => true
  | .popc .. => true
  | .clz .. => true
  | .ctz .. => true
  | .rev .. => true
  | .mov .. => true
  | .cmov .. => true
  | .sext .. => true
  | .zext .. => true
  | .mul .. => true
  | .mulh .. => true
  | .mulhn .. => true
  | .div .. => true
  | .divn .. => true
  | .rem .. => true
  | .remn .. => true
  | .addi .. => true
  | .andi .. => true
  | .ori .. => true
  | .xori .. => true
  | .slti .. => true
  | .movi .. => true
  | .bext .. => true
  | .bins .. => true
  | .movhi .. => true
  | .shli .. => true
  | .shri .. => true
  | .sari .. => true
  | .fadd .. => true
  | .fsub .. => true
  | .fmul .. => true
  | .fma .. => true
  | .fms .. => true
  | .fnma .. => true
  | .fdiv .. => true
  | .fsqrt .. => true
  | .frcp .. => true
  | .frsq .. => true
  | .fmin .. => true
  | .fmax .. => true
  | .fabs .. => true
  | .fneg .. => true
  | .fcpsgn .. => true
  | .fclass .. => true
  | .feq .. => true
  | .flt .. => true
  | .fle .. => true
  | .fcvt .. => true
  | .fcvti .. => true
  | .fcvtf .. => true
  | .fexp .. => true
  | .fscl .. => true
  | .vadd .. => true
  | .vsub .. => true
  | .vmul .. => true
  | .vmulh .. => true
  | .vfma .. => true
  | .vfms .. => true
  | .vmin .. => true
  | .vmax .. => true
  | .vabs .. => true
  | .vneg .. => true
  | .vand .. => true
  | .vor .. => true
  | .vxor .. => true
  | .vandn .. => true
  | .vshl .. => true
  | .vshr .. => true
  | .vsar .. => true
  | .vcmp .. => true
  | .vsel .. => true
  | .vmand .. => true
  | .vmor .. => true
  | .vmnot .. => true
  | .vcvt .. => true
  | .vperm .. => true
  | .vrot .. => true
  | .vsum .. => true
  | .vmaxr .. => true
  | .vminr .. => true
  | .vdot .. => true
  | .vlerp .. => true
  | .vclamp .. => true
  | .vrcp .. => true
  | .vrsq .. => true
  | .vexp2 .. => true
  | .vlog2 .. => true
  | .vsinpi .. => true
  | .vcospi .. => true
  | .vbcast .. => true
  | .vins .. => true
  | .vext .. => true
  | .vmpop .. => true
  | .vscl .. => true
  | .vqe8 .. => true
  | .vde8 .. => true
  | .vfix .. => true
  | .vunfix .. => true
  | .vmaxe .. => true
  | .vex .. => true
  | .hintA .. => true
  | _ => false

/-- Does an immediate form fit the lone bit: the short field without it, X with it (R251)? -/
def Imm.fits {w : Nat} (lone : Bool) : Imm w → Bool
  | .short _ => !lone
  | .ext _ => lone

/-- Does an instruction of word C fit the lone bit: six need X, the immediate forms follow it, and any other may stand alone
or with a partner (R250)? -/
def Instr.fitsLone (lone : Bool) : Instr → Bool
  | .bt _ _ d => Imm.fits lone d
  | .bf _ _ d => Imm.fits lone d
  | .bnz _ d => Imm.fits lone d
  | .bz _ d => Imm.fits lone d
  | .bse _ d => Imm.fits lone d
  | .bsc _ d => Imm.fits lone d
  | .li _ v => Imm.fits lone v
  | .lih .. => lone
  | .start _ d => Imm.fits lone d
  | .mark .. => lone
  | .ldI8 _ _ _ _ off => Imm.fits lone off
  | .ldN8 _ _ _ _ off => Imm.fits lone off
  | .ldI16 _ _ _ _ off => Imm.fits lone off
  | .ldN16 _ _ _ _ off => Imm.fits lone off
  | .ldI32 _ _ _ _ off => Imm.fits lone off
  | .ldN32 _ _ _ _ off => Imm.fits lone off
  | .ldD _ _ _ _ off => Imm.fits lone off
  | .stB _ _ _ _ off => Imm.fits lone off
  | .stH _ _ _ _ off => Imm.fits lone off
  | .stW _ _ _ _ off => Imm.fits lone off
  | .stD _ _ _ _ off => Imm.fits lone off
  | .vld _ _ _ _ off => off.isSome == lone
  | .vst _ _ _ _ off => off.isSome == lone
  | .vldm _ _ _ _ _ off => off.isSome == lone
  | .vstm _ _ _ _ _ off => off.isSome == lone
  | .vldt _ _ _ _ _ off => off.isSome == lone
  | .vstt _ _ _ _ _ off => off.isSome == lone
  | .vgather _ _ _ _ _ _ off => off.isSome == lone
  | .vscatter _ _ _ _ _ _ off => off.isSome == lone
  | .xamoAdd .. => lone
  | .xamoAnd .. => lone
  | .xamoOr .. => lone
  | .xamoXor .. => lone
  | .xamoMin .. => lone
  | .xamoMax .. => lone
  | .xamoMinn .. => lone
  | .xamoMaxn .. => lone
  | .xamoSwap .. => lone
  | .xamoFadd .. => lone
  | .xsend .. => lone
  | .mdrain .. => lone
  | .tld .. => lone
  | _ => true

/-- A bundle: stall count, lone bit and the instructions of both slots; slot A of a lone bundle is nop (R249). -/
structure Bundle where
  stall : BitVec 3
  lone : Bool
  c : Instr
  a : Instr
  deriving DecidableEq, Repr

/-- A bundle that can be encoded. -/
def Bundle.wf (b : Bundle) : Bool :=
  b.c.isC && b.a.isA && b.c.wf && b.a.wf && b.c.fitsLone b.lone && (!b.lone || b.a == .nopA)

end Sys2Proof
end

