-- ==== Sys2Proof/Decode.lean ====
section
/-! DEFINITION. Decode: from the 64 bits of a bundle to its two instructions, total on any bytes (R248-R260), and the encoder
back, written from the same tables. -/

namespace Sys2Proof

/-- Bits hi to lo of w, as a number (R3). -/
def fld (w hi lo : Nat) : Nat := w / 2 ^ lo % 2 ^ (hi + 1 - lo)
/-- The n bits of w from bit lo up. -/
def bv (n w lo : Nat) : BitVec n := BitVec.ofNat n (w / 2 ^ lo)

/-- The lone bit L of word C (R249). -/
def loneBit (w : Nat) : Bool := fld w 31 31 == 1
/-- imm7 of format CM, or X when L = 1 (R251). -/
def imm7 (w x : Nat) : Imm 7 := if loneBit w then .ext (bv 32 x 0) else .short (bv 7 w 0)
/-- disp10 of format CB, or X when L = 1 (R251). -/
def imm10 (w x : Nat) : Imm 10 := if loneBit w then .ext (bv 32 x 0) else .short (bv 10 w 0)
/-- imm17 of format CL or disp17 of format CH, or X when L = 1 (R251). -/
def imm17 (w x : Nat) : Imm 17 := if loneBit w then .ext (bv 32 x 0) else .short (bv 17 w 0)
/-- The offset of format CV: X when L = 1, none otherwise (R255). -/
def offX (w x : Nat) : Option (BitVec 32) := if loneBit w then some (bv 32 x 0) else none

/-- Integer element types, codes 0-7 (R254, R365). -/
def tyI (t : Nat) : Bool := t ≤ 7
/-- Float element types of the vector arithmetic: bf16, f16, f32, f64 (R254, R365). -/
def tyF (t : Nat) : Bool := 10 ≤ t && t ≤ 13
/-- Integer or float element types (R365). -/
def tyIF (t : Nat) : Bool := tyI t || tyF t
/-- f32, f16 and bf16 (R365, R371, R378). -/
def tyEst (t : Nat) : Bool := 10 ≤ t && t ≤ 12
/-- f32 and bf16 (R371). -/
def tyBF (t : Nat) : Bool := t == 10 || t == 12
/-- Output types of mdrain (R339). -/
def drainTy (t : Nat) : Bool := t == 8 || t == 9 || t == 10 || t == 11 || t == 12 || t == 15
/-- Width in bits of an element type; e8o counts as 16 (R254). -/
def tyBits (t : Nat) : Nat :=
  if t ≤ 1 then 8 else if t ≤ 3 then 16 else if t ≤ 5 then 32 else if t ≤ 7 then 64 else
  if t ≤ 9 then 8 else if t ≤ 11 then 16 else if t = 12 then 32 else if t = 13 then 64 else if t = 14 then 4 else 16
/-- The comparisons that vcmp accepts on a type: ltn and len on integers only (R366). -/
def cmpOk (t cc : Nat) : Bool := (tyI t && cc ≤ 5) || (tyF t && cc ≤ 3)
/-- The conversions that vcvt accepts, with the register rule of R368. -/
def cvtOk (t s vd va : Nat) : Bool :=
  t != 15 && s != 15 &&
  (tyBits t == tyBits s || (tyBits t == 2 * tyBits s && vd % 2 == 0) || (tyBits t == 4 * tyBits s && vd % 4 == 0) ||
   (tyBits s == 2 * tyBits t && va % 2 == 0) || (tyBits s == 4 * tyBits t && va % 4 == 0))

/-- Why a slot is no instruction (R260). Each takes 0x01. -/
inductive DecodeError where
  /-- A major opcode that R255 and R257 leave unassigned. -/
  | major
  /-- A function, operation or selection value that R255-R259 leave unassigned. -/
  | function
  /-- An operand value or type code that they exclude. -/
  | operand
  /-- An instruction that needs X, with L = 0 (R250). -/
  | needsX
  /-- Fewer than 8 bytes were given. -/
  | truncated
  deriving DecidableEq, Repr

/-- What one slot of a bundle decodes to. -/
inductive Slot where
  | instr (i : Instr)
  | bad (e : DecodeError)
  deriving DecidableEq, Repr

/-- A decoded bundle: stall count, lone bit and both slots (R249). Slot A of a lone bundle holds no instruction and reads nop. -/
structure Fetched where
  stall : BitVec 3
  lone : Bool
  c : Slot
  a : Slot
  deriving DecidableEq, Repr

/-- C major 0x03 (R255, R256). -/
def decC03 (w x : Nat) : Slot :=
  match fld w 10 10 with
  | 1 => .instr (.bt (bv 5 w 17) (bv 6 w 11) (imm10 w x))
  | 0 => .instr (.bf (bv 5 w 17) (bv 6 w 11) (imm10 w x))
  | _ => .bad .function

/-- C major 0x04 (R255, R256). -/
def decC04 (w x : Nat) : Slot :=
  match fld w 10 10 with
  | 1 => .instr (.bnz (bv 5 w 17) (imm10 w x))
  | 0 => .instr (.bz (bv 5 w 17) (imm10 w x))
  | _ => .bad .function

/-- C major 0x05 (R255, R256). -/
def decC05 (w x : Nat) : Slot :=
  match fld w 10 10 with
  | 1 => .instr (.bse (bv 6 w 11) (imm10 w x))
  | 0 => .instr (.bsc (bv 6 w 11) (imm10 w x))
  | _ => .bad .function

/-- C major 0x06 (R255, R256). -/
def decC06 (w : Nat) : Slot :=
  match fld w 10 10 with
  | 1 => .instr (.guard (bv 5 w 17) (bv 6 w 11))
  | 0 => .instr (.guardn (bv 5 w 17) (bv 6 w 11))
  | _ => .bad .function

/-- C major 0x0B (R255, R256). -/
def decC11 (w : Nat) : Slot :=
  match fld w 6 0 with
  | 0 => .instr (.cwait (bv 5 w 17) (bv 5 w 12) (bv 5 w 7))
  | 1 => .instr (.qwait (bv 5 w 17) (bv 5 w 7))
  | 2 => .instr (.hjoin (bv 5 w 12) (bv 5 w 7))
  | 3 => .instr (.xend (bv 5 w 7))
  | 4 => .instr (.mwait (bv 5 w 7))
  | 8 => .instr (.sbarOr (bv 5 w 17) (bv 5 w 12) (bv 5 w 7))
  | 9 => .instr (.sbarAnd (bv 5 w 17) (bv 5 w 12) (bv 5 w 7))
  | 10 => .instr (.sbarMax (bv 5 w 17) (bv 5 w 12) (bv 5 w 7))
  | _ => .bad .function

/-- C major 0x0C (R255, R256). -/
def decC12 (w : Nat) : Slot :=
  match fld w 6 0 with
  | 0 => .instr (.callr (bv 5 w 12))
  | 1 => .instr (.jr (bv 5 w 12))
  | 2 => .instr .ret
  | 3 => .instr .hend
  | 4 => .instr .yield
  | 5 => .instr .sexit
  | 6 => .instr (.vote (bv 5 w 17))
  | 7 => .instr .rfe
  | 8 => .instr (.swp (bv 5 w 17) (bv 5 w 12))
  | 9 => .instr .brk
  | 10 => .instr .halt
  | _ => .bad .function

/-- C major 0x1D (R255, R256). -/
def decC29 (w : Nat) : Slot :=
  match fld w 6 3 with
  | 0 => .instr (.ldxI8 (bv 5 w 17) (bv 5 w 12) (bv 5 w 7) (bv 2 w 1))
  | 1 => .instr (.ldxN8 (bv 5 w 17) (bv 5 w 12) (bv 5 w 7) (bv 2 w 1))
  | 2 => .instr (.ldxI16 (bv 5 w 17) (bv 5 w 12) (bv 5 w 7) (bv 2 w 1))
  | 3 => .instr (.ldxN16 (bv 5 w 17) (bv 5 w 12) (bv 5 w 7) (bv 2 w 1))
  | 4 => .instr (.ldxI32 (bv 5 w 17) (bv 5 w 12) (bv 5 w 7) (bv 2 w 1))
  | 5 => .instr (.ldxN32 (bv 5 w 17) (bv 5 w 12) (bv 5 w 7) (bv 2 w 1))
  | 6 => .instr (.ldxD (bv 5 w 17) (bv 5 w 12) (bv 5 w 7) (bv 2 w 1))
  | 8 => .instr (.stxB (bv 5 w 17) (bv 5 w 12) (bv 5 w 7) (bv 2 w 1))
  | 9 => .instr (.stxH (bv 5 w 17) (bv 5 w 12) (bv 5 w 7) (bv 2 w 1))
  | 10 => .instr (.stxW (bv 5 w 17) (bv 5 w 12) (bv 5 w 7) (bv 2 w 1))
  | 11 => .instr (.stxD (bv 5 w 17) (bv 5 w 12) (bv 5 w 7) (bv 2 w 1))
  | _ => .bad .function

/-- C major 0x24 (R255, R256). -/
def decC36 (w x : Nat) : Slot :=
  match fld w 2 2 with
  | 0 => .instr (.vgather (bv 4 w 18) (bv 5 w 13) (bv 4 w 8) (bv 2 w 6) (bv 3 w 3) (bv 2 w 0) (offX w x))
  | _ => .bad .function

/-- C major 0x25 (R255, R256). -/
def decC37 (w x : Nat) : Slot :=
  match fld w 2 2 with
  | 0 => .instr (.vscatter (bv 4 w 18) (bv 5 w 13) (bv 4 w 8) (bv 2 w 6) (bv 3 w 3) (bv 2 w 0) (offX w x))
  | _ => .bad .function

/-- C major 0x26 (R255, R256). -/
def decC38 (w : Nat) : Slot :=
  match fld w 6 3 with
  | 0 => .instr (.amoAdd (bv 5 w 17) (bv 5 w 12) (bv 5 w 7) (bv 2 w 1) (fld w 0 0 == 1))
  | 1 => .instr (.amoAnd (bv 5 w 17) (bv 5 w 12) (bv 5 w 7) (bv 2 w 1) (fld w 0 0 == 1))
  | 2 => .instr (.amoOr (bv 5 w 17) (bv 5 w 12) (bv 5 w 7) (bv 2 w 1) (fld w 0 0 == 1))
  | 3 => .instr (.amoXor (bv 5 w 17) (bv 5 w 12) (bv 5 w 7) (bv 2 w 1) (fld w 0 0 == 1))
  | 4 => .instr (.amoMin (bv 5 w 17) (bv 5 w 12) (bv 5 w 7) (bv 2 w 1) (fld w 0 0 == 1))
  | 5 => .instr (.amoMax (bv 5 w 17) (bv 5 w 12) (bv 5 w 7) (bv 2 w 1) (fld w 0 0 == 1))
  | 6 => .instr (.amoMinn (bv 5 w 17) (bv 5 w 12) (bv 5 w 7) (bv 2 w 1) (fld w 0 0 == 1))
  | 7 => .instr (.amoMaxn (bv 5 w 17) (bv 5 w 12) (bv 5 w 7) (bv 2 w 1) (fld w 0 0 == 1))
  | 8 => .instr (.amoSwap (bv 5 w 17) (bv 5 w 12) (bv 5 w 7) (bv 2 w 1) (fld w 0 0 == 1))
  | 9 => .instr (.amoFadd (bv 5 w 17) (bv 5 w 12) (bv 5 w 7) (bv 2 w 1) (fld w 0 0 == 1))
  | 10 => .instr (.cas (bv 5 w 17) (bv 5 w 12) (bv 5 w 7) (bv 2 w 1) (fld w 0 0 == 1))
  | _ => .bad .function

/-- C major 0x27 (R255, R256). -/
def decC39 (w : Nat) : Slot :=
  match fld w 6 0 with
  | 0 => .instr (.fence (bv 3 w 7))
  | 1 => .instr (.fenceSc (bv 3 w 7))
  | _ => .bad .function

/-- C major 0x2C. -/
def decC44 (w x : Nat) : Slot :=
  if loneBit w then (if fld w 1 1 = 1 then (match fld x 3 0 with
    | 0 => .instr (.xamoAdd (bv 5 w 17) (bv 5 w 12) (bv 5 w 7) (bv 2 w 5) (bv 3 w 2) (fld w 0 0 == 1))
    | 1 => .instr (.xamoAnd (bv 5 w 17) (bv 5 w 12) (bv 5 w 7) (bv 2 w 5) (bv 3 w 2) (fld w 0 0 == 1))
    | 2 => .instr (.xamoOr (bv 5 w 17) (bv 5 w 12) (bv 5 w 7) (bv 2 w 5) (bv 3 w 2) (fld w 0 0 == 1))
    | 3 => .instr (.xamoXor (bv 5 w 17) (bv 5 w 12) (bv 5 w 7) (bv 2 w 5) (bv 3 w 2) (fld w 0 0 == 1))
    | 4 => .instr (.xamoMin (bv 5 w 17) (bv 5 w 12) (bv 5 w 7) (bv 2 w 5) (bv 3 w 2) (fld w 0 0 == 1))
    | 5 => .instr (.xamoMax (bv 5 w 17) (bv 5 w 12) (bv 5 w 7) (bv 2 w 5) (bv 3 w 2) (fld w 0 0 == 1))
    | 6 => .instr (.xamoMinn (bv 5 w 17) (bv 5 w 12) (bv 5 w 7) (bv 2 w 5) (bv 3 w 2) (fld w 0 0 == 1))
    | 7 => .instr (.xamoMaxn (bv 5 w 17) (bv 5 w 12) (bv 5 w 7) (bv 2 w 5) (bv 3 w 2) (fld w 0 0 == 1))
    | 8 => .instr (.xamoSwap (bv 5 w 17) (bv 5 w 12) (bv 5 w 7) (bv 2 w 5) (bv 3 w 2) (fld w 0 0 == 1))
    | 9 => .instr (.xamoFadd (bv 5 w 17) (bv 5 w 12) (bv 5 w 7) (bv 2 w 5) (bv 3 w 2) (fld w 0 0 == 1))
    | _ => .bad .function) else .bad .operand) else .bad .needsX

/-- C major 0x2D (R255, R256). -/
def decC45 (w : Nat) : Slot :=
  match fld w 1 1 with
  | 1 => if fld w 21 17 ≠ 31 then .instr (.xcas (bv 5 w 17) (bv 5 w 12) (bv 5 w 7) (bv 2 w 5) (bv 3 w 2) (fld w 0 0 == 1)) else .bad .operand
  | _ => .bad .function

/-- C major 0x2E (R255, R256). -/
def decC46 (w : Nat) : Slot :=
  match fld w 6 0 with
  | 0 => if fld w 11 11 = 0 then (.instr (.post (bv 4 w 7))) else .bad .operand
  | 1 => .instr (.qnext (bv 5 w 17))
  | _ => .bad .function

/-- C major 0x2F (R255, R256). -/
def decC47 (w x : Nat) : Slot :=
  match fld w 1 0 with
  | 0 => if loneBit w then (if 64 ≤ fld x 7 0 ∧ fld x 12 8 ≤ 15 then .instr (.xsend (bv 5 w 17) (bv 5 w 12) (bv 5 w 7) (bv 8 x 0) (bv 5 x 8) (bv 16 x 13)) else .bad .operand) else .bad .needsX
  | _ => .bad .function

/-- C major 0x3B (R255, R256). -/
def decC59 (w x : Nat) : Slot :=
  match fld w 1 0 with
  | 0 => .instr (.mldb (bv 5 w 17) (bv 5 w 12) (bv 5 w 7))
  | 1 => .instr .mzero
  | 2 => if loneBit w then (if drainTy (fld x 3 0) ∧ fld x 7 4 ≤ 3 then .instr (.mdrain (bv 5 w 17) (bv 5 w 12) (bv 5 w 7) (bv 5 w 2) (bv 4 x 0) (bv 4 x 4)) else .bad .operand) else .bad .needsX
  | _ => .bad .function

/-- C major 0x3C (R255, R256). -/
def decC60 (w x : Nat) : Slot :=
  match fld w 1 0 with
  | 0 => .instr (.tst (bv 5 w 17) (bv 5 w 12) (bv 5 w 7) (bv 5 w 2))
  | 1 => .instr (.tadv (bv 5 w 17) (bv 5 w 12) (bv 5 w 7))
  | 2 => .instr (.tlow (bv 5 w 17) (bv 5 w 12) (bv 5 w 7))
  | 3 => if loneBit w then (.instr (.tld (bv 5 w 17) (bv 5 w 12) (bv 5 w 7) (bv 5 w 2) (bv 5 x 0) (fld x 5 5 == 1) (fld x 6 6 == 1))) else .bad .needsX
  | _ => .bad .function

/-- A major 0x01. -/
noncomputable def decA01 (w : Nat) : Slot :=
  match fld w 9 0 with
  | 0 => .instr (.add (bv 5 w 21) (bv 5 w 16) (bv 5 w 11) (fld w 10 10 == 1))
  | 1 => .instr (.sub (bv 5 w 21) (bv 5 w 16) (bv 5 w 11) (fld w 10 10 == 1))
  | 2 => if fld w 10 10 = 0 then .instr (.and (bv 5 w 21) (bv 5 w 16) (bv 5 w 11)) else .bad .operand
  | 3 => if fld w 10 10 = 0 then .instr (.or (bv 5 w 21) (bv 5 w 16) (bv 5 w 11)) else .bad .operand
  | 4 => if fld w 10 10 = 0 then .instr (.xor (bv 5 w 21) (bv 5 w 16) (bv 5 w 11)) else .bad .operand
  | 5 => if fld w 10 10 = 0 then .instr (.andn (bv 5 w 21) (bv 5 w 16) (bv 5 w 11)) else .bad .operand
  | 6 => if fld w 10 10 = 0 then .instr (.orn (bv 5 w 21) (bv 5 w 16) (bv 5 w 11)) else .bad .operand
  | 7 => .instr (.shl (bv 5 w 21) (bv 5 w 16) (bv 5 w 11) (fld w 10 10 == 1))
  | 8 => .instr (.shr (bv 5 w 21) (bv 5 w 16) (bv 5 w 11) (fld w 10 10 == 1))
  | 9 => .instr (.sar (bv 5 w 21) (bv 5 w 16) (bv 5 w 11) (fld w 10 10 == 1))
  | 10 => .instr (.rol (bv 5 w 21) (bv 5 w 16) (bv 5 w 11) (fld w 10 10 == 1))
  | 11 => if fld w 10 10 = 0 then .instr (.min (bv 5 w 21) (bv 5 w 16) (bv 5 w 11)) else .bad .operand
  | 12 => if fld w 10 10 = 0 then .instr (.max (bv 5 w 21) (bv 5 w 16) (bv 5 w 11)) else .bad .operand
  | 13 => if fld w 10 10 = 0 then .instr (.minn (bv 5 w 21) (bv 5 w 16) (bv 5 w 11)) else .bad .operand
  | 14 => if fld w 10 10 = 0 then .instr (.maxn (bv 5 w 21) (bv 5 w 16) (bv 5 w 11)) else .bad .operand
  | 15 => if fld w 10 10 = 0 then .instr (.seq (bv 5 w 21) (bv 5 w 16) (bv 5 w 11)) else .bad .operand
  | 16 => if fld w 10 10 = 0 then .instr (.sne (bv 5 w 21) (bv 5 w 16) (bv 5 w 11)) else .bad .operand
  | 17 => if fld w 10 10 = 0 then .instr (.slt (bv 5 w 21) (bv 5 w 16) (bv 5 w 11)) else .bad .operand
  | 18 => if fld w 10 10 = 0 then .instr (.sltn (bv 5 w 21) (bv 5 w 16) (bv 5 w 11)) else .bad .operand
  | 19 => if fld w 10 10 = 0 then .instr (.sle (bv 5 w 21) (bv 5 w 16) (bv 5 w 11)) else .bad .operand
  | 20 => if fld w 10 10 = 0 then .instr (.slen (bv 5 w 21) (bv 5 w 16) (bv 5 w 11)) else .bad .operand
  | 21 => if fld w 10 10 = 0 then .instr (.bget (bv 5 w 21) (bv 5 w 16) (bv 5 w 11)) else .bad .operand
  | 22 => if fld w 10 10 = 0 then .instr (.bset (bv 5 w 21) (bv 5 w 16) (bv 5 w 11)) else .bad .operand
  | 23 => if fld w 10 10 = 0 then .instr (.bclr (bv 5 w 21) (bv 5 w 16) (bv 5 w 11)) else .bad .operand
  | 24 => if fld w 10 10 = 0 then .instr (.bflip (bv 5 w 21) (bv 5 w 16) (bv 5 w 11)) else .bad .operand
  | 25 => if fld w 10 10 = 0 then .instr (.popc (bv 5 w 21) (bv 5 w 16)) else .bad .operand
  | 26 => if fld w 10 10 = 0 then .instr (.clz (bv 5 w 21) (bv 5 w 16)) else .bad .operand
  | 27 => if fld w 10 10 = 0 then .instr (.ctz (bv 5 w 21) (bv 5 w 16)) else .bad .operand
  | 28 => if fld w 10 10 = 0 then .instr (.rev (bv 5 w 21) (bv 5 w 16)) else .bad .operand
  | 29 => if fld w 10 10 = 0 then .instr (.mov (bv 5 w 21) (bv 5 w 16)) else .bad .operand
  | 30 => if fld w 10 10 = 0 then .instr (.cmov (bv 5 w 21) (bv 5 w 16) (bv 5 w 11)) else .bad .operand
  | 31 => if fld w 10 10 = 0 ∧ fld w 15 11 ≤ 2 then .instr (.sext (bv 5 w 21) (bv 5 w 16) (bv 2 w 11)) else .bad .operand
  | 32 => if fld w 10 10 = 0 ∧ fld w 15 11 ≤ 2 then .instr (.zext (bv 5 w 21) (bv 5 w 16) (bv 2 w 11)) else .bad .operand
  | 33 => .instr (.mul (bv 5 w 21) (bv 5 w 16) (bv 5 w 11) (fld w 10 10 == 1))
  | 34 => .instr (.mulh (bv 5 w 21) (bv 5 w 16) (bv 5 w 11) (fld w 10 10 == 1))
  | 35 => .instr (.mulhn (bv 5 w 21) (bv 5 w 16) (bv 5 w 11) (fld w 10 10 == 1))
  | 36 => .instr (.div (bv 5 w 21) (bv 5 w 16) (bv 5 w 11) (fld w 10 10 == 1))
  | 37 => .instr (.divn (bv 5 w 21) (bv 5 w 16) (bv 5 w 11) (fld w 10 10 == 1))
  | 38 => .instr (.rem (bv 5 w 21) (bv 5 w 16) (bv 5 w 11) (fld w 10 10 == 1))
  | 39 => .instr (.remn (bv 5 w 21) (bv 5 w 16) (bv 5 w 11) (fld w 10 10 == 1))
  | _ => .bad .function

/-- A major 0x0B (R257-R259). -/
noncomputable def decA11 (w : Nat) : Slot :=
  match fld w 15 14 with
  | 0 => if fld w 13 13 = 0 ∨ fld w 5 0 < 32 then .instr (.shli (bv 5 w 21) (bv 5 w 16) (fld w 13 13 == 1) (bv 6 w 0)) else .bad .operand
  | 1 => if fld w 13 13 = 0 ∨ fld w 5 0 < 32 then .instr (.shri (bv 5 w 21) (bv 5 w 16) (fld w 13 13 == 1) (bv 6 w 0)) else .bad .operand
  | 2 => if fld w 13 13 = 0 ∨ fld w 5 0 < 32 then .instr (.sari (bv 5 w 21) (bv 5 w 16) (fld w 13 13 == 1) (bv 6 w 0)) else .bad .operand
  | _ => .bad .function

/-- A major 0x0C (R257-R259). -/
noncomputable def decA12 (w : Nat) : Slot :=
  match fld w 10 6 with
  | 0 => .instr (.fadd (bv 5 w 21) (bv 5 w 16) (bv 5 w 11) (bv 2 w 4) (bv 2 w 2))
  | 1 => .instr (.fsub (bv 5 w 21) (bv 5 w 16) (bv 5 w 11) (bv 2 w 4) (bv 2 w 2))
  | 2 => .instr (.fmul (bv 5 w 21) (bv 5 w 16) (bv 5 w 11) (bv 2 w 4) (bv 2 w 2))
  | 3 => .instr (.fma (bv 5 w 21) (bv 5 w 16) (bv 5 w 11) (bv 2 w 4) (bv 2 w 2))
  | 4 => .instr (.fms (bv 5 w 21) (bv 5 w 16) (bv 5 w 11) (bv 2 w 4) (bv 2 w 2))
  | 5 => .instr (.fnma (bv 5 w 21) (bv 5 w 16) (bv 5 w 11) (bv 2 w 4) (bv 2 w 2))
  | 6 => .instr (.fdiv (bv 5 w 21) (bv 5 w 16) (bv 5 w 11) (bv 2 w 4) (bv 2 w 2))
  | 7 => .instr (.fsqrt (bv 5 w 21) (bv 5 w 16) (bv 2 w 4) (bv 2 w 2))
  | 8 => .instr (.frcp (bv 5 w 21) (bv 5 w 16) (bv 2 w 4))
  | 9 => .instr (.frsq (bv 5 w 21) (bv 5 w 16) (bv 2 w 4))
  | 10 => .instr (.fmin (bv 5 w 21) (bv 5 w 16) (bv 5 w 11) (bv 2 w 4))
  | 11 => .instr (.fmax (bv 5 w 21) (bv 5 w 16) (bv 5 w 11) (bv 2 w 4))
  | 12 => .instr (.fabs (bv 5 w 21) (bv 5 w 16) (bv 2 w 4))
  | 13 => .instr (.fneg (bv 5 w 21) (bv 5 w 16) (bv 2 w 4))
  | 14 => .instr (.fcpsgn (bv 5 w 21) (bv 5 w 16) (bv 5 w 11) (bv 2 w 4))
  | 15 => .instr (.fclass (bv 5 w 21) (bv 5 w 16) (bv 2 w 4))
  | 16 => .instr (.feq (bv 5 w 21) (bv 5 w 16) (bv 5 w 11) (bv 2 w 4))
  | 17 => .instr (.flt (bv 5 w 21) (bv 5 w 16) (bv 5 w 11) (bv 2 w 4))
  | 18 => .instr (.fle (bv 5 w 21) (bv 5 w 16) (bv 5 w 11) (bv 2 w 4))
  | 19 => .instr (.fcvt (bv 5 w 21) (bv 5 w 16) (bv 2 w 4) (bv 2 w 2) (bv 2 w 0))
  | 20 => .instr (.fcvti (bv 5 w 21) (bv 5 w 16) (bv 2 w 4) (bv 2 w 2) (bv 2 w 0))
  | 21 => .instr (.fcvtf (bv 5 w 21) (bv 5 w 16) (bv 2 w 4) (bv 2 w 2) (bv 2 w 0))
  | 22 => .instr (.fexp (bv 5 w 21) (bv 5 w 16) (bv 2 w 4))
  | 23 => .instr (.fscl (bv 5 w 21) (bv 5 w 16) (bv 5 w 11) (bv 2 w 4) (bv 2 w 2))
  | _ => .bad .function

/-- A major 0x10 (R257-R259). -/
noncomputable def decA16 (w : Nat) : Slot :=
  match fld w 5 0 with
  | 0 => if tyIF (fld w 13 10) then .instr (.vadd (bv 4 w 22) (bv 4 w 18) (bv 4 w 14) (bv 4 w 10)) else .bad .operand
  | 1 => if tyIF (fld w 13 10) then .instr (.vsub (bv 4 w 22) (bv 4 w 18) (bv 4 w 14) (bv 4 w 10)) else .bad .operand
  | 2 => if tyIF (fld w 13 10) then .instr (.vmul (bv 4 w 22) (bv 4 w 18) (bv 4 w 14) (bv 4 w 10)) else .bad .operand
  | 3 => if tyI (fld w 13 10) then .instr (.vmulh (bv 4 w 22) (bv 4 w 18) (bv 4 w 14) (bv 4 w 10)) else .bad .operand
  | 4 => if tyF (fld w 13 10) then .instr (.vfma (bv 4 w 22) (bv 4 w 18) (bv 4 w 14) (bv 4 w 10)) else .bad .operand
  | 5 => if tyF (fld w 13 10) then .instr (.vfms (bv 4 w 22) (bv 4 w 18) (bv 4 w 14) (bv 4 w 10)) else .bad .operand
  | 6 => if tyIF (fld w 13 10) then .instr (.vmin (bv 4 w 22) (bv 4 w 18) (bv 4 w 14) (bv 4 w 10)) else .bad .operand
  | 7 => if tyIF (fld w 13 10) then .instr (.vmax (bv 4 w 22) (bv 4 w 18) (bv 4 w 14) (bv 4 w 10)) else .bad .operand
  | 8 => if tyIF (fld w 13 10) then .instr (.vabs (bv 4 w 22) (bv 4 w 18) (bv 4 w 10)) else .bad .operand
  | 9 => if tyIF (fld w 13 10) then .instr (.vneg (bv 4 w 22) (bv 4 w 18) (bv 4 w 10)) else .bad .operand
  | 10 => .instr (.vand (bv 4 w 22) (bv 4 w 18) (bv 4 w 14) (bv 4 w 10))
  | 11 => .instr (.vor (bv 4 w 22) (bv 4 w 18) (bv 4 w 14) (bv 4 w 10))
  | 12 => .instr (.vxor (bv 4 w 22) (bv 4 w 18) (bv 4 w 14) (bv 4 w 10))
  | 13 => .instr (.vandn (bv 4 w 22) (bv 4 w 18) (bv 4 w 14) (bv 4 w 10))
  | 14 => if tyI (fld w 13 10) then .instr (.vshl (bv 4 w 22) (bv 4 w 18) (bv 4 w 14) (bv 4 w 10)) else .bad .operand
  | 15 => if tyI (fld w 13 10) then .instr (.vshr (bv 4 w 22) (bv 4 w 18) (bv 4 w 14) (bv 4 w 10)) else .bad .operand
  | 16 => if tyI (fld w 13 10) then .instr (.vsar (bv 4 w 22) (bv 4 w 18) (bv 4 w 14) (bv 4 w 10)) else .bad .operand
  | 17 => if fld w 9 9 = 0 then (if cmpOk (fld w 13 10) (fld w 8 6) then .instr (.vcmp (bv 4 w 22) (bv 4 w 18) (bv 4 w 14) (bv 4 w 10) (bv 3 w 6)) else .bad .operand) else .bad .operand
  | 18 => .instr (.vsel (bv 4 w 22) (bv 4 w 18) (bv 4 w 14) (bv 4 w 10) (bv 4 w 6))
  | 19 => .instr (.vmand (bv 4 w 22) (bv 4 w 18) (bv 4 w 14) (bv 4 w 10))
  | 20 => .instr (.vmor (bv 4 w 22) (bv 4 w 18) (bv 4 w 14) (bv 4 w 10))
  | 21 => .instr (.vmnot (bv 4 w 22) (bv 4 w 18) (bv 4 w 10))
  | 22 => if cvtOk (fld w 13 10) (fld w 9 6) (fld w 25 22) (fld w 21 18) then .instr (.vcvt (bv 4 w 22) (bv 4 w 18) (bv 4 w 10) (bv 4 w 6)) else .bad .operand
  | 23 => if fld w 13 10 ≠ 14 then .instr (.vperm (bv 4 w 22) (bv 4 w 18) (bv 4 w 14) (bv 4 w 10)) else .bad .operand
  | 24 => .instr (.vrot (bv 4 w 22) (bv 4 w 18) (bv 4 w 14) (bv 4 w 10))
  | 25 => if tyIF (fld w 13 10) then .instr (.vsum (bv 4 w 22) (bv 4 w 18) (bv 4 w 10)) else .bad .operand
  | 26 => if tyIF (fld w 13 10) then .instr (.vmaxr (bv 4 w 22) (bv 4 w 18) (bv 4 w 10)) else .bad .operand
  | 27 => if tyIF (fld w 13 10) then .instr (.vminr (bv 4 w 22) (bv 4 w 18) (bv 4 w 10)) else .bad .operand
  | 28 => if tyIF (fld w 13 10) then .instr (.vdot (bv 4 w 22) (bv 4 w 18) (bv 4 w 14) (bv 4 w 10)) else .bad .operand
  | 29 => if tyF (fld w 13 10) then .instr (.vlerp (bv 4 w 22) (bv 4 w 18) (bv 4 w 14) (bv 4 w 10)) else .bad .operand
  | 30 => if tyF (fld w 13 10) then .instr (.vclamp (bv 4 w 22) (bv 4 w 18) (bv 4 w 14) (bv 4 w 10)) else .bad .operand
  | 31 => if tyEst (fld w 13 10) then .instr (.vrcp (bv 4 w 22) (bv 4 w 18) (bv 4 w 10)) else .bad .operand
  | 32 => if tyEst (fld w 13 10) then .instr (.vrsq (bv 4 w 22) (bv 4 w 18) (bv 4 w 10)) else .bad .operand
  | 33 => if tyEst (fld w 13 10) then .instr (.vexp2 (bv 4 w 22) (bv 4 w 18) (bv 4 w 10)) else .bad .operand
  | 34 => if tyEst (fld w 13 10) then .instr (.vlog2 (bv 4 w 22) (bv 4 w 18) (bv 4 w 10)) else .bad .operand
  | 35 => if tyEst (fld w 13 10) then .instr (.vsinpi (bv 4 w 22) (bv 4 w 18) (bv 4 w 10)) else .bad .operand
  | 36 => if tyEst (fld w 13 10) then .instr (.vcospi (bv 4 w 22) (bv 4 w 18) (bv 4 w 10)) else .bad .operand
  | _ => .bad .function

/-- A major 0x11 (R257-R259). -/
noncomputable def decA17 (w : Nat) : Slot :=
  match fld w 5 0 with
  | 0 => .instr (.vbcast (bv 4 w 22) (bv 5 w 13) (bv 4 w 9))
  | 1 => .instr (.vins (bv 4 w 22) (bv 4 w 18) (bv 5 w 13) (bv 4 w 9))
  | 2 => .instr (.vext (bv 4 w 22) (bv 4 w 18) (bv 5 w 13) (bv 4 w 9))
  | 3 => .instr (.vmpop (bv 5 w 13) (bv 4 w 18) (bv 4 w 9))
  | 4 => if tyF (fld w 12 9) then .instr (.vscl (bv 4 w 22) (bv 4 w 18) (bv 5 w 13) (bv 4 w 9)) else .bad .operand
  | 5 => if tyEst (fld w 12 9) then .instr (.vqe8 (bv 4 w 22) (bv 4 w 18) (bv 5 w 13) (bv 4 w 9)) else .bad .operand
  | 6 => if tyBF (fld w 12 9) then .instr (.vde8 (bv 4 w 22) (bv 4 w 18) (bv 5 w 13) (bv 4 w 9)) else .bad .operand
  | 7 => if fld w 12 9 = 12 ∧ fld w 22 22 = 0 then .instr (.vfix (bv 4 w 22) (bv 4 w 18) (bv 5 w 13) (bv 4 w 9)) else .bad .operand
  | 8 => if tyBF (fld w 12 9) ∧ fld w 18 18 = 0 then .instr (.vunfix (bv 4 w 22) (bv 4 w 18) (bv 5 w 13) (bv 4 w 9)) else .bad .operand
  | 9 => if tyEst (fld w 12 9) then .instr (.vmaxe (bv 5 w 13) (bv 4 w 18) (bv 4 w 9)) else .bad .operand
  | _ => .bad .function

/-- The instruction of word C, with word A as its extension word X (R249-R256, R260). -/
def decodeC (w x : Nat) : Slot :=
  match fld w 27 22 with
  | 0 => .instr .nopC
  | 1 => .instr (.br (bv 22 w 0))
  | 2 => .instr (.call (bv 22 w 0))
  | 3 => decC03 w x
  | 4 => decC04 w x
  | 5 => decC05 w x
  | 6 => decC06 w
  | 7 => .instr (.rept (bv 3 w 19) (bv 8 w 11) (bv 5 w 6))
  | 8 => .instr (.li (bv 5 w 17) (imm17 w x))
  | 9 => if loneBit w then (.instr (.lih (bv 5 w 17) (bv 32 x 0))) else .bad .needsX
  | 10 => if 1 ≤ fld w 21 17 ∧ fld w 21 17 ≤ 10 then .instr (.start (bv 5 w 17) (imm17 w x)) else .bad .operand
  | 11 => decC11 w
  | 12 => decC12 w
  | 13 => .instr (.trap (bv 16 w 0))
  | 14 => if loneBit w then (.instr (.mark (bv 32 x 0))) else .bad .needsX
  | 15 => if fld w 11 0 ≤ 21 then .instr (.getsr (bv 5 w 17) (bv 12 w 0)) else .bad .operand
  | 16 => if fld w 11 0 ≤ 21 then .instr (.setsr (bv 5 w 12) (bv 12 w 0)) else .bad .operand
  | 17 => .instr (.wait (bv 12 w 0))
  | 18 => .instr (.ldI8 (bv 5 w 17) (bv 5 w 12) (bv 2 w 10) (bv 3 w 7) (imm7 w x))
  | 19 => .instr (.ldN8 (bv 5 w 17) (bv 5 w 12) (bv 2 w 10) (bv 3 w 7) (imm7 w x))
  | 20 => .instr (.ldI16 (bv 5 w 17) (bv 5 w 12) (bv 2 w 10) (bv 3 w 7) (imm7 w x))
  | 21 => .instr (.ldN16 (bv 5 w 17) (bv 5 w 12) (bv 2 w 10) (bv 3 w 7) (imm7 w x))
  | 22 => .instr (.ldI32 (bv 5 w 17) (bv 5 w 12) (bv 2 w 10) (bv 3 w 7) (imm7 w x))
  | 23 => .instr (.ldN32 (bv 5 w 17) (bv 5 w 12) (bv 2 w 10) (bv 3 w 7) (imm7 w x))
  | 24 => .instr (.ldD (bv 5 w 17) (bv 5 w 12) (bv 2 w 10) (bv 3 w 7) (imm7 w x))
  | 25 => .instr (.stB (bv 5 w 17) (bv 5 w 12) (bv 2 w 10) (bv 3 w 7) (imm7 w x))
  | 26 => .instr (.stH (bv 5 w 17) (bv 5 w 12) (bv 2 w 10) (bv 3 w 7) (imm7 w x))
  | 27 => .instr (.stW (bv 5 w 17) (bv 5 w 12) (bv 2 w 10) (bv 3 w 7) (imm7 w x))
  | 28 => .instr (.stD (bv 5 w 17) (bv 5 w 12) (bv 2 w 10) (bv 3 w 7) (imm7 w x))
  | 29 => decC29 w
  | 30 => .instr (.vld (bv 4 w 18) (bv 5 w 13) (bv 2 w 6) (bv 3 w 3) (offX w x))
  | 31 => .instr (.vst (bv 4 w 18) (bv 5 w 13) (bv 2 w 6) (bv 3 w 3) (offX w x))
  | 32 => .instr (.vldm (bv 4 w 18) (bv 5 w 13) (bv 4 w 8) (bv 2 w 6) (bv 3 w 3) (offX w x))
  | 33 => .instr (.vstm (bv 4 w 18) (bv 5 w 13) (bv 4 w 8) (bv 2 w 6) (bv 3 w 3) (offX w x))
  | 34 => .instr (.vldt (bv 4 w 18) (bv 5 w 13) (bv 5 w 8) (bv 2 w 6) (bv 3 w 3) (offX w x))
  | 35 => .instr (.vstt (bv 4 w 18) (bv 5 w 13) (bv 5 w 8) (bv 2 w 6) (bv 3 w 3) (offX w x))
  | 36 => decC36 w x
  | 37 => decC37 w x
  | 38 => decC38 w
  | 39 => decC39 w
  | 40 => .instr (.xld (bv 5 w 12) (bv 5 w 7) (bv 2 w 5) (bv 3 w 2) (bv 2 w 0))
  | 41 => .instr (.xst (bv 5 w 17) (bv 5 w 12) (bv 5 w 7) (bv 2 w 5) (bv 3 w 2) (bv 2 w 0))
  | 42 => .instr (.xvld (bv 5 w 17) (bv 5 w 12) (bv 5 w 7) (bv 2 w 5) (bv 3 w 2))
  | 43 => .instr (.xvst (bv 5 w 17) (bv 5 w 12) (bv 5 w 7) (bv 2 w 5) (bv 3 w 2))
  | 44 => decC44 w x
  | 45 => decC45 w
  | 46 => decC46 w
  | 47 => decC47 w x
  | 48 => if fld w 4 3 ≤ fld w 6 5 ∧ fld w 2 1 ≤ fld w 6 5 then .instr (.mmaE4m3E4m3 (bv 5 w 17) (bv 5 w 12) (bv 5 w 7) (bv 2 w 5) (bv 2 w 3) (bv 2 w 1) (fld w 0 0 == 1)) else .bad .operand
  | 49 => if fld w 4 3 ≤ fld w 6 5 ∧ fld w 2 1 ≤ fld w 6 5 then .instr (.mmaE4m3E5m2 (bv 5 w 17) (bv 5 w 12) (bv 5 w 7) (bv 2 w 5) (bv 2 w 3) (bv 2 w 1) (fld w 0 0 == 1)) else .bad .operand
  | 50 => if fld w 4 3 ≤ fld w 6 5 ∧ fld w 2 1 ≤ fld w 6 5 then .instr (.mmaE5m2E4m3 (bv 5 w 17) (bv 5 w 12) (bv 5 w 7) (bv 2 w 5) (bv 2 w 3) (bv 2 w 1) (fld w 0 0 == 1)) else .bad .operand
  | 51 => if fld w 4 3 ≤ fld w 6 5 ∧ fld w 2 1 ≤ fld w 6 5 then .instr (.mmaE5m2E5m2 (bv 5 w 17) (bv 5 w 12) (bv 5 w 7) (bv 2 w 5) (bv 2 w 3) (bv 2 w 1) (fld w 0 0 == 1)) else .bad .operand
  | 52 => if fld w 4 3 ≤ fld w 6 5 ∧ fld w 2 1 ≤ fld w 6 5 then .instr (.mmaBf16Bf16 (bv 5 w 17) (bv 5 w 12) (bv 5 w 7) (bv 2 w 5) (bv 2 w 3) (bv 2 w 1) (fld w 0 0 == 1)) else .bad .operand
  | 53 => if fld w 4 3 ≤ fld w 6 5 ∧ fld w 2 1 ≤ fld w 6 5 then .instr (.mmaF16F16 (bv 5 w 17) (bv 5 w 12) (bv 5 w 7) (bv 2 w 5) (bv 2 w 3) (bv 2 w 1) (fld w 0 0 == 1)) else .bad .operand
  | 54 => if fld w 4 3 ≤ fld w 6 5 ∧ fld w 2 1 ≤ fld w 6 5 then .instr (.mmaI8I8 (bv 5 w 17) (bv 5 w 12) (bv 5 w 7) (bv 2 w 5) (bv 2 w 3) (bv 2 w 1) (fld w 0 0 == 1)) else .bad .operand
  | 55 => if fld w 4 3 ≤ fld w 6 5 ∧ fld w 2 1 ≤ fld w 6 5 then .instr (.mmaI8T2 (bv 5 w 17) (bv 5 w 12) (bv 5 w 7) (bv 2 w 5) (bv 2 w 3) (bv 2 w 1) (fld w 0 0 == 1)) else .bad .operand
  | 56 => if fld w 4 3 ≤ fld w 6 5 ∧ fld w 2 1 ≤ fld w 6 5 then .instr (.mmaE8oI8 (bv 5 w 17) (bv 5 w 12) (bv 5 w 7) (bv 2 w 5) (bv 2 w 3) (bv 2 w 1) (fld w 0 0 == 1)) else .bad .operand
  | 57 => if fld w 4 3 ≤ fld w 6 5 ∧ fld w 2 1 ≤ fld w 6 5 then .instr (.mmaE8oE4m3 (bv 5 w 17) (bv 5 w 12) (bv 5 w 7) (bv 2 w 5) (bv 2 w 3) (bv 2 w 1) (fld w 0 0 == 1)) else .bad .operand
  | 58 => if fld w 4 3 ≤ fld w 6 5 ∧ fld w 2 1 ≤ fld w 6 5 then .instr (.mmaE8oBf16 (bv 5 w 17) (bv 5 w 12) (bv 5 w 7) (bv 2 w 5) (bv 2 w 3) (bv 2 w 1) (fld w 0 0 == 1)) else .bad .operand
  | 59 => decC59 w x
  | 60 => decC60 w x
  | 62 => .instr (.hintC (bv 22 w 0))
  | _ => .bad .major

/-- The instruction of word A (R257-R260). The hint majors are 0x3C-0x3F. -/
noncomputable def decodeA (w : Nat) : Slot :=
  match fld w 31 26 with
  | 0 => .instr .nopA
  | 1 => decA01 w
  | 2 => .instr (.addi (bv 5 w 21) (bv 5 w 16) (bv 16 w 0))
  | 3 => .instr (.andi (bv 5 w 21) (bv 5 w 16) (bv 16 w 0))
  | 4 => .instr (.ori (bv 5 w 21) (bv 5 w 16) (bv 16 w 0))
  | 5 => .instr (.xori (bv 5 w 21) (bv 5 w 16) (bv 16 w 0))
  | 6 => .instr (.slti (bv 5 w 21) (bv 5 w 16) (bv 16 w 0))
  | 7 => .instr (.movi (bv 5 w 21) (bv 16 w 0))
  | 8 => if fld w 15 10 + fld w 9 4 + 1 ≤ 64 then .instr (.bext (bv 5 w 21) (bv 5 w 16) (bv 6 w 10) (bv 6 w 4)) else .bad .operand
  | 9 => if fld w 15 10 + fld w 9 4 + 1 ≤ 64 then .instr (.bins (bv 5 w 21) (bv 5 w 16) (bv 6 w 10) (bv 6 w 4)) else .bad .operand
  | 10 => .instr (.movhi (bv 5 w 21) (bv 5 w 16) (bv 16 w 0))
  | 11 => decA11 w
  | 12 => decA12 w
  | 16 => decA16 w
  | 17 => decA17 w
  | 18 => if tyEst (fld w 3 0) then .instr (.vex (bv 4 w 22) (bv 4 w 18) (bv 4 w 14) (bv 5 w 9) (bv 5 w 4) (bv 4 w 0)) else .bad .operand
  | 60 => .instr (.hintA (bv 28 w 0))
  | 61 => .instr (.hintA (bv 28 w 0))
  | 62 => .instr (.hintA (bv 28 w 0))
  | 63 => .instr (.hintA (bv 28 w 0))
  | _ => .bad .major

/-- A bundle from its words C and A (R248, R249). -/
noncomputable def decodeWords (cw aw : Nat) : Fetched :=
  { stall := bv 3 cw 28
    lone := loneBit cw
    c := decodeC cw aw
    a := if loneBit cw then .instr .nopA else decodeA aw }

/-- The little-endian value of a list of bytes (R3). -/
def leNat : List Byte → Nat
  | [] => 0
  | b :: bs => b.toNat + 256 * leNat bs

/-- A bundle from any bytes: the first 8 are its words; fewer are refused by name. -/
noncomputable def decodeBytes (bs : List Byte) : Fetched :=
  if 8 ≤ bs.length then decodeWords (leNat (bs.take 4)) (leNat ((bs.drop 4).take 4))
  else { stall := 0, lone := false, c := .bad .truncated, a := .bad .truncated }

/-- The value an immediate form puts into word C: its short field, or 0 when X replaces it. -/
def immLow {w : Nat} : Imm w → Nat
  | .short v => v.toNat
  | .ext _ => 0

/-- The value an immediate form puts into X. -/
def immX {w : Nat} : Imm w → Nat
  | .short _ => 0
  | .ext x => x.toNat

/-- The value an offset of format CV puts into X. -/
def offLow : Option (BitVec 32) → Nat
  | none => 0
  | some x => x.toNat

/-! The encoder, from the same tables: a field's value times the weight of its lowest bit. -/

/-- Bits 27-0 of word C of a control-and-memory instruction; events and arithmetic instructions have none. -/
def encodeC : Instr → Nat
  | .nopC => 0
  | .br d => 4194304 + d.toNat
  | .call d => 8388608 + d.toNat
  | .bt r b d => 12582912 + 1024 + r.toNat * 131072 + b.toNat * 2048 + immLow d
  | .bf r b d => 12582912 + r.toNat * 131072 + b.toNat * 2048 + immLow d
  | .bnz r d => 16777216 + 1024 + r.toNat * 131072 + immLow d
  | .bz r d => 16777216 + r.toNat * 131072 + immLow d
  | .bse b d => 20971520 + 1024 + b.toNat * 2048 + immLow d
  | .bsc b d => 20971520 + b.toNat * 2048 + immLow d
  | .guard r b => 25165824 + 1024 + r.toNat * 131072 + b.toNat * 2048
  | .guardn r b => 25165824 + r.toNat * 131072 + b.toNat * 2048
  | .rept n c k => 29360128 + n.toNat * 524288 + c.toNat * 2048 + k.toNat * 64
  | .li rd v => 33554432 + rd.toNat * 131072 + immLow v
  | .lih rd _ => 37748736 + rd.toNat * 131072
  | .start h d => 41943040 + h.toNat * 131072 + immLow d
  | .cwait rd ra rb => 46137344 + rd.toNat * 131072 + ra.toNat * 4096 + rb.toNat * 128
  | .qwait rd rb => 46137344 + 1 + rd.toNat * 131072 + rb.toNat * 128
  | .hjoin ra rb => 46137344 + 2 + ra.toNat * 4096 + rb.toNat * 128
  | .xend rb => 46137344 + 3 + rb.toNat * 128
  | .mwait rb => 46137344 + 4 + rb.toNat * 128
  | .sbarOr rd ra rb => 46137344 + 8 + rd.toNat * 131072 + ra.toNat * 4096 + rb.toNat * 128
  | .sbarAnd rd ra rb => 46137344 + 9 + rd.toNat * 131072 + ra.toNat * 4096 + rb.toNat * 128
  | .sbarMax rd ra rb => 46137344 + 10 + rd.toNat * 131072 + ra.toNat * 4096 + rb.toNat * 128
  | .callr ra => 50331648 + ra.toNat * 4096
  | .jr ra => 50331648 + 1 + ra.toNat * 4096
  | .ret => 50331648 + 2
  | .hend => 50331648 + 3
  | .yield => 50331648 + 4
  | .sexit => 50331648 + 5
  | .vote rd => 50331648 + 6 + rd.toNat * 131072
  | .rfe => 50331648 + 7
  | .swp rd ra => 50331648 + 8 + rd.toNat * 131072 + ra.toNat * 4096
  | .brk => 50331648 + 9
  | .halt => 50331648 + 10
  | .trap k => 54525952 + k.toNat
  | .mark _ => 58720256
  | .getsr rd n => 62914560 + rd.toNat * 131072 + n.toNat
  | .setsr ra n => 67108864 + ra.toNat * 4096 + n.toNat
  | .wait n => 71303168 + n.toNat
  | .ldI8 rd ra o sc off => 75497472 + rd.toNat * 131072 + ra.toNat * 4096 + o.toNat * 1024 + sc.toNat * 128 + immLow off
  | .ldN8 rd ra o sc off => 79691776 + rd.toNat * 131072 + ra.toNat * 4096 + o.toNat * 1024 + sc.toNat * 128 + immLow off
  | .ldI16 rd ra o sc off => 83886080 + rd.toNat * 131072 + ra.toNat * 4096 + o.toNat * 1024 + sc.toNat * 128 + immLow off
  | .ldN16 rd ra o sc off => 88080384 + rd.toNat * 131072 + ra.toNat * 4096 + o.toNat * 1024 + sc.toNat * 128 + immLow off
  | .ldI32 rd ra o sc off => 92274688 + rd.toNat * 131072 + ra.toNat * 4096 + o.toNat * 1024 + sc.toNat * 128 + immLow off
  | .ldN32 rd ra o sc off => 96468992 + rd.toNat * 131072 + ra.toNat * 4096 + o.toNat * 1024 + sc.toNat * 128 + immLow off
  | .ldD rd ra o sc off => 100663296 + rd.toNat * 131072 + ra.toNat * 4096 + o.toNat * 1024 + sc.toNat * 128 + immLow off
  | .stB rs ra o sc off => 104857600 + rs.toNat * 131072 + ra.toNat * 4096 + o.toNat * 1024 + sc.toNat * 128 + immLow off
  | .stH rs ra o sc off => 109051904 + rs.toNat * 131072 + ra.toNat * 4096 + o.toNat * 1024 + sc.toNat * 128 + immLow off
  | .stW rs ra o sc off => 113246208 + rs.toNat * 131072 + ra.toNat * 4096 + o.toNat * 1024 + sc.toNat * 128 + immLow off
  | .stD rs ra o sc off => 117440512 + rs.toNat * 131072 + ra.toNat * 4096 + o.toNat * 1024 + sc.toNat * 128 + immLow off
  | .ldxI8 rd ra rb o => 121634816 + rd.toNat * 131072 + ra.toNat * 4096 + rb.toNat * 128 + o.toNat * 2
  | .ldxN8 rd ra rb o => 121634816 + 8 + rd.toNat * 131072 + ra.toNat * 4096 + rb.toNat * 128 + o.toNat * 2
  | .ldxI16 rd ra rb o => 121634816 + 16 + rd.toNat * 131072 + ra.toNat * 4096 + rb.toNat * 128 + o.toNat * 2
  | .ldxN16 rd ra rb o => 121634816 + 24 + rd.toNat * 131072 + ra.toNat * 4096 + rb.toNat * 128 + o.toNat * 2
  | .ldxI32 rd ra rb o => 121634816 + 32 + rd.toNat * 131072 + ra.toNat * 4096 + rb.toNat * 128 + o.toNat * 2
  | .ldxN32 rd ra rb o => 121634816 + 40 + rd.toNat * 131072 + ra.toNat * 4096 + rb.toNat * 128 + o.toNat * 2
  | .ldxD rd ra rb o => 121634816 + 48 + rd.toNat * 131072 + ra.toNat * 4096 + rb.toNat * 128 + o.toNat * 2
  | .stxB rs ra rb o => 121634816 + 64 + rs.toNat * 131072 + ra.toNat * 4096 + rb.toNat * 128 + o.toNat * 2
  | .stxH rs ra rb o => 121634816 + 72 + rs.toNat * 131072 + ra.toNat * 4096 + rb.toNat * 128 + o.toNat * 2
  | .stxW rs ra rb o => 121634816 + 80 + rs.toNat * 131072 + ra.toNat * 4096 + rb.toNat * 128 + o.toNat * 2
  | .stxD rs ra rb o => 121634816 + 88 + rs.toNat * 131072 + ra.toNat * 4096 + rb.toNat * 128 + o.toNat * 2
  | .vld vd ra o sc _ => 125829120 + vd.toNat * 262144 + ra.toNat * 8192 + o.toNat * 64 + sc.toNat * 8
  | .vst vs ra o sc _ => 130023424 + vs.toNat * 262144 + ra.toNat * 8192 + o.toNat * 64 + sc.toNat * 8
  | .vldm vd ra vm o sc _ => 134217728 + vd.toNat * 262144 + ra.toNat * 8192 + vm.toNat * 256 + o.toNat * 64 + sc.toNat * 8
  | .vstm vs ra vm o sc _ => 138412032 + vs.toNat * 262144 + ra.toNat * 8192 + vm.toNat * 256 + o.toNat * 64 + sc.toNat * 8
  | .vldt vd ra gt o sc _ => 142606336 + vd.toNat * 262144 + ra.toNat * 8192 + gt.toNat * 256 + o.toNat * 64 + sc.toNat * 8
  | .vstt vs ra gt o sc _ => 146800640 + vs.toNat * 262144 + ra.toNat * 8192 + gt.toNat * 256 + o.toNat * 64 + sc.toNat * 8
  | .vgather vd ra vi o sc el _ => 150994944 + vd.toNat * 262144 + ra.toNat * 8192 + vi.toNat * 256 + o.toNat * 64 + sc.toNat * 8 + el.toNat
  | .vscatter vs ra vi o sc el _ => 155189248 + vs.toNat * 262144 + ra.toNat * 8192 + vi.toNat * 256 + o.toNat * 64 + sc.toNat * 8 + el.toNat
  | .amoAdd rd ra rb o dw => 159383552 + rd.toNat * 131072 + ra.toNat * 4096 + rb.toNat * 128 + o.toNat * 2 + dw.toNat
  | .amoAnd rd ra rb o dw => 159383552 + 8 + rd.toNat * 131072 + ra.toNat * 4096 + rb.toNat * 128 + o.toNat * 2 + dw.toNat
  | .amoOr rd ra rb o dw => 159383552 + 16 + rd.toNat * 131072 + ra.toNat * 4096 + rb.toNat * 128 + o.toNat * 2 + dw.toNat
  | .amoXor rd ra rb o dw => 159383552 + 24 + rd.toNat * 131072 + ra.toNat * 4096 + rb.toNat * 128 + o.toNat * 2 + dw.toNat
  | .amoMin rd ra rb o dw => 159383552 + 32 + rd.toNat * 131072 + ra.toNat * 4096 + rb.toNat * 128 + o.toNat * 2 + dw.toNat
  | .amoMax rd ra rb o dw => 159383552 + 40 + rd.toNat * 131072 + ra.toNat * 4096 + rb.toNat * 128 + o.toNat * 2 + dw.toNat
  | .amoMinn rd ra rb o dw => 159383552 + 48 + rd.toNat * 131072 + ra.toNat * 4096 + rb.toNat * 128 + o.toNat * 2 + dw.toNat
  | .amoMaxn rd ra rb o dw => 159383552 + 56 + rd.toNat * 131072 + ra.toNat * 4096 + rb.toNat * 128 + o.toNat * 2 + dw.toNat
  | .amoSwap rd ra rb o dw => 159383552 + 64 + rd.toNat * 131072 + ra.toNat * 4096 + rb.toNat * 128 + o.toNat * 2 + dw.toNat
  | .amoFadd rd ra rb o dw => 159383552 + 72 + rd.toNat * 131072 + ra.toNat * 4096 + rb.toNat * 128 + o.toNat * 2 + dw.toNat
  | .cas rd ra rb o dw => 159383552 + 80 + rd.toNat * 131072 + ra.toNat * 4096 + rb.toNat * 128 + o.toNat * 2 + dw.toNat
  | .fence sc => 163577856 + sc.toNat * 128
  | .fenceSc sc => 163577856 + 1 + sc.toNat * 128
  | .xld ra rc o sc sz => 167772160 + ra.toNat * 4096 + rc.toNat * 128 + o.toNat * 32 + sc.toNat * 4 + sz.toNat
  | .xst rv ra rc o sc sz => 171966464 + rv.toNat * 131072 + ra.toNat * 4096 + rc.toNat * 128 + o.toNat * 32 + sc.toNat * 4 + sz.toNat
  | .xvld rv ra rc o sc => 176160768 + rv.toNat * 131072 + ra.toNat * 4096 + rc.toNat * 128 + o.toNat * 32 + sc.toNat * 4
  | .xvst rv ra rc o sc => 180355072 + rv.toNat * 131072 + ra.toNat * 4096 + rc.toNat * 128 + o.toNat * 32 + sc.toNat * 4
  | .xamoAdd rv ra rc o sc dw => 184549376 + 2 + rv.toNat * 131072 + ra.toNat * 4096 + rc.toNat * 128 + o.toNat * 32 + sc.toNat * 4 + dw.toNat
  | .xamoAnd rv ra rc o sc dw => 184549376 + 2 + rv.toNat * 131072 + ra.toNat * 4096 + rc.toNat * 128 + o.toNat * 32 + sc.toNat * 4 + dw.toNat
  | .xamoOr rv ra rc o sc dw => 184549376 + 2 + rv.toNat * 131072 + ra.toNat * 4096 + rc.toNat * 128 + o.toNat * 32 + sc.toNat * 4 + dw.toNat
  | .xamoXor rv ra rc o sc dw => 184549376 + 2 + rv.toNat * 131072 + ra.toNat * 4096 + rc.toNat * 128 + o.toNat * 32 + sc.toNat * 4 + dw.toNat
  | .xamoMin rv ra rc o sc dw => 184549376 + 2 + rv.toNat * 131072 + ra.toNat * 4096 + rc.toNat * 128 + o.toNat * 32 + sc.toNat * 4 + dw.toNat
  | .xamoMax rv ra rc o sc dw => 184549376 + 2 + rv.toNat * 131072 + ra.toNat * 4096 + rc.toNat * 128 + o.toNat * 32 + sc.toNat * 4 + dw.toNat
  | .xamoMinn rv ra rc o sc dw => 184549376 + 2 + rv.toNat * 131072 + ra.toNat * 4096 + rc.toNat * 128 + o.toNat * 32 + sc.toNat * 4 + dw.toNat
  | .xamoMaxn rv ra rc o sc dw => 184549376 + 2 + rv.toNat * 131072 + ra.toNat * 4096 + rc.toNat * 128 + o.toNat * 32 + sc.toNat * 4 + dw.toNat
  | .xamoSwap rv ra rc o sc dw => 184549376 + 2 + rv.toNat * 131072 + ra.toNat * 4096 + rc.toNat * 128 + o.toNat * 32 + sc.toNat * 4 + dw.toNat
  | .xamoFadd rv ra rc o sc dw => 184549376 + 2 + rv.toNat * 131072 + ra.toNat * 4096 + rc.toNat * 128 + o.toNat * 32 + sc.toNat * 4 + dw.toNat
  | .xcas rv ra rc o sc dw => 188743680 + 2 + rv.toNat * 131072 + ra.toNat * 4096 + rc.toNat * 128 + o.toNat * 32 + sc.toNat * 4 + dw.toNat
  | .post e => 192937984 + e.toNat * 128
  | .qnext rd => 192937984 + 1 + rd.toNat * 131072
  | .xsend r1 r2 r3 _ _ _ => 197132288 + r1.toNat * 131072 + r2.toNat * 4096 + r3.toNat * 128
  | .mmaE4m3E4m3 ra rb rs kb ba bb ap => 201326592 + ra.toNat * 131072 + rb.toNat * 4096 + rs.toNat * 128 + kb.toNat * 32 + ba.toNat * 8 + bb.toNat * 2 + ap.toNat
  | .mmaE4m3E5m2 ra rb rs kb ba bb ap => 205520896 + ra.toNat * 131072 + rb.toNat * 4096 + rs.toNat * 128 + kb.toNat * 32 + ba.toNat * 8 + bb.toNat * 2 + ap.toNat
  | .mmaE5m2E4m3 ra rb rs kb ba bb ap => 209715200 + ra.toNat * 131072 + rb.toNat * 4096 + rs.toNat * 128 + kb.toNat * 32 + ba.toNat * 8 + bb.toNat * 2 + ap.toNat
  | .mmaE5m2E5m2 ra rb rs kb ba bb ap => 213909504 + ra.toNat * 131072 + rb.toNat * 4096 + rs.toNat * 128 + kb.toNat * 32 + ba.toNat * 8 + bb.toNat * 2 + ap.toNat
  | .mmaBf16Bf16 ra rb rs kb ba bb ap => 218103808 + ra.toNat * 131072 + rb.toNat * 4096 + rs.toNat * 128 + kb.toNat * 32 + ba.toNat * 8 + bb.toNat * 2 + ap.toNat
  | .mmaF16F16 ra rb rs kb ba bb ap => 222298112 + ra.toNat * 131072 + rb.toNat * 4096 + rs.toNat * 128 + kb.toNat * 32 + ba.toNat * 8 + bb.toNat * 2 + ap.toNat
  | .mmaI8I8 ra rb rs kb ba bb ap => 226492416 + ra.toNat * 131072 + rb.toNat * 4096 + rs.toNat * 128 + kb.toNat * 32 + ba.toNat * 8 + bb.toNat * 2 + ap.toNat
  | .mmaI8T2 ra rb rs kb ba bb ap => 230686720 + ra.toNat * 131072 + rb.toNat * 4096 + rs.toNat * 128 + kb.toNat * 32 + ba.toNat * 8 + bb.toNat * 2 + ap.toNat
  | .mmaE8oI8 ra rb rs kb ba bb ap => 234881024 + ra.toNat * 131072 + rb.toNat * 4096 + rs.toNat * 128 + kb.toNat * 32 + ba.toNat * 8 + bb.toNat * 2 + ap.toNat
  | .mmaE8oE4m3 ra rb rs kb ba bb ap => 239075328 + ra.toNat * 131072 + rb.toNat * 4096 + rs.toNat * 128 + kb.toNat * 32 + ba.toNat * 8 + bb.toNat * 2 + ap.toNat
  | .mmaE8oBf16 ra rb rs kb ba bb ap => 243269632 + ra.toNat * 131072 + rb.toNat * 4096 + rs.toNat * 128 + kb.toNat * 32 + ba.toNat * 8 + bb.toNat * 2 + ap.toNat
  | .mldb r1 r2 r3 => 247463936 + r1.toNat * 131072 + r2.toNat * 4096 + r3.toNat * 128
  | .mzero => 247463936 + 1
  | .mdrain r1 r2 r3 r4 _ _ => 247463936 + 2 + r1.toNat * 131072 + r2.toNat * 4096 + r3.toNat * 128 + r4.toNat * 4
  | .tst r1 r2 r3 r4 => 251658240 + r1.toNat * 131072 + r2.toNat * 4096 + r3.toNat * 128 + r4.toNat * 4
  | .tadv r1 r2 r3 => 251658240 + 1 + r1.toNat * 131072 + r2.toNat * 4096 + r3.toNat * 128
  | .tlow r1 r2 r3 => 251658240 + 2 + r1.toNat * 131072 + r2.toNat * 4096 + r3.toNat * 128
  | .tld r1 r2 r3 r4 _ _ _ => 251658240 + 3 + r1.toNat * 131072 + r2.toNat * 4096 + r3.toNat * 128 + r4.toNat * 4
  | .hintC v => 260046848 + v.toNat
  | _ => 0

/-- The extension word X of a control-and-memory instruction; 0 where it has none. -/
def encodeX : Instr → Nat
  | .bt _ _ d => immX d
  | .bf _ _ d => immX d
  | .bnz _ d => immX d
  | .bz _ d => immX d
  | .bse _ d => immX d
  | .bsc _ d => immX d
  | .li _ v => immX v
  | .lih _ x => x.toNat
  | .start _ d => immX d
  | .mark x => x.toNat
  | .ldI8 _ _ _ _ off => immX off
  | .ldN8 _ _ _ _ off => immX off
  | .ldI16 _ _ _ _ off => immX off
  | .ldN16 _ _ _ _ off => immX off
  | .ldI32 _ _ _ _ off => immX off
  | .ldN32 _ _ _ _ off => immX off
  | .ldD _ _ _ _ off => immX off
  | .stB _ _ _ _ off => immX off
  | .stH _ _ _ _ off => immX off
  | .stW _ _ _ _ off => immX off
  | .stD _ _ _ _ off => immX off
  | .vld _ _ _ _ off => offLow off
  | .vst _ _ _ _ off => offLow off
  | .vldm _ _ _ _ _ off => offLow off
  | .vstm _ _ _ _ _ off => offLow off
  | .vldt _ _ _ _ _ off => offLow off
  | .vstt _ _ _ _ _ off => offLow off
  | .vgather _ _ _ _ _ _ off => offLow off
  | .vscatter _ _ _ _ _ _ off => offLow off
  | .xamoAnd _ _ _ _ _ _ => 1
  | .xamoOr _ _ _ _ _ _ => 2
  | .xamoXor _ _ _ _ _ _ => 3
  | .xamoMin _ _ _ _ _ _ => 4
  | .xamoMax _ _ _ _ _ _ => 5
  | .xamoMinn _ _ _ _ _ _ => 6
  | .xamoMaxn _ _ _ _ _ _ => 7
  | .xamoSwap _ _ _ _ _ _ => 8
  | .xamoFadd _ _ _ _ _ _ => 9
  | .xsend _ _ _ p n tag => p.toNat + n.toNat * 256 + tag.toNat * 8192
  | .mdrain _ _ _ _ ty act => ty.toNat + act.toNat * 16
  | .tld _ _ _ _ gc wm ik => gc.toNat + wm.toNat * 32 + ik.toNat * 64
  | _ => 0

/-- Word A of an arithmetic instruction. -/
def encodeA : Instr → Nat
  | .nopA => 0
  | .add rd ra rb w32 => 67108864 + rd.toNat * 2097152 + ra.toNat * 65536 + rb.toNat * 2048 + w32.toNat * 1024
  | .sub rd ra rb w32 => 67108864 + 1 + rd.toNat * 2097152 + ra.toNat * 65536 + rb.toNat * 2048 + w32.toNat * 1024
  | .and rd ra rb => 67108864 + 2 + rd.toNat * 2097152 + ra.toNat * 65536 + rb.toNat * 2048
  | .or rd ra rb => 67108864 + 3 + rd.toNat * 2097152 + ra.toNat * 65536 + rb.toNat * 2048
  | .xor rd ra rb => 67108864 + 4 + rd.toNat * 2097152 + ra.toNat * 65536 + rb.toNat * 2048
  | .andn rd ra rb => 67108864 + 5 + rd.toNat * 2097152 + ra.toNat * 65536 + rb.toNat * 2048
  | .orn rd ra rb => 67108864 + 6 + rd.toNat * 2097152 + ra.toNat * 65536 + rb.toNat * 2048
  | .shl rd ra rb w32 => 67108864 + 7 + rd.toNat * 2097152 + ra.toNat * 65536 + rb.toNat * 2048 + w32.toNat * 1024
  | .shr rd ra rb w32 => 67108864 + 8 + rd.toNat * 2097152 + ra.toNat * 65536 + rb.toNat * 2048 + w32.toNat * 1024
  | .sar rd ra rb w32 => 67108864 + 9 + rd.toNat * 2097152 + ra.toNat * 65536 + rb.toNat * 2048 + w32.toNat * 1024
  | .rol rd ra rb w32 => 67108864 + 10 + rd.toNat * 2097152 + ra.toNat * 65536 + rb.toNat * 2048 + w32.toNat * 1024
  | .min rd ra rb => 67108864 + 11 + rd.toNat * 2097152 + ra.toNat * 65536 + rb.toNat * 2048
  | .max rd ra rb => 67108864 + 12 + rd.toNat * 2097152 + ra.toNat * 65536 + rb.toNat * 2048
  | .minn rd ra rb => 67108864 + 13 + rd.toNat * 2097152 + ra.toNat * 65536 + rb.toNat * 2048
  | .maxn rd ra rb => 67108864 + 14 + rd.toNat * 2097152 + ra.toNat * 65536 + rb.toNat * 2048
  | .seq rd ra rb => 67108864 + 15 + rd.toNat * 2097152 + ra.toNat * 65536 + rb.toNat * 2048
  | .sne rd ra rb => 67108864 + 16 + rd.toNat * 2097152 + ra.toNat * 65536 + rb.toNat * 2048
  | .slt rd ra rb => 67108864 + 17 + rd.toNat * 2097152 + ra.toNat * 65536 + rb.toNat * 2048
  | .sltn rd ra rb => 67108864 + 18 + rd.toNat * 2097152 + ra.toNat * 65536 + rb.toNat * 2048
  | .sle rd ra rb => 67108864 + 19 + rd.toNat * 2097152 + ra.toNat * 65536 + rb.toNat * 2048
  | .slen rd ra rb => 67108864 + 20 + rd.toNat * 2097152 + ra.toNat * 65536 + rb.toNat * 2048
  | .bget rd ra rb => 67108864 + 21 + rd.toNat * 2097152 + ra.toNat * 65536 + rb.toNat * 2048
  | .bset rd ra rb => 67108864 + 22 + rd.toNat * 2097152 + ra.toNat * 65536 + rb.toNat * 2048
  | .bclr rd ra rb => 67108864 + 23 + rd.toNat * 2097152 + ra.toNat * 65536 + rb.toNat * 2048
  | .bflip rd ra rb => 67108864 + 24 + rd.toNat * 2097152 + ra.toNat * 65536 + rb.toNat * 2048
  | .popc rd ra => 67108864 + 25 + rd.toNat * 2097152 + ra.toNat * 65536
  | .clz rd ra => 67108864 + 26 + rd.toNat * 2097152 + ra.toNat * 65536
  | .ctz rd ra => 67108864 + 27 + rd.toNat * 2097152 + ra.toNat * 65536
  | .rev rd ra => 67108864 + 28 + rd.toNat * 2097152 + ra.toNat * 65536
  | .mov rd ra => 67108864 + 29 + rd.toNat * 2097152 + ra.toNat * 65536
  | .cmov rd ra rb => 67108864 + 30 + rd.toNat * 2097152 + ra.toNat * 65536 + rb.toNat * 2048
  | .sext rd ra wc => 67108864 + 31 + rd.toNat * 2097152 + ra.toNat * 65536 + wc.toNat * 2048
  | .zext rd ra wc => 67108864 + 32 + rd.toNat * 2097152 + ra.toNat * 65536 + wc.toNat * 2048
  | .mul rd ra rb w32 => 67108864 + 33 + rd.toNat * 2097152 + ra.toNat * 65536 + rb.toNat * 2048 + w32.toNat * 1024
  | .mulh rd ra rb w32 => 67108864 + 34 + rd.toNat * 2097152 + ra.toNat * 65536 + rb.toNat * 2048 + w32.toNat * 1024
  | .mulhn rd ra rb w32 => 67108864 + 35 + rd.toNat * 2097152 + ra.toNat * 65536 + rb.toNat * 2048 + w32.toNat * 1024
  | .div rd ra rb w32 => 67108864 + 36 + rd.toNat * 2097152 + ra.toNat * 65536 + rb.toNat * 2048 + w32.toNat * 1024
  | .divn rd ra rb w32 => 67108864 + 37 + rd.toNat * 2097152 + ra.toNat * 65536 + rb.toNat * 2048 + w32.toNat * 1024
  | .rem rd ra rb w32 => 67108864 + 38 + rd.toNat * 2097152 + ra.toNat * 65536 + rb.toNat * 2048 + w32.toNat * 1024
  | .remn rd ra rb w32 => 67108864 + 39 + rd.toNat * 2097152 + ra.toNat * 65536 + rb.toNat * 2048 + w32.toNat * 1024
  | .addi rd ra imm => 134217728 + rd.toNat * 2097152 + ra.toNat * 65536 + imm.toNat
  | .andi rd ra imm => 201326592 + rd.toNat * 2097152 + ra.toNat * 65536 + imm.toNat
  | .ori rd ra imm => 268435456 + rd.toNat * 2097152 + ra.toNat * 65536 + imm.toNat
  | .xori rd ra imm => 335544320 + rd.toNat * 2097152 + ra.toNat * 65536 + imm.toNat
  | .slti rd ra imm => 402653184 + rd.toNat * 2097152 + ra.toNat * 65536 + imm.toNat
  | .movi rd imm => 469762048 + rd.toNat * 2097152 + imm.toNat
  | .bext rd ra pos wd => 536870912 + rd.toNat * 2097152 + ra.toNat * 65536 + pos.toNat * 1024 + wd.toNat * 16
  | .bins rd ra pos wd => 603979776 + rd.toNat * 2097152 + ra.toNat * 65536 + pos.toNat * 1024 + wd.toNat * 16
  | .movhi rd ra imm => 671088640 + rd.toNat * 2097152 + ra.toNat * 65536 + imm.toNat
  | .shli rd ra w32 amt => 738197504 + rd.toNat * 2097152 + ra.toNat * 65536 + w32.toNat * 8192 + amt.toNat
  | .shri rd ra w32 amt => 738197504 + 16384 + rd.toNat * 2097152 + ra.toNat * 65536 + w32.toNat * 8192 + amt.toNat
  | .sari rd ra w32 amt => 738197504 + 32768 + rd.toNat * 2097152 + ra.toNat * 65536 + w32.toNat * 8192 + amt.toNat
  | .fadd rd ra rb t rm => 805306368 + rd.toNat * 2097152 + ra.toNat * 65536 + rb.toNat * 2048 + t.toNat * 16 + rm.toNat * 4
  | .fsub rd ra rb t rm => 805306368 + 64 + rd.toNat * 2097152 + ra.toNat * 65536 + rb.toNat * 2048 + t.toNat * 16 + rm.toNat * 4
  | .fmul rd ra rb t rm => 805306368 + 128 + rd.toNat * 2097152 + ra.toNat * 65536 + rb.toNat * 2048 + t.toNat * 16 + rm.toNat * 4
  | .fma rd ra rb t rm => 805306368 + 192 + rd.toNat * 2097152 + ra.toNat * 65536 + rb.toNat * 2048 + t.toNat * 16 + rm.toNat * 4
  | .fms rd ra rb t rm => 805306368 + 256 + rd.toNat * 2097152 + ra.toNat * 65536 + rb.toNat * 2048 + t.toNat * 16 + rm.toNat * 4
  | .fnma rd ra rb t rm => 805306368 + 320 + rd.toNat * 2097152 + ra.toNat * 65536 + rb.toNat * 2048 + t.toNat * 16 + rm.toNat * 4
  | .fdiv rd ra rb t rm => 805306368 + 384 + rd.toNat * 2097152 + ra.toNat * 65536 + rb.toNat * 2048 + t.toNat * 16 + rm.toNat * 4
  | .fsqrt rd ra t rm => 805306368 + 448 + rd.toNat * 2097152 + ra.toNat * 65536 + t.toNat * 16 + rm.toNat * 4
  | .frcp rd ra t => 805306368 + 512 + rd.toNat * 2097152 + ra.toNat * 65536 + t.toNat * 16
  | .frsq rd ra t => 805306368 + 576 + rd.toNat * 2097152 + ra.toNat * 65536 + t.toNat * 16
  | .fmin rd ra rb t => 805306368 + 640 + rd.toNat * 2097152 + ra.toNat * 65536 + rb.toNat * 2048 + t.toNat * 16
  | .fmax rd ra rb t => 805306368 + 704 + rd.toNat * 2097152 + ra.toNat * 65536 + rb.toNat * 2048 + t.toNat * 16
  | .fabs rd ra t => 805306368 + 768 + rd.toNat * 2097152 + ra.toNat * 65536 + t.toNat * 16
  | .fneg rd ra t => 805306368 + 832 + rd.toNat * 2097152 + ra.toNat * 65536 + t.toNat * 16
  | .fcpsgn rd ra rb t => 805306368 + 896 + rd.toNat * 2097152 + ra.toNat * 65536 + rb.toNat * 2048 + t.toNat * 16
  | .fclass rd ra t => 805306368 + 960 + rd.toNat * 2097152 + ra.toNat * 65536 + t.toNat * 16
  | .feq rd ra rb t => 805306368 + 1024 + rd.toNat * 2097152 + ra.toNat * 65536 + rb.toNat * 2048 + t.toNat * 16
  | .flt rd ra rb t => 805306368 + 1088 + rd.toNat * 2097152 + ra.toNat * 65536 + rb.toNat * 2048 + t.toNat * 16
  | .fle rd ra rb t => 805306368 + 1152 + rd.toNat * 2097152 + ra.toNat * 65536 + rb.toNat * 2048 + t.toNat * 16
  | .fcvt rd ra t rm ax => 805306368 + 1216 + rd.toNat * 2097152 + ra.toNat * 65536 + t.toNat * 16 + rm.toNat * 4 + ax.toNat
  | .fcvti rd ra t rm ax => 805306368 + 1280 + rd.toNat * 2097152 + ra.toNat * 65536 + t.toNat * 16 + rm.toNat * 4 + ax.toNat
  | .fcvtf rd ra t rm ax => 805306368 + 1344 + rd.toNat * 2097152 + ra.toNat * 65536 + t.toNat * 16 + rm.toNat * 4 + ax.toNat
  | .fexp rd ra t => 805306368 + 1408 + rd.toNat * 2097152 + ra.toNat * 65536 + t.toNat * 16
  | .fscl rd ra rb t rm => 805306368 + 1472 + rd.toNat * 2097152 + ra.toNat * 65536 + rb.toNat * 2048 + t.toNat * 16 + rm.toNat * 4
  | .vadd vd va vb ty => 1073741824 + vd.toNat * 4194304 + va.toNat * 262144 + vb.toNat * 16384 + ty.toNat * 1024
  | .vsub vd va vb ty => 1073741824 + 1 + vd.toNat * 4194304 + va.toNat * 262144 + vb.toNat * 16384 + ty.toNat * 1024
  | .vmul vd va vb ty => 1073741824 + 2 + vd.toNat * 4194304 + va.toNat * 262144 + vb.toNat * 16384 + ty.toNat * 1024
  | .vmulh vd va vb ty => 1073741824 + 3 + vd.toNat * 4194304 + va.toNat * 262144 + vb.toNat * 16384 + ty.toNat * 1024
  | .vfma vd va vb ty => 1073741824 + 4 + vd.toNat * 4194304 + va.toNat * 262144 + vb.toNat * 16384 + ty.toNat * 1024
  | .vfms vd va vb ty => 1073741824 + 5 + vd.toNat * 4194304 + va.toNat * 262144 + vb.toNat * 16384 + ty.toNat * 1024
  | .vmin vd va vb ty => 1073741824 + 6 + vd.toNat * 4194304 + va.toNat * 262144 + vb.toNat * 16384 + ty.toNat * 1024
  | .vmax vd va vb ty => 1073741824 + 7 + vd.toNat * 4194304 + va.toNat * 262144 + vb.toNat * 16384 + ty.toNat * 1024
  | .vabs vd va ty => 1073741824 + 8 + vd.toNat * 4194304 + va.toNat * 262144 + ty.toNat * 1024
  | .vneg vd va ty => 1073741824 + 9 + vd.toNat * 4194304 + va.toNat * 262144 + ty.toNat * 1024
  | .vand vd va vb ty => 1073741824 + 10 + vd.toNat * 4194304 + va.toNat * 262144 + vb.toNat * 16384 + ty.toNat * 1024
  | .vor vd va vb ty => 1073741824 + 11 + vd.toNat * 4194304 + va.toNat * 262144 + vb.toNat * 16384 + ty.toNat * 1024
  | .vxor vd va vb ty => 1073741824 + 12 + vd.toNat * 4194304 + va.toNat * 262144 + vb.toNat * 16384 + ty.toNat * 1024
  | .vandn vd va vb ty => 1073741824 + 13 + vd.toNat * 4194304 + va.toNat * 262144 + vb.toNat * 16384 + ty.toNat * 1024
  | .vshl vd va vb ty => 1073741824 + 14 + vd.toNat * 4194304 + va.toNat * 262144 + vb.toNat * 16384 + ty.toNat * 1024
  | .vshr vd va vb ty => 1073741824 + 15 + vd.toNat * 4194304 + va.toNat * 262144 + vb.toNat * 16384 + ty.toNat * 1024
  | .vsar vd va vb ty => 1073741824 + 16 + vd.toNat * 4194304 + va.toNat * 262144 + vb.toNat * 16384 + ty.toNat * 1024
  | .vcmp vd va vb ty cc => 1073741824 + 17 + vd.toNat * 4194304 + va.toNat * 262144 + vb.toNat * 16384 + ty.toNat * 1024 + cc.toNat * 64
  | .vsel vd va vb ty vm => 1073741824 + 18 + vd.toNat * 4194304 + va.toNat * 262144 + vb.toNat * 16384 + ty.toNat * 1024 + vm.toNat * 64
  | .vmand vd va vb ty => 1073741824 + 19 + vd.toNat * 4194304 + va.toNat * 262144 + vb.toNat * 16384 + ty.toNat * 1024
  | .vmor vd va vb ty => 1073741824 + 20 + vd.toNat * 4194304 + va.toNat * 262144 + vb.toNat * 16384 + ty.toNat * 1024
  | .vmnot vd va ty => 1073741824 + 21 + vd.toNat * 4194304 + va.toNat * 262144 + ty.toNat * 1024
  | .vcvt vd va ty src => 1073741824 + 22 + vd.toNat * 4194304 + va.toNat * 262144 + ty.toNat * 1024 + src.toNat * 64
  | .vperm vd va vb ty => 1073741824 + 23 + vd.toNat * 4194304 + va.toNat * 262144 + vb.toNat * 16384 + ty.toNat * 1024
  | .vrot vd va vb ty => 1073741824 + 24 + vd.toNat * 4194304 + va.toNat * 262144 + vb.toNat * 16384 + ty.toNat * 1024
  | .vsum vd va ty => 1073741824 + 25 + vd.toNat * 4194304 + va.toNat * 262144 + ty.toNat * 1024
  | .vmaxr vd va ty => 1073741824 + 26 + vd.toNat * 4194304 + va.toNat * 262144 + ty.toNat * 1024
  | .vminr vd va ty => 1073741824 + 27 + vd.toNat * 4194304 + va.toNat * 262144 + ty.toNat * 1024
  | .vdot vd va vb ty => 1073741824 + 28 + vd.toNat * 4194304 + va.toNat * 262144 + vb.toNat * 16384 + ty.toNat * 1024
  | .vlerp vd va vb ty => 1073741824 + 29 + vd.toNat * 4194304 + va.toNat * 262144 + vb.toNat * 16384 + ty.toNat * 1024
  | .vclamp vd va vb ty => 1073741824 + 30 + vd.toNat * 4194304 + va.toNat * 262144 + vb.toNat * 16384 + ty.toNat * 1024
  | .vrcp vd va ty => 1073741824 + 31 + vd.toNat * 4194304 + va.toNat * 262144 + ty.toNat * 1024
  | .vrsq vd va ty => 1073741824 + 32 + vd.toNat * 4194304 + va.toNat * 262144 + ty.toNat * 1024
  | .vexp2 vd va ty => 1073741824 + 33 + vd.toNat * 4194304 + va.toNat * 262144 + ty.toNat * 1024
  | .vlog2 vd va ty => 1073741824 + 34 + vd.toNat * 4194304 + va.toNat * 262144 + ty.toNat * 1024
  | .vsinpi vd va ty => 1073741824 + 35 + vd.toNat * 4194304 + va.toNat * 262144 + ty.toNat * 1024
  | .vcospi vd va ty => 1073741824 + 36 + vd.toNat * 4194304 + va.toNat * 262144 + ty.toNat * 1024
  | .vbcast vd gb ty => 1140850688 + vd.toNat * 4194304 + gb.toNat * 8192 + ty.toNat * 512
  | .vins vd gi gb ty => 1140850688 + 1 + vd.toNat * 4194304 + gi.toNat * 262144 + gb.toNat * 8192 + ty.toNat * 512
  | .vext vd gi gb ty => 1140850688 + 2 + vd.toNat * 4194304 + gi.toNat * 262144 + gb.toNat * 8192 + ty.toNat * 512
  | .vmpop gb va ty => 1140850688 + 3 + gb.toNat * 8192 + va.toNat * 262144 + ty.toNat * 512
  | .vscl vd va gb ty => 1140850688 + 4 + vd.toNat * 4194304 + va.toNat * 262144 + gb.toNat * 8192 + ty.toNat * 512
  | .vqe8 vd va gb ty => 1140850688 + 5 + vd.toNat * 4194304 + va.toNat * 262144 + gb.toNat * 8192 + ty.toNat * 512
  | .vde8 vd va gb ty => 1140850688 + 6 + vd.toNat * 4194304 + va.toNat * 262144 + gb.toNat * 8192 + ty.toNat * 512
  | .vfix vd va gb ty => 1140850688 + 7 + vd.toNat * 4194304 + va.toNat * 262144 + gb.toNat * 8192 + ty.toNat * 512
  | .vunfix vd va gb ty => 1140850688 + 8 + vd.toNat * 4194304 + va.toNat * 262144 + gb.toNat * 8192 + ty.toNat * 512
  | .vmaxe gb va ty => 1140850688 + 9 + gb.toNat * 8192 + va.toNat * 262144 + ty.toNat * 512
  | .vex vd va vb gd gs ty => 1207959552 + vd.toNat * 4194304 + va.toNat * 262144 + vb.toNat * 16384 + gd.toNat * 512 + gs.toNat * 16 + ty.toNat
  | .hintA v => 4026531840 + v.toNat
  | _ => 0

/-- The two words of a bundle (R249): L in bit 31 and S in bits 30-28 of word C; word A is X when L = 1. -/
def encodeWords (b : Bundle) : Nat × Nat :=
  (encodeC b.c + b.stall.toNat * 268435456 + b.lone.toNat * 2147483648,
   if b.lone then encodeX b.c else encodeA b.a)

/-- The n bytes of a value, lowest first (R3). -/
def leBytes : Nat → Nat → List Byte
  | 0, _ => []
  | n + 1, v => BitVec.ofNat 8 v :: leBytes n (v / 256)

/-- The 8 bytes of a bundle as the instruction store holds them (R248). -/
def encode (b : Bundle) : List Byte :=
  leBytes 4 (encodeWords b).1 ++ leBytes 4 (encodeWords b).2

/-- Is a slot a nop or a hint? -/
def Slot.isNop : Slot → Bool
  | .instr .nopC => true
  | .instr .nopA => true
  | .instr (.hintC _) => true
  | .instr (.hintA _) => true
  | _ => false

/-- Is a slot illegal? -/
def Slot.isBad : Slot → Bool
  | .bad _ => true
  | _ => false

/-- Which slot a 32-bit word of the opcode table stands for: true for word A. The table does not say it, and a word may be
an instruction of both slots. Word A is taken where the word C reading is no instruction, a nop or a hint, or carries a stall
count, and where it is a setsr that names no operand but a special register; word C is taken where the word A reading is
illegal (log entry 8). -/
noncomputable def tableSlotA (w : Nat) : Bool :=
  !(decodeA w).isBad && !(decodeA w).isNop &&
  ((decodeC w 0).isBad || (decodeC w 0).isNop || fld w 31 28 != 0 ||
   (fld w 27 22 == 16 && fld w 21 11 == 0 && fld w 10 0 != 0)) ||
  ((decodeC w 0).isBad || (decodeC w 0).isNop && 240 ≤ fld w 31 24) && (decodeA w).isNop

/-- The words C and A that hold an opcode-table word of nbits bits: a wider word is a whole bundle. -/
noncomputable def tableWords (nbits w : Nat) : Nat × Nat :=
  if 32 < nbits then (w % 4294967296, w / 4294967296 % 4294967296)
  else if tableSlotA w then (0, w % 4294967296) else (w % 4294967296, 0)

/-- The instruction the decoder reads from an opcode-table word, all bits above nbits zero. -/
noncomputable def decodeTableWord (nbits w : Nat) : Option Instr :=
  let cw := (tableWords nbits w).1
  let aw := (tableWords nbits w).2
  let f := decodeBytes (leBytes 4 cw ++ leBytes 4 aw)
  match (if nbits ≤ 32 && tableSlotA w then f.a else f.c) with
  | .instr i => some i
  | .bad _ => none

end Sys2Proof
end

