-- ==== Sys2Proof/Machine/State.lean ====
section
/-! DEFINITION. State: everything the spec gives the module, as plain data, with its value at reset.
The module's cores are one list: the core whose turn it is stands in front (`core`), the others follow (`rest`); a core that
holds no slice and has never been written need not be listed, and reads as `Core.fresh`. Stores that many units share (memory,
tags, tables, requests, packets) are held once for the module, keyed by address or unit. -/

namespace Sys2Proof.Machine

/-- Why the machine stops with a fault: no step of it does. Every fault of the spec is a trap, a fault record, a refusal or a discarded
packet, after which the machine goes on; a module that is halted after a supply fault still serves its management ports (R17). -/
inductive Fault where
  deriving DecidableEq, Repr

/-- Why an instruction is refused. -/
inductive Refusal where
  /-- Raised by an arm of `exec` whose meaning is not written. Safe: nothing is claimed of it. -/
  | notModelled (mnemonic : String)
  /-- Raised by an event of the opcode table that is named while what it is the completion or arrival of does not exist (no
  such operation, packet, command or armed entry, or not at that stage): the event does not occur then. Safe: `step` names an
  event only when it is due, and the outside world names only what happens. -/
  | notEnabled (mnemonic : String)
  deriving DecidableEq, Repr

/-! ## Tables and memory -/

/-- A table of w-bit entries by index, rising, without zero entries; an index that is not listed reads 0. -/
structure Tab (w : Nat) where
  cells : List (Nat × BitVec w)
  deriving DecidableEq, Repr

/-- The bytes of every store of the machine by key, rising, without zero bytes; a byte that is not listed reads 0 (R19).
The keys of the stores are in Machine/Ops.lean. -/
structure Mem where
  cells : List Host.Cell
  deriving DecidableEq, Repr

/-! ## Records that traps, operations and faults carry -/

/-- What a trap record holds beside the pcs: cause word, trap address, data words 0 and 1 (R111, R204). -/
structure Info where
  cause : Word
  addr : Word
  d0 : Word
  d1 : Word
  deriving DecidableEq, Repr

/-- What an operation carries of the bundle that issued it (R211): pc, next-pc, D, privilege, and whose it was. -/
structure Issuer where
  pc : Word
  npc : Word
  d : Bool
  prv : Bool
  core : CoreId
  slc : Fin 16
  ctx : Fin 11
  rgn : BitVec 12
  gang : BitVec 16
  /-- Which placement of the region it was: region ids are used again (R88, R183, R215). -/
  uid : Nat
  deriving DecidableEq, Repr

/-- A fault with the issuer's record (R211, R333). -/
structure FaultRec where
  info : Info
  iss : Issuer
  deriving DecidableEq, Repr

/-! ## Contexts -/

/-- A register result on its way (R160): which register takes which value. Flags and the E8 count are ORed or added. -/
inductive Result where
  | g (r : GReg) (v : Word)
  | v (r : VReg) (v : VWord)
  | fps (f : BitVec 6)
  | e8ov (n : Nat)
  deriving DecidableEq, Repr

/-- A pending result: landing distance, distance at issue, order among equals (R161), and the cycle in which a trap or stop
lands it (R207). A vector result may be written into its workspace words before its landing distance (R364): `was` is then what bundles at a
lower distance still read. -/
structure Pending where
  land : Nat
  issued : Nat
  seq : Nat
  cyc : Nat
  res : Result
  was : Option VWord
  deriving DecidableEq, Repr

/-- The repetition buffer of a context: the rept bundle's pc, n, c and k (R165). -/
structure Rep where
  base : Word
  n : Nat
  c : Nat
  k : Nat
  deriving DecidableEq, Repr

/-- The bounded waits (R295), in the order of the wait kinds of R204, and `wait`, which takes its count of cycles (R288). -/
inductive WaitKind where
  | cwait | qwait | hjoin | sbar | xend | mwait | plain
  deriving DecidableEq, Repr

/-- A bounded wait in progress: its kind, destination, operand (slot, mask or superstep number), limit and cycles counted, and for an `hjoin` the named
helpers that its latest poll has found live (R294). -/
structure Waiting where
  kind : WaitKind
  rd : GReg
  arg : Word
  limit : Word
  count : Nat
  seen : Nat
  stall : Nat
  /-- A cancel has been sent and its reply is awaited (R151). -/
  cancelled : Bool
  deriving DecidableEq, Repr

/-- A fence in progress (R200, R202): scope, sc, and for an sc fence the tick whose start ends it once earlier accesses are
complete. -/
structure Fence where
  scope : BitVec 3
  sc : Bool
  tick : Option Word
  stall : Nat
  deriving DecidableEq, Repr

/-- A global access of the stack window in progress: its operation, and the answer once it is there (R116). -/
structure Spill where
  op : Nat
  answer : Option Answer
  deriving DecidableEq, Repr

/-- The registers as a bundle that is held read them when it issued: general, vector and special ones, and the core cycle of its issue (R113, R177,
R281, R290). -/
structure Capture where
  g : Vector Word 32
  v : Vector VWord 16
  sr : Vector Word 22
  cyc : Nat
  deriving DecidableEq, Repr

/-- What a context does once its pending results have landed, each in its own cycle (R160, R207): a boundary takes effect, the context stops at
its entry, its trap is recorded and vectored, no earlier than in a cycle `due`, or a halt is recorded. -/
inductive Settle where
  | boundary | entry
  | trap (due : Nat) (i : Info) (prv : Bool) (pc npc : Word) (d : Bool)
  | halt (cause : Word) (addr : Option Word) (d0 : Word)
  deriving DecidableEq, Repr

/-- One context of a slice. Its general and vector registers are the words of its workspace at `wp` (R113). -/
structure Ctx where
  live : Bool
  /-- `s.wp` (R111, R261). -/
  wp : Word
  pc : Word
  /-- The next bundle is a delay bundle; `outc` is the transfer's outcome (R210). -/
  dly : Bool
  outc : Word
  /-- Outcome set by the transfer that the bundle being issued holds. -/
  xfer : Option Word
  prv : Bool
  fpc : BitVec 16
  fps : BitVec 6
  e8ov : BitVec 16
  /-- RPA, RPC and the repetition buffer (R112, R165); `repT` is the buffer of a trapped body. -/
  rpa : Bool
  rpc : BitVec 8
  rep : Rep
  repT : Rep
  /-- Region entry pc, live-in mask and bundles since the last boundary (R212, R213). -/
  entry : Word
  liveIn : BitVec 32
  count : Nat
  /-- The context has reached a boundary and issued nothing since (R214). -/
  atEntry : Bool
  /-- A boundary follows the bundle being issued (R212). -/
  bnd : Bool
  /-- Distance sum and bundles issued (R160). -/
  dist : Nat
  seq : Nat
  pend : List Pending
  /-- Core cycle from which it may issue again (R158), and that from which its last local access has performed (R188). -/
  ready : Nat
  locFree : Nat
  wait : Option Waiting
  fence : Option Fence
  /-- A bundle under the hold of R206: the cycle in which its C instruction performs. -/
  held : Option Nat
  /-- What the held bundle has read; it is held for the conditions of its own local release (R203). -/
  cap : Option Capture
  relHeld : Bool
  settle : Option Settle
  /-- The after trap the bundle being issued has raised (R207). -/
  after : Option Info
  /-- Told to stop at the next boundary (R214); stopped. -/
  stop : Bool
  stopped : Bool
  /-- Marked by a halt of its slice: it is recorded, with subcode 4, after its current bundle (R220, R304). -/
  haltMark : Bool
  /-- Stopped with a trap record that was not vectored (R84, R216, R220). -/
  unvec : Bool
  /-- Tick of the latest acknowledgement of a store to a page with MC = 0 (R193). -/
  mc0 : Option Word
  spill : Option Spill
  /-- The eight counters: EVT in bits 63-56, COUNT below (R223). -/
  ctr : Vector Word 8
  /-- Single-bundle stepping (R221). -/
  stepping : Bool
  deriving DecidableEq, Repr

/-! ## Slices -/

/-- The effective values of a region (R88, R89), as placement resolves them. -/
structure Eff where
  cls : BitVec 2
  disc : Bool
  acc : Bool
  dfp : BitVec 2
  bud : BitVec 32
  per : BitVec 16
  spkb : BitVec 9
  spill : BitVec 9
  vcc : BitVec 2
  hvc : BitVec 2
  code : Word
  clen : BitVec 14
  entry : BitVec 16
  iskb : BitVec 7
  rlen : BitVec 13
  mwt : BitVec 4
  /-- RCB that supplies the fault domain; none is the root queue (R389). -/
  fdom : Option Word
  fhmod : BitVec 12
  fhcore : BitVec 20
  fhslc : BitVec 4
  fqbase : Word
  fqlog : BitVec 4
  pasid : BitVec 20
  s2f : BitVec 40
  xlen : BitVec 8
  xgap : BitVec 8
  routes : Word
  nrt : BitVec 16
  ovp : Word
  /-- PASID and S2F under which the fault domain's queue is reached (R395). -/
  fpasid : BitVec 20
  fs2f : BitVec 40
  deriving DecidableEq, Repr

/-- The states of a slice-table entry (R96), codes 0 to 7. -/
inductive SliceSt where
  | free | held | ready | running | idle | suspended | stopped | leaving
  deriving DecidableEq, Repr

/-- The type of an accumulator bank (R172). -/
inductive BankTy where
  | f32 | i32
  deriving DecidableEq, Repr

/-- A superstep arrival at slice 0: slice index, superstep number, contribution, and the operation of the `sbar` that sent it (R105, R299). -/
structure Arrival where
  k : Nat
  num : Word
  v : Word
  op : BitVec 2
  deriving DecidableEq, Repr

/-- A go message received: superstep number, combined value, opening tick and tick of arrival (R299). -/
structure Go where
  num : Word
  v : Word
  w : Word
  tick : Word
  deriving DecidableEq, Repr

/-- One slice-table entry (R96) with the registers held beside it. -/
structure Slice where
  v : Bool
  st : SliceSt
  cls : BitVec 2
  disc : Bool
  acc : Bool
  rgn : BitVec 12
  uid : Nat
  gang : BitVec 16
  /-- The armed launch record it is held for (R61). -/
  arm : Option Nat
  dead : BitVec 48
  brem : BitVec 32
  bud : BitVec 32
  per : BitVec 16
  wp : BitVec 10
  pb : BitVec 7
  pkb : BitVec 9
  /-- Effective values of the region, its RCB address, the slice index in the region and the rectangle (R89, R95). -/
  eff : Eff
  rcb : Word
  k : Nat
  crows : BitVec 8
  ccols : BitVec 8
  /-- Core of slice 0 of the region, where superstep arrivals go (R105). -/
  lead : CoreId
  /-- Instruction-store partition base in 4 KiB units; the start message has been accepted (R117, R118). -/
  ib : BitVec 4
  started : Bool
  /-- `s.mode` CHK (R162), `s.trv` VEC (R208), `s.spl` SPL, `s.ovp` (R115), receive-queue registers (R325). -/
  chk : Bool
  trv : BitVec 13
  spl : BitVec 9
  ovp : Word
  rqBase : BitVec 16
  rqMax : BitVec 5
  rqSlots : BitVec 16
  rqHead : BitVec 32
  rqTail : BitVec 32
  /-- `s.engst` DONE and FLT of each channel, and the hidden counts; BUSY is count ≠ 0 (R176). -/
  done : BitVec 16
  flt : BitVec 16
  jobs : Vector Nat 16
  attached : Bool
  /-- Halted to krabex (R220). -/
  halted : Bool
  /-- Superstep number of the last arrival sent; go received; value for `vote`; opening tick of the open window (R299-R301). -/
  lastArr : Option Word
  go : Option Go
  vote : Word
  window : Option Word
  /-- An `sbar` of the slice has completed since its last completed `xend` (R301). -/
  opened : Bool
  /-- Arrivals collected by slice 0 of the region (R299). -/
  arrivals : List Arrival
  /-- Budget counting is on (R104). -/
  counting : Bool
  /-- Bank type, SAT, BC, recorded matrix fault (the queue is discarding while it is held) (R172, R333). -/
  bank : Option BankTy
  sat : Bool
  bc : Bool
  mflt : Option FaultRec
  /-- Tick of suspension (R84), cause of departure (R103). -/
  suspTick : Word
  why : BitVec 4
  ctxs : Vector Ctx 11
  deriving DecidableEq, Repr

/-! ## Cores -/

/-- A matrix command with its operands captured at issue (R170, R333-R340). -/
inductive MKind where
  | mma (pair : Fin 11) (ga gb gs : Word) (table : Bool) (k ba bb : Nat) (approx : Bool)
  | mldb (gs : Word) (go gl : Nat)
  | mzero
  | mdrain (gt : Word) (sd sq : BitVec 8) (tag : BitVec 16) (slot : Word) (ty act : BitVec 4) (e4n : Bool)
  deriving DecidableEq, Repr

/-- A command of the matrix queue: what, whose, and the issuer's record. -/
structure MCmd where
  what : MKind
  iss : Issuer
  /-- Core cycle in which it entered the queue. -/
  entered : Nat
  deriving DecidableEq, Repr

/-- A scheduled transfer waiting in the injector (R329). -/
structure XSend where
  src : Word
  depart : Nat
  n : Nat
  path : BitVec 8
  tag : BitVec 16
  dst : Word
  win : Word
  iss : Issuer
  deriving DecidableEq, Repr

/-- The parts of a slice switch (R99): contexts reaching their stopping points and the queue going quiet; bank drained; pointer change; bank
restored. -/
inductive SwPhase where
  | stopping | drain | pointer | restore
  deriving DecidableEq, Repr

/-- A switch in progress: outgoing and incoming slice, phase and cycles left in it. -/
structure Switch where
  out : Option (Fin 16)
  inc : Option (Fin 16)
  phase : SwPhase
  left : Nat
  deriving DecidableEq, Repr

/-- A cluster's matrix unit (R171): the cluster, the position it visits, the commands left to that visit, the core whose command is in
progress with the core cycle in which the command ends, and the scratchpad bytes of the command's operands as they stood when it began (R197). -/
structure MUnit where
  cluster : Nat
  pos : Nat
  left : Nat
  active : Option CoreId
  ends : Nat
  snap : Mem
  deriving DecidableEq, Repr

/-- One granule or element of a vector access that is still to be performed: its key, its place in the register in bytes, its bytes, and which of them
are selected (R188, R312, R314). -/
structure Piece where
  key : Nat
  off : Nat
  n : Nat
  mask : Nat
  deriving DecidableEq, Repr

/-- A vector access in its beats (R188, R311): whose, the register's order among its pending results for a load, the data of a store, the pieces still
to be performed in order, the core cycle of its last beat, the tag that a `vstt` writes after them, and the operation whose data an `xvst` collects. -/
structure Beats where
  slc : Fin 16
  ctx : Fin 11
  load : Bool
  seq : Nat
  data : VWord
  pieces : List Piece
  last : Nat
  tag : Option (Nat × BitVec 16)
  op : Option Nat
  deriving DecidableEq, Repr

/-- One core. -/
structure Core where
  id : CoreId
  slices : Vector Slice 16
  /-- Slice and context of the bundle being issued. -/
  cur : Fin 16
  curCtx : Fin 11
  /-- The bundle being issued: stall count, lone bit, beats of its C instruction, and whether it has been left (trapped). -/
  stall : Nat
  lone : Bool
  cBeats : Nat
  took : Bool
  /-- The running slice and the switch in progress (R97-R100); an event of R97 has occurred. -/
  running : Option (Fin 16)
  switch : Option Switch
  evaluate : Bool
  /-- Context that issued last (R158). -/
  lastCtx : Fin 11
  /-- Core cycles counted, `s.cyc` modulo 2^64 (R261); whether the present one has had its issue. -/
  cyc : Nat
  ran : Bool
  /-- Cycle in which the vector datapath is free (R164), and the vector access in its beats. -/
  vecFree : Nat
  beats : Option Beats
  /-- Matrix queue, its head first (R170), and slices that have left while commands of theirs were in it (R175, R298). -/
  mq : List MCmd
  gone : List Slice
  /-- B-share record, the departed slice whose bytes are being cleared and the cycle in which that ends (R169). -/
  share : Option (Fin 16)
  shareClr : Option (Fin 16 × Nat)
  /-- Scheduled injector (R329). -/
  inj : List XSend
  /-- Instruction breakpoints and data watchpoints (R218, R219). -/
  brk : Vector Word 4
  wpt : Vector Word 2
  trace : Bool
  deriving DecidableEq, Repr

/-! ## Requests, packets, jobs -/

/-- What a request does: access to memory, superstep arrival and go, message to send, cistern requests, kick of a pump. -/
inductive Req where
  | mem (a : Access)
  | tst (key stamp : Word) (recd : BitVec 2048) (pois : BitVec 32)
  | tadv (key h : Word)
  | tld (key t lim ga : Word) (block hold : Bool)
  | tlow (key t : Word)
  | arrival (num v : Word) (op : BitVec 2)
  | go (g : Go)
  /-- A message, and the path-table entry that it takes its route and destination from (R324, R35). -/
  | post (p : Packet) (px : Option (BitVec 8))
  | kick (pump : PumpId) (v : Word)
  deriving DecidableEq, Repr

/-- Where a request is: held for its release conditions, on the way, at its home (with the physical place, MC, RP and the station's slab that
translated), waiting in a cistern pool, answered, away at a unit outside the model, or lost on the way (R32). -/
inductive Stage where
  | held | flight
  | home (key : Nat) (mc rp : Bool) (ap : BitVec 2) (m : BitVec 12)
  /-- Its primary has performed it, as the `seq`-th of all events and in a pace tick; so many replicas are left (R131, R185). -/
  | replicas (key left seq tick : Nat)
  | queued
  | reply (a : Answer)
  /-- At another module, or at a host node. -/
  | away (host : Bool)
  | lost
  deriving DecidableEq, Repr

/-- Where a request of another module or a host node arrived, by whose id it is answered, and its tag (R30). -/
structure Origin where
  row : Nat
  col : Nat
  inp : Nat
  unit : BitVec 20
  tag : BitVec 10
  deriving DecidableEq, Repr

/-- An operation in progress. `kind` and `slot` are the completion slot's (R318); kind 0 names no slot. -/
structure Op where
  id : Nat
  kind : BitVec 8
  slot : Word
  /-- Local destination of `xvld` and the record address of `tld`. -/
  dst : Word
  ord : BitVec 2
  scope : BitVec 3
  /-- Issued at user privilege needs no mark here: `iss.prv`. The requester's stamps are `iss` (R44). -/
  iss : Issuer
  /-- Module of the requester, and H = 1 for a host node. -/
  smod : BitVec 12
  host : Bool
  req : Req
  stage : Stage
  /-- Time from which its next event is due. -/
  due : Nat
  /-- Came from another module or a host node: its answer goes back there. -/
  foreign : Bool
  origin : Option Origin
  /-- Went to a page with MC = 0 as a store; tick of the latest acknowledgement of such a store that comes before it in program order (R193). -/
  mc0 : Bool
  after : Option Word
  /-- A cancel follows it (R151). -/
  cancel : Option Nat
  /-- The pump whose job made the request (R181). -/
  pump : Option PumpId
  deriving DecidableEq, Repr

/-- The use of a router's output by a scheduled packet: output 0-3 to a neighbour, 4 core, 5 unit, 6 port, 8 the core's injection; the input it
came from, and the first and last fabric cycle of its flits (R37, R38). -/
structure Hop where
  row : Nat
  col : Nat
  out : Nat
  inp : Nat
  first : Nat
  last : Nat
  deriving DecidableEq, Repr

/-- A buffer of a router that holds flits of an open-plane packet whose head has gone on by an output: how many (R40). -/
structure Seat where
  row : Nat
  col : Nat
  inp : Nat
  out : Nat
  n : Nat
  deriving DecidableEq, Repr

/-- A packet in the fabric: where it is, the side on which it arrived, and the time its head may move. -/
structure Flight where
  id : Nat
  pkt : Packet
  row : Nat
  col : Nat
  inp : Nat
  due : Nat
  /-- It has reached its terminal port: 4 core, 5 unit, 6 the link of an off-module port. -/
  arrived : Option Nat
  /-- On the open plane: flits of it in the buffer where its head is (or taken at its terminal), flits in the buffers behind it, nearest first, and
  flits that have not yet entered the fabric; and for a copy of a multicast packet, the packet that its flits come from (R40, R41, R43). -/
  here : Nat
  worm : List Seat
  unsent : Nat
  trunk : Option Nat
  /-- OUT field latched where the copy is replicated; the output that a copy has still to leave its router by (R43). -/
  latched : Option (BitVec 8)
  only : Option Nat
  rq : Option Ask
  /-- Window close time after which a scheduled delivery leaves its tag unwritten (R48). -/
  closes : Option Nat
  /-- A resent flit has made it late, and the flits that are to come later by a cycle of the plane each time (R48); payload flits written so far (R199). -/
  late : Bool
  slips : List Nat
  got : Nat
  /-- The issuing bundle of a `post`, for the record of a refusal (R46, R102, R211), and its operation, which ends when the message is there. -/
  iss : Option Issuer
  src : Option Nat
  track : List Hop
  deriving DecidableEq, Repr

/-- A pump job: the kick's issuer, descriptor offset, channel, the descriptor once read, bytes, elements or keys done, the request in progress that the
job waits for and its answer, the outcome once run, and whether bytes 8-15 of the mailbox have been stored. -/
structure Job where
  iss : Issuer
  off : Word
  chan : BitVec 4
  desc : Option (BitVec 512)
  count : Nat
  asked : Option Nat
  ans : Option Answer
  outcome : Option Info
  half : Bool
  due : Nat
  deriving DecidableEq, Repr

/-- A pump with its queue, the job in progress first, and the tick of its latest store to a page with MC = 0 (R179, R193). -/
structure Pump where
  id : PumpId
  queue : List Job
  mc0 : Option Word
  deriving DecidableEq, Repr

/-! ## The cistern -/

/-- A sample slot: stamp, record, horizon and horizon point; whether it is the key's first sample ever (R147). -/
structure Sample where
  t : Word
  recd : BitVec 2048
  h : Word
  hp : BitVec 2048
  first : Bool
  deriving DecidableEq, Repr

/-- A key that has received a request: samples oldest first, latest stamp, horizon, bound writer (R139, R140). -/
structure Key where
  idx : Nat
  samples : List Sample
  l : Word
  h : Word
  writer : Option (CoreId × Fin 16)
  deriving DecidableEq, Repr

/-- A reader registered on a pool (R152). -/
structure Reader where
  m : BitVec 12
  core : CoreId
  slc : Fin 16
  t : Word
  deriving DecidableEq, Repr

/-- A configured pool (R137-R139). -/
structure Pool where
  rgn : BitVec 12
  num : BitVec 4
  n : Nat
  d : Nat
  lossy : Bool
  nst : Nat
  nkey : Nat
  slab : BitVec 6
  frames : List (BitVec 40)
  keys : List Key
  readers : List Reader
  /-- Waiting requests by operation, oldest first (R150, R153). -/
  waiting : List Nat
  deriving DecidableEq, Repr

/-! ## Regions, portals, the Starter -/

/-- A placed region: id, RCB, parent, whether it has a rectangle, effective values, and how many frames, keys and slices it may use (R90, R91). -/
structure Region where
  id : BitVec 12
  /-- Which placement it is: ids are used again. -/
  uid : Nat
  rcb : Word
  parent : BitVec 12
  rect : Bool
  slab : BitVec 6
  eff : Eff
  subc : Nat
  ckeys : Nat
  hbmpg : Nat
  doneBox : Word
  /-- The host node of the portal whose command placed it, where its mailbox in host memory lies (R78). -/
  hnode : Option (BitVec 12)
  /-- A KILL has named it (R103). -/
  killed : Bool
  why : BitVec 4
  /-- Slices placed and slices left of its own. -/
  placed : Nat
  deriving DecidableEq, Repr

/-- A region that is done: its block, the id it had, and where its late faults go (R103, R215). -/
structure PastRegion where
  rcb : Word
  id : BitVec 12
  uid : Nat
  slab : BitVec 6
  eff : Eff
  deriving DecidableEq, Repr

/-- The root's fault queue, which firmware holds (R389). -/
structure RootQueue where
  recs : List (BitVec 512)
  head : Nat
  lost : Nat
  deriving DecidableEq, Repr

/-- A host command between its fetch and its completion record (R77-R85). -/
structure Cmd where
  p : BitVec 6
  n : BitVec 32
  /-- Its place in the order in which commands reach the slab controllers (R83, R92). -/
  seq : Nat
  bytes : BitVec 512
  result : Option (BitVec 8 × BitVec 8 × Word × Word)
  /-- Removed slices a KILL still waits for: core and slice-table index. -/
  waits : List (CoreId × Fin 16)
  /-- Core, first and last core-space offset of their partitions (R66). -/
  parts : List (CoreId × Nat × Nat)
  /-- COPY: bytes done, lowest faulting offset, faulted chunks, status of the first fault. A KILL of a gang that has begun has `pos` 1. -/
  pos : Nat
  low : Option Nat
  bad : Nat
  badSt : BitVec 8
  due : Nat
  deriving DecidableEq, Repr

/-- A Starter notice received for an entry: module, acted or straggled (R68). -/
structure Report where
  m : BitVec 12
  acted : Bool
  deriving DecidableEq, Repr

/-- An armed entry of the Starter (R60-R70). -/
structure Armed where
  id : Nat
  /-- The place in that order of the ARM that armed it. -/
  seq : Nat
  recd : BitVec 512
  portal : BitVec 6
  k : Word
  attempt : Nat
  /-- Placement of a launch record's subtree has been tried, and has succeeded. -/
  tried : Bool
  ready : Bool
  acted : Bool
  straggled : Bool
  undone : Bool
  /-- Ticks by which its action tick had been deferred when the attempt ended (R62). -/
  moved : Nat
  /-- Undo received: the tick it takes effect. -/
  undoAt : Option Word
  reports : List Report
  collecting : Bool
  final : Option Word
  /-- Time at which placement of a launch record is tried (R61, R391). -/
  due : Nat
  deriving DecidableEq, Repr

/-- Port states of the Starter's PTP clock (R51). -/
inductive PtpState where
  | initializing | listening | uncalibrated | slave | passive | faulty | disabled
  deriving DecidableEq, Repr

/-- A Pdelay_Resp sent on a management port (R51): port, sequence number, receipt and departure times, whether it is one-step. -/
structure PdelayResp where
  port : Bool
  seq : BitVec 16
  t2 : Nat
  t3 : Nat
  oneStep : Bool
  deriving DecidableEq, Repr

/-- The Starter (R51-R73). -/
structure Starter where
  clk : BitVec 2
  port : BitVec 2
  ofs : BitVec 32
  good : Nat
  /-- The port that is not active has had its receipt timeout; the active port has been switched to and has given no offset yet (R52). -/
  expired : Bool
  first : Bool
  state : PtpState
  master : Option Nat
  /-- Trim in units of 1e-9 of the frequency, and the time at which it last changed (R56). -/
  trim : Int
  trimAt : Nat
  armed : List Armed
  /-- Answers sent, latest first. -/
  answers : List PdelayResp
  deriving DecidableEq, Repr

/-- The power control of the management controller (R13-R17): the standing step, the last target taken on the whole module; CEIL, EXC, CAP;
the target still to be taken, and the time at which the present one was set; whether it is taken at the next tick because it has waited 80 µs
(`forced`) or because of a supply fault (`override`); tripped slabs; the step each slab has taken (`base`) and the one it runs at (`steps`);
whether a halt has been reported on the management ports. -/
structure Power where
  standing : BitVec 6
  ceil : BitVec 6
  exc : BitVec 8
  cap : BitVec 16
  target : Option (BitVec 6)
  since : Nat
  forced : Bool
  override : Bool
  tripped : BitVec 40
  base : Vector (BitVec 6) 40
  steps : Vector (BitVec 6) 40
  supply : Bool
  halted : Bool
  reported : Bool
  deriving DecidableEq, Repr

/-- A translation a station holds: whose, the page, and what the walk found (R129). -/
structure CachedTr where
  slab : BitVec 6
  station : BitVec 4
  pasid : BitVec 20
  s2f : BitVec 40
  rgn : BitVec 12
  /-- 64 KiB page of virtual addresses, the physical address of its first byte, and which leaves map 1 GiB pages. -/
  page : Nat
  phys : Nat
  big1 : Bool
  big2 : Bool
  leaf1 : Nat
  leaf2 : Nat
  bits1 : Word
  bits2 : Word
  deriving DecidableEq, Repr

/-- A read copy of a 64-byte line that a station holds (R190). -/
structure LineCopy where
  slab : BitVec 6
  station : BitVec 4
  line : Nat
  data : BitVec 512
  deriving DecidableEq, Repr

/-- The fabric's tables and the packets in it. -/
structure Fabric where
  path : Tab 192
  group : Tab 8
  /-- Access tables: entries of the cores and units whose table has been written since power-up (`coreSet`, `unitSet`); any other holds what
  firmware loads at power-up, `base` for cores and slab controllers, `unitBase` for stations and pumps (R45, R393). -/
  coreAcc : Tab 64
  coreSet : Tab 1
  unitAcc : Tab 64
  unitSet : Tab 1
  base : List (BitVec 64)
  unitBase : List (BitVec 64)
  present : Tab 1
  classes : Tab 6
  /-- Packets in the fabric, in the order in which they came to where they are. -/
  flights : List Flight
  /-- Latency Lp of a trained off-module port, plus 1; 0 untrained (R37). -/
  lp : Tab 32
  /-- Free flit slots of the router beyond an off-module port, by twice the port plus 1 for the response channel (R40). -/
  credits : Tab 16
  /-- Ports configured for host nodes: the node plus 1 (R44). -/
  hostPort : Tab 13
  /-- The input last granted an output on a channel, plus 1 (R41), and the outputs that have carried an open flit in the present cycle. -/
  grants : Tab 4
  used : List (Nat × Nat × Nat)
  /-- Entries of path and group tables written in the present cycle: they take effect from the next (R36, R43). -/
  pathNew : List (Nat × BitVec 192)
  groupNew : List (Nat × BitVec 8)
  deriving DecidableEq, Repr

/-- The whole machine. -/
structure State where
  /-- The core whose turn it is, the other cores, and how many still have their turn in this fabric cycle. -/
  core : Core
  rest : List Core
  todo : Nat
  /-- Bytes, poison (a granule by its first byte's key, rising), and sequence tags by core and tile (R119, R134). -/
  mem : Mem
  pois : List Nat
  tags : Tab 16
  /-- Fabric cycles since power-up, fabric cycle within the tick (R394), and whether the tick's own work is done (R392). -/
  time : Nat
  fcyc : Nat
  tickDone : Bool
  pace : Word
  /-- The model's own: draws of free values so far, and the next identity of an operation or packet. -/
  draws : Nat
  nextId : Nat
  /-- Events that are to happen next, in order: those of the outside world and those a tick brings. -/
  queue : List Instr
  /-- Packets that have left for units outside the model, latest first. -/
  sent : List Packet
  /-- Module configuration and service (R18-R24). -/
  modId : BitVec 12
  config : ConfigBlock
  valid : Bool
  /-- The key pair of the identity circuit since the last power-up (R18). -/
  deviceKey : Nat
  fullService : Bool
  /-- The present tick is the hush tick of the entry into full service; slabs whose FP8, E8 and ternary paths are calibrated (R24). -/
  hush : Bool
  calibrated : BitVec 40
  joined : BitVec 40
  failed : BitVec 40
  isolated : Bool
  power : Power
  starter : Starter
  fab : Fabric
  ops : List Op
  pumps : List Pump
  munits : List MUnit
  pools : List Pool
  regions : List Region
  past : List PastRegion
  rootq : RootQueue
  /-- Portal descriptors and interrupt entries (R74, R86), commands in progress. -/
  portals : Tab 256
  irqs : Tab 128
  cmds : List Cmd
  /-- Portals revoked by a command whose own completion has been written: their COPYs translate no more (R82). -/
  revoked : BitVec 64
  /-- PASID directory base frame, cached translations, read copies, redirections and retired stacks (R124, R129, R133, R190). -/
  pasidBase : BitVec 40
  /-- By HBM frame: the subtree in which it was last mapped, by the placement of the topmost region that used its tables, plus 1, or all ones where it was
  cistern storage (R122; log entry 81). -/
  frames : Tab 64
  tlb : List CachedTr
  copies : List LineCopy
  redirect : List (BitVec 40 × BitVec 40 × Bool)
  retired : BitVec 40
  /-- Corrected errors in each HBM stack (R26). -/
  stackErrs : Tab 64
  /-- Slab counters by 11 slab + index (R224) and the trace rings, latest first, by slab (R222). -/
  counters : Tab 64
  traces : List (BitVec 6 × BitVec 128)
  deriving DecidableEq, Repr

/-! ## Reset -/

/-- Nothing listed. -/
def Tab.empty {w : Nat} : Tab w := { cells := [] }

/-- Effective values of an entry that is not in use (log entry 6). -/
def Eff.zero : Eff :=
  { cls := 0, disc := false, acc := false, dfp := 0, bud := 0, per := 0, spkb := 0, spill := 0, vcc := 0, hvc := 0,
    code := 0, clen := 0, entry := 0, iskb := 0, rlen := 0, mwt := 0, fdom := none, fhmod := 0, fhcore := 0, fhslc := 0,
    fqbase := 0, fqlog := 0, pasid := 0, s2f := 0, xlen := 0, xgap := 0, routes := 0, nrt := 0, ovp := 0, fpasid := 0,
    fs2f := 0 }

/-- A context that is not live; every register of it zero (R19, R95; log entry 6). -/
def Ctx.fresh : Ctx :=
  { live := false, wp := 0, pc := 0, dly := false, outc := 0, xfer := none, prv := false, fpc := 0, fps := 0, e8ov := 0,
    rpa := false, rpc := 0, rep := ⟨0, 0, 0, 0⟩, repT := ⟨0, 0, 0, 0⟩, entry := 0, liveIn := 0, count := 0, atEntry := true, bnd := false,
    dist := 0, seq := 0, pend := [], ready := 0, locFree := 0, wait := none, fence := none, held := none, cap := none, relHeld := false, settle := none, after := none,
    stop := false, stopped := false, haltMark := false, unvec := false, mc0 := none, spill := none, ctr := Vector.replicate 8 0,
    stepping := false }

/-- A free slice-table entry: V and ST zero as R96 gives, the dashed fields zero (log entry 6). -/
def Slice.fresh : Slice :=
  { v := false, st := .free, cls := 0, disc := false, acc := false, rgn := 0, uid := 0, gang := 0, arm := none, dead := 0, brem := 0, bud := 0,
    per := 0, wp := 0, pb := 0, pkb := 0, eff := Eff.zero, rcb := 0, k := 0, crows := 0, ccols := 0, lead := 0, ib := 0,
    started := false, chk := false, trv := 0, spl := 0, ovp := 0, rqBase := 0, rqMax := 0, rqSlots := 0, rqHead := 0,
    rqTail := 0, done := 0, flt := 0, jobs := Vector.replicate 16 0, attached := false, halted := false, lastArr := none,
    go := none, vote := 0, window := none, opened := false, arrivals := [], counting := false, bank := none,
    sat := false, bc := false, mflt := none, suspTick := 0, why := 0, ctxs := Vector.replicate 11 Ctx.fresh }

/-- A core without slices. -/
def Core.fresh (id : CoreId) : Core :=
  { id := id, slices := Vector.replicate 16 Slice.fresh, cur := 0, curCtx := 0, stall := 0, lone := false, cBeats := 0,
    took := false, running := none, switch := none, evaluate := false, lastCtx := 10, cyc := 0, ran := false, vecFree := 0, beats := none, mq := [],
    gone := [], share := none, shareClr := none, inj := [], brk := Vector.replicate 4 0, wpt := Vector.replicate 2 0,
    trace := false }

/-- No block has been read: every field zero, system pace 4 (R57). -/
def blankConfig : ConfigBlock :=
  { signed := false, ownerKey := 0, fwVersion := 0, cfgVersion := 0, digest := false, modId := 0, refMod := 0, epochSec := 0, epochNs := 0, mPace := 3, ptpDomain := 0,
    oneStep := false, portal0 := 0, irq0 := 0, errMax := 0, policy := [] }

/-- The machine after power-up self-test and before POWER_UP has read the configuration block: stores zero and good, tags 0
(R19), warm-up service with no slab joined (R21, R23), power word 16, 32, 0, 0, 450 (R13), Starter acquiring without a port
(R53), portal 0 enabled and owner (R74), tables refusing (R46). What the spec gives no value is zero or empty (log entry 6). -/
def State.reset : State :=
  { core := Core.fresh 0, rest := [], todo := 0, mem := { cells := [] }, pois := [], tags := Tab.empty, time := 0, fcyc := 0,
    tickDone := false, pace := 0, draws := 0, nextId := 0, queue := [], sent := [], modId := 0, config := blankConfig,
    valid := false, deviceKey := 0, fullService := false, hush := false, calibrated := 0, joined := 0, failed := 0, isolated := false,
    power := { standing := 16, ceil := 32, exc := 0, cap := 450, target := none, since := 0, forced := false, override := false,
               tripped := 0, base := Vector.replicate 40 16, steps := Vector.replicate 40 16, supply := false, halted := false, reported := false },
    starter := { clk := 3, port := 2, ofs := 0, good := 0, expired := false, first := false, state := .initializing, master := none,
                 trim := 0, trimAt := 0, armed := [], answers := [] },
    fab := { path := Tab.empty, group := Tab.empty, coreAcc := Tab.empty, coreSet := Tab.empty, unitAcc := Tab.empty,
             unitSet := Tab.empty, base := [], unitBase := [], present := Tab.empty,
             classes := Tab.empty, flights := [], lp := Tab.empty, credits := Tab.empty, hostPort := Tab.empty, grants := Tab.empty, used := [],
             pathNew := [], groupNew := [] },
    ops := [], pumps := [], munits := [], pools := [], regions := [], past := [], rootq := { recs := [], head := 0, lost := 0 },
    portals := { cells := [(0, BitVec.ofNat 256 (2 ^ 255 + 2 ^ 253))] }, irqs := Tab.empty, cmds := [], revoked := 0, pasidBase := 0, frames := Tab.empty,
    tlb := [], copies := [], redirect := [], retired := 0, stackErrs := Tab.empty, counters := Tab.empty, traces := [] }

end Sys2Proof.Machine
end

