-- ==== Sys2Proof/Machine/Mem.lean ====
section
/-! DEFINITION. Machine.Mem: tables, the byte memory, its keys, poison and tags, with their canonical forms. -/

namespace Sys2Proof.Machine

/-! ## Tables -/

/-- The entry of a table at an index. -/
def Tab.get {w : Nat} (t : Tab w) (k : Nat) : BitVec w := ((t.cells.find? (fun c => c.1 == k)).map (·.2)).getD 0
/-- A table with one entry written. -/
def Tab.set {w : Nat} (t : Tab w) (k : Nat) (v : BitVec w) : Tab w :=
  { cells := t.cells.filter (fun c => c.1 < k) ++ (if v = 0 then [] else [(k, v)]) ++ t.cells.filter (fun c => k < c.1) }
/-- A table's canonical form: indices rising, no zero entry. -/
def Tab.wf {w : Nat} (t : Tab w) : Bool :=
  decide (t.cells.Pairwise (fun a b => a.1 < b.1)) && t.cells.all (fun c => c.2 != 0)

/-! ## Bytes -/

/-- The byte at a key; one that is not listed reads 0 (R19; log entry 5). -/
def Mem.byte (m : Mem) (a : Nat) : Byte := ((m.cells.find? (fun c => c.1 == a)).map (·.2)).getD 0
/-- The cells that a list of bytes from a key up puts into memory: zero bytes are not listed. -/
def cellsOf : Nat → List Byte → List Host.Cell
  | _, [] => []
  | a, b :: bs => if b = 0 then cellsOf (a + 1) bs else (a, b) :: cellsOf (a + 1) bs
/-- Memory with bytes written from a key up. -/
def Mem.write (m : Mem) (a : Nat) (bs : List Byte) : Mem :=
  { cells := m.cells.filter (fun c => c.1 < a) ++ cellsOf a bs ++ m.cells.filter (fun c => a + bs.length ≤ c.1) }
/-- Memory's canonical form: keys rising, no zero byte. -/
def Mem.wf (m : Mem) : Bool :=
  decide (m.cells.Pairwise (fun a b => a.1 < b.1)) && m.cells.all (fun c => c.2 != 0)
/-- The n bytes from a key up. -/
def Mem.bytes (m : Mem) : Nat → Nat → List Byte
  | _, 0 => []
  | a, n + 1 => m.byte a :: m.bytes (a + 1) n
/-- The little-endian value of the n bytes from a key up (R3). -/
def Mem.rd (m : Mem) (a n : Nat) : Nat := leNat (m.bytes a n)

/-! ## Keys of the stores -/

/-- A byte of a core's scratchpad (offset below 0x6_0000), instruction store (from 0x6_0000) or injection entries (from 0x7_0000). -/
def coreKey (co : CoreId) (off : Nat) : Nat := 4611686018427387904 + co.toNat * 1073741824 + off
/-- A byte of a module's HBM by physical address (R121). -/
def hbmKey (m : BitVec 12) (phys : Nat) : Nat := 2 ^ 80 + m.toNat * 2 ^ 56 + phys
/-- A byte of a host node's memory (R121). -/
def hostKey (node : BitVec 12) (phys : Nat) : Nat := 2 ^ 96 + node.toNat * 2 ^ 56 + phys
/-- Byte b of column c of a core's B share (R169). -/
def shareKey (co : CoreId) (c b : Nat) : Nat := 2 ^ 112 + co.toNat * 32768 + c * 1024 + b
/-- The first byte of element (i, j) of a core's accumulator bank (R172). -/
def bankKey (co : CoreId) (i j : Nat) : Nat := 2 ^ 113 + co.toNat * 4096 + 4 * (32 * i + j)
/-- A byte of a pump's scratchpad (below 0x2_0000) or instruction store (from 0x2_0000) (R178). -/
def pumpKey (u : PumpId) (off : Nat) : Nat := 2 ^ 114 + u.toNat * 262144 + off

/-! ## Poison (R134, R135) -/

/-- Is the granule with this first key poisoned? -/
def poisoned (p : List Nat) (g : Nat) : Bool := p.contains g
/-- The set with a granule added, in order. -/
def poisonAdd (p : List Nat) (g : Nat) : List Nat := p.filter (· < g) ++ [g] ++ p.filter (g < ·)
/-- The canonical form: rising. -/
def poisonWf (p : List Nat) : Bool := decide (p.Pairwise (· < ·))
/-- The first keys of the granules that n bytes from a touch. -/
def granules (a n : Nat) : List Nat :=
  if n = 0 then [] else (List.range ((a + n - 1) / 8 - a / 8 + 1)).map (fun i => 8 * (a / 8 + i))
/-- The first poisoned granule that n bytes from a touch. -/
def firstPoison (p : List Nat) (a n : Nat) : Option Nat := (granules a n).find? (poisoned p)
/-- Poison of the granules that n bytes from a touch, bit i for the i-th. -/
def poisonBits (p : List Nat) (a n : Nat) : Nat :=
  (granules a n).foldr (fun g acc => 2 * acc + (if poisoned p g then 1 else 0)) 0
/-- The set after good data is written to n bytes from a: whole granules become good (R135). -/
def poisonClear (p : List Nat) (a n : Nat) : List Nat := p.filter (fun g => !(decide (a ≤ g) && decide (g + 8 ≤ a + n)))
/-- Poison granule i of those from a, for each set bit i. -/
def poisonMark (a : Nat) (bits : Nat) : List Nat → List Nat → List Nat
  | [], p => p
  | g :: gs, p => poisonMark a bits gs (if bits.testBit (g / 8 - a / 8) then poisonAdd p g else p)

/-- Memory and poison after n bytes of a value are written at a key with poison bit i on the i-th granule touched (R135). -/
def State.put (s : State) (a n v : Nat) (bad : Nat) : State :=
  { s with mem := s.mem.write a (leBytes n v), pois := poisonMark a bad (granules a n) (poisonClear s.pois a n) }
/-- Good data. -/
def State.putGood (s : State) (a n v : Nat) : State :=
  { s with mem := s.mem.write a (leBytes n v), pois := poisonClear s.pois a n }
/-- The n bytes at a key, as a value. -/
def State.peek (s : State) (a n : Nat) : Nat := s.mem.rd a n
/-- The 64-bit word at a key. -/
def State.word (s : State) (a : Nat) : Word := BitVec.ofNat 64 (s.mem.rd a 8)

/-! ## Sequence tags (R119) -/

/-- The tag of the tile of a core that holds a scratchpad offset. -/
def State.tag (s : State) (co : CoreId) (off : Nat) : BitVec 16 := s.tags.get (co.toNat * 1024 + off / 512)
/-- Write the tag of one tile. -/
def State.setTag (s : State) (co : CoreId) (off : Nat) (t : BitVec 16) : State :=
  { s with tags := s.tags.set (co.toNat * 1024 + off / 512) t }
/-- Write the tags of every tile that n bytes from an offset touch. -/
def State.setTags (s : State) (co : CoreId) (off n : Nat) (t : BitVec 16) : State :=
  (List.range (if n = 0 then 0 else (off + n - 1) / 512 - off / 512 + 1)).foldl (fun s i => s.setTag co (off + 512 * i) t) s

/-- The canonical form of all stores: memory, poison and tags. -/
def State.memWf (s : State) : Bool := s.mem.wf && poisonWf s.pois && s.tags.wf

/-! ## Slab counters (R224) -/

/-- Add one to a slab counter, saturating. -/
def State.bump (s : State) (slab idx : Nat) : State :=
  let k := 11 * slab + idx
  let c := s.counters.get k
  { s with counters := s.counters.set k (if c = BitVec.allOnes 64 then c else c + 1) }
/-- The slab of a core. -/
def slabOf (co : CoreId) : Nat := co.toNat / 16384

/-! ## Free values -/

/-- Take the next draw number. -/
def State.draw (s : State) : State := { s with draws := s.draws + 1 }
/-- The time an event that starts now is due, by the next free latency (R391). -/
def State.dueTime (s : State) : Nat := s.time + 1 + Config.latency s.draws

/-! ## Cores -/

/-- The core with an id, wherever it stands in the list; one that is not listed is fresh. -/
def State.coreAt (s : State) (co : CoreId) : Core :=
  if s.core.id = co then s.core else (s.rest.find? (fun c => c.id == co)).getD (Core.fresh co)
/-- Put a core back where it stands, or at the end of the list. -/
def State.putCore (s : State) (c : Core) : State :=
  if s.core.id = c.id then { s with core := c }
  else if s.rest.any (fun d => d.id == c.id) then { s with rest := s.rest.map (fun d => if d.id == c.id then c else d) }
  else { s with rest := s.rest ++ [c] }
/-- Change one slice of a core. -/
def State.modSlice (s : State) (co : CoreId) (i : Fin 16) (f : Slice → Slice) : State :=
  let c := s.coreAt co
  s.putCore { c with slices := c.slices.set i (f c.slices[i]) }
/-- One slice of a core. -/
def State.sliceAt (s : State) (co : CoreId) (i : Fin 16) : Slice := (s.coreAt co).slices[i]
/-- Change one context of a slice. -/
def Slice.modCtx (x : Slice) (c : Fin 11) (f : Ctx → Ctx) : Slice := { x with ctxs := x.ctxs.set c (f x.ctxs[c]) }
/-- Change every context of a slice. -/
def Slice.mapCtx (x : Slice) (f : Ctx → Ctx) : Slice := { x with ctxs := x.ctxs.map f }
/-- Change every core. -/
def State.mapCores (s : State) (f : Core → Core) : State := { s with core := f s.core, rest := s.rest.map f }
/-- Every core listed. -/
def State.cores (s : State) : List Core := s.core :: s.rest

end Sys2Proof.Machine
end

