-- ==== Sys2Proof/Machine/Translate.lean ====
section
/-! DEFINITION. Machine.Translate: two-stage translation of global addresses (R121-R128, R136) and apertures (R130). -/

namespace Sys2Proof.Machine

/-- Is a frame of local or peer HBM within the limits of R121? -/
def frameOk (f : Nat) : Bool := decide (f / 67108864 = 0) && decide (f / 1048576 % 64 < 40) && decide (f % 1048576 ≤ 732420)

/-- What a walk found: both leaves' places and contents, which of them map 1 GiB pages, and the physical address. -/
structure Walked where
  leaf1 : Nat
  leaf2 : Nat
  bits1 : Word
  bits2 : Word
  phys : Nat
  big1 : Bool
  big2 : Bool
  deriving DecidableEq, Repr

/-- The end of a walk: translated, or a fault with its cause word. -/
inductive Walk (α : Type) where
  | ok (a : α)
  | bad (cause : Nat)
  deriving DecidableEq, Repr

/-- Go on with what a walk found. -/
def Walk.bind {α β : Type} (w : Walk α) (f : α → Walk β) : Walk β :=
  match w with
  | .ok a => f a
  | .bad c => .bad c

/-- The cause word of 0x08 or 0x09 (R127): stage, level, moving, access kind, and whether a table read of the walk failed at
which stage-1 level. -/
def walkCause (code stage level moving acc : Nat) (tbl : Option Nat) : Nat :=
  code + stage * 256 + level * 512 + moving * 2048 + acc * 4096 +
    (match tbl with
     | none => 0
     | some l => 32768 + l * 65536)

/-- The cause word of poison met in a table read (R136): stage, level and access kind as R127, bit 11 clear. -/
def walkPoison (stage level acc : Nat) : Nat := 11 + stage * 256 + level * 512 + acc * 4096

/-- A physical HBM address after n redirections of copied frames: a replacement may lie in a stack that has been retired since. -/
def redirectedBy (s : State) : Nat → Nat → Nat
  | 0, phys => phys
  | n + 1, phys =>
    match s.redirect.find? (fun r => r.1.toNat == phys / 65536 && r.2.2) with
    | some r => redirectedBy s n (r.2.1.toNat * 65536 + phys % 65536)
    | none => phys
/-- A physical HBM address after the redirections of retired stacks' copied frames (R133). -/
def redirected (s : State) (phys : Nat) : Nat := redirectedBy s s.redirect.length phys
/-- Where the byte with a key lies: a byte of this module's HBM in the replacement of its frame, once that has been copied; any other at its key
(R133). Every access to HBM, of programs, of the walks and of the slab controllers, goes through this. -/
def State.real (s : State) (k : Nat) : Nat :=
  if hbmKey s.modId 0 ≤ k ∧ k < hbmKey s.modId (2 ^ 56) then hbmKey s.modId (redirected s (k - hbmKey s.modId 0)) else k

/-- An entry of a page table at a key, checked for poison and for V. -/
def entryAt (s : State) (k stage level acc : Nat) (tbl : Option Nat) : Walk Nat :=
  if poisoned s.pois (s.real k) then .bad (walkPoison stage level acc)
  else let e := s.mem.rd (s.real k) 8
    if e % 2 = 0 then .bad (walkCause 8 stage level 0 acc tbl) else .ok e

/-- The frame an entry names (R126). -/
def entFrame (e : Nat) : Nat := fld e 63 24

/-- A stage-2 node entry: the node's frame must be a local HBM frame (R125). -/
def s2Entry (s : State) (frame idx level acc : Nat) (tbl : Option Nat) : Walk (Nat × Nat) :=
  if frameOk (frame + idx * 8 / 65536) then
    let k := hbmKey s.modId (frame * 65536 + 8 * idx)
    (entryAt s k 1 level acc tbl).bind (fun e => .ok (k, e))
  else .bad (walkCause 8 1 level 0 acc tbl)

/-- Stage 2: the leaf that maps an intermediate address, from the root frame (R125, R126): its key, its bits, and whether it is
a 1 GiB page. -/
def stage2 (s : State) (root ia acc : Nat) (tbl : Option Nat) : Walk (Nat × Nat × Bool) :=
  if root % 4 ≠ 0 ∨ 2 ^ 57 ≤ ia then .bad (walkCause 8 1 3 0 acc tbl) else
  (s2Entry s root (fld ia 56 42) 0 acc tbl).bind fun t =>
  if fld t.2 1 1 = 1 then .bad (walkCause 8 1 0 0 acc tbl) else
  (s2Entry s (entFrame t.2) (fld ia 41 30) 1 acc tbl).bind fun m =>
  if fld m.2 1 1 = 1 then
    (if entFrame m.2 % 16384 ≠ 0 then .bad (walkCause 8 1 1 0 acc tbl) else .ok (m.1, m.2, true))
  else if entFrame m.2 % 2 ≠ 0 then .bad (walkCause 8 1 1 0 acc tbl) else
  (s2Entry s (entFrame m.2) (fld ia 29 16) 2 acc tbl).bind fun l =>
  if fld l.2 1 1 = 0 then .bad (walkCause 8 1 2 0 acc tbl) else .ok (l.1, l.2, false)

/-- The physical address a stage-2 leaf gives an intermediate address. -/
def leafPhys (e ia : Nat) (big : Bool) : Nat := entFrame e * 65536 + (if big then fld ia 29 0 else fld ia 15 0)

/-- The cause word of a refusal 0x0A with its subcode (R390). -/
def refusalCause (sub : Nat) : Nat := 10 + sub * 256
/-- Is a destination module present, and no traffic to it forbidden in warm-up (R21-R23, R47)? -/
def State.reachable (s : State) (dmod : BitVec 12) : Bool :=
  s.fab.present.get dmod.toNat == 1 && (s.fullService || dmod == s.modId)
/-- Does a stage-2 leaf map peer HBM that is out of reach? -/
def peerOut (s : State) (e : Nat) : Bool := fld e 7 6 == 1 && !s.reachable (BitVec.ofNat 12 (fld e 23 12))
/-- The memory key of a physical address under a stage-2 leaf's aperture (R130); none where the frame does not exist. -/
def apKey (s : State) (e phys : Nat) : Option Nat :=
  match fld e 7 6 with
  | 0 => if frameOk (phys / 65536) then some (hbmKey s.modId phys) else none
  | 1 => if frameOk (phys / 65536) then some (hbmKey (BitVec.ofNat 12 (fld e 23 12)) phys) else none
  | 2 => some (hostKey (BitVec.ofNat 12 (fld e 23 12)) phys)
  | _ => none

/-- A read of a stage-1 node entry through stage 2, which needs a present leaf with RD (R127); in the HBM of a module that is absent, or that warm-up
keeps out of reach, it is refused like any other request to it (R23, R47). -/
def s1Entry (s : State) (root frame idx level acc : Nat) : Walk (Nat × Nat) :=
  let ia := frame * 65536 + 8 * idx
  (stage2 s root ia acc (some level)).bind fun l =>
  let lv := if l.2.2 then 1 else 2
  if fld l.2.1 7 6 = 3 then .bad (walkCause 8 1 lv 1 acc (some level))
  else if fld l.2.1 2 2 = 0 then .bad (walkCause 9 1 lv 0 acc (some level))
  else if peerOut s l.2.1 then .bad (refusalCause 4)
  else match apKey s l.2.1 (leafPhys l.2.1 ia l.2.2) with
    | none => .bad (walkCause 8 1 lv 0 acc (some level))
    | some k => (entryAt s k 0 level acc none).bind (fun e => .ok (k, e))

/-- Stage 1: the leaf that maps a virtual address under a PASID (R124, R125). -/
def stage1 (s : State) (pasid root va acc : Nat) : Walk (Nat × Nat × Bool) :=
  let dk := s.pasidBase.toNat * 65536 + 8 * pasid
  if !frameOk (dk / 65536) then .bad (walkCause 8 0 3 0 acc none) else
  (entryAt s (hbmKey s.modId dk) 0 3 acc none).bind fun d =>
  if entFrame d % 4 ≠ 0 then .bad (walkCause 8 0 3 0 acc none) else
  if 31744 ≤ fld va 56 42 then .bad (walkCause 8 0 0 0 acc none) else
  (s1Entry s root (entFrame d) (fld va 56 42) 0 acc).bind fun t =>
  if fld t.2 1 1 = 1 then .bad (walkCause 8 0 0 0 acc none) else
  (s1Entry s root (entFrame t.2) (fld va 41 30) 1 acc).bind fun m =>
  if fld m.2 1 1 = 1 then
    (if entFrame m.2 % 16384 ≠ 0 then .bad (walkCause 8 0 1 0 acc none) else .ok (m.1, m.2, true))
  else if entFrame m.2 % 2 ≠ 0 then .bad (walkCause 8 0 1 0 acc none) else
  (s1Entry s root (entFrame m.2) (fld va 29 16) 2 acc).bind fun l =>
  if fld l.2 1 1 = 0 then .bad (walkCause 8 0 2 0 acc none) else .ok (l.1, l.2, false)

/-- Permission bits an access kind needs in both leaves (R127): 0 load, 1 store, 2 atomic, 3 pump read, 4 pump write. -/
def needs (acc ap : Nat) : List Nat :=
  match acc with
  | 0 => [2]
  | 1 => [3]
  | 2 => if ap = 0 then [2, 3, 4] else [2, 3, 5]
  | 3 => [2]
  | _ => [3]

/-- Is a virtual address in the station window, at its offset 0 (R129)? -/
def inWindow (va : Nat) : Bool := decide (31744 ≤ fld va 56 42)
def atWindow (va : Nat) : Bool := va == 0x01F0000000000000
/-- A full walk with its permission checks (R123-R127, R129); a bit that the stage-2 leaf lacks is named before one of stage 1 (R387). -/
def walk (s : State) (pasid root va acc : Nat) : Walk Walked :=
  if atWindow va then .bad (walkCause 9 0 0 0 acc none)
  else if inWindow va then .bad (walkCause 8 0 0 0 acc none)
  else
  (stage1 s pasid root va acc).bind fun a =>
  let ia := entFrame a.2.1 * 65536 + (if a.2.2 then fld va 29 0 else fld va 15 0)
  (stage2 s root ia acc none).bind fun b =>
  let lv1 := if a.2.2 then 1 else 2
  let lv2 := if b.2.2 then 1 else 2
  let ap := fld b.2.1 7 6
  let phys := leafPhys b.2.1 ia b.2.2
  if ap = 3 then .bad (walkCause 8 1 lv2 1 acc none)
  else if (apKey s b.2.1 phys).isNone then .bad (walkCause 8 1 lv2 0 acc none)
  else if !((needs acc ap).all (fun i => b.2.1.testBit i)) then .bad (walkCause 9 1 lv2 0 acc none)
  else if ap = 0 ∧ b.2.1.testBit 9 = true ∧ acc = 2 then .bad (walkCause 9 1 lv2 0 acc none)
  else if !((needs acc ap).all (fun i => a.2.1.testBit i)) then .bad (walkCause 9 0 lv1 0 acc none)
  else .ok { leaf1 := a.1, leaf2 := b.1, bits1 := BitVec.ofNat 64 a.2.1, bits2 := BitVec.ofNat 64 b.2.1, phys := phys,
             big1 := a.2.2, big2 := b.2.2 }

/-- Is an access kind store-kind (R128)? -/
def storeKind (acc : Nat) : Bool := acc == 1 || acc == 2 || acc == 4

/-- AC, and DT for a store-kind access, set by atomic OR in both leaves (R128). -/
def State.setAcDt (s : State) (w : Walked) (acc : Nat) : State :=
  let m := if storeKind acc then 3072 else 1024
  let s1 := { s with mem := s.mem.write (s.real w.leaf1) (leBytes 8 (s.mem.rd (s.real w.leaf1) 8 ||| m)) }
  { s1 with mem := s1.mem.write (s.real w.leaf2) (leBytes 8 (s1.mem.rd (s.real w.leaf2) 8 ||| m)) }

/-- The slab whose stack holds a physical HBM address. -/
def homeSlab (phys : Nat) : Nat := phys / 68719476736 % 64
/-- The home station within the slab (R121). -/
def homeStation (phys : Nat) : Nat := fld phys 12 9

/-- The memory key of what a walk found, by its aperture (R130). -/
def Walked.key (w : Walked) (s : State) : Nat :=
  match fld w.bits2.toNat 7 6 with
  | 0 => hbmKey s.modId w.phys
  | 1 => hbmKey (BitVec.ofNat 12 (fld w.bits2.toNat 23 12)) w.phys
  | _ => hostKey (BitVec.ofNat 12 (fld w.bits2.toNat 23 12)) w.phys

/-- The same byte of a physical address in another slab's stack (R131). -/
def replicaOf (phys h : Nat) : Nat := phys - homeSlab phys * 68719476736 + h * 68719476736
/-- Is what a walk found a replicated page (R131)? -/
def Walked.replicated (w : Walked) : Bool := fld w.bits2.toNat 7 6 == 0 && w.bits2.getLsbD 9
/-- The keys that a store to what a walk found writes: on a replicated page, its copy in every slab's stack (R131). -/
def Walked.keys (w : Walked) (s : State) : List Nat :=
  if w.replicated then (List.range 40).map (fun h => hbmKey s.modId (replicaOf w.phys h)) else [w.key s]
/-- The key that a load of a slab's unit reads: on a replicated page the replica of its own slab (R131). -/
def Walked.loadKey (w : Walked) (s : State) (slab : Nat) : Nat :=
  if w.replicated then hbmKey s.modId (replicaOf w.phys slab) else w.key s
/-- Does what a walk found lie in a peer module that is absent, or that warm-up forbids (R23, R47)? -/
def Walked.forbidden (w : Walked) (s : State) : Bool :=
  peerOut s w.bits2.toNat
/-- Does a key lie in the HBM of a module that is out of reach? -/
def State.keyOut (s : State) (k : Nat) : Bool :=
  decide (hbmKey 0 0 ≤ k) && decide (k < hbmKey 0 0 + 2 ^ 68) && !s.reachable (BitVec.ofNat 12 ((k - hbmKey 0 0) / 2 ^ 56))

/-! ## Access tables -/

/-- Does an entry match a stamp (R46)? -/
def accMatch (e : BitVec 64) (srgn smod : BitVec 12) (h : Bool) : Bool :=
  let v := e.toNat
  let rm := BitVec.ofNat 12 (fld v 50 39)
  let mm := BitVec.ofNat 12 (fld v 26 15)
  e.getLsbD 63 && (srgn &&& rm) == (BitVec.ofNat 12 (fld v 62 51) &&& rm) &&
    (smod &&& mm) == (BitVec.ofNat 12 (fld v 38 27) &&& mm) && e.getLsbD 14 == h
/-- The entry that decides: the first that matches, in index order. -/
def deciding (t : List (BitVec 64)) (srgn smod : BitVec 12) (h : Bool) : Option (BitVec 64) := t.find? (fun e => accMatch e srgn smod h)
/-- A table of 32 entries of which a list gives the first. -/
def padded (l : List (BitVec 64)) : List (BitVec 64) := (List.range 32).map (fun n => l.getD n 0)
/-- The access table of a core. -/
def State.coreTable (s : State) (co : CoreId) : List (BitVec 64) :=
  if s.fab.coreSet.get co.toNat = 1 then (List.range 32).map (fun n => s.fab.coreAcc.get (co.toNat * 32 + n)) else padded s.fab.base
/-- Write a core's table whole. -/
def State.setCoreTable (s : State) (co : CoreId) (l : List (BitVec 64)) : State :=
  { s with fab := { s.fab with coreSet := s.fab.coreSet.set co.toNat 1,
                               coreAcc := (List.range 32).foldl (fun t n => t.set (co.toNat * 32 + n) (l.getD n 0)) s.fab.coreAcc } }
/-- The access table of a unit that is no core: class, and slab and unit number. -/
def State.unitTable (s : State) (cls did : Nat) : List (BitVec 64) :=
  let k := cls * 1048576 + did
  if s.fab.unitSet.get k = 1 then (List.range 32).map (fun n => s.fab.unitAcc.get (k * 32 + n))
  else padded (if cls = 1 ∨ cls = 2 then s.fab.unitBase else s.fab.base)
/-- Write a unit's table whole. -/
def State.setUnitTable (s : State) (cls did : Nat) (l : List (BitVec 64)) : State :=
  let k := cls * 1048576 + did
  { s with fab := { s.fab with unitSet := s.fab.unitSet.set k 1,
                               unitAcc := (List.range 32).foldl (fun t n => t.set (k * 32 + n) (l.getD n 0)) s.fab.unitAcc } }
/-- A region's access entry in a core's table: it permits everything until the start message (R393). -/
def placementEntry (rgn m : BitVec 12) : BitVec 64 :=
  BitVec.ofNat 64 (2 ^ 63 + rgn.toNat * 2 ^ 51 + 4095 * 2 ^ 39 + m.toNat * 2 ^ 27 + 4095 * 2 ^ 15 + 0x3F80)
/-- Do two entries agree in all but their permission bits? -/
def samePlace (x e : BitVec 64) : Bool := fld e.toNat 63 14 == fld x.toNat 63 14
/-- The permission bit of a kind (R45). -/
def accBit (kind : Nat) : Nat :=
  match kind with
  | 0 => 13
  | 1 => 12
  | 2 => 11
  | 3 => 10
  | 4 => 9
  | 6 => 8
  | _ => 7
/-- The subcode of a refusal by a table, none where it accepts (R390). -/
def refusal (t : List (BitVec 64)) (srgn smod : BitVec 12) (h : Bool) (bit : Nat) : Option Nat :=
  match deciding t srgn smod h with
  | none => some 0
  | some e => if e.getLsbD bit then none else some 2
/-- The access table of a home station. -/
def State.stationRefusal (s : State) (slab e : Nat) (srgn smod : BitVec 12) (h : Bool) (kind : Nat) : Option Nat :=
  refusal (s.unitTable 1 (slab * 16384 + e)) srgn smod h (accBit kind)

/-! ## Read copies (R190) -/

/-- The physical HBM address of a key of this module. -/
def State.physOf (s : State) (key : Nat) : Nat := key - hbmKey s.modId 0
/-- The read copies of a slab's stations of the lines that n bytes at a key touch are dropped (R190). -/
def State.dropCopies (s : State) (slab : Nat) (key n : Nat) : State :=
  { s with copies := s.copies.filter (fun c => !(c.slab.toNat == slab && decide (key / 64 ≤ c.line) && decide (c.line ≤ (key + n - 1) / 64))) }
/-- The value of n bytes at a key from a station's copies, where it holds a copy of every line and serves from it (R190). -/
def State.fromCopies (s : State) (st : Nat × Nat) (key n : Nat) : Option Nat :=
  if !Config.useCopy s.draws then none
  else
    ((List.range ((key + n - 1) / 64 - key / 64 + 1)).foldr (fun i acc =>
      match acc, s.copies.find? (fun c => c.slab.toNat == st.1 && c.station.toNat == st.2 && c.line == key / 64 + i) with
      | some v, some c => some (c.data.toNat + 2 ^ 512 * v)
      | _, _ => none) (some 0)).map (fun v => v / 2 ^ (8 * (key % 64)) % 2 ^ (8 * n))
/-- A station keeps a copy of a good line, in the place of any older one; of a line that holds poison it keeps none. -/
def State.keepLine (s : State) (st : Nat × Nat) (l : Nat) : State :=
  let others := s.copies.filter (fun c => !(c.slab.toNat == st.1 && c.station.toNat == st.2 && c.line == l))
  let line : LineCopy := { slab := BitVec.ofNat 6 st.1, station := BitVec.ofNat 4 st.2, line := l,
                           data := BitVec.ofNat 512 (s.peek (s.real (64 * l)) 64) }
  { s with copies := if (firstPoison s.pois (s.real (64 * l)) 64).isSome then others else line :: others }
/-- A station keeps copies of the lines that n bytes at a key touch. -/
def State.keepCopies (s : State) (st : Nat × Nat) (key n : Nat) : State :=
  (List.range ((key + n - 1) / 64 - key / 64 + 1)).foldl (fun s i => s.keepLine st (key / 64 + i)) s

/-! ## Stage-2 tables (R122) -/

/-- The valid entries among the first n of a stage-2 node: those whose first byte is listed with bit 0 set. -/
def State.nodeEntries (s : State) (frame n : Nat) : List Nat :=
  (List.range ((8 * n + 65535) / 65536)).flatMap fun j =>
    let b := s.real (hbmKey s.modId ((frame + j) * 65536))
    (s.mem.cells.filter (fun c => decide (b ≤ c.1) && decide (c.1 < b + min 65536 (8 * n - 65536 * j)) && (c.1 - b) % 8 == 0 && c.2.getLsbD 0)).map
      (fun c => s.peek c.1 8)
/-- Is an entry a leaf, and one that maps HBM of this module? -/
def isLeaf (e : Nat) : Bool := e.testBit 1
def localLeaf (e : Nat) : Bool := isLeaf e && fld e 7 6 == 0
/-- The middle and the lowest nodes under a root. -/
def State.middleNodes (s : State) (root : Nat) : List Nat := ((s.nodeEntries root 32768).filter (fun e => !isLeaf e)).map entFrame
def State.lowNodes (s : State) (root : Nat) : List Nat :=
  (s.middleNodes root).flatMap (fun m => ((s.nodeEntries m 4096).filter (fun e => !isLeaf e)).map entFrame)
/-- The frames of local HBM that the leaves under a root name: first frame and number for each leaf. -/
def State.leavesUnder (s : State) (root : Nat) : List (Nat × Nat) :=
  ((s.middleNodes root).flatMap (fun m => ((s.nodeEntries m 4096).filter localLeaf).map (fun e => (entFrame e, 16384)))) ++
    (s.lowNodes root).flatMap (fun m => ((s.nodeEntries m 16384).filter localLeaf).map (fun e => (entFrame e, 1)))
/-- The frames in which they lie, the replicas of a replicated page among them (R131, R138). -/
def withReplicas (e : Nat) (n : Nat) : List (Nat × Nat) :=
  if e.testBit 9 then (List.range 40).map (fun h => (h * 1048576 + entFrame e % 1048576, n)) else [(entFrame e, n)]
def State.mappedUnder (s : State) (root : Nat) : List (Nat × Nat) :=
  ((s.middleNodes root).flatMap (fun m => ((s.nodeEntries m 4096).filter localLeaf).flatMap (fun e => withReplicas e 16384))) ++
    (s.lowNodes root).flatMap (fun m => ((s.nodeEntries m 16384).filter localLeaf).flatMap (fun e => withReplicas e 1))
/-- How many they are. -/
def State.framesUsed (s : State) (root : Nat) : Nat := (s.leavesUnder root).foldl (fun n l => n + l.2) 0
/-- The frames that the nodes under a root lie in. -/
def State.nodesUnder (s : State) (root : Nat) : List (Nat × Nat) :=
  (root, 4) :: ((s.middleNodes root).map (fun m => (m, 1)) ++ (s.lowNodes root).map (fun m => (m, 2)))

end Sys2Proof.Machine
end

