-- ==== Sys2Proof/Machine/Packet.lean ====
section
/-! DEFINITION. Machine.Packet: header fields (R30), routes (R31-R36) and injection into the fabric. -/

namespace Sys2Proof

/-- A field of a header. -/
def Packet.f (p : Packet) (hi lo : Nat) : Nat := fld p.hdr.toNat hi lo
def Packet.segn (p : Packet) : Nat := p.f 255 252
def Packet.seg0 (p : Packet) : Nat := p.f 160 148
def Packet.kind (p : Packet) : Nat := p.f 147 145
def Packet.mc (p : Packet) : Bool := p.f 144 144 == 1
def Packet.group (p : Packet) : Nat := p.f 143 136
def Packet.len (p : Packet) : Nat := p.f 135 131
def Packet.dcls (p : Packet) : Nat := p.f 130 128
def Packet.dmod (p : Packet) : BitVec 12 := BitVec.ofNat 12 (p.f 127 116)
def Packet.did (p : Packet) : BitVec 20 := BitVec.ofNat 20 (p.f 115 96)
def Packet.smod (p : Packet) : BitVec 12 := BitVec.ofNat 12 (p.f 95 84)
def Packet.score (p : Packet) : BitVec 20 := BitVec.ofNat 20 (p.f 83 64)
def Packet.srgn (p : Packet) : BitVec 12 := BitVec.ofNat 12 (p.f 63 52)
def Packet.sslc (p : Packet) : Nat := p.f 51 48
def Packet.gang (p : Packet) : Nat := p.f 47 32
def Packet.h (p : Packet) : Bool := p.f 31 31 == 1
def Packet.tag (p : Packet) : Nat := p.f 30 21
def Packet.opx (p : Packet) : Nat := p.f 20 0
/-- The value with bits hi to lo replaced. -/
def setFld (v hi lo x : Nat) : Nat := v - fld v hi lo * 2 ^ lo + x % 2 ^ (hi + 1 - lo) * 2 ^ lo
/-- A header with one field replaced. -/
def Packet.setF (p : Packet) (hi lo x : Nat) : Packet := { p with hdr := BitVec.ofNat 256 (setFld p.hdr.toNat hi lo x) }

/-- The stamps an injecting router writes (R44). -/
structure Stamp where
  smod : BitVec 12
  score : BitVec 20
  srgn : BitVec 12
  sslc : Nat
  gang : BitVec 16
  deriving DecidableEq, Repr

/-- A header without its route. -/
def mkHdr (kind len dcls : Nat) (dmod : BitVec 12) (did : BitVec 20) (st : Stamp) (tag opx : Nat) : BitVec 256 :=
  BitVec.ofNat 256 (kind * 2 ^ 145 + len * 2 ^ 131 + dcls * 2 ^ 128 + dmod.toNat * 2 ^ 116 + did.toNat * 2 ^ 96 +
    st.smod.toNat * 2 ^ 84 + st.score.toNat * 2 ^ 64 + st.srgn.toNat * 2 ^ 52 + st.sslc * 2 ^ 48 + st.gang.toNat * 2 ^ 32 +
    tag % 1024 * 2 ^ 21 + opx % 2097152)

/-! ## Where units attach (R6, R33) -/

/-- Grid row and column of a core's router. -/
def corePos (co : CoreId) : Nat × Nat :=
  (128 * (co.toNat / 16384 / 8) + co.toNat / 128 % 128, 128 * (co.toNat / 16384 % 8) + co.toNat % 128)
/-- Grid row and column of the router of station e of a slab. -/
def stationPos (slab e : Nat) : Nat × Nat := (128 * (slab / 8) + 127, 128 * (slab % 8) + 8 * e + 4)
/-- The router of a destination: core, edge station, pump or slab controller. -/
def unitPos (dcls : Nat) (did : BitVec 20) : Nat × Nat :=
  let slab := did.toNat / 16384
  let u := did.toNat % 256
  match dcls with
  | 0 => corePos did
  | 1 => stationPos slab u
  | 2 => stationPos slab (u / 4)
  | _ => stationPos slab 0
/-- The core whose router stands at a grid position. -/
def coreAtPos (row col : Nat) : CoreId :=
  BitVec.ofNat 20 ((row / 128 * 8 + col / 128) * 16384 + row % 128 * 128 + col % 128)
/-- The edge station attached at a grid position, if one is (R33). -/
def stationAtPos (row col : Nat) : Option Nat :=
  if row % 128 = 127 ∧ col % 128 % 8 = 4 then some (col % 128 / 8) else none
/-- The off-module port attached at a grid position, if one is (R33). -/
def portAtPos (row col : Nat) : Option Nat :=
  if row = 0 ∧ col % 32 < 4 then some (col / 32) else if row = 639 ∧ col % 32 < 4 then some (32 + col / 32) else none

/-! ## Routes (R31, R34-R36) -/

/-- The default grid route: columns, then rows, then the terminal segment. -/
def gridRoute (r1 c1 r2 c2 term : Nat) : List Nat :=
  (if c1 < c2 then [1024 + (c2 - c1)] else if c2 < c1 then [3072 + (c1 - c2)] else []) ++
  (if r2 < r1 then [r1 - r2] else if r1 < r2 then [2048 + (r2 - r1)] else []) ++ [term * 1024]

/-- The header after its current segment is used up: the segments shift down. -/
def Packet.shifted (p : Packet) : Packet := (p.setF 255 252 (p.segn - 1)).setF 251 148 (p.f 251 148 / 8192)

/-- A header with its route filled from a list of segments, SEG0 first. -/
def Packet.route (p : Packet) (segs : List Nat) : Packet :=
  (p.setF 255 252 segs.length).setF 251 148 (segs.foldr (fun x acc => x + 8192 * acc) 0)

/-- The segments of a header, SEG0 first. -/
def Packet.segs (p : Packet) : List Nat := (List.range p.segn).map (fun k => p.f (148 + 13 * k + 12) (148 + 13 * k))
/-- Where h hops in a direction lead on the grid; none where they would leave it (R31, R32). -/
def farFrom (row col dir h : Nat) : Option (Nat × Nat) :=
  match dir with
  | 0 => if h ≤ row then some (row - h, col) else none
  | 1 => if col + h < 1024 then some (row, col + h) else none
  | 2 => if row + h < 640 then some (row + h, col) else none
  | _ => if h ≤ col then some (row, col - h) else none
/-- The router at the edge of the grid in a direction. -/
def edgeFrom (row col dir : Nat) : Nat × Nat :=
  match dir with
  | 0 => (0, col)
  | 1 => (row, 1023)
  | 2 => (639, col)
  | _ => (row, 0)
/-- Where a route leads: to a terminal port of a router, or to the router at which its packet is discarded (R32). -/
inductive Led where
  | ends (row col port : Nat)
  | lost (row col : Nat)
  deriving DecidableEq, Repr
/-- The routers that a list of segments leads through, from a grid position. -/
def follow : List Nat → Nat → Nat → Led
  | [], row, col => .lost row col
  | g :: gs, row, col =>
    if g / 1024 < 4 then
      (if g % 1024 = 0 then .lost row col
       else
         match farFrom row col (g / 1024) (g % 1024) with
         | none => let e := edgeFrom row col (g / 1024)
           .lost e.1 e.2
         | some n => follow gs n.1 n.2)
    else if g % 1024 ≠ 0 ∨ gs.isEmpty = false then .lost row col
    else .ends row col (g / 1024)

/-- A path-table or access-table entry as it is kept: its reserved bits read as zero (R7, R36, R45). -/
def pathEntryOf (v : BitVec 192) : BitVec 192 := v &&& ~~~(BitVec.ofNat 192 (2 ^ 39 - 1))
def accessEntryOf (v : BitVec 64) : BitVec 64 := v &&& ~~~127#64
/-- Is a path-table entry valid? -/
def entryValid (e : BitVec 192) : Bool := e.getLsbD 191
/-- A header whose route is SEGN and SEG of a path-table entry. -/
def Packet.routeBy (p : Packet) (e : BitVec 192) : Packet :=
  (p.setF 255 252 (fld e.toNat 187 184)).setF 251 148 (fld e.toNat 183 80)
/-- A header whose route and destination are those of a path-table entry 64-255 (R36). -/
def Packet.routeDest (p : Packet) (e : BitVec 192) : Packet :=
  let n := e.toNat
  ((((((p.routeBy e).setF 144 144 (fld n 39 39)).setF 143 136 (fld n 47 40)).setF 130 128 (fld n 190 188)).setF 127 116
    (fld n 79 68)).setF 115 96 (fld n 67 48))

/-- Does a header break R29 or R30 (R30)? -/
def Packet.malformed (p : Packet) : Bool :=
  16 < p.len || (p.kind == 4 && p.dcls != 0) || (p.mc && p.kind != 3 && p.kind != 4) || p.dcls == 7

/-- The request that an ask makes, and where it stands on arrival at a core or a station; a cancel makes none. -/
def Ask.req : Ask → Option Machine.Req
  | .mem a => some (.mem a)
  | .tst k t r p => some (.tst k t r p)
  | .tadv k h => some (.tadv k h)
  | .tld k t l b h => some (.tld k t l 0 b h)
  | .tlow k t => some (.tlow k t)
  | .cancel => none
def Ask.stage (a : Ask) (m : BitVec 12) (core : Bool) : Machine.Stage :=
  match a with
  | .mem x => if core then .flight else .home (Machine.hbmKey m (x.addr.toNat % 2 ^ 56)) true false 0 0
  | _ => .flight

namespace Machine

/-- The path-table entry of a core's router. -/
def State.pathEntry (s : State) (co : CoreId) (n : Nat) : BitVec 192 := s.fab.path.get (co.toNat * 256 + n)
/-- The off-module port configured for a host node, the lowest where there are several; port 0 where there is none (R33, R44). -/
def State.portOf (s : State) (node : BitVec 12) : Nat :=
  ((List.range 64).find? (fun p => s.fab.hostPort.get p == BitVec.ofNat 13 (node.toNat + 1))).getD 0
/-- The router of an off-module port whose column is congruent, modulo 4, to a grid column (R33, R34). -/
def portRouter (port col : Nat) : Nat × Nat :=
  if port < 32 then (0, 32 * port + col % 4) else (639, 32 * (port - 32) + col % 4)
/-- The route of a packet that names no path index, from the router at a grid position (R35, cases 3 and 4); the subcode of
the refusal where it has none (R390). -/
def State.routeFrom (s : State) (row col : Nat) (p : Packet) : Packet ⊕ Nat :=
  if p.dmod = s.modId ∧ p.dcls ≤ 3 then
    let d := unitPos p.dcls p.did
    .inl (p.route (gridRoute row col d.1 d.2 (if p.dcls = 0 then 4 else 5)))
  else if p.dmod = s.modId ∧ p.dcls = 4 then
    let d := portRouter (s.portOf (BitVec.ofNat 12 p.did.toNat)) col
    .inl (p.route (gridRoute row col d.1 d.2 6))
  else if p.dmod = s.modId ∧ (p.dcls = 5 ∨ p.dcls = 6) then .inl p
  else
    let co := coreAtPos row col
    let e := s.pathEntry co (16 + (s.fab.classes.get (slabOf co * 4096 + p.dmod.toNat)).toNat)
    if entryValid e then .inl (p.routeBy e) else .inr 6

/-- The group-table entry of a router for a packet's group. -/
def State.groupAt (s : State) (row col : Nat) (p : Packet) : BitVec 8 := s.fab.group.get ((coreAtPos row col).toNat * 256 + p.group)
/-- The entry that an open-plane packet latches when its head comes to a router that multicasts it, which a terminal PORT 7 segment asks for (R32, R43). -/
def State.latchAt (s : State) (row col : Nat) (p : Packet) : Option (BitVec 8) :=
  if p.kind ≠ 4 ∧ p.mc = true ∧ p.segn = 1 ∧ p.seg0 = 7 * 1024 then some (s.groupAt row col p) else none
/-- Put a packet with its route into the fabric at a router, arriving on an input (R38): 4 the core, 5 the attached unit, 6 a port. -/
def State.launchFlight (s : State) (row col inp : Nat) (p : Packet) (rq : Option Ask) (due : Nat) (closes : Option Nat) (iss : Option Issuer) : State :=
  let there := decide (p.dmod = s.modId ∧ (p.dcls = 5 ∨ p.dcls = 6))
  let fl : Flight :=
    { id := s.nextId, pkt := p, row := row, col := col, inp := inp, due := due, arrived := if there then some 5 else none, here := 0, worm := [],
      unsent := if there ∨ p.kind = 4 then 0 else p.len + 1, trunk := none, latched := s.latchAt row col p, only := none, rq := rq, closes := closes,
      late := false, slips := [], got := 0,
      iss := iss, src := none, track := [] }
  { s with nextId := s.nextId + 1, fab := { s.fab with flights := s.fab.flights ++ [fl] } }

/-- Send an open-plane packet from a unit's router: routed, or dropped where it is refused (R46, R47). -/
def State.sendFrom (s : State) (row col inp : Nat) (p : Packet) : State :=
  if s.reachable p.dmod then
    match s.routeFrom row col p with
    | .inl q => (s.launchFlight row col inp q none s.dueTime none none).draw
    | .inr _ => s
  else s

/-- The stamp of a slab controller or Starter of this module. -/
def State.ctrlStamp (s : State) (slab : Nat) : Stamp :=
  { smod := s.modId, score := BitVec.ofNat 20 (slab * 16384), srgn := 0, sslc := 0, gang := 0 }

/-! ## Stores at their bytes, and at replicas (R131, R135, R185, R312) -/

/-- Bytes of a value where a mask is set, of another elsewhere; n bytes. -/
def mixBytes (mask new old : Nat) : Nat → Nat
  | 0 => 0
  | n + 1 => (if mask % 2 = 1 then new % 256 else old % 256) + 256 * mixBytes (mask / 2) (new / 256) (old / 256) n
/-- All 512 bytes. -/
def fullMask : Nat := 2 ^ 512 - 1
/-- Write the selected bytes at a key, each granule by itself (R135, R312). -/
def State.putMask (s : State) (key mask v : Nat) : State :=
  if mask = fullMask then s.putGood key 512 v
  else
    (List.range 64).foldl (fun s g =>
      let m := mask / 2 ^ (8 * g) % 256
      if m = 0 then s
      else if m = 255 then s.putGood (key + 8 * g) 8 (v / 2 ^ (64 * g) % 2 ^ 64)
      else { s with mem := s.mem.write (key + 8 * g) (leBytes 8 (mixBytes m (v / 2 ^ (64 * g)) (s.peek (key + 8 * g) 8) 8)) }) s
/-- A store is performed at a key: the bytes of a vector line that its mask selects, any other whole, with its poison (R120, R135). -/
def State.performStore (s : State) (key : Nat) (a : Access) : State :=
  if a.size = 512 ∧ a.mask ≠ BitVec.allOnes 512 then s.putMask key a.mask.toNat a.data.toNat
  else s.put key a.size (a.data.toNat % 2 ^ (8 * a.size)) a.pois.toNat
/-- The operation moves to a stage; its next event is due after a free time. -/
def State.toStage (s : State) (o : Op) (st : Stage) : State :=
  { s with ops := s.ops.map (fun (p : Op) => if p.id == o.id then { o with stage := st, due := s.dueTime } else p) }.draw
/-- The other slabs in the order in which a replicated store reaches them: a free rotation. -/
def otherSlabs (k primary : Nat) : List Nat :=
  ((List.range 40).map (fun i => (i + Config.latency k) % 40)).filter (fun h => h != primary)
/-- A store is performed at the replica of a slab. -/
def State.atReplica (s : State) (key h : Nat) (a : Access) : State :=
  s.performStore (s.real (hbmKey s.modId (replicaOf (s.physOf key) h))) a
/-- A store that its primary has performed reaches all the replicas that it has not reached. -/
def State.finishReplicas (s : State) (o : Op) : State :=
  match o.req, o.stage with
  | .mem a, .replicas key left _ _ =>
    (((otherSlabs o.id (homeSlab (s.physOf key))).take left).foldl (fun (t : State) h => t.atReplica key h a) s).toStage o (.reply (.done 0 0))
  | _, _ => s
/-- The place of such a store in the order of its primary. -/
def Op.replicaSeq (o : Op) : Nat :=
  match o.stage with
  | .replicas _ _ seq _ => seq
  | _ => 0
/-- Operations in that order. -/
def seqInsert (o : Op) : List Op → List Op
  | [] => [o]
  | p :: l => if o.replicaSeq ≤ p.replicaSeq then o :: p :: l else p :: seqInsert o l
def seqSort : List Op → List Op
  | [] => []
  | o :: l => seqInsert o (seqSort l)
/-- The stores that meet a condition reach all their replicas, in the order of their primaries. -/
def State.flushReplicas (s : State) (f : Nat → Nat → Bool) : State :=
  (seqSort (s.ops.filter (fun o => match o.stage with
    | .replicas key _ _ tick => f key tick
    | _ => false))).foldl State.finishReplicas s
/-- The 64 KiB page of replicated memory, whatever the slab, that a key lies in (log entry 16). -/
def State.pageOf (s : State) (key : Nat) : Nat := s.physOf key % 68719476736 / 65536
/-- Earlier stores to a replicated page reach its replicas before a write that reaches all of them at once (R131). -/
def State.flushPage (s : State) (key : Nat) : State := s.flushReplicas (fun k _ => s.pageOf k == s.pageOf key)
/-- At the start of the second tick after their performance at the primary, stores have reached every replica (R185). -/
def State.flushOld (s : State) : State := s.flushReplicas (fun _ tick => decide (tick + 2 ≤ s.pace.toNat))

/-! ## Accesses of slab controllers and portals (R78, R130, R131, R190, R395) -/

/-- May a host node refuse the access that comes next? A free choice (R130). -/
def State.hostSaysNo (s : State) (w : Walked) : Bool := fld w.bits2.toNat 7 6 == 2 && Config.hostRefuses s.draws
/-- What a walk found, where a page of host memory is that of one node, whatever the leaf's MOD: a portal's (R78). -/
def Walked.onHost (w : Walked) (node : Option (BitVec 12)) : Walked :=
  match node with
  | some n => if fld w.bits2.toNat 7 6 = 2 then { w with bits2 := (w.bits2 &&& ~~~0xFFF000#64) ||| (n.setWidth 64 <<< 12) } else w
  | none => w
/-- The subcode with which a request from a router to a module is refused for want of a path-table entry (R35 case 4, R36). -/
def State.noPath (s : State) (row col : Nat) (m : BitVec 12) : Option Nat :=
  if m = s.modId then none
  else
    let co := coreAtPos row col
    if entryValid (s.pathEntry co (16 + (s.fab.classes.get (slabOf co * 4096 + m.toNat)).toNat)) then none else some 6
/-- That of a request to what a walk found, from a station's router (R130). -/
def Walked.noPath (w : Walked) (s : State) (slab e : Nat) : Option Nat :=
  if fld w.bits2.toNat 7 6 = 1 then (let d := stationPos slab e; s.noPath d.1 d.2 (BitVec.ofNat 12 (fld w.bits2.toNat 23 12))) else none
/-- What a slab controller finds for an address by its slab's station 0: a walk, its own station's access table, and at the page the presence
map, the path table, the host node or the home station's table (R35, R36, R46, R47, R130, R395). -/
def State.ctrlWalk (s : State) (slab pasid root va acc : Nat) : Walk Walked :=
  match s.stationRefusal slab 0 0 s.modId false acc with
  | some sub => .bad (refusalCause sub)
  | none =>
    (walk s pasid root va acc).bind fun w =>
      if w.forbidden s then .bad (refusalCause 4)
      else if (w.noPath s slab 0).isSome then .bad (refusalCause 6)
      else if s.hostSaysNo w then .bad (refusalCause 7)
      else if fld w.bits2.toNat 7 6 = 0 then
        (match s.stationRefusal (homeSlab w.phys) (homeStation w.phys) 0 s.modId false acc with
         | some sub => .bad (refusalCause sub)
         | none => .ok w)
      else .ok w
/-- An access of a slab controller that has failed leaves AC, and DT for a store, in both leaves where it was translated (R128). -/
def State.ctrlMark (s : State) (slab pasid root va acc : Nat) : State :=
  match s.stationRefusal slab 0 0 s.modId false acc, walk s pasid root (va % 2 ^ 57) acc with
  | none, .ok w => (s.setAcDt w acc).draw
  | _, _ => s
/-- Does a page have MC = 0, so that its lines may be copied by the stations of other slabs (R190)? -/
def Walked.cold (w : Walked) (slab : Nat) : Bool :=
  fld w.bits2.toNat 7 6 == 0 && !w.bits2.getLsbD 8 && !w.replicated && homeSlab w.phys != slab
/-- A read of n bytes of global memory by a slab controller under a PASID and stage 2: the value, or the cause. DESIGN CHOICE (log entry 102): bits 63-57 of
an address that a block or a command gives are not compared with the global form of R107. -/
def State.gread (s : State) (slab pasid root : Nat) (va n : Nat) : Walk (State × Nat) :=
  (s.ctrlWalk slab pasid root (va % 2 ^ 57) 0).bind fun w =>
  let k := w.loadKey s slab
  match (if w.cold slab then s.fromCopies (slab, 0) k n else none) with
  | some v => .ok ((s.setAcDt w 0).draw, v)
  | none =>
    match firstPoison s.pois (s.real k) n with
    | some _ => .bad 11
    | none => let t := (s.setAcDt w 0).draw
      .ok (if w.cold slab then t.keepCopies (slab, 0) k n else t, s.mem.rd (s.real k) n)

/-- A write of n bytes likewise; the slab's copies of a page with MC = 0 are dropped, and a replicated page takes it behind the stores that its primary
has performed. Host memory is that of the node named, where one is. -/
def State.gwriteTo (s : State) (node : Option (BitVec 12)) (slab pasid root : Nat) (va n v : Nat) : Walk State :=
  (s.ctrlWalk slab pasid root (va % 2 ^ 57) 1).bind fun w0 =>
    let w := w0.onHost node
    let t := (s.setAcDt w 1).draw
    let u := if w.replicated then t.flushPage (w.key s) else if w.bits2.getLsbD 8 then t else t.dropCopies slab (w.key s) n
    .ok ((w.keys s).foldl (fun (t : State) k => t.putGood (t.real k) n v) u)
/-- In host memory of the node that the page names. -/
def State.gwrite (s : State) (slab pasid root : Nat) (va n v : Nat) : Walk State := s.gwriteTo none slab pasid root va n v
/-- A write of some bits of the n bytes at an address likewise: what they held gives what they hold. -/
def State.gmodify (s : State) (slab pasid root : Nat) (va n : Nat) (f : Nat → Nat) : Walk State :=
  (s.ctrlWalk slab pasid root (va % 2 ^ 57) 1).bind fun w => s.gwrite slab pasid root va n (f (s.peek (s.real (w.key s)) n))

end Machine

end Sys2Proof
end

