-- ==== Sys2Proof/Machine/Ops.lean ====
section
/-! DEFINITION. Machine.Ops: the named operations over registers and contexts: reading and writing registers, pending results,
boundaries and stops, fault records, taking a trap and returning from one. -/

namespace Sys2Proof.Machine

/-! ## The context of the bundle being issued -/

/-- The slice being issued from. -/
def State.sl (s : State) : Slice := s.core.slices[s.core.cur]
/-- Put the slice back. -/
def State.setSl (s : State) (x : Slice) : State :=
  { s with core := { s.core with slices := s.core.slices.set s.core.cur x } }
/-- The context being issued from. -/
def State.cx (s : State) : Ctx := s.sl.ctxs[s.core.curCtx]
/-- Put the context back. -/
def State.setCx (s : State) (c : Ctx) : State := s.setSl { s.sl with ctxs := s.sl.ctxs.set s.core.curCtx c }
/-- Make one slice and context of the front core the ones being worked on. -/
def State.focus (s : State) (i : Fin 16) (c : Fin 11) : State := { s with core := { s.core with cur := i, curCtx := c } }
/-- Bring the core with an id to the front in the place of the one that stands there, do something, and put both back in their places. -/
def State.onCore (s : State) (co : CoreId) (f : State → State) : State :=
  if s.core.id = co then f s
  else
    let home := s.core
    let c := s.coreAt co
    let t := f { s with core := c,
                        rest := if s.rest.any (fun d => d.id == co) then s.rest.map (fun d => if d.id == co then home else d)
                          else s.rest ++ [home] }
    { t with core := t.coreAt home.id, rest := t.rest.map (fun d => if d.id == home.id then t.core else d) }

/-! ## Registers (R111, R113) -/

/-- The key of an offset in the workspace of the context. -/
def State.wsKey (s : State) (off : Nat) : Nat := coreKey s.core.id (s.cx.wp.toNat + off)
/-- The word of a general register. -/
def State.wordG (s : State) (r : GReg) : Word := s.word (s.wsKey (8 * r.toNat))
/-- A general register as the bundle reads it: g0 reads as zero, any other is its workspace word, or what a held bundle read when it issued. -/
def State.readG (s : State) (r : GReg) : Word :=
  if r = 0 then 0
  else
    match s.cx.cap with
    | none => s.wordG r
    | some c => c.g[r.toNat]
/-- A result lands in a general register; a write to g0 is discarded. -/
def State.writeG (s : State) (r : GReg) (v : Word) : State :=
  if r = 0 then s else s.putGood (s.wsKey (8 * r.toNat)) 8 v.toNat
/-- Does one pending result land before another (R161)? -/
def Pending.before (p q : Pending) : Bool := p.land < q.land || (p.land == q.land && p.seq < q.seq)
/-- Insert by landing order. -/
def pendInsert (p : Pending) : List Pending → List Pending
  | [] => [p]
  | q :: qs => if p.before q then p :: q :: qs else q :: pendInsert p qs
/-- In landing order. -/
def pendSort : List Pending → List Pending
  | [] => []
  | p :: ps => pendInsert p (pendSort ps)
/-- The vector register of a result for one. -/
def Pending.vec (p : Pending) : Option VReg :=
  match p.res with
  | .v r _ => some r
  | _ => none
/-- What bundles below its landing distance still read of a vector register whose pending result is in its words already (R160, R364). -/
def Ctx.oldV (c : Ctx) (r : VReg) : Option VWord := (pendSort c.pend).findSome? (fun p => if p.vec = some r then p.was else none)
/-- The words of a vector register. -/
def State.wordsV (s : State) (r : VReg) : VWord := BitVec.ofNat 4096 (s.peek (s.wsKey (512 + 512 * r.toNat)) 512)
/-- A vector register as the bundle reads it. -/
def State.readV (s : State) (r : VReg) : VWord :=
  match s.cx.cap with
  | none => (s.cx.oldV r).getD (s.wordsV r)
  | some c => c.v[r.toNat]
/-- A result lands in a vector register. -/
def State.writeV (s : State) (r : VReg) (v : VWord) : State := s.putGood (s.wsKey (512 + 512 * r.toNat)) 512 v.toNat
/-- Vector registers a workspace size code declares (R88, R111). -/
def vecCount (code : BitVec 2) : Nat :=
  match code.toNat with
  | 0 => 0
  | 1 => 4
  | 2 => 8
  | _ => 16
/-- Vector registers the context declares: VCC for the control context, HVC for a helper. -/
def Slice.declared (x : Slice) (c : Fin 11) : Nat := vecCount (if c = 0 then x.eff.vcc else x.eff.hvc)
/-- Bytes of a workspace (R111). -/
def wsBytes (n : Nat) : Nat := 512 + 512 * n

/-! ## The partition (R109, R117) -/

/-- First byte of a slice's scratchpad partition. -/
def Slice.base (x : Slice) : Nat := x.pb.toNat * 4096
/-- The byte after a slice's scratchpad partition. -/
def Slice.top (x : Slice) : Nat := x.pb.toNat * 4096 + x.pkb.toNat * 1024
/-- Do n bytes at an offset lie in the partition? -/
def Slice.inPart (x : Slice) (a n : Nat) : Bool := decide (x.base ≤ a) && decide (a + n ≤ x.top)
/-- Does a pc lie in the instruction-store partition (R118)? -/
def Slice.inCode (x : Slice) (pc : Nat) : Bool :=
  decide (x.ib.toNat * 4096 ≤ pc) && decide (pc + 8 ≤ x.ib.toNat * 4096 + x.eff.iskb.toNat * 1024)

/-! ## Pending results (R160, R161) -/

/-- Which slot of the bundle an instruction is in, for the order of results and the cause word's slot bit. -/
inductive SlotId where
  | c | a
  deriving DecidableEq, Repr

/-- The slot bit of a cause word, and the order of equal results: A after C (R161, R204). -/
def SlotId.bit : SlotId → Nat
  | .c => 0
  | .a => 1

/-- Make a result pending with latency l. -/
def State.pendR (s : State) (sl : SlotId) (r : Result) (l : Nat) : State :=
  s.setCx { s.cx with pend := s.cx.pend ++ [{ land := s.cx.dist + l, issued := s.cx.dist, seq := 2 * s.cx.seq + sl.bit,
                                              cyc := s.core.cyc + l - 1, res := r, was := none }] }
/-- A pending result for a general register; a write to g0 is discarded. -/
def State.pendG (s : State) (sl : SlotId) (r : GReg) (v : Word) (l : Nat) : State :=
  if r = 0 then s else s.pendR sl (.g r v) l
/-- A pending result for a vector register. -/
def State.pendV (s : State) (sl : SlotId) (r : VReg) (v : VWord) (l : Nat) : State := s.pendR sl (.v r v) l
/-- Pending flags; none is needed where no flag was raised (R353). -/
def State.pendF (s : State) (sl : SlotId) (f : BitVec 6) (l : Nat) : State := if f = 0 then s else s.pendR sl (.fps f) l

/-- A result takes effect. -/
def State.landOne (s : State) (r : Result) : State :=
  match r with
  | .g r v => s.writeG r v
  | .v r v => s.writeV r v
  | .fps f => s.setCx { s.cx with fps := s.cx.fps ||| f }
  | .e8ov n => s.setCx { s.cx with e8ov := BitVec.ofNat 16 (min (s.cx.e8ov.toNat + n) 65535) }
/-- The result pending for a vector register that is in its words already, first in landing order. -/
def Ctx.standing (c : Ctx) (r : VReg) : Option Pending := (pendSort c.pend).find? (fun q => q.vec == some r && q.was.isSome)
/-- A pending result lands: it takes effect, unless it is in its words already; where the words of its register hold a result of a later landing
distance already, it is what bundles below that distance read (R161, R364). -/
def State.landOnto (s : State) (p : Pending) : State :=
  if p.was.isSome then s
  else
    match p.res with
    | .v r v =>
      (match s.cx.standing r with
       | none => s.landOne p.res
       | some q => s.setCx { s.cx with pend := s.cx.pend.map (fun (x : Pending) => if x = q then { x with was := some v } else x) })
    | _ => s.landOne p.res
/-- Results land one after the other. -/
def State.landList (s : State) (ps : List Pending) : State := ps.foldl State.landOnto s
/-- The pending results that a test names land, in landing order, and the others stay pending. -/
def State.landSome (s : State) (q : Pending → Bool) : State :=
  (s.setCx { s.cx with pend := s.cx.pend.filter (fun p => !q p) }).landList (pendSort (s.cx.pend.filter q))
/-- The results due at the context's present distance land, but for vector results, which wait for a bundle that reads their register, unless they are in
its words already (R160, R364). -/
def State.landDue (s : State) : State := s.landSome (fun p => decide (p.land ≤ s.cx.dist) && (p.vec.isNone || p.was.isSome))
/-- The results due for the vector registers that a bundle reads land (R364). -/
def State.landRead (s : State) (rs : List VReg) : State :=
  s.landSome (fun p => decide (p.land ≤ s.cx.dist) && p.vec.any (fun r => rs.contains r))
/-- Every pending result lands (R160). -/
def State.landAll (s : State) : State := (s.setCx { s.cx with pend := [] }).landList (pendSort s.cx.pend)
/-- May a pending result land now by R364: a vector result whose bundle is over and whose latency has passed, no earlier result for its register
outstanding? -/
def Ctx.mayLand (c : Ctx) (now : Nat) (p : Pending) : Bool :=
  p.was.isNone && decide (p.cyc ≤ now) && decide (p.seq < 2 * c.seq) && p.vec.isSome &&
    !c.pend.any (fun q => q.was.isNone && q.vec == p.vec && q.before p)
/-- A free choice lands such a result in its words, or leaves it for a later cycle; bundles below its distance go on reading the words as they were. -/
def State.landFree (s : State) (p : Pending) : State :=
  match p.res with
  | .v r v =>
    if !s.cx.mayLand s.core.cyc p then s
    else if !Config.early s.draws then s.draw
    else if p.land ≤ s.cx.dist then (s.landSome (fun q => q == p)).draw
    else
      (let t := s.writeV r v
       t.setCx { t.cx with pend := t.cx.pend.map (fun (q : Pending) => if q = p then { q with was := some (s.wordsV r) } else q) }).draw
  | _ => s
/-- The free choices of a cycle, for every pending result in landing order (R364). -/
def State.landEarly (s : State) : State := (pendSort s.cx.pend).foldl State.landFree s
/-- Are two results for one register? -/
def Pending.sameDest (p q : Pending) : Bool :=
  match p.res, q.res with
  | .g a _, .g b _ => a == b
  | .v a _, .v b _ => a == b
  | _, _ => false
/-- Has the cycle of a pending result come, and that of every result for its register that lands before it? -/
def Ctx.landsNow (c : Ctx) (now : Nat) (p : Pending) : Bool :=
  decide (p.cyc ≤ now) && !c.pend.any (fun q => q.sameDest p && q.before p && decide (now < q.cyc))
/-- The pending results whose cycles have come land, in their order (R161, R207). -/
def State.landCycle (s : State) : State := s.landSome (s.cx.landsNow s.core.cyc)
/-- The last cycle in which a pending result lands before a trap (R207). -/
def Ctx.lastLand (c : Ctx) (now : Nat) : Nat := c.pend.foldl (fun m p => max m p.cyc) now

/-! ## Counters (R223) -/

/-- Add n to each counter of a context whose EVT is e. -/
def Ctx.tally (c : Ctx) (e n : Nat) : Ctx :=
  { c with ctr := c.ctr.map (fun w => if w.toNat / 2 ^ 56 = e ∧ 0 < e
                                        then BitVec.ofNat 64 (e * 2 ^ 56 + (w.toNat + n) % 2 ^ 56) else w) }
/-- Count an event of the context being issued. -/
def State.tally (s : State) (e n : Nat) : State := s.setCx (s.cx.tally e n)

/-! ## Words of the status block (R111, R112) -/

/-- The flags word. -/
def flagsWord (rpa : Bool) (rpc : BitVec 8) (prv d : Bool) : Nat :=
  rpa.toNat * 1048576 + rpc.toNat * 4096 + prv.toNat * 2 + d.toNat
/-- Write one word of the status block. -/
def State.putWs (s : State) (off : Nat) (v : Nat) : State := s.putGood (s.wsKey off) 8 v
/-- Write the counters to the workspace. -/
def State.storeCtrs (s : State) : State :=
  (List.range 8).foldl (fun s i => s.putWs (336 + 8 * i) (s.cx.ctr.toList.getD i 0).toNat) s
/-- The counter words in the workspace at `s.wp`. -/
def State.ctrWords (s : State) : Vector Word 8 := Vector.ofFn (fun i => s.word (s.wsKey (336 + 8 * i.val)))
/-- The counters are read from the workspace: at `rfe`, at a resume and at `swp` (R113, R223, R305). -/
def State.loadCtrs (s : State) : State := s.setCx { s.cx with ctr := s.ctrWords }
/-- What hardware writes at a stop and switch-out: pc, flags, entry pc, live-in mask, counters (R113). -/
def State.storeStatus (s : State) : State :=
  ((((s.putWs 256 s.cx.pc.toNat).putWs 264 (flagsWord s.cx.rpa s.cx.rpc s.cx.prv s.cx.dly)).putWs 320
    s.cx.entry.toNat).putWs 328 s.cx.liveIn.toNat).storeCtrs
/-- What it reads back at a resume (R113). -/
def State.loadStatus (s : State) : State :=
  let f := s.peek (s.wsKey 264) 8
  (s.setCx { s.cx with pc := s.word (s.wsKey 256) &&& ~~~7#64, prv := f.testBit 1, rpa := f.testBit 20,
                       rpc := BitVec.ofNat 8 (f / 4096), entry := s.word (s.wsKey 320) &&& ~~~7#64,
                       liveIn := BitVec.ofNat 32 (s.peek (s.wsKey 328) 4), dly := false }).loadCtrs

/-! ## Fault queues (R101, R102, R389, R395) -/

/-- A fault record of 64 bytes. -/
def faultBytes (cause pc npc addr d0 d1 : Word) (co : CoreId) (slc : Nat) (rgn md : BitVec 12) (ctx : Nat) (pace : Word) :
    BitVec 512 :=
  BitVec.ofNat 512 (cause.toNat + pc.toNat * 2 ^ 64 + npc.toNat * 2 ^ 128 + addr.toNat * 2 ^ 192 + d0.toNat * 2 ^ 256 +
    d1.toNat * 2 ^ 320 +
    (co.toNat + slc * 2 ^ 20 + rgn.toNat * 2 ^ 24 + md.toNat * 2 ^ 36 + ctx * 2 ^ 48) * 2 ^ 384 + pace.toNat * 2 ^ 448)

/-- Put a record into the root's queue. -/
def State.rootRecord (s : State) (r : BitVec 512) : State := { s with rootq := { s.rootq with recs := s.rootq.recs ++ [r] } }

/-- The record of an access of a slab controller that failed (R395). -/
def State.rootAccess (s : State) (cause : Nat) (va : Word) (rgn : BitVec 12) : State :=
  s.rootRecord (faultBytes (BitVec.ofNat 64 cause) 0 0 va 0 0 0 0 rgn s.modId 0 s.pace)

/-- The notification of a fault queue's handler slice: a message of one flit with RGN and the new FQTAIL (R101). -/
def State.notifyHandler (s : State) (e : Eff) (rgn : BitVec 12) (slab tail : Nat) : State :=
  let p : Packet := { hdr := mkHdr 3 1 0 e.fhmod e.fhcore (s.ctrlStamp slab) 0 (e.fhslc.toNat * 65536),
                      body := BitVec.ofNat 4096 (rgn.toNat + tail % 2 ^ 32 * 2 ^ 32), pois := 0 }
  let d := stationPos slab 0
  s.sendFrom d.1 d.2 5 p

/-- A write of n bytes into a fault queue's block by the slab controllers; one that fails leaves a record in the root queue instead (R395). -/
def State.queueWrite (s : State) (e : Eff) (rgn : BitVec 12) (slab va n v : Nat) : State :=
  match s.gwrite slab e.fpasid.toNat e.fs2f.toNat va n v with
  | .ok t => t
  | .bad c => (s.ctrlMark slab e.fpasid.toNat e.fs2f.toNat va 1).rootAccess c (BitVec.ofNat 64 va) rgn
/-- A record that does not fit is counted in FQLOST, which saturates (R101). -/
def State.queueLost (s : State) (e : Eff) (rgn : BitVec 12) (slab rcb lost : Nat) : State :=
  s.queueWrite e rgn slab (rcb + 132) 4 (min (lost + 1) 4294967295)
/-- The id of the region of a block that has been placed: the present one, or the last to be done (R101, R103). -/
def State.ownerId (s : State) (rcb : Word) : Option (BitVec 12) :=
  ((s.regions.find? (fun x => x.rcb == rcb)).map (·.id)).or ((s.past.find? (fun x => x.rcb == rcb)).map (·.id))
/-- FQTAIL + 1 is written behind a record and the handler notified (R101). -/
def State.queueAdvance (s : State) (e : Eff) (rgn : BitVec 12) (slab : Nat) (rcb : Word) (tail : Nat) : State :=
  match s.gwrite slab e.fpasid.toNat e.fs2f.toNat (rcb.toNat + 128) 4 (tail + 1) with
  | .bad c => (s.ctrlMark slab e.fpasid.toNat e.fs2f.toNat (rcb.toNat + 128) 1).rootAccess c (rcb + 128) rgn
  | .ok t => t.notifyHandler e ((t.ownerId rcb).getD rgn) slab (tail + 1)
/-- A record goes to FQBASE + 64 (FQTAIL mod 2^FQLOG) (R101). -/
def State.queuePut (s : State) (e : Eff) (rgn : BitVec 12) (slab : Nat) (r : BitVec 512) (rcb : Word) (tail : Nat) : State :=
  let va := e.fqbase.toNat + 64 * (tail % 2 ^ e.fqlog.toNat)
  match s.gwrite slab e.fpasid.toNat e.fs2f.toNat va 64 r.toNat with
  | .bad c => (s.ctrlMark slab e.fpasid.toNat e.fs2f.toNat va 1).rootAccess c (BitVec.ofNat 64 va) rgn
  | .ok t => t.queueAdvance e rgn slab rcb tail
/-- Does a queue hold 2^FQLOG records, by the word of FQTAIL, FQLOST and FQHEAD (R88, R101)? -/
def queueFull (e : Eff) (q : Nat) : Bool :=
  (fld q 31 0 + 4294967296 - fld q 95 64) % 4294967296 == 2 ^ e.fqlog.toNat
/-- Write a record to the queue of a fault domain (R101): at FQBASE + 64 (FQTAIL mod 2^FQLOG), FQTAIL then FQTAIL + 1, and the handler
notified; a full queue counts it in FQLOST; an access that fails is dropped and leaves a record in the root queue (R395). -/
def State.faultRecord (s : State) (e : Eff) (rgn : BitVec 12) (slab : Nat) (r : BitVec 512) : State :=
  match e.fdom with
  | none => s.rootRecord r
  | some rcb =>
    match s.gread slab e.fpasid.toNat e.fs2f.toNat (rcb.toNat + 128) 16 with
    | .bad c => (s.ctrlMark slab e.fpasid.toNat e.fs2f.toNat (rcb.toNat + 128) 0).rootAccess c (rcb + 128) rgn
    | .ok x => if queueFull e x.2 then x.1.queueLost e rgn slab rcb.toNat (fld x.2 63 32) else x.1.queuePut e rgn slab r rcb (fld x.2 31 0)

/-- A record about a slice of a core to its region's queue. -/
def State.sliceRecord (s : State) (x : Slice) (cause pc npc addr d0 d1 : Word) (co : CoreId) (i : Nat) (ctx : Nat) : State :=
  s.faultRecord x.eff x.rgn (slabOf co) (faultBytes cause pc npc addr d0 d1 co i x.rgn s.modId ctx s.pace)

/-! ## Boundaries and stops (R212-R214) -/

/-- A boundary at the context's pc: pending results land, the entry pc is the pc and the region count zero. -/
def State.boundary (s : State) : State :=
  let t := s.landAll
  t.setCx { t.cx with entry := t.cx.pc, count := 0, atEntry := true, bnd := false, settle := none }
/-- The context stops: its pending results land and its status is written (R113, R160, R214). -/
def State.stopHere (s : State) : State :=
  let t := s.landAll
  (t.setCx { t.cx with stopped := true, wait := none, fence := none, held := none, cap := none, settle := none }).storeStatus
/-- A context that was discarded in a wait, fence or region stops with its pc at the entry pc, and is to restart there (R100, R203). -/
def State.stopAtEntry (s : State) : State :=
  let t := s.landAll.tally 14 1
  (t.setCx { t.cx with pc := t.cx.entry, dly := false, rpa := false, count := 0, atEntry := true }).stopHere
/-- Are there pending results whose cycles have not come? -/
def Ctx.owing (c : Ctx) (now : Nat) : Bool := decide (now < c.lastLand now)
/-- The context discards its progress since the region entry and stops there, at once, or once its pending results have landed (R100, R160, R207). -/
def State.dropProgress (s : State) : State :=
  if s.cx.owing s.core.cyc then s.setCx { s.cx with wait := none, fence := none, held := none, cap := none, settle := some .entry }
  else s.stopAtEntry
/-- Do something to each context of a slice of the front core in turn, and come back to the present one. -/
def State.eachCtx (s : State) (i : Fin 16) (f : State → State) : State :=
  let i0 := s.core.cur
  let c0 := s.core.curCtx
  ((List.finRange 11).foldl (fun s c => f (s.focus i c)) s).focus i0 c0

/-! ## Halts and being told to stop (R203, R214, R220) -/

/-- PPV, bit 63 of a cause word (R204). -/
def withPpv (cause : Word) (prv : Bool) : Word := if prv then cause ||| 0x8000000000000000#64 else cause

/-- The record words 0x110-0x138 and the flags word of a trap, in the workspace at `s.wp` (R111, R207). -/
def State.writeRecord (s : State) (i : Info) (prv : Bool) (pc npc : Word) (d : Bool) : State :=
  ((((((s.putWs 272 (withPpv i.cause prv).toNat).putWs 280 pc.toNat).putWs 288 npc.toNat).putWs 296 i.addr.toNat).putWs 304
    i.d0.toNat).putWs 312 i.d1.toNat).putWs 264 (flagsWord s.cx.rpa s.cx.rpc true d)

/-- The results of the bundle being issued are dropped: one that takes a trap at issue has no effect in either slot (R205). -/
def State.dropOwn (s : State) : State :=
  s.setCx { s.cx with pend := s.cx.pend.filter (fun p => decide (p.seq < 2 * s.cx.seq)) }
/-- The record of a context that is halted: cause 0x14 at its pc, no vector, and the context stops (R220, R304). -/
def State.haltRecord (s : State) (cause : Word) (addr : Option Word) (d0 : Word) : State :=
  let c := s.cx
  let t := s.landAll
  let npc := if c.dly then c.outc else c.pc + 8
  let u := t.writeRecord { cause := cause, addr := addr.getD c.pc, d0 := d0, d1 := 0 } c.prv c.pc npc c.dly
  (u.setCx { u.cx with prv := true, unvec := true, stop := false, haltMark := false, wait := none, fence := none, held := none,
                       repT := u.cx.rep }).stopHere
/-- The context only waits for what is pending, to do something then; its wait, fence or held bundle is over (R160, R207). -/
def State.settles (s : State) (k : Settle) : State :=
  s.setCx { s.cx with wait := none, fence := none, held := none, cap := none, relHeld := false, spill := none, settle := some k }
/-- The context is halted to krabex or by `halt`: its pending results land, each in its own cycle, and then its record is written (R207, R220, R304). -/
def State.haltNow (s : State) (cause : Word) (addr : Option Word) (d0 : Word) : State :=
  if s.cx.owing s.core.cyc then
    (let t := s.settles (.halt cause addr d0)
     t.setCx { t.cx with atEntry := false, haltMark := false })
  else s.haltRecord cause addr d0
/-- A context marked by a halt is recorded with subcode 4, at the bundle that it would issue next; a bundle that is held has had no effect (R220). -/
def State.haltMarked (s : State) : State := (if s.cx.held.isSome then s.dropOwn else s).haltNow 0x414 none 0
/-- Is the context held for the conditions of a local release of its own (R203)? -/
def Ctx.heldRelease (c : Ctx) : Bool := c.held.isSome && c.relHeld
/-- Is the context in the middle of a bundle, before a delay bundle, or on its way to a boundary or into a trap, so that a halt only marks it? -/
def Ctx.midBundle (c : Ctx) : Bool :=
  (c.dly && c.wait.isNone && c.fence.isNone) || (c.held.isSome && !c.relHeld) || c.spill.isSome ||
    (match c.settle with
     | some .boundary => true
     | some (.trap ..) => true
     | _ => false)
/-- Is the halt of the context being recorded? -/
def Ctx.halting (c : Ctx) : Bool :=
  match c.settle with
  | some (.halt ..) => true
  | _ => false
/-- Another live context of a halted slice: subcode 4. One between a transfer bundle and its delay bundle first issues the delay
bundle, one in the middle of a bundle ends it, and one that is taking a trap takes it. -/
def State.haltCtx (s : State) : State :=
  if !s.cx.live || s.cx.unvec || s.cx.halting then s
  else if s.cx.midBundle then s.setCx { s.cx with haltMark := true }
  else s.haltMarked
/-- The context's wait, fence or held release ends because it has been told to stop: the record of a halt that marks it, or its progress since the
region entry is discarded (R100, R203, R220). -/
def State.giveUp (s : State) : State := if s.cx.haltMark then s.haltMarked else s.dropProgress
/-- A live context is told to stop: one at its entry stops at once, one in a bounded wait, a fence or held for a local release stops at once at its
entry, one in a `wait` ends the wait; any other goes on to its next boundary (R214, R288, R203). -/
def State.tellStop (s : State) : State :=
  let c := s.cx
  if !c.live || c.stopped || c.halting then s
  else
    match c.wait, c.fence with
    | some w, _ => if w.kind = .plain then s.setCx { c with stop := true, wait := some { w with limit := 0 } } else s.giveUp
    | none, some _ => s.giveUp
    | none, none =>
      if c.settle = some .entry then s
      else if c.heldRelease then s.giveUp
      else if c.atEntry && !c.dly then s.stopHere
      else s.setCx { c with stop := true }
/-- Every live context of a slice of the front core is told to stop. -/
def State.tellStopAll (s : State) (i : Fin 16) : State := s.eachCtx i State.tellStop
/-- The slice of the context leaves service: stopped (state 6) or suspended (state 5), and its other contexts are told to stop. -/
def State.sliceStops (s : State) (st : SliceSt) : State :=
  let t := s.setSl { s.sl with st := st, suspTick := s.pace }
  let u := t.tellStopAll t.core.cur
  { u with core := { u.core with evaluate := true } }

/-! ## Taking a trap (R207, R216) -/

/-- A halt of the slice (R217, R220): the raising context with its own information, every other live context with subcode 4. -/
def State.haltSlice (s : State) (i : Info) (st : SliceSt) : State :=
  let c0 := s.core.curCtx
  let t := s.haltNow i.cause (some i.addr) i.d0
  let u := t.eachCtx t.core.cur (fun s => if s.core.curCtx = c0 then s else s.haltCtx)
  let v := u.setSl { u.sl with halted := true, st := st, suspTick := u.pace }
  { v with core := { v.core with evaluate := true, took := true } }

/-- ENTERING A TRAP, with nothing pending any more (R207): the record and the flags word are written; PRV becomes 1 and the pc the vector of
`s.trv`; the first handler bundle issues 4 cycles later. A slice without a vector, or a second fault at the vector, stops, and
the record goes to the fault queue (R216). -/
def State.enterTrap (s : State) (i : Info) (prv : Bool) (pc npc : Word) (d : Bool) : State :=
  let vec : Word := BitVec.ofNat 64 (s.sl.trv.toNat * 8)
  let t := s.landAll
  if pc = vec && prv && s.sl.trv != 0 then
    let u := t.sliceRecord t.sl (withPpv i.cause prv ||| 0x4000000000000000#64) pc npc i.addr i.d0 i.d1 t.core.id
      t.core.cur.val t.core.curCtx.val
    let v := (u.setCx { u.cx with unvec := true, stopped := true, wait := none, fence := none, held := none, cap := none,
                                  settle := none }).sliceStops .stopped
    { v with core := { v.core with took := true } }
  else
    let u := t.writeRecord i prv pc npc d
    if s.sl.trv = 0 then
      let v := (u.setCx { u.cx with pc := pc, dly := false, count := 0, unvec := true, stopped := true, wait := none, fence := none,
                                    held := none, cap := none, settle := none, repT := u.cx.rep })
      let v1 := (((v.putWs 320 v.cx.entry.toNat).putWs 328 v.cx.liveIn.toNat).putWs 256 pc.toNat).storeCtrs
      let w := v1.sliceRecord v1.sl (withPpv i.cause prv) pc npc i.addr i.d0 i.d1 v1.core.id v1.core.cur.val v1.core.curCtx.val
      let x := w.sliceStops .stopped
      { x with core := { x.core with took := true } }
    else
      let v := u.setCx { u.cx with prv := true, pc := vec, dly := false, rpa := false, repT := u.cx.rep, count := 0,
                                   atEntry := false, wait := none, fence := none, held := none, cap := none, settle := none,
                                   xfer := none, bnd := false, spill := none,
                                   ready := u.core.cyc + 4 }
      let w := (v.putWs 320 v.cx.entry.toNat).putWs 328 v.cx.liveIn.toNat
      let x := (w.putWs 256 vec.toNat).storeCtrs
      { x with core := { x.core with took := true } }
/-- TAKING A TRAP (R207), known some cycles after the present one: it is counted, the pending results land, each in its own cycle, and the trap is
entered; with nothing to wait for, in this cycle. Cause 0x14 of an attached slice halts it (R217). -/
def State.takeTrapIn (s : State) (late : Nat) (i : Info) (prv : Bool) (pc npc : Word) (d : Bool) : State :=
  let t0 := s.tally 13 1
  let t := t0.setCx { t0.cx with after := none }
  if s.sl.attached && i.cause.toNat % 256 == 20 then
    (t.setCx { t.cx with prv := prv, pc := pc, dly := d, outc := npc }).haltSlice i .suspended
  else if s.cx.owing s.core.cyc || late != 0 then
    (let u := t.settles (.trap (s.core.cyc + late) i prv pc npc d)
     let v := u.setCx { u.cx with atEntry := false, xfer := none, bnd := false }
     { v with core := { v.core with took := true } })
  else t.enterTrap i prv pc npc d
/-- Taking a trap that is known in the present cycle. -/
def State.takeTrap (s : State) (i : Info) (prv : Bool) (pc npc : Word) (d : Bool) : State := s.takeTrapIn 0 i prv pc npc d

/-- A trap at issue of the bundle being issued (R207, R210), known some cycles later: its pc, the bundle that follows in the flow of control, and D in
a delay bundle. -/
def State.trapIn (s : State) (late : Nat) (i : Info) : State :=
  s.takeTrapIn late i s.cx.prv s.cx.pc (if s.cx.dly then s.cx.outc else s.cx.pc + 8) s.cx.dly
/-- A trap at issue of the bundle being issued. -/
def State.trapNow (s : State) (i : Info) : State := s.trapIn 0 i

/-! ## Returning from a trap (R209, R306) -/

/-- The context continues as by `rfe` from the record in the workspace at `s.wp`: PRV from PPV, D cleared, the bundle at the trap
pc with the next-pc as its outcome where D was 1, RPA and RPC restored, entry pc, live-in mask and counters reloaded. -/
def State.returnFrom (s : State) : State :=
  let fl := s.peek (s.wsKey 264) 8
  let cause := s.peek (s.wsKey 272) 8
  let c := s.cx
  (s.setCx { c with pc := s.word (s.wsKey 280) &&& ~~~7#64, dly := fl.testBit 0, outc := s.word (s.wsKey 288) &&& ~~~7#64,
                    prv := cause.testBit 63, rpa := fl.testBit 20, rpc := BitVec.ofNat 8 (fl / 4096), rep := c.repT,
                    entry := s.word (s.wsKey 320) &&& ~~~7#64, liveIn := BitVec.ofNat 32 (s.peek (s.wsKey 328) 4), count := 0,
                    atEntry := false, unvec := false }).loadCtrs

/-! ## Causes at issue (R204, R205) -/

/-- A cause that applies to a bundle at issue, with its place in the order of R205. -/
structure Trap where
  rank : Nat
  info : Info
  /-- Cycles after issue in which it is known (R206). -/
  late : Nat := 0
  deriving DecidableEq, Repr

/-- An information record with a cause code and its information bits. -/
def infoOf (code bits : Nat) (addr d0 d1 : Word) : Info :=
  { cause := BitVec.ofNat 64 (code + bits), addr := addr, d0 := d0, d1 := d1 }
/-- Illegal instruction 0x01 in a slot. -/
def illegal (sl : SlotId) : Trap := { rank := 3, info := infoOf 1 (sl.bit * 256) 0 0 0 }
/-- Illegal ordering 0x02. -/
def badOrder : Trap := { rank := 5, info := infoOf 2 0 0 0 0 }
/-- Privileged 0x03, with the special-register number if any. -/
def privileged (n : Nat) : Trap := { rank := 4, info := infoOf 3 0 0 (BitVec.ofNat 64 n) 0 }
/-- Delay-slot control transfer 0x05. -/
def delayTransfer : Trap := { rank := 2, info := infoOf 5 0 0 0 0 }
/-- The place of an address or access cause among the others: 0x06, 0x07, 0x17, 0x08, 0x09, 0x0A, 0x0B, 0x0D, 0x11, 0x0E. -/
def accessRank (code : Nat) : Nat :=
  match code with
  | 6 => 8
  | 7 => 9
  | 23 => 10
  | 8 => 11
  | 9 => 12
  | 10 => 13
  | 11 => 14
  | 13 => 15
  | 17 => 16
  | _ => 17
/-- An address or access cause of the C instruction. -/
def accessTrap (code bits : Nat) (addr d0 d1 : Word) : Trap := { rank := accessRank code, info := infoOf code bits addr d0 d1 }
/-- Misaligned 0x06. -/
def misaligned (a : Word) : Trap := accessTrap 6 0 a 0 0
/-- Local address out of range 0x07. -/
def outOfRange (a : Word) : Trap := accessTrap 7 0 a 0 0
/-- A condition that causes a trap. -/
def when_ (b : Bool) (t : Trap) : List Trap := if b then [t] else []
/-- The trap taken among those that apply: lowest in the order of R205, the first listed among equals. -/
def pickTrap : List Trap → Option Trap
  | [] => none
  | t :: ts =>
    match pickTrap ts with
    | none => some t
    | some u => if u.rank < t.rank then some u else some t
/-- The floating-point trap of R206, for the flags an instruction of latency l would raise. -/
def State.fpTrap (s : State) (f : BitVec 6) (l : Nat) : List Trap :=
  let ten := s.cx.fpc.toNat / 256 % 32
  if ten = 0 then []
  else
    let en := f.toNat % 32 &&& ten
    when_ (en != 0) { rank := 18, info := infoOf 21 (en * 256) 0 0 0, late := l - 1 }
/-- A trap at issue, taken in the cycle in which it is known (R206, R207). -/
def State.trapAt (s : State) (t : Trap) : State := s.dropOwn.trapIn t.late t.info
/-- An instruction with its checks: the trap taken at issue, or its effect. -/
def State.guarded (s : State) (ts : List Trap) (eff : State → State) : State :=
  match pickTrap ts with
  | some t => s.trapAt t
  | none => eff s
/-- What an instruction or event answers. -/
abbrev Out := Host.Outcome State Fault Refusal

end Sys2Proof.Machine
end

