-- ==== Sys2Proof/Machine/Operands.lean ====
section
/-! DEFINITION. Machine.Operands: immediates, effective addresses, the local address map and the stack window (R107-R116, R309),
and the elements of vector registers (R225, R254, R362). -/

namespace Sys2Proof.Machine

/-! ## Immediates -/

/-- A field read as signed, to 64 bits. -/
def sext64 {w : Nat} (v : BitVec w) : Word := v.signExtend 64
/-- An immediate form's value: its short field scaled, or X (R251, R307). -/
def immVal {w : Nat} (scale : Nat) : Imm w → Word
  | .short v => sext64 v * BitVec.ofNat 64 scale
  | .ext x => sext64 x
/-- An offset of format CV. -/
def offVal : Option (BitVec 32) → Word
  | none => 0
  | some x => sext64 x
/-- The low 8n bits of a value, sign-extended to 64 bits. -/
def sextN (n : Nat) (v : Nat) : Word :=
  match n with
  | 1 => (BitVec.ofNat 8 v).signExtend 64
  | 2 => (BitVec.ofNat 16 v).signExtend 64
  | 4 => (BitVec.ofNat 32 v).signExtend 64
  | _ => BitVec.ofNat 64 v
/-- The low 8n bits of a value, zero-extended. -/
def zextN (n : Nat) (v : Nat) : Word := BitVec.ofNat 64 (v % 2 ^ (8 * n))

/-! ## Ordering fields (R187) -/

/-- Is an ordering legal on a load, a store? Any is legal on an atomic. -/
def loadOrd (o : BitVec 2) : Bool := o == 0 || o == 1
def storeOrd (o : BitVec 2) : Bool := o == 0 || o == 2
/-- Is it a release? -/
def isRelease (o : BitVec 2) : Bool := o.getLsbD 1

/-! ## Local addresses -/

/-- Where a local access performs: bytes of a core's own stores by key, a kick word, or overflow memory by global address. -/
inductive Place where
  | own (key : Nat)
  | kick (u : PumpId)
  | glob (va : Word)
  deriving DecidableEq, Repr

/-- Which local accesses an instruction makes, for the fates of R309. -/
inductive LKind where
  /-- `ld`, `ldx` -/
  | load
  /-- `st`, `stx` -/
  | store
  /-- `vld`, `vldm` -/
  | vload
  /-- `vst`, `vstm` -/
  | vstore
  /-- `vldt`, `vstt`, `vgather`, `vscatter`: scratchpad only -/
  | vplain
  /-- `amo`, `cas`: scratchpad only -/
  | atomic
  deriving DecidableEq, Repr

/-- The located access, or the cause it takes. -/
inductive Located where
  | found (p : Place)
  | bad (t : Trap)
  deriving DecidableEq, Repr

/-- First byte of a slice's data area: after the save area and the eleven workspaces (R95). -/
def Slice.dataBase (x : Slice) : Nat :=
  x.base + (if x.acc then 4096 else 0) + wsBytes (vecCount x.eff.vcc) + 10 * wsBytes (vecCount x.eff.hvc)
/-- `s.spl` as an offset. -/
def Slice.splOff (x : Slice) : Nat := x.spl.toNat * 1024
/-- Which of the three cases of R114 a byte of depth d falls in: 0 scratchpad, 1 overflow, 2 neither. -/
def Slice.winCase (x : Slice) (d : Nat) : Nat :=
  let l := x.top - x.splOff
  if d ≤ l then 0 else if d ≤ l + fld x.ovp.toNat 15 0 * 65536 then 1 else 2
/-- Is an address of global form with its must-be-zero bits zero (R107)? -/
def isGlobal (a : Word) : Bool := fld a.toNat 63 57 == 64
/-- Is an address of core-space form with its must-be-zero bits zero (R107)? -/
def isCoreSpace (a : Word) : Bool := fld a.toNat 63 62 == 1 && fld a.toNat 29 19 == 0

/-- The stack window (R114, R115). -/
def State.locateWin (s : State) (k : LKind) (a : Word) (n align : Nat) : Located :=
  let x := s.sl
  let d := 2097152 - a.toNat
  if k = .atomic then .bad (outOfRange a)
  else if a.toNat % align ≠ 0 then .bad (misaligned a)
  else if k = .vplain ∨ 2097152 < a.toNat + n then .bad (outOfRange a)
  else if x.top < x.splOff ∨ x.splOff < x.dataBase then .bad (outOfRange a)
  else if x.winCase d ≠ x.winCase (d + 1 - n) then .bad (misaligned a)
  else match x.winCase d with
    | 0 => .found (.own (coreKey s.core.id (x.top - d)))
    | 1 =>
      let va := (x.ovp &&& 0xFFFFFFFFFFFF0000#64) - BitVec.ofNat 64 (d - (x.top - x.splOff))
      if isGlobal va then .found (.glob va) else .bad (outOfRange a)
    | _ => .bad (accessTrap 23 0 a 0 0)

/-- A kick word (R179): an 8-byte store only, at bytes 0-7 of its entry. -/
def State.locateKick (s : State) (k : LKind) (a : Word) (n align : Nat) : Located :=
  if k ≠ .atomic ∧ a.toNat % align ≠ 0 then .bad (misaligned a)
  else if k ≠ .store ∨ 8 ≤ a.toNat % 16 then .bad (outOfRange a)
  else if n ≠ 8 ∨ a.toNat % 16 ≠ 0 then .bad (misaligned a)
  else .found (.kick (BitVec.ofNat 12 (slabOf s.core.id * 64 + (a.toNat - 462848) / 16 % 64)))

/-- The fate of a local access of n bytes at an address (R107-R109, R309). -/
def State.locate (s : State) (k : LKind) (a : Word) (n align : Nat) : Located :=
  let o := a.toNat
  if o < 393216 then
    (if !s.sl.inPart o n then .bad (outOfRange a) else if o % align ≠ 0 then .bad (misaligned a)
     else .found (.own (coreKey s.core.id o)))
  else if 458752 ≤ o ∧ o + n ≤ 459776 then
    (if k = .atomic then .bad (outOfRange a)
     else if o % align ≠ 0 then .bad (misaligned a)
     else if k = .load ∨ k = .store then .found (.own (coreKey s.core.id o)) else .bad (outOfRange a))
  else if 462848 ≤ o ∧ o < 463872 then s.locateKick k a n align
  else if 1048576 ≤ o ∧ o < 2097152 then s.locateWin k a n align
  else .bad (outOfRange a)

/-! ## Overflow accesses (R116) -/

/-- The walk of an overflow access under the slice's PASID, with the checks at its home: present aperture, access table. -/
def State.walkOver (s : State) (va : Word) (acc : Nat) : Walk Walked :=
  walk s s.sl.eff.pasid.toNat s.sl.eff.s2f.toNat (va.toNat % 2 ^ 57) acc

/-! ## Watchpoints (R219) -/

/-- Does a watchpoint watch this slice's access to a byte range, and from which byte? -/
def watchHit (w : Word) (i : Fin 16) (a n : Nat) (wr : Bool) : Option Nat :=
  let v := w.toNat
  let size := 8 * 2 ^ fld v 55 52
  let lo := fld v 20 3 * 8 / size * size
  if v.testBit 63 && (v.testBit 58 || fld v 62 59 == i.val) && (if wr then v.testBit 56 else v.testBit 57) &&
      decide (a < lo + size) && decide (lo < a + n)
    then some (max a lo) else none
/-- An access of n bytes at a local address raises the after trap of the first watchpoint it meets, in an attached slice. -/
def State.watch (s : State) (a n : Nat) (wr : Bool) : State :=
  if s.sl.attached && s.cx.after.isNone then
    match watchHit s.core.wpt[0] s.core.cur a n wr, watchHit s.core.wpt[1] s.core.cur a n wr with
    | some b, _ => s.setCx { s.cx with after := some (infoOf 20 512 s.cx.pc (BitVec.ofNat 64 b) 0) }
    | none, some b => s.setCx { s.cx with after := some (infoOf 20 (512 + 65536) s.cx.pc (BitVec.ofNat 64 b) 0) }
    | none, none => s
  else s

/-! ## Elements (R225, R254, R362) -/

/-- Bits of an element of a type. -/
def elemBits (ty : BitVec 4) : Nat := 2 ^ lgBits ty
/-- Elements in a register. -/
def elemCount (ty : BitVec 4) : Nat := 4096 / elemBits ty
/-- Element k of w bits. -/
def elem (v : VWord) (w k : Nat) : Nat := v.toNat / 2 ^ (w * k) % 2 ^ w
/-- The elements of w bits of a register, element 0 first. -/
def elems (v : VWord) (w : Nat) : List Nat := (List.range (4096 / w)).map (elem v w)
/-- A register from elements of w bits, element 0 first; missing ones are zero. -/
def packNat (w : Nat) : List Nat → Nat
  | [] => 0
  | x :: xs => x % 2 ^ w + 2 ^ w * packNat w xs
def pack (w : Nat) (xs : List Nat) : VWord := BitVec.ofNat 4096 (packNat w xs)
/-- A w-bit value read as two's complement. -/
def toSigned (w v : Nat) : Int := if v < 2 ^ (w - 1) then (v : Int) else (v : Int) - (2 ^ w : Nat)
/-- The low w bits of an integer. -/
def ofInt (w : Nat) (v : Int) : Nat := (v % (2 ^ w : Nat)).toNat
/-- Is a type signed? Integer codes are even, and i4 (R254). -/
def isSignedTy (ty : BitVec 4) : Bool := (isInt ty && !ty.getLsbD 0) || ty == 14
/-- An element of an integer type as an integer. -/
def intOf (ty : BitVec 4) (v : Nat) : Int := if isSignedTy ty then toSigned (elemBits ty) v else v
/-- Mask bit k of a register. -/
def maskBit (v : VWord) (k : Nat) : Bool := v.getLsbD k

end Sys2Proof.Machine
end

