-- ==== Sys2Proof/Machine/Sched.lean ====
section
/-! DEFINITION. Machine.Sched: time, the engine status word, the dispatcher and its switches (R96-R104), the end of a bundle
(R160, R165, R210-R214), and the waits and fences of a context (R191-R202, R288-R301, R319, R327, R341). -/

namespace Sys2Proof.Machine

/-! ## Time (R10, R22) -/

/-- Fabric cycles in a pace tick, N. -/
def State.ticksN (s : State) : Nat := if s.fullService then 1024 else 512
/-- Compute step of a slab. -/
def State.slabStep (s : State) (slab : Nat) : Nat := (s.power.steps.toList.getD slab 16).toNat
/-- Core cycle within the tick that is the last to have begun by the present fabric cycle. -/
def State.tickCycle (s : State) (slab : Nat) : Nat := if s.fullService then (s.slabStep slab * (s.fcyc + 1) + 31) / 32 - 1 else s.fcyc
/-- Does a core of a slab begin a core cycle in the present fabric cycle? 32 n core cycles are spread evenly over a tick (log entry 12). -/
def State.begins (s : State) (slab : Nat) : Bool :=
  if s.fullService then
    let n := s.slabStep slab
    decide (32 * ((n * s.fcyc + 31) / 32) < n * (s.fcyc + 1))
  else true

/-! ## Gangs and hush frames (R59, R62, R65) -/

/-- ACT and GANG of an armed record (R59). -/
def Armed.act (a : Armed) : Nat := fld a.recd.toNat 2 0
def Armed.gang (a : Armed) : BitVec 16 := BitVec.ofNat 16 (fld a.recd.toNat 31 16)
/-- The action of an entry at its present attempt: that of the record, or at a retry the inverse of its undo (R68): 0 launch, 1 pre-empt,
2 resume, 3 halt. -/
def Armed.doing (a : Armed) : Nat := if a.undone then (if a.act = 1 then 1 else 2) else a.act
/-- The slices of a gang: core and index. -/
def State.gangSlices (s : State) (g : BitVec 16) : List (CoreId × Fin 16) :=
  s.cores.flatMap (fun c => ((List.finRange 16).filter (fun i => c.slices[i].v && c.slices[i].gang == g)).map (fun i => (c.id, i)))
/-- The opening ticks of a slice's windows: that of its window, and that of one still to open (R299). -/
def Slice.openings (x : Slice) : List Nat :=
  (x.window.map (·.toNat)).toList ++ (match x.go with
    | some g => if g.tick.toNat < g.w.toNat then [g.w.toNat] else []
    | none => [])
/-- A tick as one slice of a gang defers a pre-empt or halt at it: to the first tick after a window that is open since before its hush frame, or that
opens at it; one due in the hush frame does not open (R62, R65). -/
def Slice.defers (x : Slice) (k : Nat) : Nat :=
  if x.disc then
    x.openings.foldl (fun t w => if (w + 1 < t ∧ t ≤ w + x.eff.xlen.toNat) ∨ w = t then w + x.eff.xlen.toNat else t) k
  else k
/-- The tick deferred by the windows of some slices until none defers it. -/
def deferred (l : List Slice) : Nat → Nat → Nat
  | 0, k => k
  | fuel + 1, k => deferred l fuel (l.foldl (fun t x => x.defers t) k)
/-- The action tick (R62): K, or for a pre-empt or halt that meets an open window of the outgoing gang the first tick after the window closes; once the
attempt is over, that which it was. -/
def State.actTick (s : State) (a : Armed) : Nat :=
  if a.acted || a.straggled then a.k.toNat + a.moved
  else if a.doing = 1 ∨ a.doing = 3 then
    let l := (s.gangSlices a.gang).map (fun p => s.sliceAt p.1 p.2)
    deferred l (l.length + 1) a.k.toNat
  else a.k.toNat
/-- Is a tick the hush frame of a gang: the tick before a pre-empt or halt, or before an undo takes effect (R65, R68)? -/
def State.hushFor (s : State) (gang : BitVec 16) (tick : Nat) : Bool :=
  gang != 0 && s.starter.armed.any (fun a => a.gang == gang && a.final.isNone &&
    ((!a.acted && !a.straggled && (a.doing == 1 || a.doing == 3) && s.actTick a == tick + 1) ||
     (match a.undoAt with
      | none => false
      | some u => u.toNat == tick + 1)))

/-! ## The engine status word (R176, R177) -/

/-- `s.engst`: BUSY where a channel counts jobs, DONE and FLT. -/
def Slice.engst (x : Slice) : Nat :=
  (List.finRange 16).foldl (fun a c => a + 2 ^ (4 * c.val) * ((if x.jobs[c] = 0 then 0 else 1) +
    (if x.done.getLsbD c.val then 2 else 0) + (if x.flt.getLsbD c.val then 4 else 0))) 0
/-- A kick or matrix issue of a channel. -/
def Slice.jobBegin (x : Slice) (c : Fin 16) : Slice := { x with jobs := x.jobs.set c (x.jobs[c] + 1) }
/-- A completion of a channel: one update of count, DONE and FLT. -/
def Slice.jobEnd (x : Slice) (c : Fin 16) (fault : Bool) : Slice :=
  { x with jobs := x.jobs.set c (x.jobs[c] - 1), done := x.done ||| BitVec.ofNat 16 (2 ^ c.val),
           flt := if fault then x.flt ||| BitVec.ofNat 16 (2 ^ c.val) else x.flt }

/-! ## Slices and the dispatcher (R96-R98) -/

/-- Is the slice resident (states 1 to 6)? -/
def Slice.resident (x : Slice) : Bool := x.v && x.st != .free && x.st != .leaving
/-- The slice becomes ready: BREM = BUD, DEAD = P + PER; a pace slice begins to count (R96, R104). -/
def Slice.becomeReady (x : Slice) (pace : Word) : Slice :=
  { x with st := .ready, brem := x.bud, dead := BitVec.ofNat 48 (pace.toNat + x.per.toNat), counting := x.disc }
/-- Is the slice charged for a cycle (R99, R104)? -/
def Slice.charged (x : Slice) : Bool := !x.disc || x.counting
/-- Does one slice come before another by CLS, then DEAD (R97)? Equal ones keep their table order. -/
def Slice.ahead (x y : Slice) : Bool :=
  decide (x.cls.toNat < y.cls.toNat) || (x.cls == y.cls && decide (x.dead.toNat < y.dead.toNat))
/-- The slice that R97 names. -/
def Core.best (c : Core) : Option (Fin 16) :=
  (List.finRange 16).foldl (fun b i =>
    if c.slices[i].st = .ready ∨ c.slices[i].st = .running then
      (match b with
       | none => some i
       | some j => if c.slices[i].ahead c.slices[j] then some i else some j)
    else b) none

/-- A dispatcher trace record of the front core, the oldest of the slab's 4,096 dropped (R222). -/
def State.traceRec (s : State) (ev : Nat) (out inc : Option (Fin 16)) : State :=
  if !s.core.trace then s
  else
    let slab : BitVec 6 := BitVec.ofNat 6 (slabOf s.core.id)
    let o := (out.map (·.val)).getD 0
    let i := (inc.map (·.val)).getD 0
    let brem := match inc with
      | some j => s.core.slices[j].brem.toNat
      | none => 0
    let r : BitVec 128 := BitVec.ofNat 128 (s.pace.toNat % 2 ^ 48 + s.tickCycle slab.toNat * 2 ^ 48 + ev * 2 ^ 58 +
      (s.core.id.toNat + o * 2 ^ 20 + i * 2 ^ 24 + brem * 2 ^ 32) * 2 ^ 64)
    { s with traces := (slab, r) :: ((s.traces.filter (fun t => t.1 == slab)).take 4095 ++ s.traces.filter (fun t => t.1 != slab)) }
/-- An event of R97 has occurred on the front core. -/
def State.evaluateNow (s : State) : State := { s with core := { s.core with evaluate := true } }

/-! ## The end of a bundle -/

/-- No trap or departure of the context has been seen yet in this piece of its work. -/
def State.begun (s : State) : State := { s with core := { s.core with took := false } }

/-- Where the flow of control goes after the bundle at the pc: the transfer's outcome after a delay bundle, the next pass of a
repetition, else the next bundle (R165, R210). -/
def Ctx.moved (c : Ctx) : Ctx :=
  match c.xfer with
  | some o => { c with pc := c.pc + 8, dly := true, outc := o, xfer := none }
  | none =>
    if c.dly then { c with pc := c.outc, dly := false }
    else if c.rpa && c.pc == c.rep.base + BitVec.ofNat 64 (8 * c.rep.n) then
      (if c.rpc.toNat + 1 < c.rep.c then { c with pc := c.rep.base + 8, rpc := c.rpc + 1 }
       else { c with pc := c.pc + 8, rpa := false, rpc := 0 })
    else { c with pc := c.pc + 8 }

/-- The after trap of the bundle, once no delay bundle is to come (R207, R210): `halt` halts the slice, or stops it where it is not
attached, with a copy of the record in the fault queue (R304); any other is taken at the bundle that comes next. -/
def State.takeAfter (s : State) : State :=
  let c := s.cx
  match c.after with
  | none => s
  | some i =>
    if c.dly then s
    else
      let t := s.setCx { c with after := none }
      if i.cause.toNat % 65536 = 1044 then
        (if s.sl.attached then t.haltSlice i .suspended
         else
           let u := t.haltSlice i .stopped
           let v := u.setSl { u.sl with halted := false }
           v.sliceRecord v.sl (withPpv i.cause c.prv) c.pc (c.pc + 8) i.addr i.d0 i.d1 v.core.id v.core.cur.val v.core.curCtx.val)
      else t.takeTrap i c.prv c.pc (c.pc + 8) false

/-- What follows a bundle: its after trap, or, once no delay bundle is to come, the record of a halt that marks the context, or its stop at a
boundary (R207, R214, R220). -/
def State.afterBundle (s : State) : State :=
  let v := s.takeAfter
  if v.core.took || v.cx.dly then v
  else if v.cx.haltMark then v.haltNow 0x414 none 0
  else if v.cx.stop && v.cx.atEntry then v.stopHere
  else v
/-- The stall count that a bundle counts as for eligibility: the one it encodes, or 7 where its slice is stepped (R159). -/
def State.waitOut (s : State) (stall : Nat) : Nat := if s.sl.ctxs.any (fun x => x.stepping) then 7 else stall
/-- The after trap of a bundle: the one it has raised, or that of a single step (R221). -/
def State.stepAfter (s : State) : Option Info :=
  if s.cx.stepping && s.sl.attached && s.cx.after.isNone then some (infoOf 20 768 s.cx.pc 0 0) else s.cx.after
/-- The pc moves past the bundle, its distance is added with the stall count it encodes, and the context waits (R159, R160). -/
def State.pastBundle (s : State) (stall plus ready : Nat) : State :=
  let c := s.cx
  s.setCx { c.moved with
    dist := c.dist + 1 + stall + plus, seq := c.seq + 1, cap := none, relHeld := false, ready := max c.ready ready, after := s.stepAfter }
/-- The bundle ends. A boundary that follows it takes effect once every pending result has landed, each in its own cycle (R160, R207). -/
def State.advance (s : State) (stall plus ready : Nat) : State :=
  let t := s.pastBundle stall plus ready
  if t.cx.bnd && !t.cx.dly then
    (if t.cx.owing t.core.cyc then t.setCx { t.cx with settle := some .boundary } else t.boundary.afterBundle)
  else t.afterBundle
/-! ## Ordering (R191, R193) -/

/-- Was the operation issued by a context of this module's cores? -/
def Op.issuedBy (o : Op) (co : CoreId) (i : Fin 16) (c : Fin 11) : Bool :=
  !o.foreign && o.pump.isNone && o.iss.core == co && o.iss.slc == i && o.iss.ctx == c
/-- Does an operation hold back a release that follows it until it is performed (R191)? -/
def Op.pending (o : Op) : Bool :=
  match o.req with
  | .arrival .. => false
  | .go _ => false
  | _ => true
/-- Are all operations of the context before one complete? -/
def State.quietBefore (s : State) (co : CoreId) (i : Fin 16) (c : Fin 11) (id : Nat) : Bool :=
  !(s.ops.any (fun o => o.issuedBy co i c && o.pending && decide (o.id < id)))
/-- The further wait of R193 for an effective scope: a tick has started since the last store to a page with MC = 0 was acknowledged. -/
def State.pastTick (s : State) (mc0 : Option Word) (scope : BitVec 3) : Bool :=
  decide (scope.toNat < 3) ||
  (match mc0 with
   | none => true
   | some t => decide (t.toNat < s.pace.toNat))
/-- Do the conditions of R191 and R193 hold for the context at a scope? -/
def State.released (s : State) (scope : BitVec 3) : Bool :=
  decide (s.cx.locFree ≤ s.core.cyc) && s.quietBefore s.core.id s.core.cur s.core.curCtx s.nextId && s.pastTick s.cx.mc0 scope

/-! ## Waits -/

/-- The superstep window's closing tick. -/
def Slice.closing (x : Slice) : Nat := (x.window.getD 0).toNat + x.eff.xlen.toNat
/-- Bytes of a receive-queue slot: 32 (MAXF + 1), MAXF 17 to 31 taken as 16 (R325). -/
def Slice.rqMaxF (x : Slice) : Nat := min x.rqMax.toNat 16
def Slice.rqSize (x : Slice) : Nat := 32 * (x.rqMaxF + 1)
/-- Local offset of the record of a count. -/
def Slice.rqAddr (x : Slice) (n : Nat) : Nat := x.rqBase.toNat * 32 + x.rqSize * (n % x.rqSlots.toNat)
/-- Bit h of a mask of helpers: is helper h live (R294)? -/
def Slice.liveMask (x : Slice) (m : Word) : Nat :=
  (List.finRange 11).foldl (fun (a : Nat) (c : Fin 11) => if c ≠ 0 ∧ m.getLsbD c.val ∧ x.ctxs[c].live then a + 2 ^ c.val else a) 0

/-- A fault carried by a completion slot or a record is taken at the wait that consumes it (R211). -/
def State.takeRecord (s : State) (r : FaultRec) : State := s.takeTrap r.info r.iss.prv r.iss.pc r.iss.npc r.iss.d
/-- What one poll of a wait finds. -/
inductive Poll where
  | waiting
  | done (s : State)
  | trapped (s : State)
  deriving DecidableEq, Repr

/-- Poll a `cwait`: the slot's ST (R318, R319). -/
def State.pollSlot (s : State) (w : Waiting) : Poll :=
  let k := coreKey s.core.id w.arg.toNat
  let st := s.peek k 8 % 4
  if st = 2 then .done (s.pendG .c w.rd (s.word (k + 8)) 3)
  else if st = 3 then
    let cause := s.word (k + 8)
    let pc := s.word (k + 16)
    .trapped (s.takeTrap { cause := cause, addr := s.word (k + 32), d0 := s.word (k + 40), d1 := s.word (k + 48) }
      (cause.getLsbD 63) (pc &&& ~~~7#64) (s.word (k + 24)) (pc.getLsbD 0))
  else .waiting
/-- Poll an `sbar`: the go message for its superstep number, and the opening of its window, which a hush frame puts off (R65, R299). -/
def State.pollSbar (s : State) (w : Waiting) : Poll :=
  match s.sl.go with
  | none => .waiting
  | some g =>
    if g.num ≠ w.arg then .waiting
    else if g.w.toNat ≤ g.tick.toNat then .trapped (s.trapNow (infoOf 14 1024 0 g.w g.tick))
    else if s.sl.window ≠ some g.w then .waiting
    else .done (s.setSl { s.sl with vote := g.v, opened := true })
/-- Poll an `xend` (R301). -/
def State.pollXend (s : State) : Poll :=
  if !s.sl.opened then .done s
  else if s.pace.toNat < s.sl.closing then .waiting
  else .done (s.setSl { s.sl with opened := false })
/-- Poll an `mwait`: the slice's commands are complete; a recorded fault is taken and discarding ends (R341). -/
def State.pollMatrix (s : State) : Poll :=
  if s.sl.jobs[(0 : Fin 16)] ≠ 0 then .waiting
  else
    match s.sl.mflt with
    | none => .done s
    | some r => .trapped ((s.setSl { s.sl with mflt := none }).takeRecord r)
/-- Poll the wait the context is in. -/
def State.poll (s : State) (w : Waiting) : Poll :=
  match w.kind with
  | .cwait => s.pollSlot w
  | .qwait =>
    if s.sl.rqTail = s.sl.rqHead then .waiting
    else .done (s.pendG .c w.rd (BitVec.ofNat 64 (s.sl.rqAddr s.sl.rqHead.toNat)) 2)
  | .hjoin => if s.sl.liveMask w.arg = 0 then .done s else .waiting
  | .sbar => s.pollSbar w
  | .xend => s.pollXend
  | .mwait => s.pollMatrix
  | .plain => if w.limit.toNat ≤ w.count then .done s else .waiting

/-- The named helpers that a poll of an `hjoin` finds live (R294). -/
def State.seen (s : State) (w : Waiting) : Nat := if w.kind = .hjoin then s.sl.liveMask w.arg else 0
/-- Distance a wait adds beside 1 + S: that of `wait n` (R288). -/
def Waiting.plus (w : Waiting) : Nat := if w.kind = .plain then w.arg.toNat else 0
/-- Is there a limit, and has the count reached it (R295)? -/
def Waiting.expired (w : Waiting) : Bool :=
  w.kind != .plain && w.limit != BitVec.allOnes 64 && decide (w.limit.toNat ≤ w.count) && !w.cancelled
/-- A poll of the context's wait in the cycle of issue: where it completes, the bundle ends as any other; else a context marked by a halt is recorded
at it, and one told to stop stops at its entry, or ends a `wait` (R100, R214, R220, R288). -/
def State.waitAtIssue (s : State) (w : Waiting) : State :=
  match s.poll w with
  | .waiting =>
    let v := { w with seen := s.seen w }
    if s.cx.haltMark then s.haltNow 0x414 none 0
    else if !s.cx.stop then s.setCx { s.cx with wait := some v }
    else if w.kind = .plain then s.setCx { s.cx with wait := some { v with limit := 0 } }
    else s.dropProgress
  | .done t => t
  | .trapped t => t
/-- A poll in a later cycle: where it completes, the bundle ends in this cycle; at the start of a tick the next bundle may issue
in this very cycle (R295). -/
def State.waitLater (s : State) (atTick : Bool) : State :=
  match s.cx.wait with
  | none => s
  | some w =>
    match s.poll w with
    | .waiting => s
    | .done t => (t.setCx { t.cx with wait := none }).begun.advance w.stall w.plus (s.core.cyc + s.waitOut w.stall + (if atTick then 0 else 1))
    | .trapped t => t
/-- The system pace: the next tick whose count is a multiple of M (R57). -/
def State.nextSystemTick (s : State) : Nat :=
  let m := s.config.mPace.toNat + 1
  (s.pace.toNat / m + 1) * m
/-- The tick whose start ends an sc fence whose earlier accesses are complete now. -/
def State.scTick (s : State) (scope : BitVec 3) : Word :=
  BitVec.ofNat 64 (if scope.toNat < 4 then s.pace.toNat + 1 else s.nextSystemTick)
/-- A fence in a cycle: once the conditions hold it ends, and an sc fence first waits for its tick (R200, R202). -/
def State.fenceLater (s : State) : State :=
  match s.cx.fence with
  | none => s
  | some f =>
    let ends (t : State) : State := (t.setCx { t.cx with fence := none }).begun.advance f.stall 0 t.core.cyc
    match f.tick with
    | some k => if k.toNat ≤ s.pace.toNat then ends s else s
    | none =>
      if !s.released f.scope then s
      else if f.sc then
        s.setCx { s.cx with fence := some { f with tick := some (s.scTick f.scope) } }
      else ends s
/-- A later cycle of a context of the running slice: counters of cycles live and waiting, the wait's count and poll, the fence. -/
def State.ctxCycle (s : State) : State :=
  let c := s.cx
  if !c.live then s
  else
    let t := s.tally 2 1
    if c.stopped then t
    else
      match c.wait with
      | some w =>
        let u := t.tally 5 1
        (u.setCx { u.cx with wait := some { w with count := w.count + 1, seen := u.seen w } }).waitLater false
      | none => t.fenceLater

/-! ## Switches (R97-R100) -/

/-- Has every live context of a slice stopped? -/
def Slice.allStopped (x : Slice) : Bool := x.ctxs.all (fun c => !c.live || c.stopped)
/-- Begin a switch from the running slice to another. -/
def State.beginSwitch (s : State) (inc : Option (Fin 16)) : State :=
  let out := s.core.running
  let t := { s with core := { s.core with switch := some { out := out, inc := inc, phase := .stopping, left := 0 }, evaluate := false } }
  let u := t.traceRec 0 out inc
  match out with
  | none => u
  | some i =>
    let x := u.core.slices[i]
    let v := if x.st = .running then { u with core := { u.core with slices := u.core.slices.set i { x with st := .ready } } } else u
    v.tellStopAll i
/-- Evaluate the rule of R97 where an event has occurred and no switch is in progress. -/
def State.dispatch (s : State) : State :=
  if !s.core.evaluate || s.core.switch.isSome then s
  else if s.core.best = s.core.running then { s with core := { s.core with evaluate := false } }
  else s.beginSwitch s.core.best
/-- Save the bank to the slice's save area, its first 4 KiB. -/
def State.drainBank (s : State) (x : Slice) : State :=
  s.putGood (coreKey s.core.id x.base) 4096 (s.peek (bankKey s.core.id 0 0) 4096)
/-- Restore the bank from the save area. -/
def State.restoreBank (s : State) (x : Slice) : State :=
  s.putGood (bankKey s.core.id 0 0) 4096 (s.peek (coreKey s.core.id x.base) 4096)
/-- The counters of a stopped context are read from its workspace, or written to it (R113, R223). -/
def State.takeCtrs (s : State) : State := if s.cx.live && s.cx.stopped then s.loadCtrs else s
def State.leaveCtrs (s : State) : State := if s.cx.live && s.cx.stopped then s.storeCtrs else s
/-- The workspace pointer change: the incoming slice is the running slice, its counters count from now on, and its first search starts at context 0
(R99, R158). -/
def State.toPointer (s : State) (w : Switch) : State :=
  let t := { s with core := { s.core with running := w.inc, lastCtx := 10,
                                          switch := some { w with phase := .pointer, left := if w.inc.isSome then 6 else 1 } } }
  match w.inc with
  | none => t
  | some i =>
    let x := t.core.slices[i]
    (if x.st = .ready then { t with core := { t.core with slices := t.core.slices.set i { x with st := .running } } } else t).eachCtx i State.takeCtrs
/-- Have the contexts of the outgoing slice stopped, and is the matrix queue quiet (R99, R175)? -/
def State.switchReady (s : State) (w : Switch) : Bool :=
  s.core.mq.isEmpty && (match w.out with
    | none => true
    | some i => s.core.slices[i].allStopped)
/-- Move a switch on to its next part where the present one is over. -/
def State.switchPart (s : State) (w : Switch) : State :=
  match w.phase with
  | .stopping =>
    if !s.switchReady w then s
    else
      (match w.out with
       | none => s.toPointer w
       | some i =>
         let x := s.core.slices[i]
         if x.acc && x.v && x.st != .leaving then
           { s with core := { s.core with switch := some { w with phase := .drain, left := 32 } } }
         else s.toPointer w)
  | .drain =>
    if w.left ≠ 0 then s
    else
      (match w.out with
       | none => s.toPointer w
       | some i => (s.drainBank s.core.slices[i]).toPointer w)
  | .pointer =>
    if w.left ≠ 0 then s
    else
      (match w.inc with
       | none => s
       | some i =>
         if s.core.slices[i].acc then { s with core := { s.core with switch := some { w with phase := .restore, left := 32 } } } else s)
  | .restore => s
/-- A cycle of the switch in progress. -/
def State.switchCycle (s : State) : State :=
  match s.core.switch with
  | none => s
  | some w =>
    let t := s.switchPart w
    match t.core.switch with
    | none => t
    | some v => { t with core := { t.core with switch := some { v with left := v.left - 1 } } }
/-- Is the last part of the switch over at the end of this cycle? -/
def Core.switchOver (c : Core) : Bool :=
  match c.switch with
  | none => false
  | some w =>
    match w.phase, w.inc with
    | .pointer, none => w.left == 0
    | .pointer, some i => w.left == 0 && !c.slices[i].acc
    | .restore, _ => w.left == 0
    | _, _ => false
/-- A stopped context goes on: from its record as by `rfe`, or from its saved status (R84, R113, R214, R220). -/
def State.resumeCtx (s : State) : State :=
  let c := s.cx
  if !c.live || !c.stopped then s
  else
    let t := if c.unvec then s.returnFrom else (let u := s.loadStatus; u.setCx { u.cx with count := 0, atEntry := true })
    t.setCx { t.cx with stopped := false, stop := false, haltMark := false, ready := max t.cx.ready (t.core.cyc + 1) }
/-- A stopped context of a slice that has been switched in goes on, with the counters that it has had since the pointer change (R99). -/
def State.resumeIn (s : State) : State :=
  if !s.cx.live || !s.cx.stopped then s
  else
    let t := s.resumeCtx
    t.setCx { t.cx with ctr := s.cx.ctr }
/-- The slice to which the cycle is charged: the running slice, but for one that is halted (R99, R220). -/
def State.charged (s : State) : Option (Fin 16) :=
  match s.core.running with
  | none => none
  | some i =>
    let x := s.core.slices[i]
    if x.charged && !(x.halted && x.st == .suspended) && (x.st == .running || s.core.switch.isSome) then some i else none
/-- A cycle is charged to a slice; reads in the cycle do not see it yet (R392). -/
def State.charge (s : State) (c : Option (Fin 16)) : State :=
  match c with
  | none => s
  | some i =>
    let x := s.core.slices[i]
    { s with core := { s.core with slices := s.core.slices.set i { x with brem := BitVec.ofNat 32 (x.brem.toNat - 1) } } }

/-! ## Contexts that settle -/

/-- A context that a halt marks is recorded once it is in the middle of nothing, and one told to stop that stands at its entry stops (R214, R220). -/
def State.heed (s : State) : State :=
  if !s.cx.live || s.cx.stopped || s.cx.midBundle || s.cx.settle.isSome then s
  else if s.cx.haltMark then s.haltMarked
  else if s.cx.stop && s.cx.atEntry && !s.cx.dly then s.stopHere
  else s
/-- A context that has come to rest only after its slice was resumed goes on at once (R84). -/
def State.goOn (s : State) : State := if s.sl.st = .running ∧ s.core.switch.isNone = true then s.resumeCtx else s
/-- A cycle of a context whose pending results are landing before a boundary, a stop, a trap or a halt. -/
def State.settleTurn (s : State) : State :=
  match s.cx.settle with
  | none => s
  | some k =>
    let t := s.landCycle
    if !t.cx.pend.isEmpty then t
    else
      match k with
      | .entry => t.stopAtEntry.goOn
      | .boundary => (t.setCx { t.cx with ready := max t.cx.ready (t.core.cyc + 1) }).boundary.begun.afterBundle
      | .trap due i prv pc npc d => if t.core.cyc < due then t else (t.setCx { t.cx with settle := none }).enterTrap i prv pc npc d
      | .halt cause addr d0 => ((t.setCx { t.cx with settle := none }).haltRecord cause addr d0).goOn

end Sys2Proof.Machine
end

