-- ==== Sys2Proof/Machine/Async.lean ====
section
/-! DEFINITION. Machine.Async: access tables (R45, R46), and what every asynchronous operation does at issue: the issuer's record
(R211), the completion slot (R318), the operation put into the machine (R321). -/

namespace Sys2Proof.Machine

/-! ## Injection (R35, R47, R65) -/

/-- The subcode with which a request of a core to its own edge station is refused before it is injected: the module not present, or the
path-table entry of its station, local column div 8, invalid (R35 case 2, R36, R47). -/
def State.globalRefusalAt (s : State) (co : CoreId) : Option Nat :=
  if !s.reachable s.modId then some 4
  else if entryValid (s.pathEntry co (co.toNat % 128 / 8)) then none else some 6
/-- That of the front core. -/
def State.globalRefusal (s : State) : Option Nat := s.globalRefusalAt s.core.id
/-! ## Issue -/

/-- What an operation carries of the bundle being issued (R211). -/
def State.issuer (s : State) : Issuer :=
  { pc := s.cx.pc, npc := if s.cx.dly then s.cx.outc else s.cx.pc + 8, d := s.cx.dly, prv := s.cx.prv, core := s.core.id,
    slc := s.core.cur, ctx := s.core.curCtx, rgn := s.sl.rgn, gang := s.sl.gang, uid := s.sl.uid }
/-- An operation of the bundle being issued, in a stage. -/
def State.newOp (s : State) (kind : BitVec 8) (slot dst : Word) (ord : BitVec 2) (scope : BitVec 3) (r : Req) (st : Stage) : Op :=
  { id := s.nextId, kind := kind, slot := slot, dst := dst, ord := ord, scope := scope, iss := s.issuer, smod := s.modId,
    host := false, req := r, stage := st, due := s.dueTime, foreign := false, origin := none, mc0 := false, after := s.cx.mc0,
    cancel := none, pump := none }
/-- It enters the machine. -/
def State.addOp (s : State) (o : Op) : State := { s with ops := s.ops ++ [o], nextId := s.nextId + 1 }.draw
/-- Module and core of a core-space address (R107). -/
def spaceMod (a : Word) : BitVec 12 := BitVec.ofNat 12 (fld a.toNat 61 50)
def spaceCore (a : Word) : CoreId := BitVec.ofNat 20 (fld a.toNat 49 30)
/-- The header of a request to a core-space address, for its route. -/
def State.spacePacket (s : State) (a : Word) : Packet := { hdr := mkHdr 0 0 0 (spaceMod a) (spaceCore a) (s.ctrlStamp 0) 0 0, body := 0, pois := 0 }
/-- The subcode with which a request of a core is refused before it is injected (R35, R36, R47). -/
def State.injectRefusalAt (s : State) (co : CoreId) (a : Word) : Option Nat :=
  if isGlobal a then s.globalRefusalAt co
  else if !s.reachable (spaceMod a) then some 4
  else
    match s.routeFrom (corePos co).1 (corePos co).2 (s.spacePacket a) with
    | .inl _ => none
    | .inr c => some c
/-- That of the front core. -/
def State.injectRefusal (s : State) (a : Word) : Option Nat := s.injectRefusalAt s.core.id a
/-- Where the packets of a core's requests to its own edge station are led (R35 case 2). -/
def State.stationLed (s : State) (co : CoreId) : Led :=
  let p : Packet := { hdr := 0, body := 0, pois := 0 }
  follow (p.routeBy (s.pathEntry co (co.toNat % 128 / 8))).segs (corePos co).1 (corePos co).2
/-- The router at which a request of a core is discarded on its way, none where it reaches its edge station, its target core or an off-module
port (R32, R35, R36). A core of this module beyond the grid is on no route. -/
def State.strayAt (s : State) (co : CoreId) (r : Req) : Option (Nat × Nat) :=
  let toStation : Option (Nat × Nat) :=
    let home := stationPos (slabOf co) (co.toNat % 128 / 8)
    match s.stationLed co with
    | .ends row col port => if port = 5 ∧ (row, col) = home then none else some (row, col)
    | .lost row col => some (row, col)
  match r with
  | .mem a =>
    if isGlobal a.addr then toStation
    else
      (match s.routeFrom (corePos co).1 (corePos co).2 (s.spacePacket a.addr) with
       | .inr _ => none
       | .inl q =>
         match follow q.segs (corePos co).1 (corePos co).2 with
         | .ends row col port => if spaceMod a.addr = s.modId ∨ (port = 6 ∧ (portAtPos row col).isSome) then none else some (row, col)
         | .lost row col => some (row, col))
  | .tst .. => toStation
  | .tadv .. => toStation
  | .tld .. => toStation
  | .tlow .. => toStation
  | _ => none
/-- A request of a core that has been injected is on its way, or is lost at the router where its route fails, which counts a misroute (R32). -/
def State.onItsWay (s : State) (o : Op) : State :=
  match s.strayAt o.iss.core o.req with
  | none => s
  | some p => { s with ops := s.ops.map (fun (x : Op) => if x.id == o.id then { x with stage := .lost } else x) }.bump (p.1 / 128 * 8 + p.2 / 128) 2
/-- A boundary follows the bundle (R212). -/
def State.bound (s : State) : State := s.setCx { s.cx with bnd := true }
/-- n bytes at a local address: aligned (0x06), then in the partition and outside both windows (0x07). -/
def State.rangeTraps (s : State) (a : Word) (n align : Nat) : List Trap :=
  when_ (a.toNat % align ≠ 0) (misaligned a) ++ when_ (393216 ≤ a.toNat || !s.sl.inPart a.toNat n) (outOfRange a)
/-- Does a completion slot at an address pass R318: 64-byte aligned and inside the partition? -/
def State.slotTraps (s : State) (a : Word) : List Trap := s.rangeTraps a 64 64
/-- Issue writes the slot's state word: ST = 1 and KIND (R318). -/
def State.slotPending (s : State) (a : Word) (kind : Nat) : State :=
  s.putGood (coreKey s.core.id a.toNat) 8 (kind * 256 + 1)
/-- Number of outstanding split-phase and cistern operations of the front core (R321, R343). -/
def State.outstanding (s : State) : Nat :=
  (s.ops.filter (fun o => !o.foreign && o.iss.core == s.core.id && o.kind != 0)).length

/-! ## Completion (R215, R318, R344) -/

/-- Write a slot as done with a value, or as faulted with the issuer's record; then its state word. -/
def State.slotDone (s : State) (co : CoreId) (a : Word) (kind : BitVec 8) (v : Word) : State :=
  let k := coreKey co a.toNat
  (s.putGood (k + 8) 8 v.toNat).putGood k 8 (kind.toNat * 256 + 2)
def State.slotFault (s : State) (co : CoreId) (a : Word) (kind : BitVec 8) (r : FaultRec) : State :=
  let k := coreKey co a.toNat
  ((((((s.putGood (k + 8) 8 (withPpv r.info.cause r.iss.prv).toNat).putGood (k + 16) 8 (r.iss.pc.toNat + r.iss.d.toNat)).putGood
    (k + 24) 8 r.iss.npc.toNat).putGood (k + 32) 8 r.info.addr.toNat).putGood (k + 40) 8 r.info.d0.toNat).putGood (k + 48) 8
    r.info.d1.toNat).putGood k 8 (kind.toNat * 256 + 3)
/-- Is the slice that issued something still the one in its entry, in states 1 to 6 (R215)? -/
def State.issuerThere (s : State) (i : Issuer) : Bool :=
  let x := s.sliceAt i.core i.slc
  x.resident && x.rgn == i.rgn && x.uid == i.uid
/-- A record about a slice that may have gone goes to the fault queue of the region that was placed as its uid says, also once that is done (R103, R215). -/
def State.uidRecord (s : State) (uid : Nat) (rgn : BitVec 12) (r : BitVec 512) : State :=
  match s.regions.find? (fun x => x.uid == uid && x.id == rgn) with
  | some g => s.faultRecord g.eff rgn g.slab.toNat r
  | none =>
    match s.past.find? (fun x => x.uid == uid && x.id == rgn) with
    | some g => s.faultRecord g.eff rgn g.slab.toNat r
    | none => s.rootRecord r
/-- A fault whose issuer has gone: a record of the region's fault queue, with D in bit 0 of the trap pc (R211, R215; DEDUCED from R318, log entry 94). -/
def State.lateFault (s : State) (r : FaultRec) : State :=
  s.uidRecord r.iss.uid r.iss.rgn (faultBytes (withPpv r.info.cause r.iss.prv) (r.iss.pc + BitVec.ofNat 64 r.iss.d.toNat) r.iss.npc r.info.addr r.info.d0 r.info.d1 r.iss.core
    r.iss.slc.val r.iss.rgn s.modId r.iss.ctx.val s.pace)
/-- A fault of an operation: into its slot, or to the fault queue. -/
def State.opFault (s : State) (o : Op) (i : Info) : State :=
  if s.issuerThere o.iss then s.slotFault o.iss.core o.slot o.kind ⟨i, o.iss⟩ else s.lateFault ⟨i, o.iss⟩

end Sys2Proof.Machine
end

