-- ==== Sys2Proof/Machine/Control.lean ====
section
/-! DEFINITION. Machine.Control: the control, context and system instructions of word C (R281-R306, R319, R327, R341). -/

namespace Sys2Proof.Machine

/-! ## Places (R282) -/

/-- Is the bundle being issued in a repetition body? -/
def State.inBody (s : State) : Bool := s.cx.rpa
/-- Not in a repetition body. -/
def State.noBody (s : State) : List Trap := when_ s.inBody (illegal .c)
/-- The control context only; helpers only. -/
def State.controlOnly (s : State) : List Trap := when_ (s.core.curCtx != 0) (illegal .c)
def State.helperOnly (s : State) : List Trap := when_ (s.core.curCtx == 0) (illegal .c)
/-- Free discipline only; pace discipline only. -/
def State.freeOnly (s : State) : List Trap := when_ s.sl.disc (illegal .c)
def State.paceOnly (s : State) : List Trap := when_ (!s.sl.disc) (illegal .c)
/-- Supervisor only, for an instruction or for a special register. -/
def State.supOnly (s : State) (n : Nat) : List Trap := when_ (!s.cx.prv) (privileged n)

/-! ## Nothing -/

def execNopC (s : State) : Out := .next s
def execHintC (_v : BitVec 22) (s : State) : Out := .next s

/-! ## Special registers (R261, R290, R291) -/

/-- Is a special register supervisor-only (access RS)? -/
def srSup (n : Nat) : Bool := n == 15 || n == 16 || n == 19 || n == 21
/-- The value of a special register. -/
def State.readSr (s : State) (n : Nat) : Word :=
  let c := s.cx
  let x := s.sl
  match n with
  | 0 => c.wp
  | 1 => BitVec.ofNat 64 s.core.curCtx.val
  | 2 => s.core.id.setWidth 64
  | 3 => s.modId.setWidth 64
  | 4 => x.eff.pasid.setWidth 64
  | 5 => x.rgn.setWidth 64
  | 6 => BitVec.ofNat 64 (s.pace.toNat % 2 ^ 48)
  | 7 => BitVec.ofNat 64 s.core.cyc
  | 8 => x.dead.setWidth 64
  | 9 => x.brem.setWidth 64
  | 10 => BitVec.ofNat 64 x.engst
  | 11 => c.fpc.setWidth 64
  | 12 => c.fps.setWidth 64
  | 13 => c.e8ov.setWidth 64
  | 14 => BitVec.ofNat 64 x.chk.toNat
  | 15 => BitVec.ofNat 64 (x.rqBase.toNat * 32)
  | 16 => BitVec.ofNat 64 (x.rqMax.toNat * 65536 + x.rqSlots.toNat)
  | 17 => x.rqHead.setWidth 64
  | 18 => x.rqTail.setWidth 64
  | 19 => BitVec.ofNat 64 (x.spl.toNat * 1024)
  | 20 => x.ovp
  | _ => BitVec.ofNat 64 (x.trv.toNat * 8)
/-- Bit k of each channel of an `s.engst` value, channel 0 first. -/
def chanBits (m k : Nat) : BitVec 16 :=
  BitVec.ofNat 16 ((List.range 16).foldl (fun a i => a + (if m.testBit (4 * i + k) then 2 ^ i else 0)) 0)
/-- A special register with a value written, its reserved and read-only fields ignored; DONE and FLT of `s.engst` may be written at either privilege
(log entry 76). -/
def State.writeSr (s : State) (n : Nat) (v : Word) : State :=
  let c := s.cx
  let x := s.sl
  let m := v.toNat
  match n with
  | 10 => s.setSl { x with done := chanBits m 1, flt := chanBits m 2 }
  | 11 => s.setCx { c with fpc := (v.setWidth 16) &&& 0x9F03#16 }
  | 12 => s.setCx { c with fps := v.setWidth 6 }
  | 13 => s.setCx { c with e8ov := v.setWidth 16 }
  | 14 => s.setSl { x with chk := v.getLsbD 0 }
  | 15 => s.setSl { x with rqBase := BitVec.ofNat 16 (m / 32), rqHead := 0, rqTail := 0 }
  | 16 => s.setSl { x with rqMax := BitVec.ofNat 5 (m / 65536), rqSlots := v.setWidth 16, rqHead := 0, rqTail := 0 }
  | 17 => s.setSl { x with rqHead := v.setWidth 32 }
  | 19 => s.setSl { x with spl := BitVec.ofNat 9 (m / 1024) }
  | 20 => s.setSl { x with ovp := v }
  | 21 => s.setSl { x with trv := BitVec.ofNat 13 (m / 8) }
  | _ => s
/-- A special register as the bundle reads it: as it stands, or as it stood when a bundle that is held issued (R177, R290). -/
def State.issueSr (s : State) (n : Nat) : Word :=
  match s.cx.cap with
  | none => s.readSr n
  | some c => c.sr.toList.getD n 0
/-- A held bundle keeps what it has read when it issued (R113, R281). -/
def State.capture (s : State) : State :=
  s.setCx { s.cx with cap := some { g := Vector.ofFn (fun i => s.readG (BitVec.ofFin i)), v := Vector.ofFn (fun i => s.readV (BitVec.ofFin i)),
                                    sr := Vector.ofFn (fun i => s.readSr i.val), cyc := s.core.cyc } }
/-- The checks of `getsr` and `setsr`. -/
def State.srTraps (s : State) (n : BitVec 12) : List Trap :=
  when_ (decide (22 ≤ n.toNat)) (illegal .c) ++ (if srSup n.toNat then s.supOnly n.toNat else [])
def execGetsr (rd : GReg) (n : BitVec 12) (s : State) : Out :=
  .next (s.guarded (s.srTraps n) (fun s => s.pendG .c rd (s.issueSr n.toNat) 2))
def execSetsr (ra : GReg) (n : BitVec 12) (s : State) : Out :=
  .next (s.guarded (s.srTraps n) (fun s => s.writeSr n.toNat (s.readG ra)))

/-! ## Transfers (R283, R284) -/

/-- The checks of a transfer: not in a delay bundle, not in a body. -/
def State.transferTraps (s : State) : List Trap := when_ s.cx.dly delayTransfer ++ s.noBody
/-- P + 8 times a displacement. -/
def State.rel (s : State) (d : Word) : Word := s.cx.pc + d * 8
/-- The transfer's outcome is the target, or P + 16 where it is not taken. -/
def State.transfer (s : State) (taken : Bool) (target : Word) : State :=
  s.setCx { s.cx with xfer := some (if taken then target else s.cx.pc + 16) }
/-- A relative transfer. -/
def State.branch (s : State) (taken : Bool) (d : Word) : Out := .next (s.guarded s.transferTraps (fun s => s.transfer taken (s.rel d)))
/-- g31 takes the return point. -/
def State.link (s : State) : State := s.pendG .c 31 (s.cx.pc + 16) 1
/-- The checks of a transfer to a register target. -/
def State.targetTraps (s : State) (a : Word) : List Trap := s.transferTraps ++ when_ (a.toNat % 8 != 0) (misaligned a)

def execBr (d : BitVec 22) (s : State) : Out := s.branch true (sext64 d)
def execCall (d : BitVec 22) (s : State) : Out :=
  .next (s.guarded s.transferTraps (fun s => s.link.transfer true (s.rel (sext64 d))))
def execBt (r : GReg) (b : BitVec 6) (d : Imm 10) (s : State) : Out := s.branch ((s.readG r).getLsbD b.toNat) (immVal 1 d)
def execBf (r : GReg) (b : BitVec 6) (d : Imm 10) (s : State) : Out := s.branch (!(s.readG r).getLsbD b.toNat) (immVal 1 d)
def execBnz (r : GReg) (d : Imm 10) (s : State) : Out := s.branch (s.readG r != 0) (immVal 1 d)
def execBz (r : GReg) (d : Imm 10) (s : State) : Out := s.branch (s.readG r == 0) (immVal 1 d)
def execBse (b : BitVec 6) (d : Imm 10) (s : State) : Out := s.branch ((s.issueSr 10).getLsbD b.toNat) (immVal 1 d)
def execBsc (b : BitVec 6) (d : Imm 10) (s : State) : Out := s.branch (!(s.issueSr 10).getLsbD b.toNat) (immVal 1 d)
def execCallr (ra : GReg) (s : State) : Out :=
  .next (s.guarded (s.targetTraps (s.readG ra)) (fun s => s.link.transfer true (s.readG ra)))
def execJr (ra : GReg) (s : State) : Out := .next (s.guarded (s.targetTraps (s.readG ra)) (fun s => s.transfer true (s.readG ra)))
def execRet (s : State) : Out := .next (s.guarded (s.targetTraps (s.readG 31)) (fun s => s.transfer true (s.readG 31)))

/-! ## Guards, constants, waiting, repetition (R285-R289) -/

/-- A guard acts on its partner only (`step`): by itself it changes nothing. -/
def execGuard (_r : GReg) (_b : BitVec 6) (s : State) : Out := .next s
def execGuardn (_r : GReg) (_b : BitVec 6) (s : State) : Out := .next s
/-- Does a guard let its partner execute? Any other instruction does. -/
def State.partnerRuns (s : State) : Instr → Bool
  | .guard r b => (s.readG r).getLsbD b.toNat
  | .guardn r b => !(s.readG r).getLsbD b.toNat
  | _ => true
def execLi (rd : GReg) (v : Imm 17) (s : State) : Out := .next (s.pendG .c rd (immVal 1 v) 1)
def execLih (rd : GReg) (x : BitVec 32) (s : State) : Out := .next (s.pendG .c rd (x ++ (s.readG rd).setWidth 32) 1)
def execWait (n : BitVec 12) (s : State) : Out :=
  .next (s.waitAtIssue { kind := .plain, rd := 0, arg := n.setWidth 64, limit := n.setWidth 64, count := 0, stall := s.core.stall,
                         seen := 0, cancelled := false })
def execRept (n : BitVec 3) (c : BitVec 8) (k : BitVec 5) (s : State) : Out :=
  .next (s.guarded (when_ s.cx.dly (illegal .c) ++ s.noBody) (fun s =>
    s.setCx { s.cx with rpa := true, rpc := 0, rep := ⟨s.cx.pc, n.toNat + 1, c.toNat + 1, k.toNat⟩ }))

/-! ## Helpers (R292-R294) -/

/-- Workspace of helper h in the partition (R95). -/
def Slice.helperWp (x : Slice) (h : Nat) : Nat :=
  x.base + (if x.acc then 4096 else 0) + wsBytes (vecCount x.eff.vcc) + (h - 1) * wsBytes (vecCount x.eff.hvc)
/-- The checks of `start`: control context, not in a body, helper 1 to 10, not live. -/
def State.startTraps (s : State) (h : BitVec 5) : List Trap :=
  s.controlOnly ++ s.noBody ++ when_ (h == 0 || decide (11 ≤ h.toNat) || s.sl.ctxs[Fin.ofNat 11 h.toNat].live) (illegal .c)
def execStart (h : BitVec 5) (d : Imm 17) (s : State) : Out :=
  .next (s.guarded (s.startTraps h) (fun s =>
    let c := s.cx
    let wp := s.sl.helperWp h.toNat
    let pc := s.rel (immVal 1 d)
    let t := s.putGood (coreKey s.core.id (wp + 264)) 136 0
    let f := { Ctx.fresh with live := true, wp := BitVec.ofNat 64 wp, pc := pc, prv := c.prv, fpc := c.fpc, entry := pc,
                              ready := t.core.cyc + 1, stop := c.stop, haltMark := c.haltMark,
                              mc0 := s.sl.ctxs[Fin.ofNat 11 h.toNat].mc0 }
    (t.setSl { t.sl with ctxs := t.sl.ctxs.set (Fin.ofNat 11 h.toNat) f }).bound))
/-- An instruction before which pending results land: held while they land, each in its own cycle (R160, R207). -/
def State.afterLanding (s : State) (act : State → State) : State :=
  if s.cx.owing s.core.cyc then (let t := s.landCycle; t.setCx { t.cx with held := some (t.core.cyc + 1) }) else act s.landAll
/-- The context issues nothing more. -/
def State.leave (s : State) : State := { s with core := { s.core with took := true } }
def execHend (s : State) : Out :=
  .next (s.guarded (s.helperOnly ++ s.noBody) (fun s => s.afterLanding (fun s =>
    let t := s.storeCtrs
    (t.setCx { t.cx with live := false }).leave)))
/-- A bounded wait of a kind with an operand and a limit register, at issue. -/
def State.boundedWait (s : State) (k : WaitKind) (rd : GReg) (arg limit : Word) : State :=
  s.waitAtIssue { kind := k, rd := rd, arg := arg, limit := limit, count := 0, seen := 0, stall := s.core.stall,
                  cancelled := false }
def execHjoin (ra rb : GReg) (s : State) : Out :=
  .next (s.guarded (s.controlOnly ++ s.noBody) (fun s => s.boundedWait .hjoin 0 (s.readG ra) (s.readG rb)))

/-! ## Other bounded waits (R319, R327, R341) -/

def execCwait (rd ra rb : GReg) (s : State) : Out :=
  .next (s.guarded (s.noBody ++ s.slotTraps (s.readG ra)) (fun s => s.boundedWait .cwait rd (s.readG ra) (s.readG rb)))
def execQwait (rd rb : GReg) (s : State) : Out :=
  .next (s.guarded s.noBody (fun s => s.boundedWait .qwait rd 0 (s.readG rb)))
def execMwait (rb : GReg) (s : State) : Out :=
  .next (s.guarded (s.noBody ++ when_ (!s.sl.acc) (accessTrap 17 256 s.cx.pc 0 0))
    (fun s => s.boundedWait .mwait 0 0 (s.readG rb)))

/-! ## Regions and the dispatcher (R296-R298) -/

def execMark (x : BitVec 32) (s : State) : Out :=
  .next (s.guarded (when_ s.cx.dly (illegal .c) ++ s.noBody) (fun s => s.afterLanding (fun s => (s.setCx { s.cx with liveIn := x &&& ~~~1#32 }).bound)))
/-- The effect of `yield` on a slice that is in service; one that is suspended, stopped or leaving stays so (R98). -/
def Slice.yielded (x : Slice) (pace : Word) : Slice :=
  if x.st ≠ .running ∧ x.st ≠ .ready then x
  else if x.cls = 3 then { x with brem := x.bud, dead := BitVec.ofNat 48 (pace.toNat + x.per.toNat) } else { x with st := .idle }
def execYield (s : State) : Out :=
  .next (s.guarded (s.controlOnly ++ s.freeOnly ++ s.noBody) (fun s => s.afterLanding (fun s =>
    ((s.setSl (s.sl.yielded s.pace)).traceRec 3 (some s.core.cur) none).evaluateNow.bound)))
def execSexit (s : State) : Out :=
  .next (s.guarded (s.controlOnly ++ s.noBody) (fun s => s.afterLanding (fun s =>
    let t := s.setCx { s.cx with stopped := true }
    let u := (t.setSl { t.sl with st := .leaving, why := 0 }).tellStopAll t.core.cur
    (u.traceRec 4 (some u.core.cur) none).evaluateNow.leave)))

/-! ## Supersteps (R299-R301) -/

/-- `sbar` with an operation 0 or, 1 and, 2 maximum: the arrival is sent once, counting stops, and the context waits. -/
def State.sbar (s : State) (op : BitVec 2) (rd ra rb : GReg) : Out :=
  .next (s.guarded (s.controlOnly ++ s.paceOnly ++ s.noBody) (fun s =>
    let n := s.readG rd
    let t := if s.sl.lastArr = some n then s
      else (s.setSl { s.sl with lastArr := some n }).addOp (s.newOp 0 0 0 0 4 (.arrival n (s.readG ra) op) .flight)
    let u := t.setSl { t.sl with counting := false }
    u.boundedWait .sbar 0 n (s.readG rb)))
def execSbarOr (rd ra rb : GReg) (s : State) : Out := s.sbar 0 rd ra rb
def execSbarAnd (rd ra rb : GReg) (s : State) : Out := s.sbar 1 rd ra rb
def execSbarMax (rd ra rb : GReg) (s : State) : Out := s.sbar 2 rd ra rb
def execVote (rd : GReg) (s : State) : Out := .next (s.guarded s.paceOnly (fun s => s.pendG .c rd s.sl.vote 2))
def execXend (rb : GReg) (s : State) : Out :=
  .next (s.guarded (s.controlOnly ++ s.paceOnly ++ s.noBody) (fun s => s.boundedWait .xend 0 0 (s.readG rb)))

/-! ## Traps and handlers (R302-R306) -/

/-- The bundle raises an after trap. -/
def State.raiseAfter (s : State) (i : Info) : State := s.setCx { s.cx with after := some i }
def execTrap (k : BitVec 16) (s : State) : Out :=
  .next (s.guarded s.noBody (fun s => s.raiseAfter (infoOf 19 (k.toNat * 256) s.cx.pc 0 0)))
def execBrk (s : State) : Out := .next (s.guarded s.noBody (fun s => s.raiseAfter (infoOf 20 0 s.cx.pc 0 0)))
def execHalt (s : State) : Out :=
  .next (s.guarded (s.supOnly 0 ++ s.noBody) (fun s => s.raiseAfter (infoOf 20 1024 s.cx.pc 0 0)))
/-- The checks of `swp` (R305). -/
def State.swpTraps (s : State) (a : Word) : List Trap :=
  s.supOnly 0 ++ s.noBody ++ when_ (a.toNat % 512 != 0) (misaligned a) ++
    when_ (decide (393216 ≤ a.toNat) || !s.sl.inPart a.toNat (wsBytes (s.sl.declared s.core.curCtx))) (outOfRange a)
/-- Is a result of a bundle before the one being issued still to land? -/
def State.owesBefore (s : State) : Bool := s.cx.pend.any (fun p => decide (p.issued < s.cx.dist) && decide (s.core.cyc < p.cyc))
/-- The results of bundles before the one being issued whose cycles have come land. -/
def State.landBefore (s : State) : State := s.landSome (fun p => decide (p.issued < s.cx.dist) && s.cx.landsNow s.core.cyc p)
/-- The core cycle in which the bundle being issued, or held, has issued. -/
def State.issueCyc (s : State) : Nat :=
  match s.cx.cap with
  | none => s.core.cyc
  | some c => c.cyc
/-- The context moves to another workspace, once the results of earlier bundles have landed in the old one, each in its own cycle; that of the
bundle's own A instruction lands in the new one (log entry 16). -/
def execSwp (rd ra : GReg) (s : State) : Out :=
  .next (s.guarded (s.swpTraps (s.readG ra)) (fun s =>
    let a := s.readG ra
    let old := s.cx.wp
    let issued := s.issueCyc + 4 + s.waitOut s.core.stall
    let r := s.landBefore
    if s.owesBefore then r.setCx { r.cx with held := some (r.core.cyc + 1) }
    else
      let t := r.storeCtrs
      let u := t.setCx { t.cx with wp := a }
      let v := if u.core.curCtx = 0 then u.setSl { u.sl with wp := BitVec.ofNat 10 (a.toNat / 512) } else u
      let w := v.loadCtrs
      let x := w.setCx { w.cx with ready := max issued (w.cx.lastLand w.core.cyc + 4) }
      x.pendG .c rd old 1))
/-- The context returns from a trap, once its pending results have landed; the bundle that follows issues 4 cycles later, or once the stall count has run
out. The step that a stepped `rfe` ends is reported at that bundle (R158, R209, R221, R306). -/
def execRfe (s : State) : Out :=
  .next (s.guarded (s.supOnly 0 ++ when_ s.cx.dly (illegal .c) ++ s.noBody) (fun s => s.afterLanding (fun t =>
    let u := t.returnFrom
    (u.setCx { u.cx with ready := max (t.core.cyc + 4) (s.issueCyc + 1 + s.waitOut s.core.stall), dist := t.cx.dist + 1 + t.core.stall,
                         seq := u.cx.seq + 1, cap := none, relHeld := false, after := t.stepAfter }).afterBundle.leave)))

end Sys2Proof.Machine
end

