-- ==== Sys2Proof/Machine/Flags.lean ====
section
/-! DEFINITION. Machine.Flags: the floating-point formats (R226, R227), rounding and every flag (R228-R232), and the exact
arithmetic they round. A value is an exact dyadic number; an operation computes exactly and rounds once. -/

namespace Sys2Proof.Machine

/-! ## Flags (R230) -/

abbrev FFlags := BitVec 6
def fNV : FFlags := 1
def fDZ : FFlags := 2
def fOF : FFlags := 4
def fUF : FFlags := 8
def fNX : FFlags := 16
def fFXS : FFlags := 32
/-- A flag raised on a condition. -/
def flagIf (b : Bool) (f : FFlags) : FFlags := if b then f else 0

/-! ## Formats (R226) -/

/-- A floating-point format: exponent bits, fraction bits; e4m3 has no infinity and one NaN code. -/
structure Fmt where
  eb : Nat
  mb : Nat
  e4 : Bool
  deriving DecidableEq, Repr

def Fmt.f64 : Fmt := ⟨11, 52, false⟩
def Fmt.f32 : Fmt := ⟨8, 23, false⟩
def Fmt.f16 : Fmt := ⟨5, 10, false⟩
def Fmt.bf16 : Fmt := ⟨8, 7, false⟩
def Fmt.e5m2 : Fmt := ⟨5, 2, false⟩
def Fmt.e4m3 : Fmt := ⟨4, 3, true⟩
/-- Exponent bias. -/
def Fmt.bias (f : Fmt) : Int := (2 ^ (f.eb - 1) : Nat) - 1
/-- Exponent of the smallest normal number. -/
def Fmt.emin (f : Fmt) : Int := 1 - f.bias
/-- Weight of the subnormal grid. -/
def Fmt.qmin (f : Fmt) : Int := f.emin - f.mb
/-- Width in bits. -/
def Fmt.width (f : Fmt) : Nat := 1 + f.eb + f.mb
/-- Code of +infinity: exponent all ones (of e4m3: its exponent field of ones, no infinity). -/
def Fmt.infCode (f : Fmt) : Nat := (2 ^ f.eb - 1) * 2 ^ f.mb
/-- Default NaN (R226, R227). -/
def Fmt.nan (f : Fmt) : Nat := if f.e4 then 127 else f.infCode + 2 ^ (f.mb - 1)
/-- Code of the largest finite value. -/
def Fmt.maxCode (f : Fmt) : Nat := if f.e4 then 126 else f.infCode - 1
/-- The largest finite value as significand and exponent. -/
def Fmt.maxM (f : Fmt) : Nat := if f.e4 then 14 else 2 ^ (f.mb + 1) - 1
def Fmt.maxE (f : Fmt) : Int := if f.e4 then 5 else f.bias - f.mb
/-- The sign bit of a negative value. -/
def Fmt.sign (f : Fmt) (neg : Bool) : Nat := if neg then 2 ^ (f.eb + f.mb) else 0
/-- Scalar type codes of R258: 0 f64, 1 f32, 2 f16, 3 bf16. -/
def scalarFmt (t : BitVec 2) : Fmt :=
  match t.toNat with
  | 0 => .f64
  | 1 => .f32
  | 2 => .f16
  | _ => .bf16
/-- Vector element type codes 8 to 13 (R254). -/
def elemFmt (ty : BitVec 4) : Fmt :=
  match ty.toNat with
  | 8 => .e4m3
  | 9 => .e5m2
  | 10 => .bf16
  | 11 => .f16
  | 13 => .f64
  | _ => .f32

/-! ## Values -/

/-- A value: a NaN (signalling or quiet), an infinity, or m * 2^e with a sign. -/
inductive FV where
  | nan (sig : Bool)
  | inf (neg : Bool)
  | fin (neg : Bool) (m : Nat) (e : Int)
  deriving DecidableEq, Repr

/-- The value a code encodes. -/
def decodeF (f : Fmt) (v : Nat) : FV :=
  let neg := v.testBit (f.eb + f.mb)
  let ex := v / 2 ^ f.mb % 2 ^ f.eb
  let fr := v % 2 ^ f.mb
  if f.e4 ∧ ex = 15 ∧ fr = 7 then .nan false
  else if !f.e4 ∧ ex = 2 ^ f.eb - 1 then (if fr = 0 then .inf neg else .nan (!fr.testBit (f.mb - 1)))
  else if ex = 0 then .fin neg fr f.qmin
  else .fin neg (2 ^ f.mb + fr) (f.qmin + (ex - 1 : Nat))
/-- Is a value a NaN, and signalling? -/
def FV.isNan : FV → Bool
  | .nan _ => true
  | _ => false
def FV.isSig : FV → Bool
  | .nan b => b
  | _ => false
def FV.isZero : FV → Bool
  | .fin _ m _ => m == 0
  | _ => false
def FV.neg : FV → Bool
  | .nan _ => false
  | .inf n => n
  | .fin n _ _ => n
/-- The value with its sign changed. -/
def FV.flip : FV → FV
  | .nan b => .nan b
  | .inf n => .inf (!n)
  | .fin n m e => .fin (!n) m e

/-! ## Rounding (R228, R231, R232) -/

/-- Does a magnitude round up by a mode: 0 nearest even, 1 toward zero, 2 down, 3 up, given the truncated value's parity,
whether the rest is above or at half, and whether there is a rest? -/
def roundsUp (rm : Nat) (neg odd above half rest : Bool) : Bool :=
  match rm with
  | 0 => above || (half && odd)
  | 1 => false
  | 2 => neg && rest
  | _ => !neg && rest
/-- A magnitude m * 2^e, with a further rest below its last unit if sticky, rounded to a multiple of 2^q: the multiple, and
whether it is inexact. -/
def roundTo (rm : Nat) (neg : Bool) (m : Nat) (e : Int) (sticky : Bool) (q : Int) : Nat × Bool :=
  if q ≤ e then (m * 2 ^ (e - q).toNat + (if roundsUp rm neg false false false sticky then 1 else 0), sticky)
  else
    let k := (q - e).toNat
    let t := m / 2 ^ k
    let r := m % 2 ^ k
    let h := 2 ^ (k - 1)
    let above := decide (h < r) || (decide (r = h) && sticky)
    let half := decide (r = h) && !sticky
    let rest := decide (r ≠ 0) || sticky
    (t + (if roundsUp rm neg (t % 2 == 1) above half rest then 1 else 0), rest)
/-- The code of n * 2^q on a format's grid, for q at least the subnormal grid's. -/
def encodeF (f : Fmt) (neg : Bool) (n : Nat) (q : Int) : Nat :=
  f.sign neg + (if n = 0 then 0 else n + (q - f.qmin).toNat * 2 ^ f.mb)
/-- Is n * 2^q above a * 2^b? -/
def above (n : Nat) (q : Int) (a : Nat) (b : Int) : Bool :=
  if q ≤ b then decide (a * 2 ^ (b - q).toNat < n) else decide (a < n * 2 ^ (q - b).toNat)
/-- Does an overflow deliver an infinity by a mode (R231)? -/
def overInf (rm : Nat) (neg : Bool) : Bool :=
  match rm with
  | 0 => true
  | 1 => false
  | 2 => neg
  | _ => !neg
/-- One rounding of an exact magnitude into a format, with the flags of R231 and the e4m3 overflow of R232. -/
def roundF (f : Fmt) (rm : Nat) (e4n : Bool) (neg : Bool) (m : Nat) (e : Int) (sticky : Bool) : Nat × FFlags :=
  if m = 0 then (f.sign neg, 0)
  else
    let top : Int := (Nat.log2 m : Nat) + e
    let qu := top - f.mb
    let u := roundTo rm neg m e sticky qu
    if above u.1 qu f.maxM f.maxE then
      (if f.e4 then (if e4n && overInf rm neg then f.nan else f.sign neg + f.maxCode)
       else f.sign neg + (if overInf rm neg then f.infCode else f.maxCode), fOF ||| fNX)
    else
      let q := if qu < f.qmin then f.qmin else qu
      let b := roundTo rm neg m e sticky q
      let tiny := above 1 f.emin u.1 qu
      (encodeF f neg b.1 q, flagIf b.2 fNX ||| flagIf (b.2 && tiny) fUF)
/-- A value rounded into a format; a NaN gives the default NaN, signalling ones raise invalid; an infinity into e4m3 follows R232. -/
def roundV (f : Fmt) (rm : Nat) (e4n : Bool) (v : FV) : Nat × FFlags :=
  match v with
  | .nan s => (f.nan, flagIf s fNV)
  | .inf n => if f.e4 then (if e4n then (f.nan, fNV) else (f.sign n + f.maxCode, fOF ||| fNX)) else (f.sign n + f.infCode, 0)
  | .fin n m e => roundF f rm e4n n m e false

/-! ## Exact arithmetic on values -/

/-- The signed integer of a finite value in units of 2^q, q at most its exponent. -/
def unitsAt (neg : Bool) (m : Nat) (e q : Int) : Int :=
  let v : Int := (m * 2 ^ (e - q).toNat : Nat)
  if neg then -v else v
/-- The sign of an exact zero sum: both operands' if equal, else + but - under rounding down (R352). -/
def zeroSign (rm : Nat) (a b : Bool) : Bool := if a == b then a else rm == 2
/-- The exact sum of two finite values, with the sign of a zero. -/
def addExact (rm : Nat) (n1 : Bool) (m1 : Nat) (e1 : Int) (n2 : Bool) (m2 : Nat) (e2 : Int) : FV :=
  let q := min e1 e2
  let t := unitsAt n1 m1 e1 q + unitsAt n2 m2 e2 q
  if t = 0 then .fin (zeroSign rm n1 n2) 0 q else .fin (decide (t < 0)) t.natAbs q
/-- An invalid operation: default NaN and NV. -/
def invalidF (f : Fmt) : Nat × FFlags := (f.nan, fNV)
/-- a + b, rounded once. -/
def addV (f : Fmt) (rm : Nat) (a b : FV) : Nat × FFlags :=
  match a, b with
  | .nan s, y => (f.nan, flagIf (s || y.isSig) fNV)
  | .inf _, .nan s => (f.nan, flagIf s fNV)
  | .fin _ _ _, .nan s => (f.nan, flagIf s fNV)
  | .inf x, .inf y => if x == y then (f.sign x + f.infCode, 0) else invalidF f
  | .inf x, .fin _ _ _ => (f.sign x + f.infCode, 0)
  | .fin _ _ _, .inf y => (f.sign y + f.infCode, 0)
  | .fin n1 m1 e1, .fin n2 m2 e2 => roundV f rm false (addExact rm n1 m1 e1 n2 m2 e2)
/-- a * b exactly; none where it is invalid. -/
def mulExact (a b : FV) : Option FV :=
  match a, b with
  | .nan s, y => some (.nan (s || y.isSig))
  | .inf _, .nan s => some (.nan s)
  | .fin _ _ _, .nan s => some (.nan s)
  | .inf x, .inf y => some (.inf (x != y))
  | .inf x, .fin y m _ => if m = 0 then none else some (.inf (x != y))
  | .fin x m _, .inf y => if m = 0 then none else some (.inf (x != y))
  | .fin n1 m1 e1, .fin n2 m2 e2 => some (.fin (n1 != n2) (m1 * m2) (e1 + e2))
/-- a * b, rounded once. -/
def mulV (f : Fmt) (rm : Nat) (a b : FV) : Nat × FFlags :=
  match mulExact a b with
  | none => invalidF f
  | some v => roundV f rm false v
/-- a * b + c with one rounding; 0 * infinity is invalid even beside a quiet NaN (R354). -/
def fmaV (f : Fmt) (rm : Nat) (a b c : FV) : Nat × FFlags :=
  match mulExact a b with
  | none => invalidF f
  | some p => addV f rm p c
/-- a / b (R354). -/
def divV (f : Fmt) (rm : Nat) (a b : FV) : Nat × FFlags :=
  match a, b with
  | .nan s, y => (f.nan, flagIf (s || y.isSig) fNV)
  | .inf _, .nan s => (f.nan, flagIf s fNV)
  | .fin _ _ _, .nan s => (f.nan, flagIf s fNV)
  | .inf _, .inf _ => invalidF f
  | .inf x, .fin y _ _ => (f.sign (x != y) + f.infCode, 0)
  | .fin x _ _, .inf y => (f.sign (x != y), 0)
  | .fin n1 m1 e1, .fin n2 m2 e2 =>
    if m2 = 0 then (if m1 = 0 then invalidF f else (f.sign (n1 != n2) + f.infCode, fDZ))
    else
      let k := 2 * f.mb + Nat.log2 m2 + 8
      let n := m1 * 2 ^ k
      roundF f rm false (n1 != n2) (n / m2) (e1 - e2 - k) (decide (n % m2 ≠ 0))
/-- Bits of a square root, from bit k down: the root so far and the rest of the radicand. -/
def sqrtBits : Nat → Nat → Nat → Nat
  | 0, r, _ => r
  | k + 1, r, v =>
    let r1 := r + 2 ^ k
    if r1 * r1 ≤ v then sqrtBits k r1 v else sqrtBits k r v
/-- The integer square root. -/
def isqrt (v : Nat) : Nat := sqrtBits (Nat.log2 v / 2 + 1) 0 v
/-- The square root (R354). -/
def sqrtV (f : Fmt) (rm : Nat) (a : FV) : Nat × FFlags :=
  match a with
  | .nan s => (f.nan, flagIf s fNV)
  | .inf n => if n then invalidF f else (f.infCode, 0)
  | .fin n m e =>
    if m = 0 then (f.sign n, 0) else if n then invalidF f
    else
      let k := 2 * f.mb + 8 + (if (e - 2 * f.mb - 8) % 2 = 0 then 0 else 1)
      let v := m * 2 ^ k
      let r := isqrt v
      roundF f rm false false r ((e - k) / 2) (decide (r * r ≠ v))
/-- a * 2^k (R360). -/
def sclV (f : Fmt) (rm : Nat) (a : FV) (k : Int) : Nat × FFlags :=
  match a with
  | .nan s => (f.nan, flagIf s fNV)
  | .inf n => (f.sign n + f.infCode, 0)
  | .fin n m e =>
    if m = 0 then (f.sign n, 0)
    else
      let kc := if k < -5000 then -5000 else if 5000 < k then 5000 else k
      roundF f rm false n m (e + kc) false

/-! ## Comparison, minimum and maximum (R356, R357) -/

/-- a < b and a = b of numbers. -/
def ltV (a b : FV) : Bool :=
  match a, b with
  | .nan _, _ => false
  | .inf _, .nan _ => false
  | .fin _ _ _, .nan _ => false
  | .inf x, .inf y => x && !y
  | .inf x, .fin _ _ _ => x
  | .fin _ _ _, .inf y => !y
  | .fin n1 m1 e1, .fin n2 m2 e2 => let q := min e1 e2; decide (unitsAt n1 m1 e1 q < unitsAt n2 m2 e2 q)
def eqV (a b : FV) : Bool :=
  match a, b with
  | .nan _, _ => false
  | .inf _, .nan _ => false
  | .fin _ _ _, .nan _ => false
  | .inf x, .inf y => x == y
  | .inf _, .fin _ _ _ => false
  | .fin _ _ _, .inf _ => false
  | .fin n1 m1 e1, .fin n2 m2 e2 => let q := min e1 e2; decide (unitsAt n1 m1 e1 q = unitsAt n2 m2 e2 q)
/-- The order in which -0 is below +0. -/
def ltZ (a b : FV) : Bool := ltV a b || (a.isZero && b.isZero && a.neg && !b.neg)
/-- The smaller or larger of two codes: a number beats a NaN; two NaNs give the default; a signalling NaN raises NV. -/
def minMaxC (f : Fmt) (mx : Bool) (x y : Nat) : Nat × FFlags :=
  let a := decodeF f x
  let b := decodeF f y
  let fl := flagIf (a.isSig || b.isSig) fNV
  if a.isNan then (if b.isNan then f.nan else y % 2 ^ f.width, fl)
  else if b.isNan then (x % 2 ^ f.width, fl)
  else ((if (if mx then ltZ a b else ltZ b a) then y else x) % 2 ^ f.width, fl)

/-! ## Integers and floats (R359, R360) -/

/-- A value rounded to an integer by a mode; whether it is inexact. -/
def toIntV (rm : Nat) (neg : Bool) (m : Nat) (e : Int) : Int × Bool :=
  let r := roundTo rm neg m e false 0
  (if neg then -(r.1 : Int) else r.1, r.2)
/-- A value converted to an integer in a range: out of range gives the bound and NV, a NaN 0 and NV, inexact NX. -/
def cvtInt (rm : Nat) (lo hi : Int) (a : FV) : Int × FFlags :=
  match a with
  | .nan _ => (0, fNV)
  | .inf n => (if n then lo else hi, fNV)
  | .fin n m e =>
    let r := toIntV rm n m e
    if r.1 < lo then (lo, fNV) else if hi < r.1 then (hi, fNV) else (r.1, flagIf r.2 fNX)
/-- An integer converted to a format. -/
def cvtOfInt (f : Fmt) (rm : Nat) (e4n : Bool) (v : Int) : Nat × FFlags :=
  roundF f rm e4n (decide (v < 0)) v.natAbs 0 false
/-- A code of one format converted to another (R358). -/
def cvtFF (f g : Fmt) (rm : Nat) (e4n : Bool) (x : Nat) : Nat × FFlags := roundV f rm e4n (decodeF g x)

end Sys2Proof.Machine
end

