-- ==== Sys2Proof/Machine/Special.lean ====
section
/-! DEFINITION. Machine.Special: the estimates of R246, the reproducible conversions of R245 and the E8 octet (R236-R239).
An estimate is the exact value rounded to nearest even to 15 significant bits. Where the value is irrational it is computed in
fixed point with 384 fraction bits, far beyond the 15 it is rounded to (log entry 9). -/

namespace Sys2Proof.Machine

/-! ## Rounding to 15 significant bits -/

/-- A magnitude rounded to 15 significant bits, or to the format's subnormal grid where that is coarser. -/
def est15 (f : Fmt) (neg : Bool) (m : Nat) (e : Int) (sticky : Bool) : Nat :=
  if m = 0 then f.sign neg
  else
    let top : Int := (Nat.log2 m : Nat) + e
    let q := if top - 14 < f.qmin then f.qmin else top - 14
    let r := roundTo 0 neg m e sticky q
    let top2 : Int := if r.1 = 0 then f.qmin else (Nat.log2 r.1 : Nat) + q
    if f.bias < top2 then f.sign neg + f.maxCode
    else (roundF f 0 false neg r.1 q false).1
/-- An integer power of two, as a code. -/
def pow2Code (f : Fmt) (k : Int) : Nat := (roundF f 0 false false 1 k false).1

/-! ## Reciprocal and reciprocal square root -/

/-- The reciprocal estimate in f32 or f64 (R246). -/
def rcpE (f : Fmt) (a : FV) : Nat × FFlags :=
  match a with
  | .nan s => (f.nan, flagIf s fNV)
  | .inf n => (f.sign n, 0)
  | .fin n m e =>
    if m = 0 then (f.sign n + f.infCode, fDZ)
    -- |x| at most 2^-(bias + 1): the exact reciprocal exceeds the largest finite value
    else if !above m e 1 (-(f.bias + 1)) then (f.sign n + f.infCode, fOF)
    else
      let k := 400 + Nat.log2 m
      let num := 2 ^ k
      if above m e 1 (f.bias - 1) then
        -- |x| above 2^(bias - 1): toward zero on the subnormal grid
        let r := roundTo 1 n (num / m) (-e - k) (decide (num % m ≠ 0)) f.qmin
        (f.sign n + r.1, fUF)
      else (est15 f n (num / m) (-e - k) (decide (num % m ≠ 0)), 0)
/-- The reciprocal square root estimate (R246). -/
def rsqE (f : Fmt) (a : FV) : Nat × FFlags :=
  match a with
  | .nan s => (f.nan, flagIf s fNV)
  | .inf n => if n then invalidF f else (0, 0)
  | .fin n m e =>
    if m = 0 then (f.sign n + f.infCode, fDZ) else if n then invalidF f
    else
      -- 1 / sqrt(m 2^e) = sqrt(2^k / m) 2^((-e - k) / 2) for even e + k
      let k : Int := 400 + 2 * (Nat.log2 m : Nat) + (if e % 2 = 0 then 0 else 1)
      let num := 2 ^ k.toNat
      let r := isqrt (num / m)
      (est15 f false r ((-e - k) / 2) (decide (r * r * m ≠ num)), 0)

/-! ## Fixed point with 384 fraction bits -/

def fxP : Nat := 384
def fxOne : Nat := 2 ^ 384
def fxMul (a b : Nat) : Nat := a * b / fxOne
/-- Sum of z^(2i+1) / (2i+1) with alternating or equal signs: n terms, z2 the square. -/
def atanSum (alt : Bool) (z2 : Nat) : Nat → Nat → Nat → Int → Int
  | 0, _, _, acc => acc
  | n + 1, i, p, acc =>
    atanSum alt z2 n (i + 1) (fxMul p z2) (acc + (if alt && i % 2 == 1 then -((p / (2 * i + 1) : Nat) : Int) else ((p / (2 * i + 1) : Nat) : Int)))
/-- Natural logarithm of num / den in [1, 2], as fixed point. -/
def lnFx (num den : Nat) : Nat :=
  let z := (num - den) * fxOne / (num + den)
  (2 * atanSum false (fxMul z z) 130 0 z 0).toNat
def ln2Fx : Nat := lnFx 2 1
/-- Pi by Machin's formula. -/
def piFx : Nat :=
  let a := fxOne / 5
  let b := fxOne / 239
  (16 * atanSum true (fxMul a a) 90 0 a 0 - 4 * atanSum true (fxMul b b) 30 0 b 0).toNat
/-- Sum of y^i / i! from the term t on. -/
def expSum (y : Nat) : Nat → Nat → Nat → Nat → Nat
  | 0, _, _, acc => acc
  | n + 1, i, t, acc => expSum y n (i + 1) (fxMul t y / (i + 1)) (acc + t)
def expFx (y : Nat) : Nat := expSum y 100 0 fxOne 0
/-- Sum of the sine series from the term t on. -/
def sinSum (y2 : Nat) : Nat → Nat → Nat → Int → Int
  | 0, _, _, acc => acc
  | n + 1, i, t, acc =>
    sinSum y2 n (i + 1) (fxMul t y2 / ((2 * i + 2) * (2 * i + 3))) (acc + (if i % 2 = 0 then (t : Int) else -(t : Int)))
def sinFx (y : Nat) : Nat := (sinSum (fxMul y y) 60 0 y 0).toNat

/-! ## exp2, log2, sinpi, cospi in f32 (R246) -/

/-- A finite value as fixed point, truncated toward minus infinity: exact for every f32 value. -/
def toFx (neg : Bool) (m : Nat) (e : Int) : Int :=
  let v : Int := if 0 ≤ e + 384 then ((m * 2 ^ (e + 384).toNat : Nat) : Int) else ((m / 2 ^ (-(e + 384)).toNat : Nat) : Int)
  if neg then -v else v
/-- exp2. Just below 128 the rounded value is 2^128, which overflows by R231 (log entry 10). -/
def exp2E (a : FV) : Nat × FFlags :=
  let f := Fmt.f32
  match a with
  | .nan s => (f.nan, flagIf s fNV)
  | .inf n => (if n then 0 else f.infCode, 0)
  | .fin n m e =>
    if m = 0 then (pow2Code f 0, 0)
    else if !n ∧ !above 1 7 m e then (f.infCode, fOF)
    else if n ∧ above m e 150 0 then (0, fUF)
    else
      let x := toFx n m e
      let k := x / (fxOne : Nat)
      let fr := (x % (fxOne : Nat)).toNat
      if fr = 0 then (pow2Code f k, 0)
      else
        let y := expFx (fxMul fr ln2Fx)
        let top : Int := (Nat.log2 y : Nat) + (k - 384)
        let r := roundTo 0 false y (k - 384) true (if top - 14 < f.qmin then f.qmin else top - 14)
        if 128 ≤ (Nat.log2 r.1 : Int) + (if top - 14 < f.qmin then f.qmin else top - 14) then (f.infCode, fOF)
        else (est15 f false y (k - 384) true, 0)
/-- log2. -/
def log2E (a : FV) : Nat × FFlags :=
  let f := Fmt.f32
  match a with
  | .nan s => (f.nan, flagIf s fNV)
  | .inf n => if n then invalidF f else (f.infCode, 0)
  | .fin n m e =>
    if m = 0 then (f.sign true + f.infCode, fDZ) else if n then invalidF f
    else
      let l := Nat.log2 m
      let ex : Int := (l : Int) + e
      if m = 2 ^ l then (roundF f 0 false (decide (ex < 0)) (ex.natAbs * 2 ^ 0) 0 false |>.1, 0)
      else
        let y : Int := ex * (fxOne : Nat) + ((lnFx m (2 ^ l) * fxOne / ln2Fx : Nat) : Int)
        (est15 f (decide (y < 0)) y.natAbs (-384) true, 0)
/-- The sine of pi t for t in fixed point from 0 to 2, with its sign; exact at multiples of a half. -/
def sinpiFx (t : Nat) : Bool × Nat × Bool :=
  let neg := decide (fxOne ≤ t)
  let u := t % fxOne
  let w := if 2 * u ≤ fxOne then u else fxOne - u
  if w = 0 then (false, 0, false)
  else if 2 * w = fxOne then (neg, fxOne, false)
  else (neg, sinFx (fxMul w piFx), true)
def sinpiAt (t : Nat) : Nat :=
  let r := sinpiFx t
  est15 Fmt.f32 r.1 r.2.1 (-384) r.2.2
/-- sinpi: zeros of other arguments than +-0 are +0. -/
def sinpiE (a : FV) : Nat × FFlags :=
  let f := Fmt.f32
  match a with
  | .nan s => (f.nan, flagIf s fNV)
  | .inf _ => invalidF f
  | .fin n m e => if m = 0 then (f.sign n, 0) else (sinpiAt ((toFx n m e) % (2 * fxOne : Nat)).toNat, 0)
/-- cospi x = sinpi (x + 1/2). -/
def cospiE (a : FV) : Nat × FFlags :=
  let f := Fmt.f32
  match a with
  | .nan s => (f.nan, flagIf s fNV)
  | .inf _ => invalidF f
  | .fin n m e => (sinpiAt ((toFx n m e + (fxOne / 2 : Nat)) % (2 * fxOne : Nat)).toNat, 0)
/-- An estimate on a type: f32 and f64 directly; f16 and bf16 through f32, rounded to nearest even, with the estimate's own flags (R246). -/
def estOn (f : Fmt) (est : FV → Nat × FFlags) (x : Nat) : Nat × FFlags :=
  let r := est (decodeF f x)
  if f = Fmt.f16 ∨ f = Fmt.bf16 then ((cvtFF f Fmt.f32 0 false r.1).1, r.2) else r
/-- A scalar estimate: that, and for f16 and bf16 the flags of the rounding (R355). -/
def estScalar (f : Fmt) (est : FV → Nat × FFlags) (x : Nat) : Nat × FFlags :=
  let r := estOn f est x
  let w := (est (decodeF f x)).1
  if (f = Fmt.f16 ∨ f = Fmt.bf16) ∧ (decodeF Fmt.f32 w).isNan = false then (r.1, r.2 ||| (cvtFF f Fmt.f32 0 false w).2) else r
/-- `frcp`, `frsq` on any scalar type. -/
def rcpOn (f : Fmt) (x : Nat) : Nat × FFlags := estScalar f (rcpE (if f = Fmt.f64 then Fmt.f64 else Fmt.f32)) x
def rsqOn (f : Fmt) (x : Nat) : Nat × FFlags := estScalar f (rsqE (if f = Fmt.f64 then Fmt.f64 else Fmt.f32)) x

/-! ## Reproducible reduction (R245) -/

/-- The exponent E of one f32 code: 0 for zero, 255 for infinities and NaNs, else max(exponent field, 1). -/
def expOf32 (x : Nat) : Nat :=
  let ex := x / 2 ^ 23 % 256
  if ex = 255 then 255 else if x % 2 ^ 31 = 0 then 0 else max ex 1
/-- trunc(x * 2^(40 - e)), saturated at 2^62 - 1. -/
def fixOf (big : Nat) (x : Nat) : Int × FFlags :=
  let lim : Nat := 2 ^ 62 - 1
  match decodeF Fmt.f32 x with
  | .nan _ => (0, fNV)
  | .inf n => (if n then -(lim : Int) else lim, fFXS)
  | .fin n m e =>
    let sh : Int := 40 - ((big : Int) - 127)
    let r := roundTo 1 n m (e + sh) false 0
    if lim < r.1 then (if n then -(lim : Int) else lim, fFXS) else (if n then -(r.1 : Int) else r.1, 0)
/-- RN(N * 2^(e - 40)). -/
def unfixOf (f : Fmt) (big : Nat) (v : Int) : Nat × FFlags :=
  roundF f 0 false (decide (v < 0)) v.natAbs ((big : Int) - 127 - 40) false

/-! ## The E8 octet (R236-R239) -/

/-- The 2-bit field of coordinate i; bit 0 of m7 is the parity of the others. -/
def octM (code i : Nat) : Nat :=
  if i < 7 then fld code (14 - 2 * i) (13 - 2 * i)
  else 2 * (code % 2) + ((List.range 7).foldl (fun a j => a + fld code (14 - 2 * j) (13 - 2 * j) % 2) 0) % 2
/-- Twice coordinate i of an octet. -/
def octY2 (code i : Nat) : Int :=
  let m := octM code i
  if code.testBit 15 then 2 * (m : Int) - 3 else 2 * (if m < 2 then (m : Int) else (m : Int) - 4)
/-- Coordinate i times 2^s, rounded to a format: exact but for -2 at s = 127; s = -128 is the default NaN (R236). -/
def octDecode (f : Fmt) (code i : Nat) (s : Int) : Nat × FFlags :=
  if s = -128 then (f.nan, 0)
  else
    let y := octY2 code i
    let r := roundF f 0 false (decide (y < 0)) y.natAbs (s - 1) false
    (r.1, r.2 &&& fOF)
/-- A real coordinate scaled to a common exponent: sign and magnitude in units of 2^q, q at most -1. -/
structure OctIn where
  v : Int
  pad : Bool
  deriving DecidableEq, Repr
/-- Clamp, in doubled units u = one half: coordinates are integers in units of 2^q with 2^(-q-1) units to the half. -/
def clampI (lo hi v : Int) : Int := if v < lo then lo else if hi < v then hi else v
/-- The nearest grid point, in halves: even halves for coset 0, odd for coset 1; ties toward the smaller magnitude, +1/2 at 0.
z is in units of which h make one half. -/
def octNear (c : Nat) (h : Int) (z : Int) : Int :=
  let g (k : Int) : Int := if c = 0 then 2 * k else 2 * k + 1
  -- candidates around z
  let k0 := z / (2 * h)
  let cands := [g (k0 - 1), g k0, g (k0 + 1)]
  let better (a b : Int) : Bool :=
    let da := (z - a * h).natAbs
    let db := (z - b * h).natAbs
    da < db || (da == db && (a.natAbs < b.natAbs || (a.natAbs == b.natAbs && b < a)))
  cands.foldl (fun best x => if better x best then x else best) (g k0)
/-- One coset's quantisation: the coordinates in halves, the squared distance, and whether the shell overflows. -/
def octCoset (c : Nat) (h : Int) (xs : List OctIn) : List Int × Nat × Bool :=
  let lo : Int := if c = 0 then -4 else -3
  let hi : Int := if c = 0 then 2 else 3
  let zs : List Int := xs.map (fun x => clampI (lo * h) (hi * h) x.v)
  let qs : List Int := zs.map (octNear c h)
  let sum : Int := qs.foldl (· + ·) 0
  let fixed : List Int :=
    if (sum / 2) % 2 = 0 then qs
    else
      let errs := (List.zip xs (List.zip zs qs)).map (fun t => if t.1.pad then (-1 : Int) else ((t.2.1 - t.2.2 * h).natAbs : Int))
      let best := errs.foldl max (-1)
      let j := errs.findIdx (· == best)
      (List.range 8).map (fun i =>
        let q := qs.getD i 0
        if i = j then
          (let q1 := if q * h < zs.getD i 0 then q + 2 else q - 2
           if q1 < lo then q1 + 4 else if hi < q1 then q1 - 4 else q1)
        else q)
  let dist := (List.zip xs fixed).foldl (fun a t => a + (t.1.v - t.2 * h).natAbs ^ 2) 0
  let ovf := (List.zip xs zs).any (fun t => decide (h < ((t.1.v - t.2).natAbs : Int)))
  (fixed, dist, ovf)
/-- The code of coordinates in halves. -/
def octEncode (c : Nat) (qs : List Int) : Nat :=
  let m (i : Nat) : Nat := if c = 0 then ((qs.getD i 0 / 2) % 4).toNat else (((qs.getD i 0 + 3) / 2) % 4).toNat
  c * 32768 + (List.range 7).foldl (fun a i => a + m i * 2 ^ (13 - 2 * i)) 0 + m 7 / 2
/-- An input of the quantiser as a value: a NaN is 0, an infinity the largest finite f32 (R237). -/
def octClean (v : FV) : Bool × Nat × Int :=
  match v with
  | .nan _ => (false, 0, 0)
  | .inf n => (n, 2 ^ 24 - 1, 104)
  | .fin n m e => (n, m, e)
/-- Quantise eight values with scale s: the code and whether it overflows its shell (R237). -/
def quantise (vs : List FV) (s : Int) (pads : List Bool) : Nat × Bool :=
  let cl := vs.map octClean
  let q := cl.foldl (fun a t => if t.2.1 = 0 then a else min a (t.2.2 - s)) (-1)
  let h : Int := ((2 ^ (-1 - q).toNat : Nat) : Int)
  let xs := (List.zip cl pads).map (fun t =>
    { v := if t.2 then 0 else unitsAt t.1.1 t.1.2.1 (t.1.2.2 - s) q, pad := t.2 : OctIn })
  let a := octCoset 0 h xs
  let b := octCoset 1 h xs
  if pads.any id || decide (a.2.1 ≤ b.2.1) then (octEncode 0 a.1, a.2.2) else (octEncode 1 b.1, b.2.2)

end Sys2Proof.Machine
end

