-- ==== Sys2Proof/Machine/Local.lean ====
section
/-! DEFINITION. Machine.Local: local loads and stores, vector loads and stores, gather and scatter, local atomics, fences
(R307-R317), kick words (R179) and stack-window accesses (R116). -/

namespace Sys2Proof.Machine

/-! ## Holding at issue (R188, R191, R308) -/

/-- The bundle is held: its C instruction tries again in the next cycle. -/
def State.hold (s : State) : State := s.setCx { s.cx with held := some (s.core.cyc + 1), relHeld := false }
/-- A local access is held; a release of a context that a halt marks is recorded instead, and one of a context that has been told to stop is discarded
with its region's progress (R203, R220). -/
def State.holdLocal (s : State) (rel : Bool) : State :=
  let t := s.setCx { s.cx with held := some (s.core.cyc + 1), relHeld := rel }
  if rel && (s.cx.haltMark || s.cx.stop) then t.giveUp else t
/-- Is an earlier local access of the context still to perform: one that has begun, or a kick on its way (R188)? -/
def State.localBusy (s : State) : Bool :=
  decide (s.core.cyc < s.cx.locFree) || s.ops.any (fun o => o.issuedBy s.core.id s.core.cur s.core.curCtx && (match o.req with
    | .kick .. => true
    | _ => false))
/-- Must a local access wait: for an earlier local access of the context, or, for a release, for the conditions of R191 and R193? -/
def State.mustHold (s : State) (o : BitVec 2) (scope : BitVec 3) : Bool := s.localBusy || (isRelease o && !s.released scope)
/-- Is an earlier access of the context to n bytes at a key of the own core still on its way through core space? Accesses that touch a common
byte are performed in issue order (R189). -/
def State.crosses (s : State) (key n : Nat) : Bool :=
  s.ops.any (fun o => o.issuedBy s.core.id s.core.cur s.core.curCtx && (o.stage == .held || o.stage == .flight) &&
    (match o.req with
     | .mem a =>
       let k := coreKey (BitVec.ofNat 20 (fld a.addr.toNat 49 30)) (fld a.addr.toNat 18 0)
       isCoreSpace a.addr && fld a.addr.toNat 61 50 == s.modId.toNat && decide (k < key + n) && decide (key < k + a.size)
     | _ => false))
/-- A local access of n bytes at a key performs, once nothing holds it. -/
def State.localAct (s : State) (o : BitVec 2) (key n : Nat) (act : State → State) : State :=
  if s.mustHold o 0 || s.crosses key n then s.holdLocal (isRelease o) else act s
/-- The scope of a stack-window access in global memory: the one written, module where none is (R308; log entry 14). -/
def overScope (sc : BitVec 3) : BitVec 3 := if sc = 0 then 3 else sc
/-- A stack-window access in global memory is issued, and the context stalls until the answer is there (R116). -/
def State.overAct (s : State) (o : BitVec 2) (sc : BitVec 3) (a : Access) : State :=
  if s.mustHold o (overScope sc) then s.holdLocal (isRelease o)
  else
    let id := s.nextId
    let q := s.newOp 0 0 0 0 (overScope sc) (.mem a) .flight
    let t := (s.addOp q).onItsWay q
    (t.setCx { t.cx with spill := some ⟨id, none⟩ }).hold
/-- A bundle whose stack-window access is in progress waits for the answer, which ends it, and whose fault is precise; any other is checked and
executed (R116). -/
def State.orSpill (s : State) (fin : BitVec 4096 → State → State) (act : State → State) : State :=
  match s.cx.spill with
  | none => act s
  | some p =>
    match p.answer with
    | none => s.hold
    | some (.done d _) => fin d (s.setCx { s.cx with spill := none })
    | some (.fault c ad d0 d1) =>
      (s.setCx { s.cx with spill := none }).trapAt { rank := 8, info := { cause := c, addr := ad, d0 := d0, d1 := d1 } }

/-! ## Checks -/

/-- The poison trap of a read of n bytes at a local address that is found at a key: the first poisoned granule (R136, R309). -/
def State.poisonTraps (s : State) (a : Word) (key n : Nat) : List Trap :=
  match firstPoison s.pois key n with
  | none => []
  | some g => [accessTrap 11 0 (a + BitVec.ofNat 64 g - BitVec.ofNat 64 key) 0 0]
/-- The value of a kick: reserved bits zero, the descriptor 64-byte aligned in the partition (R179; log entry 15). -/
def State.kickTraps (s : State) (a v : Word) : List Trap :=
  let n := v.toNat
  when_ (n / 2 ^ 28 != 0 || fld n 23 21 != 0 || fld n 20 0 % 64 != 0 || !s.sl.inPart (fld n 20 0) 64) (outOfRange a)
/-- A stack-window access whose request is refused before it is injected (R116, R390). -/
def State.overTraps (s : State) (va : Word) : List Trap :=
  match s.globalRefusal with
  | none => []
  | some n => [accessTrap 10 (n * 256) va 0 0]
/-- Is an address that of a kick word (R179)? -/
def isKickWord (a : Word) : Bool := decide (462848 ≤ a.toNat ∧ a.toNat < 463872 ∧ a.toNat % 16 < 8)
/-- The fates of a local access (R309): ordering, place, poison of a read, and for a kick its ordering, its value, and a repetition body, where no
asynchronous operation issues (R166, R179). -/
def State.localTraps (s : State) (k : LKind) (load : Bool) (o : BitVec 2) (a : Word) (n align : Nat) (v : Word) : List Trap :=
  when_ (if load then !loadOrd o else !storeOrd o) badOrder ++
  match s.locate k a n align with
  | .bad t => [t] ++ when_ (!load && isKickWord a && o != 2) badOrder
  | .found (.own key) => if load then s.poisonTraps a key n else []
  | .found (.kick _) => when_ s.cx.rpa (illegal .c) ++ when_ (o != 2) badOrder ++ s.kickTraps a v
  | .found (.glob va) => s.overTraps va

/-! ## Live counter words (R223) -/

/-- The live value of a byte of the front core's scratchpad, where it is one of the counter words of a live context of the slice. -/
def State.liveByte (s : State) (off : Nat) : Option Byte :=
  (List.finRange 11).findSome? (fun c =>
    let x := s.sl.ctxs[c]
    if x.live && !x.stopped && decide (x.wp.toNat + 336 ≤ off ∧ off < x.wp.toNat + 400)
    then some (BitVec.ofNat 8 ((x.ctr.toList.getD ((off - x.wp.toNat - 336) / 8) 0).toNat / 2 ^ (8 * ((off - x.wp.toNat) % 8))))
    else none)
/-- n bytes of an own store as a local load reads them. -/
def State.localRead (s : State) (key n : Nat) : Nat :=
  let base := coreKey s.core.id 0
  if s.sl.ctxs.any (fun x => x.live && decide (base + x.wp.toNat < key + n - 336 ∧ key < base + x.wp.toNat + 400)) then
    leNat ((List.range n).map (fun i => (s.liveByte (key + i - base)).getD (s.mem.byte (key + i))))
  else s.peek key n

/-! ## Scalar accesses (R307, R308, R310) -/

/-- Extension of a loaded value. -/
def extLoad (signed : Bool) (n v : Nat) : Word := if signed then sextN n v else zextN n v
/-- A load of n bytes at an address. -/
def State.loadAt (s : State) (rd : GReg) (signed : Bool) (n : Nat) (o : BitVec 2) (sc : BitVec 3) (a : Word) : State :=
  s.orSpill (fun d s => ((s.watch a.toNat n false).tally 6 1).pendG .c rd (extLoad signed n d.toNat) 1) fun s =>
  s.guarded (s.localTraps .load true o a n n 0) fun s =>
    match s.locate .load a n n with
    | .found (.own key) =>
      s.localAct o key n fun s => ((s.watch a.toNat n false).tally 6 1).pendG .c rd (extLoad signed n (s.localRead key n)) 3
    | .found (.glob va) =>
      s.overAct o sc { kind := 0, addr := va, size := n, data := 0, pois := 0, mask := BitVec.allOnes 512, aop := 0, cmp := 0 }
    | _ => s
/-- A kick: held while the queue of the pump, with the kicks on their way to it, is full, or the channel counts 255 jobs (R176, R179). -/
def State.kick (s : State) (u : PumpId) (v a : Word) : State :=
  let c : Fin 16 := Fin.ofNat 16 (fld v.toNat 27 24)
  let queued := ((s.pumps.find? (fun p => p.id == u)).map (·.queue.length)).getD 0
  let coming := (s.ops.filter (fun o => match o.req with
    | .kick w _ => w == u
    | _ => false)).length
  if 8 ≤ queued + coming ∨ (c ≠ 0 ∧ 255 ≤ s.sl.jobs[c]) then s.holdLocal true
  else
    let t := if c = 0 then s else s.setSl (s.sl.jobBegin c)
    (((t.addOp (t.newOp 0 0 0 2 4 (.kick u v) .flight)).watch a.toNat 8 true).tally 12 1).bound
/-- The fields of an injection entry; its other bits are reserved, and read as zero (R7, R323). -/
def entryFields : Nat := (2 ^ 26 - 1) * 2 ^ 160 + (2 ^ 21 - 1) * 2 ^ 128 + (2 ^ 53 - 1) * 2 ^ 11
/-- The n bytes of a value as a store to a core's space keeps them at a key: whole, or in an injection entry in its fields only. -/
def keptBits (co : CoreId) (key n v : Nat) : Nat :=
  let off := key - coreKey co 458752
  if coreKey co 458752 ≤ key then v % 2 ^ (8 * n) &&& (entryFields / 2 ^ (8 * (off % 64))) else v % 2 ^ (8 * n)
/-- A store of the low n bytes of a value at an address. -/
def State.storeAt (s : State) (v : Word) (n : Nat) (o : BitVec 2) (sc : BitVec 3) (a : Word) : State :=
  s.orSpill (fun _ s => (s.watch a.toNat n true).tally 7 1) fun s =>
  s.guarded (s.localTraps .store false o a n n v) fun s =>
    match s.locate .store a n n with
    | .found (.own key) =>
      s.localAct o key n fun s => ((s.putGood key n (keptBits s.core.id key n v.toNat)).watch a.toNat n true).tally 7 1
    | .found (.kick u) => s.localAct o 0 0 fun s => s.kick u v a
    | .found (.glob va) =>
      s.overAct o sc { kind := 1, addr := va, size := n, data := v.setWidth 4096, pois := 0, mask := BitVec.allOnes 512, aop := 0, cmp := 0 }
    | _ => s
/-- Effective addresses of format CM (R307) and of the indexed forms (R310). -/
def State.ea (s : State) (ra : GReg) (n : Nat) (off : Imm 7) : Word := s.readG ra + immVal n off
def State.eax (s : State) (ra rb : GReg) : Word := s.readG ra + s.readG rb
def State.eav (s : State) (ra : GReg) (off : Option (BitVec 32)) : Word := s.readG ra + offVal off

def execLdI8 (rd ra : GReg) (o : BitVec 2) (sc : BitVec 3) (off : Imm 7) (s : State) : Out :=
  .next (s.loadAt rd true 1 o sc (s.ea ra 1 off))
def execLdN8 (rd ra : GReg) (o : BitVec 2) (sc : BitVec 3) (off : Imm 7) (s : State) : Out :=
  .next (s.loadAt rd false 1 o sc (s.ea ra 1 off))
def execLdI16 (rd ra : GReg) (o : BitVec 2) (sc : BitVec 3) (off : Imm 7) (s : State) : Out :=
  .next (s.loadAt rd true 2 o sc (s.ea ra 2 off))
def execLdN16 (rd ra : GReg) (o : BitVec 2) (sc : BitVec 3) (off : Imm 7) (s : State) : Out :=
  .next (s.loadAt rd false 2 o sc (s.ea ra 2 off))
def execLdI32 (rd ra : GReg) (o : BitVec 2) (sc : BitVec 3) (off : Imm 7) (s : State) : Out :=
  .next (s.loadAt rd true 4 o sc (s.ea ra 4 off))
def execLdN32 (rd ra : GReg) (o : BitVec 2) (sc : BitVec 3) (off : Imm 7) (s : State) : Out :=
  .next (s.loadAt rd false 4 o sc (s.ea ra 4 off))
def execLdD (rd ra : GReg) (o : BitVec 2) (sc : BitVec 3) (off : Imm 7) (s : State) : Out :=
  .next (s.loadAt rd true 8 o sc (s.ea ra 8 off))
def execStB (rs ra : GReg) (o : BitVec 2) (sc : BitVec 3) (off : Imm 7) (s : State) : Out :=
  .next (s.storeAt (s.readG rs) 1 o sc (s.ea ra 1 off))
def execStH (rs ra : GReg) (o : BitVec 2) (sc : BitVec 3) (off : Imm 7) (s : State) : Out :=
  .next (s.storeAt (s.readG rs) 2 o sc (s.ea ra 2 off))
def execStW (rs ra : GReg) (o : BitVec 2) (sc : BitVec 3) (off : Imm 7) (s : State) : Out :=
  .next (s.storeAt (s.readG rs) 4 o sc (s.ea ra 4 off))
def execStD (rs ra : GReg) (o : BitVec 2) (sc : BitVec 3) (off : Imm 7) (s : State) : Out :=
  .next (s.storeAt (s.readG rs) 8 o sc (s.ea ra 8 off))
def execLdxI8 (rd ra rb : GReg) (o : BitVec 2) (s : State) : Out := .next (s.loadAt rd true 1 o 0 (s.eax ra rb))
def execLdxN8 (rd ra rb : GReg) (o : BitVec 2) (s : State) : Out := .next (s.loadAt rd false 1 o 0 (s.eax ra rb))
def execLdxI16 (rd ra rb : GReg) (o : BitVec 2) (s : State) : Out := .next (s.loadAt rd true 2 o 0 (s.eax ra rb))
def execLdxN16 (rd ra rb : GReg) (o : BitVec 2) (s : State) : Out := .next (s.loadAt rd false 2 o 0 (s.eax ra rb))
def execLdxI32 (rd ra rb : GReg) (o : BitVec 2) (s : State) : Out := .next (s.loadAt rd true 4 o 0 (s.eax ra rb))
def execLdxN32 (rd ra rb : GReg) (o : BitVec 2) (s : State) : Out := .next (s.loadAt rd false 4 o 0 (s.eax ra rb))
def execLdxD (rd ra rb : GReg) (o : BitVec 2) (s : State) : Out := .next (s.loadAt rd true 8 o 0 (s.eax ra rb))
def execStxB (rs ra rb : GReg) (o : BitVec 2) (s : State) : Out := .next (s.storeAt (s.readG rs) 1 o 0 (s.eax ra rb))
def execStxH (rs ra rb : GReg) (o : BitVec 2) (s : State) : Out := .next (s.storeAt (s.readG rs) 2 o 0 (s.eax ra rb))
def execStxW (rs ra rb : GReg) (o : BitVec 2) (s : State) : Out := .next (s.storeAt (s.readG rs) 4 o 0 (s.eax ra rb))
def execStxD (rs ra rb : GReg) (o : BitVec 2) (s : State) : Out := .next (s.storeAt (s.readG rs) 8 o 0 (s.eax ra rb))

/-! ## Vector accesses (R311-R314) -/

/-- The datapath and the local accesses of the context are occupied for the beats of a vector access (R164, R188). -/
def State.vbeats (s : State) (n : Nat) : State :=
  let t := s.tally 10 n
  let u := { t with core := { t.core with vecFree := max t.core.vecFree (t.core.cyc + n) } }
  u.setCx { u.cx with locFree := u.core.cyc + n }
/-- Does the context declare a vector register (R111)? -/
def State.undeclared (s : State) (rs : List VReg) : List Trap :=
  when_ (!rs.all (fun r => decide (r.toNat < s.sl.declared s.core.curCtx))) (illegal .c)
/-- First byte of a mask from a key whose granule is poisoned. -/
def maskPoison (p : List Nat) (mask key : Nat) : Option Nat :=
  ((List.range 512).find? (fun j => mask.testBit j && poisoned p ((key + j) / 8 * 8))).map (fun j => (key + j) / 8 * 8)
/-- The mask's selected bytes are accessed, for the watchpoints. -/
def State.watchMask (s : State) (a mask : Nat) (wr : Bool) : State :=
  ((List.range 512).filter (fun j => mask.testBit j)).foldl (fun s j => s.watch (a + j) 1 wr) s
/-- The granules of 512 bytes at a key that hold a selected byte, as pieces of a vector access (R188, R312). -/
def vecPieces (key mask : Nat) : List Piece :=
  ((List.range 64).map (fun g => ({ key := key + 8 * g, off := 8 * g, n := 8, mask := mask / 2 ^ (8 * g) % 256 } : Piece))).filter (fun p => p.mask != 0)
/-- Is a piece selected whole? -/
def Piece.whole (p : Piece) : Bool := p.mask == 2 ^ p.n - 1
/-- A vector access begins: its pieces are performed in the cycles of its beats, n of them (R164, R188). -/
def State.beginBeats (s : State) (load : Bool) (seq : Nat) (data : VWord) (ps : List Piece) (n : Nat) (tag : Option (Nat × BitVec 16))
    (op : Option Nat) : State :=
  let t := s.vbeats n
  { t with core := { t.core with beats := some { slc := t.core.cur, ctx := t.core.curCtx, load := load, seq := seq, data := data, pieces := ps,
                                                  last := t.core.cyc + n - 1, tag := tag, op := op } } }
/-- A loaded piece takes its place in the register's pending result, or in the data of an operation, with its poison (R135, R188, R321). -/
def State.pieceRead (s : State) (b : Beats) (p : Piece) : State :=
  let place (w : VWord) : VWord :=
    let old := w.toNat / 2 ^ (8 * p.off) % 2 ^ (8 * p.n)
    BitVec.ofNat 4096 (w.toNat - old * 2 ^ (8 * p.off) + mixBytes p.mask (s.localRead p.key p.n) old p.n * 2 ^ (8 * p.off))
  match b.op with
  | none =>
    let put (q : Pending) : Pending :=
      match q.res with
      | .v r w => if q.seq = b.seq then { q with res := .v r (place w) } else q
      | _ => q
    s.setCx { s.cx with pend := s.cx.pend.map put }
  | some id =>
    let bad : BitVec 64 := BitVec.ofNat 64 ((poisoned s.pois (p.key / 8 * 8)).toNat * 2 ^ (p.off / 8))
    let put (o : Op) : Op :=
      match o.req with
      | .mem a => if o.id = id then { o with req := .mem { a with data := place a.data, pois := a.pois ||| bad } } else o
      | _ => o
    { s with ops := s.ops.map put }
/-- A stored piece is written: whole, or only its selected bytes (R135, R312). -/
def State.pieceWrite (s : State) (b : Beats) (p : Piece) : State :=
  let v := b.data.toNat / 2 ^ (8 * p.off) % 2 ^ (8 * p.n)
  if p.whole then s.putGood p.key p.n v
  else { s with mem := s.mem.write p.key (leBytes p.n (mixBytes p.mask v (s.peek p.key p.n) p.n)) }
/-- One piece is performed. -/
def State.doPiece (s : State) (b : Beats) (p : Piece) : State := if b.load then s.pieceRead b p else s.pieceWrite b p
/-- The pieces performed in a cycle: all of them in the last one, else those that a free choice takes, in the order of the pieces of a granule. -/
def State.doPieces (b : Beats) (all : Bool) : List Piece → List Piece → State → State × List Piece
  | [], left, s => (s, left)
  | p :: ps, left, s =>
    if !left.any (fun q => q.key / 8 == p.key / 8) && (all || Config.granule s.draws (p.key / 8)) then State.doPieces b all ps left (s.doPiece b p)
    else State.doPieces b all ps (left ++ [p]) s
/-- A cycle of the vector access in its beats; the tag of a `vstt` is written after its last granule (R188, R311, R313, R384). -/
def State.beatTurn (s : State) : State :=
  match s.core.beats with
  | none => s
  | some b =>
    let r := State.doPieces b (decide (b.last ≤ s.core.cyc)) b.pieces [] (s.focus b.slc b.ctx)
    let t := (r.1.focus s.core.cur s.core.curCtx).draw
    if r.2.isEmpty then
      (let u := { t with core := { t.core with beats := none } }
       match b.tag with
       | none => u
       | some g => u.setTag u.core.id g.1 g.2)
    else { t with core := { t.core with beats := some { b with pieces := r.2 } } }
/-- The order of a result of the bundle's C instruction among its context's results. -/
def State.seqC (s : State) : Nat := 2 * s.cx.seq + SlotId.c.bit
/-- The checks of a vector access to 512 bytes. -/
def State.vecTraps (s : State) (k : LKind) (load : Bool) (o : BitVec 2) (a : Word) (align mask : Nat) (rs : List VReg) : List Trap :=
  s.undeclared rs ++ when_ (if load then !loadOrd o else !storeOrd o) badOrder ++
  match s.locate k a 512 align with
  | .bad t => [t] ++ when_ (!load && isKickWord a && o != 2) badOrder
  | .found (.own key) =>
    if load then
      (match maskPoison s.pois mask key with
       | none => []
       | some g => [accessTrap 11 0 (a + BitVec.ofNat 64 g - BitVec.ofNat 64 key) 0 0])
    else []
  | .found (.glob va) => s.overTraps va
  | .found _ => []
/-- The vector access of a mask of bytes in global memory. -/
def overVec (kind : BitVec 2) (va : Word) (mask : Nat) (data : VWord) : Access :=
  { kind := kind, addr := va, size := 512, data := data, pois := 0, mask := BitVec.ofNat 512 mask, aop := 0, cmp := 0 }
/-- A vector load of the selected bytes; the others keep the register's value. -/
def State.vloadAt (s : State) (k : LKind) (vd : VReg) (o : BitVec 2) (sc : BitVec 3) (a : Word) (align mask : Nat) (extra : List Trap)
    (rs : List VReg) : State :=
  s.orSpill (fun d s => (((s.watchMask a.toNat mask false).tally 6 1).vbeats 8).pendV .c vd
    (BitVec.ofNat 4096 (mixBytes mask d.toNat (s.readV vd).toNat 512)) 1) fun s =>
  s.guarded (s.vecTraps k true o a align mask rs ++ extra) fun s =>
    match s.locate k a 512 align with
    | .found (.own key) =>
      s.localAct o key 512 fun s =>
        (((s.watchMask a.toNat mask false).tally 6 1).beginBeats true s.seqC 0 (vecPieces key mask) 8 none none).pendV .c vd (s.readV vd) 11
    | .found (.glob va) => s.overAct o sc (overVec 0 va mask 0)
    | _ => s
/-- A vector store of the selected bytes; a tag is written after it where one is given. -/
def State.vstoreAt (s : State) (k : LKind) (vs : VReg) (o : BitVec 2) (sc : BitVec 3) (a : Word) (align mask : Nat)
    (tag : Option (BitVec 16)) (rs : List VReg) : State :=
  s.orSpill (fun _ s => ((s.watchMask a.toNat mask true).tally 7 1).vbeats 8) fun s =>
  s.guarded (s.vecTraps k false o a align mask rs) fun s =>
    match s.locate k a 512 align with
    | .found (.own key) =>
      s.localAct o key 512 fun s =>
        ((s.watchMask a.toNat mask true).tally 7 1).beginBeats false 0 (s.readV vs) (vecPieces key mask) 8 (tag.map (fun g => (a.toNat, g))) none
    | .found (.glob va) => s.overAct o sc (overVec 1 va mask (s.readV vs))
    | _ => s
def execVld (vd : VReg) (ra : GReg) (o : BitVec 2) (sc : BitVec 3) (off : Option (BitVec 32)) (s : State) : Out :=
  .next (s.vloadAt .vload vd o sc (s.eav ra off) 64 fullMask [] [vd])
def execVst (vs : VReg) (ra : GReg) (o : BitVec 2) (sc : BitVec 3) (off : Option (BitVec 32)) (s : State) : Out :=
  .next (s.vstoreAt .vstore vs o sc (s.eav ra off) 64 fullMask none [vs])
/-- The mask of `vldm` and `vstm`: bytes 0-63 of vm (R312). -/
def State.maskOf (s : State) (vm : VReg) : Nat := (s.readV vm).toNat % 2 ^ 512
def execVldm (vd : VReg) (ra : GReg) (vm : VReg) (o : BitVec 2) (sc : BitVec 3) (off : Option (BitVec 32)) (s : State) : Out :=
  .next (s.vloadAt .vload vd o sc (s.eav ra off) 64 (s.maskOf vm) [] [vd, vm])
def execVstm (vs : VReg) (ra : GReg) (vm : VReg) (o : BitVec 2) (sc : BitVec 3) (off : Option (BitVec 32)) (s : State) : Out :=
  .next (s.vstoreAt .vstore vs o sc (s.eav ra off) 64 (s.maskOf vm) none [vs, vm])
/-- The schedule fault of `vldt`: expected and found tag (R313). -/
def State.tagTraps (s : State) (a : Word) (gt : GReg) : List Trap :=
  let want : BitVec 16 := (s.readG gt).setWidth 16
  when_ (s.tag s.core.id a.toNat != want) (accessTrap 13 0 a (want.setWidth 64) ((s.tag s.core.id a.toNat).setWidth 64))
def execVldt (vd : VReg) (ra gt : GReg) (o : BitVec 2) (sc : BitVec 3) (off : Option (BitVec 32)) (s : State) : Out :=
  .next (s.vloadAt .vplain vd o sc (s.eav ra off) 512 fullMask (s.tagTraps (s.eav ra off) gt) [vd])
def execVstt (vs : VReg) (ra gt : GReg) (o : BitVec 2) (sc : BitVec 3) (off : Option (BitVec 32)) (s : State) : Out :=
  .next (s.vstoreAt .vplain vs o sc (s.eav ra off) 512 fullMask (some ((s.readG gt).setWidth 16)) [vs])

/-- Elements of a gather or scatter. -/
def gatherCount (el : BitVec 2) : Nat := min (512 / 2 ^ el.toNat) 256
/-- Address of its element i. -/
def State.gatherAddr (s : State) (a : Word) (vi : VReg) (el : BitVec 2) (i : Nat) : Word :=
  a + BitVec.ofNat 64 (2 ^ el.toNat * elem (s.readV vi) 16 i)
/-- The fate of the lowest element that fails. -/
def State.gatherTraps (s : State) (load : Bool) (o : BitVec 2) (a : Word) (vi : VReg) (el : BitVec 2) (rs : List VReg) : List Trap :=
  s.undeclared rs ++ when_ (if load then !loadOrd o else !storeOrd o) badOrder ++
  (((List.range (gatherCount el)).findSome? (fun i =>
    let ai := s.gatherAddr a vi el i
    match s.locate .vplain ai (2 ^ el.toNat) (2 ^ el.toNat) with
    | .bad t => some (if !load && isKickWord ai && o != 2 then badOrder else t)
    | .found (.own key) => if load then (s.poisonTraps ai key (2 ^ el.toNat)).head? else none
    | .found _ => none)).map (fun t => [t])).getD []
/-- The key of an address of the own scratchpad. -/
def State.ownKey (s : State) (a : Word) : Nat := coreKey s.core.id a.toNat
/-- The elements of a gather or scatter, in order, as pieces. -/
def State.elements (s : State) (a : Word) (vi : VReg) (el : BitVec 2) : List Piece :=
  (List.range (gatherCount el)).map (fun i =>
    { key := s.ownKey (s.gatherAddr a vi el i), off := 2 ^ el.toNat * i, n := 2 ^ el.toNat, mask := 2 ^ 2 ^ el.toNat - 1 })
/-- The elements are accessed, once nothing holds any of them. -/
def State.gatherAct (s : State) (o : BitVec 2) (a : Word) (vi : VReg) (el : BitVec 2) (act : State → State) : State :=
  if (List.range (gatherCount el)).any (fun i => s.crosses (s.ownKey (s.gatherAddr a vi el i)) (2 ^ el.toNat)) then s.holdLocal (isRelease o)
  else s.localAct o 0 0 act
def execVgather (vd : VReg) (ra : GReg) (vi : VReg) (o : BitVec 2) (_sc : BitVec 3) (el : BitVec 2) (off : Option (BitVec 32))
    (s : State) : Out :=
  let a := s.eav ra off
  let n := 2 ^ el.toNat
  let e := gatherCount el
  .next (s.guarded (s.gatherTraps true o a vi el [vd, vi]) fun s => s.gatherAct o a vi el fun s =>
    let t := (List.range e).foldl (fun t i => t.watch (s.gatherAddr a vi el i).toNat n false) s
    ((t.tally 6 1).beginBeats true s.seqC 0 (s.elements a vi el) ((e + 7) / 8) none none).pendV .c vd 0 ((e + 7) / 8 + 3))
def execVscatter (vs : VReg) (ra : GReg) (vi : VReg) (o : BitVec 2) (_sc : BitVec 3) (el : BitVec 2) (off : Option (BitVec 32))
    (s : State) : Out :=
  let a := s.eav ra off
  let n := 2 ^ el.toNat
  let e := gatherCount el
  .next (s.guarded (s.gatherTraps false o a vi el [vs, vi]) fun s => s.gatherAct o a vi el fun s =>
    let t := (List.range e).foldl (fun t i => t.watch (s.gatherAddr a vi el i).toNat n true) s
    (t.tally 7 1).beginBeats false 0 (s.readV vs) (s.elements a vi el) ((e + 7) / 8) none none)

/-! ## Local atomics (R315, R316) -/

/-- The new value of an n-byte atomic, by the codes of R315. -/
def amoNew (op n old v : Nat) : Nat :=
  let w := 8 * n
  let x := old % 2 ^ w
  let y := v % 2 ^ w
  match op with
  | 0 => (x + y) % 2 ^ w
  | 1 => x &&& y
  | 2 => x ||| y
  | 3 => x ^^^ y
  | 4 => if toSigned w y < toSigned w x then y else x
  | 5 => if toSigned w x < toSigned w y then y else x
  | 6 => min x y
  | 7 => max x y
  | 8 => y
  | _ => let f := if n = 4 then Fmt.f32 else Fmt.f64
         (addV f 0 (decodeF f x) (decodeF f y)).1
/-- The old value as returned: `.w` sign-extended, but zero-extended for `.fadd`. -/
def amoOld (op n old : Nat) : Word := if op = 9 then zextN n old else sextN n old
/-- Bytes of an atomic. -/
def amoSize (dw : Bool) : Nat := if dw then 8 else 4
/-- The checks of a local atomic. -/
def State.amoTraps (s : State) (a : Word) (n : Nat) : List Trap :=
  match s.locate .atomic a n n with
  | .bad t => [t]
  | .found (.own key) => s.poisonTraps a key n
  | .found _ => []
/-- A local atomic in one step: the new value where one is written, the old one to rd. -/
def State.amoAt (s : State) (rd : GReg) (a : Word) (n op : Nat) (o : BitVec 2) (f : Nat → Option Nat) : State :=
  s.guarded (s.amoTraps a n) fun s => s.localAct o (s.ownKey a) n fun s =>
    let old := s.localRead (s.ownKey a) n
    let t := match f old with
      | none => s.watch a.toNat n false
      | some v => ((s.putGood (s.ownKey a) n v).watch a.toNat n false).watch a.toNat n true
    t.pendG .c rd (amoOld op n old) 4
/-- `amo` with an op code. -/
def State.amo (s : State) (op : Nat) (rd ra rb : GReg) (o : BitVec 2) (dw : Bool) : Out :=
  .next (s.amoAt rd (s.readG ra) (amoSize dw) op o (fun old => some (amoNew op (amoSize dw) old (s.readG rb).toNat)))
def execAmoAdd (rd ra rb : GReg) (o : BitVec 2) (dw : Bool) (s : State) : Out := s.amo 0 rd ra rb o dw
def execAmoAnd (rd ra rb : GReg) (o : BitVec 2) (dw : Bool) (s : State) : Out := s.amo 1 rd ra rb o dw
def execAmoOr (rd ra rb : GReg) (o : BitVec 2) (dw : Bool) (s : State) : Out := s.amo 2 rd ra rb o dw
def execAmoXor (rd ra rb : GReg) (o : BitVec 2) (dw : Bool) (s : State) : Out := s.amo 3 rd ra rb o dw
def execAmoMin (rd ra rb : GReg) (o : BitVec 2) (dw : Bool) (s : State) : Out := s.amo 4 rd ra rb o dw
def execAmoMax (rd ra rb : GReg) (o : BitVec 2) (dw : Bool) (s : State) : Out := s.amo 5 rd ra rb o dw
def execAmoMinn (rd ra rb : GReg) (o : BitVec 2) (dw : Bool) (s : State) : Out := s.amo 6 rd ra rb o dw
def execAmoMaxn (rd ra rb : GReg) (o : BitVec 2) (dw : Bool) (s : State) : Out := s.amo 7 rd ra rb o dw
def execAmoSwap (rd ra rb : GReg) (o : BitVec 2) (dw : Bool) (s : State) : Out := s.amo 8 rd ra rb o dw
def execAmoFadd (rd ra rb : GReg) (o : BitVec 2) (dw : Bool) (s : State) : Out := s.amo 9 rd ra rb o dw
/-- gb where old equals gd, else no write. -/
def execCas (rd ra rb : GReg) (o : BitVec 2) (dw : Bool) (s : State) : Out :=
  .next (s.amoAt rd (s.readG ra) (amoSize dw) 10 o (fun old =>
    if old = (s.readG rd).toNat % 2 ^ (8 * amoSize dw) then some ((s.readG rb).toNat % 2 ^ (8 * amoSize dw)) else none))

/-! ## Fences (R200, R202, R317) -/

/-- A fence: later accesses wait until the conditions hold; where they hold at once the bundle ends as any other. A context marked by a halt is
recorded at a fence that must wait, and one told to stop stops at its entry (R203, R220). -/
def State.fenceAct (s : State) (sc : BitVec 3) (strong : Bool) : State :=
  if s.released sc && !strong then s
  else if s.cx.haltMark then s.haltNow 0x414 none 0
  else if s.cx.stop then s.dropProgress
  else
    let t := s.setCx { s.cx with ready := max s.cx.ready (s.core.cyc + 1 + s.waitOut s.core.stall) }
    t.setCx { t.cx with fence := some { scope := sc, sc := strong, stall := t.core.stall,
                                          tick := if strong && s.released sc then some (s.scTick sc) else none } }
def execFence (sc : BitVec 3) (s : State) : Out := .next (s.fenceAct sc false)
def execFenceSc (sc : BitVec 3) (s : State) : Out := .next (s.fenceAct sc true)

end Sys2Proof.Machine
end

