-- ==== Sys2Proof/Machine/Split.lean ====
section
/-! DEFINITION. Machine.Split: split-phase accesses (R320-R322), messages (R323-R327), scheduled transfers (R328-R330) and cistern
requests (R342, R343), at issue. -/

namespace Sys2Proof.Machine

/-! ## Checks at issue -/

/-- Asynchronous operations and message instructions take 0x01 in a repetition body (R166, R321). -/
def State.asyncTraps (s : State) : List Trap := when_ s.cx.rpa (illegal .c)
/-- A target address: of core-space or global form, aligned (R321). -/
def targetForm (a : Word) (n : Nat) : List Trap :=
  when_ (a.toNat % n != 0) (misaligned a) ++ when_ (!isCoreSpace a && !isGlobal a) (outOfRange a)
/-- A trap 0x0A with a subcode and the target address (R390). -/
def refusalTrap (c : Option Nat) (a : Word) : List Trap :=
  match c with
  | none => []
  | some n => [accessTrap 10 (n * 256) a 0 0]
/-- The invalidation word of the station window (R129). -/
def stationWord : Word := 0x81F0000000000000#64

/-! ## Split-phase accesses -/

/-- The access a split-phase instruction asks for. -/
def plainAccess (kind : BitVec 2) (a : Word) (n : Nat) (data : BitVec 4096) (pois : BitVec 64) (aop : BitVec 4) (cmp : Word) : Access :=
  { kind := kind, addr := a, size := n, data := data, pois := pois, mask := BitVec.allOnes 512, aop := aop, cmp := cmp }
/-- The slot's state word is written, as a local store in program order, and the instruction goes on; it is held until the earlier local accesses of the
context have been performed (R188, R189, R219, R318). -/
def State.withSlot (s : State) (slot : Word) (kind : Nat) (act : State → State) : State :=
  if s.localBusy || s.crosses (s.ownKey slot) 8 then s.hold else act ((s.slotPending slot kind).watch slot.toNat 8 true)
/-- The request enters the injector: it leaves at once, or, for a release, when its conditions hold (R321). -/
def State.inject (s : State) (kind : BitVec 8) (slot dst : Word) (o : BitVec 2) (sc : BitVec 3) (a : Access) : State :=
  s.withSlot slot kind.toNat fun t =>
    let q := t.newOp kind slot dst o sc (.mem a) (if isRelease o then .held else .flight)
    let u := t.addOp q
    ((if isRelease o then u else u.onItsWay q).tally 8 1).bound
/-- Checks that the split-phase accesses share. -/
def State.splitTraps (s : State) (ok : Bool) (a gc : Word) (n : Nat) (more : List Trap) : List Trap :=
  s.asyncTraps ++ when_ (!ok) badOrder ++ targetForm a n ++ more ++ s.slotTraps gc ++ refusalTrap (s.injectRefusal a) a
/-- A core holds at most 64 outstanding operations: a further bundle is held. -/
def State.whenRoom (s : State) (act : State → State) : State := if 64 ≤ s.outstanding then s.hold else act s
/-- Size of an sz code. -/
def szBytes (sz : BitVec 2) : Nat := 2 ^ sz.toNat
def execXld (ra rc : GReg) (o : BitVec 2) (sc : BitVec 3) (sz : BitVec 2) (s : State) : Out :=
  let a := s.readG ra
  .next (s.guarded (s.splitTraps (loadOrd o) a (s.readG rc) (szBytes sz) []) fun s => s.whenRoom fun s =>
    s.inject 1 (s.readG rc) 0 o sc (plainAccess 0 a (szBytes sz) 0 0 0 0))
def execXst (rv ra rc : GReg) (o : BitVec 2) (sc : BitVec 3) (sz : BitVec 2) (s : State) : Out :=
  let a := s.readG ra
  .next (s.guarded (when_ (a == stationWord && sz == 3 && !s.cx.prv) (privileged 0) ++
      s.splitTraps (storeOrd o) a (s.readG rc) (szBytes sz) []) fun s => s.whenRoom fun s =>
    s.inject 2 (s.readG rc) 0 o sc (plainAccess 1 a (szBytes sz) ((s.readG rv).setWidth 4096) 0 0 0))
def execXvld (rv ra rc : GReg) (o : BitVec 2) (sc : BitVec 3) (s : State) : Out :=
  let a := s.readG ra
  .next (s.guarded (s.splitTraps (loadOrd o) a (s.readG rc) 512 (s.rangeTraps (s.readG rv) 512 64)) fun s => s.whenRoom fun s =>
    s.inject 3 (s.readG rc) (s.readG rv) o sc (plainAccess 0 a 512 0 0 0 0))
/-- `xvst` reads its source as a local load, granule by granule in 8 beats of the datapath, and its request leaves when it has; poisoned granules travel
as poison. -/
def execXvst (rv ra rc : GReg) (o : BitVec 2) (sc : BitVec 3) (s : State) : Out :=
  let a := s.readG ra
  let g := s.readG rv
  .next (s.guarded (s.splitTraps (storeOrd o) a (s.readG rc) 512 (s.rangeTraps g 512 64)) fun s => s.whenRoom fun s =>
    if s.crosses (s.ownKey g) 512 then s.hold
    else s.withSlot (s.readG rc) 4 fun t =>
      let u := t.addOp (t.newOp 4 (s.readG rc) 0 o sc (.mem (plainAccess 1 a 512 0 0 0 0)) .held)
      (((u.watch g.toNat 512 false).tally 8 1).beginBeats true 0 0 (vecPieces (t.ownKey g) fullMask) 8 none (some t.nextId)).bound)
/-- `xamo` with an op code of R315. -/
def State.xamo (s : State) (op : BitVec 4) (rv ra rc : GReg) (o : BitVec 2) (sc : BitVec 3) (dw : Bool) : Out :=
  let a := s.readG ra
  .next (s.guarded (s.splitTraps true a (s.readG rc) (amoSize dw) []) fun s => s.whenRoom fun s =>
    s.inject 5 (s.readG rc) 0 o sc (plainAccess 2 a (amoSize dw) ((s.readG rv).setWidth 4096) 0 op 0))
def execXamoAdd (rv ra rc : GReg) (o : BitVec 2) (sc : BitVec 3) (dw : Bool) (s : State) : Out := s.xamo 0 rv ra rc o sc dw
def execXamoAnd (rv ra rc : GReg) (o : BitVec 2) (sc : BitVec 3) (dw : Bool) (s : State) : Out := s.xamo 1 rv ra rc o sc dw
def execXamoOr (rv ra rc : GReg) (o : BitVec 2) (sc : BitVec 3) (dw : Bool) (s : State) : Out := s.xamo 2 rv ra rc o sc dw
def execXamoXor (rv ra rc : GReg) (o : BitVec 2) (sc : BitVec 3) (dw : Bool) (s : State) : Out := s.xamo 3 rv ra rc o sc dw
def execXamoMin (rv ra rc : GReg) (o : BitVec 2) (sc : BitVec 3) (dw : Bool) (s : State) : Out := s.xamo 4 rv ra rc o sc dw
def execXamoMax (rv ra rc : GReg) (o : BitVec 2) (sc : BitVec 3) (dw : Bool) (s : State) : Out := s.xamo 5 rv ra rc o sc dw
def execXamoMinn (rv ra rc : GReg) (o : BitVec 2) (sc : BitVec 3) (dw : Bool) (s : State) : Out := s.xamo 6 rv ra rc o sc dw
def execXamoMaxn (rv ra rc : GReg) (o : BitVec 2) (sc : BitVec 3) (dw : Bool) (s : State) : Out := s.xamo 7 rv ra rc o sc dw
def execXamoSwap (rv ra rc : GReg) (o : BitVec 2) (sc : BitVec 3) (dw : Bool) (s : State) : Out := s.xamo 8 rv ra rc o sc dw
def execXamoFadd (rv ra rc : GReg) (o : BitVec 2) (sc : BitVec 3) (dw : Bool) (s : State) : Out := s.xamo 9 rv ra rc o sc dw
/-- Expected value in gv, new value in g(v + 1). -/
def execXcas (rv ra rc : GReg) (o : BitVec 2) (sc : BitVec 3) (dw : Bool) (s : State) : Out :=
  let a := s.readG ra
  .next (s.guarded (when_ (rv == 31) (illegal .c) ++ s.splitTraps true a (s.readG rc) (amoSize dw) []) fun s => s.whenRoom fun s =>
    s.inject 6 (s.readG rc) 0 o sc (plainAccess 2 a (amoSize dw) ((s.readG (rv + 1)).setWidth 4096) 0 10 (s.readG rv)))

/-! ## Messages -/

/-- The stamp of the running slice (R44). -/
def State.stamp (s : State) : Stamp :=
  { smod := s.modId, score := s.core.id, srgn := s.sl.rgn, sslc := s.core.cur.val, gang := s.sl.gang }
/-- The 512 bits of an injection entry (R323). -/
def State.entry (s : State) (e : BitVec 4) : Nat := s.peek (coreKey s.core.id (458752 + 64 * e.toNat)) 64
/-- Local offset of the payload, and its bytes. -/
def entryPadr (e : Nat) : Word := BitVec.ofNat 64 (fld e 148 128)
def entryLen (e : Nat) : Nat := fld e 28 24
/-- The path-table entry a message takes its route and destination from. -/
def State.entryPath (s : State) (e : Nat) : BitVec 192 := s.pathEntry s.core.id (fld e 22 15)
/-- Destination of the message: class, module and unit. -/
def State.entryDest (s : State) (e : Nat) : Nat × BitVec 12 × BitVec 20 :=
  if fld e 23 23 = 1 then
    (let p := (s.entryPath e).toNat
     (fld p 190 188, BitVec.ofNat 12 (fld p 79 68), BitVec.ofNat 20 (fld p 67 48)))
  else (fld e 31 29, BitVec.ofNat 12 (fld e 63 52), BitVec.ofNat 20 (fld e 51 32))
/-- The packet of a `post`, without its route, which it takes at injection: header from the entry, or destination from the path table (R324, R35). -/
def State.postPacket (s : State) (e : Nat) : Packet :=
  let d := s.entryDest e
  let k := coreKey s.core.id (entryPadr e).toNat
  let n := 32 * entryLen e
  { hdr := mkHdr 3 (entryLen e) d.1 d.2.1 d.2.2 s.stamp (fld e 185 176) (fld e 14 11 * 65536 + fld e 175 160),
    body := BitVec.ofNat 4096 (s.localRead k n), pois := BitVec.ofNat 64 (poisonBits s.pois k n) }
/-- The path-table entry that a message names (R323). -/
def entryIndex (e : Nat) : Option (BitVec 8) := if fld e 23 23 = 1 then some (BitVec.ofNat 8 (fld e 22 15)) else none
/-- The subcode with which a `post` is refused at issue; the entry's own DCLS counts, and where the path table gives the destination that one's too. -/
def State.postRefusal (s : State) (e : Nat) : Option Nat :=
  let d := s.entryDest e
  let pos := corePos s.core.id
  if fld e 23 23 = 1 ∧ (fld e 22 15 < 64 ∨ !entryValid (s.entryPath e)) then some 6
  else if 5 ≤ fld e 31 29 ∨ 5 ≤ d.1 ∨ 16 < entryLen e then some 5
  else if !s.reachable d.2.1 then some 4
  else if fld e 23 23 = 1 then none
  else
    match s.routeFrom pos.1 pos.2 { hdr := mkHdr 3 0 d.1 d.2.1 d.2.2 s.stamp 0 0, body := 0, pois := 0 } with
    | .inl _ => none
    | .inr c => some c
/-- The checks of `post` (R324); the refusal's address is the destination unit (log entry 17). -/
def State.postTraps (s : State) (e : Nat) : List Trap :=
  let a := entryPadr e
  let n := 32 * entryLen e
  s.asyncTraps ++ when_ (a.toNat % 32 != 0) (misaligned a) ++
    when_ (n != 0 && (decide (393216 ≤ a.toNat) || !s.sl.inPart a.toNat n)) (outOfRange a) ++
    refusalTrap (s.postRefusal e) ((s.entryDest e).2.2.setWidth 64)
def execPost (e : BitVec 4) (s : State) : Out :=
  .next (s.guarded (s.postTraps (s.entry e)) fun s =>
    if s.localBusy = true ∨ s.crosses (s.ownKey (entryPadr (s.entry e))) (32 * entryLen (s.entry e)) = true then s.hold
    else
      let t := s.addOp (s.newOp 0 0 0 2 3 (.post (s.postPacket (s.entry e)) (entryIndex (s.entry e))) .held)
      (if entryLen (s.entry e) = 0 then t else t.watch (entryPadr (s.entry e)).toNat (32 * entryLen (s.entry e)) false).bound)
def execQnext (rd : GReg) (s : State) : Out :=
  .next (s.guarded s.asyncTraps fun s =>
    let x := s.sl
    let y := if x.rqTail = x.rqHead then x else { x with rqHead := x.rqHead + 1 }
    let v := if y.rqTail = y.rqHead then 0 else y.rqAddr y.rqHead.toNat
    ((s.setSl y).pendG .c rd (BitVec.ofNat 64 v) 2).bound)

/-! ## Scheduled transfers -/

/-- Fabric cycles since the opening tick of the slice's window (R329). -/
def State.windowCycle (s : State) : Nat :=
  (s.pace.toNat - (s.sl.window.getD 0).toNat) * s.ticksN + s.fcyc
/-- The timing fault of an `xsend` (R329, R330). -/
def State.timingTraps (s : State) (gs gc : Word) : List Trap :=
  let open_ := s.sl.opened
  let c := s.windowCycle
  let bad (k : Nat) : List Trap :=
    [accessTrap 14 (k * 256) gs gc (if open_ then BitVec.ofNat 64 c else BitVec.allOnes 64)]
  if !open_ || gc.toNat % 2 == 1 || decide (s.sl.eff.xlen.toNat * s.ticksN ≤ gc.toNat) then bad 2
  else if gc.toNat < c + 4 then bad 1
  else if s.hushFor s.sl.gang ((s.sl.window.getD 0).toNat + gc.toNat / s.ticksN) then bad 3
  else []
/-- The checks of an `xsend`. -/
def State.xsendTraps (s : State) (gs gc go : Word) (p : BitVec 8) (n : Nat) : List Trap :=
  let e := s.pathEntry s.core.id p.toNat
  s.asyncTraps ++ when_ (decide (p.toNat < 64) || decide (16 < n)) (illegal .c) ++ s.rangeTraps gs (32 * n) 32 ++
    when_ (go.toNat % 32 != 0 || decide (393216 < go.toNat + 32 * n)) (outOfRange go) ++
    when_ (!entryValid e || fld e.toNat 190 188 != 0) (accessTrap 10 (6 * 256) go 0 0) ++ s.timingTraps gs gc
/-- `xsend`: X holds n - 1. -/
def execXsend (r1 r2 r3 : GReg) (p : BitVec 8) (n : BitVec 5) (tag : BitVec 16) (s : State) : Out :=
  let gs := s.readG r1
  let gc := s.readG r2
  .next (s.guarded (s.xsendTraps gs gc (s.readG r3) p (n.toNat + 1)) fun s =>
    if 64 ≤ s.core.inj.length then s.hold
    else
      let x : XSend := { src := gs, depart := gc.toNat, n := n.toNat + 1, path := p, tag := tag, dst := s.readG r3,
                         win := s.sl.window.getD 0, iss := s.issuer }
      { s with core := { s.core with inj := s.core.inj ++ [x] } }.bound)

/-! ## Cistern requests -/

/-- A cistern request enters the injector behind the context's earlier ones (R343). -/
def State.injectCistern (s : State) (kind : BitVec 8) (slot dst : Word) (o : BitVec 2) (r : Req) : State :=
  s.withSlot slot kind.toNat fun t => ((t.addOp (t.newOp kind slot dst o 4 r .held)).tally 12 1).bound
/-- The checks of a cistern instruction on a key word; a record is 256 bytes, 32-byte aligned. -/
def State.cisternTraps (s : State) (key gc : Word) (recd : Option Word) : List Trap :=
  s.asyncTraps ++ s.slotTraps gc ++
  (match recd with
   | none => []
   | some a => s.rangeTraps a 256 32) ++ refusalTrap s.globalRefusal key
def execTst (r1 r2 r3 r4 : GReg) (s : State) : Out :=
  let a := s.readG r3
  .next (s.guarded (s.cisternTraps (s.readG r1) (s.readG r4) (some a)) fun s => s.whenRoom fun s =>
    if s.crosses (s.ownKey a) 256 then s.hold
    else s.withSlot (s.readG r4) 7 fun t =>
      let d := BitVec.ofNat 2048 (t.localRead (t.ownKey a) 256)
      let p := BitVec.ofNat 32 (poisonBits t.pois (t.ownKey a) 256)
      (((t.addOp (t.newOp 7 (s.readG r4) a 2 4 (.tst (s.readG r1) (s.readG r2) d p) .held)).watch a.toNat 256 false).tally 12 1).bound)
def execTadv (r1 r2 r3 : GReg) (s : State) : Out :=
  .next (s.guarded (s.cisternTraps (s.readG r1) (s.readG r3) none) fun s => s.whenRoom fun s =>
    s.injectCistern 9 (s.readG r3) 0 2 (.tadv (s.readG r1) (s.readG r2)))
def execTlow (r1 r2 r3 : GReg) (s : State) : Out :=
  .next (s.guarded (s.cisternTraps (s.readG r1) (s.readG r3) none) fun s => s.whenRoom fun s =>
    s.injectCistern 10 (s.readG r3) 0 0 (.tlow (s.readG r1) (s.readG r2)))
/-- r1 key, r2 instant, r3 limit, r4 record address; wm block, ik hold. -/
def execTld (r1 r2 r3 r4 gc : GReg) (wm ik : Bool) (s : State) : Out :=
  let a := s.readG r4
  .next (s.guarded (s.cisternTraps (s.readG r1) (s.readG gc) (some a)) fun s => s.whenRoom fun s =>
    s.injectCistern 8 (s.readG gc) a 1 (.tld (s.readG r1) (s.readG r2) (s.readG r3) a wm ik))

end Sys2Proof.Machine
end

