-- ==== Sys2Proof/Machine/Matrix.lean ====
section
/-! DEFINITION. Machine.Matrix: the matrix commands at issue and at execution (R168-R175, R331-R341) and the group sums of the
array (R233-R235, R240-R244). -/

namespace Sys2Proof.Machine

/-! ## Pairs (R168, R335) -/

/-- Kinds of A and B operand. -/
inductive MTy where
  | e4m3 | e5m2 | bf16 | f16 | i8 | t2 | e8o
  deriving DecidableEq, Repr
/-- A and B of a pair, in the order of R335. -/
def pairA (p : Nat) : MTy :=
  match p with
  | 0 => .e4m3 | 1 => .e4m3 | 2 => .e5m2 | 3 => .e5m2 | 4 => .bf16 | 5 => .f16 | 6 => .i8 | 7 => .i8 | 8 => .i8 | 9 => .e4m3
  | _ => .bf16
def pairB (p : Nat) : MTy :=
  match p with
  | 0 => .e4m3 | 1 => .e5m2 | 2 => .e4m3 | 3 => .e5m2 | 4 => .bf16 | 5 => .f16 | 6 => .i8 | 7 => .t2 | _ => .e8o
/-- Bytes of an A element. -/
def pairBytes (p : Nat) : Nat := if p = 4 ∨ p = 5 ∨ p = 10 then 2 else 1
/-- B bytes per column for K steps. -/
def pairCol (p k : Nat) : Nat := if p ≤ 3 ∨ p = 6 then k else if p ≤ 5 then 2 * k else k / 4
/-- Cycles of a command. -/
def pairCycles (p k : Nat) : Nat :=
  if p ≤ 3 ∨ p = 6 then k else if p ≤ 5 then 2 * k else if p = 10 then k / 2 else k / 4
/-- Bank type. -/
def pairBank (p : Nat) : BankTy := if p = 6 then .i32 else .f32
/-- Guard bits G (R241). -/
def pairGuard (p : Nat) : Nat := if p ≤ 3 then 12 else if p ≤ 5 then 20 else 10
/-- First column kept by the truncated multiplier, 0 where the `a` bit has no effect (R244). -/
def pairC0 (p : Nat) : Nat := if p ≤ 3 then 1 else if p = 4 then 4 else if p = 5 then 6 else 0
/-- Pairs available in warm-up (R21). -/
def pairWarm (p : Nat) : Bool := p == 4 || p == 5 || p == 6

/-! ## Operands and groups (R240-R244) -/

/-- An operand: NaN, an infinity, or a signed integer with the weight of its lowest bit. -/
inductive MOp where
  | nan
  | inf (neg : Bool)
  | fin (m : Int) (f : Int)
  deriving DecidableEq, Repr
/-- A decoded floating-point operand; e5m2 integers carry one bit more (R240). -/
def mopF (ty : MTy) (v : FV) : MOp :=
  match v with
  | .nan _ => .nan
  | .inf n => .inf n
  | .fin n m e =>
    let g : Nat := if ty = .e5m2 then 2 * m else m
    .fin (if n then -(g : Int) else g) (if ty = .e5m2 then e - 1 else e)
/-- An operand from its code; t2 and e8o give the code of one element and its place. -/
def mop (ty : MTy) (code i : Nat) : MOp :=
  match ty with
  | .e4m3 => mopF ty (decodeF Fmt.e4m3 code)
  | .e5m2 => mopF ty (decodeF Fmt.e5m2 code)
  | .bf16 => mopF ty (decodeF Fmt.bf16 code)
  | .f16 => mopF ty (decodeF Fmt.f16 code)
  | .i8 => .fin (toSigned 8 code) 0
  | .t2 => .fin (if code = 1 then 1 else if code = 3 then -1 else 0) 0
  | .e8o => .fin (octY2 code i) (-1)
/-- A product: NaN, infinity, or an integer with its exponent, its factors kept for the truncated multiplier. -/
inductive MProd where
  | nan
  | inf (neg : Bool)
  | fin (a b : Int) (f : Int)
  deriving DecidableEq, Repr
/-- The product of two operands under their block scales; a scale of -128 marks a NaN block (R234, R242). -/
def mprod (a b : MOp) (sa sb : Int) : MProd :=
  if sa = -128 ∨ sb = -128 then .nan
  else
    match a, b with
    | .nan, _ => .nan
    | _, .nan => .nan
    | .inf n, .inf k => .inf (n != k)
    | .inf n, .fin m _ => if m = 0 then .nan else .inf (n != decide (m < 0))
    | .fin m _, .inf n => if m = 0 then .nan else .inf (n != decide (m < 0))
    | .fin m f, .fin k g => .fin m k (f + g + sa + sb)
/-- The product of magnitudes without the partial-product columns below c0, over the bits of a from i on (R244). -/
def truncMul (c0 b : Nat) : Nat → Nat → Nat → Nat
  | 0, _, _ => 0
  | n + 1, i, a => (if a % 2 = 1 then b / 2 ^ (c0 - i) * 2 ^ (c0 - i) * 2 ^ i else 0) + truncMul c0 b n (i + 1) (a / 2)
/-- One term of a group in window units (R241). -/
def mterm (g c0 : Nat) (fmax : Int) (p : MProd) : Int :=
  match p with
  | .fin a b f =>
    let d := (fmax - f).toNat
    let m := if c0 ≠ 0 ∧ 9 ≤ d then truncMul c0 b.natAbs 12 0 a.natAbs else a.natAbs * b.natAbs
    let t : Nat := if d ≤ g then m * 2 ^ (g - d) else m / 2 ^ (d - g)
    if (a < 0) != (b < 0) then -(t : Int) else t
  | _ => 0
/-- The largest exponent of a nonzero product. -/
def mmax : List MProd → Option Int
  | [] => none
  | .fin a b f :: ps => if a * b = 0 then mmax ps else match mmax ps with
    | none => some f
    | some m => some (max f m)
  | _ :: ps => mmax ps
/-- A group merged into an f32 accumulator code (R241, R242). -/
def mgroup (g c0 : Nat) (acc : Nat) (ps : List MProd) : Nat :=
  let f := Fmt.f32
  let pos := ps.contains (.inf false)
  let neg := ps.contains (.inf true)
  if ps.contains .nan || (pos && neg) then f.nan
  else if pos || neg then (addV f 0 (decodeF f acc) (.inf neg)).1
  else
    match mmax ps with
    | none => acc
    | some fmax =>
      let w : Int := (ps.map (fun p => match p with
        | .fin a b _ => if a * b = 0 then (0 : Int) else mterm g c0 fmax p
        | _ => 0)).foldl (· + ·) 0
      if w = 0 then acc else (addV f 0 (decodeF f acc) (.fin (decide (w < 0)) w.natAbs (fmax - g))).1
/-- A group of `mma.i8.i8`: the exact sum added to an i32 element, saturated; whether it saturated (R243). -/
def igroup (acc : Nat) (ps : List MProd) : Nat × Bool :=
  let v := ps.foldl (fun a p => match p with
    | .fin m k _ => a + m * k
    | _ => a) (toSigned 32 acc)
  let lo : Int := -(2 ^ 31 : Nat)
  let hi : Int := ((2 ^ 31 - 1 : Nat) : Int)
  if v < lo then (ofInt 32 lo, true) else if hi < v then (ofInt 32 hi, true) else (ofInt 32 v, false)

/-! ## Issue (R331, R336-R340) -/

/-- A matrix command fault at issue. -/
def matTrap (sub : Nat) (a : Word) : Trap := accessTrap 17 (sub * 256) a 0 0
/-- The checks that every matrix command shares. -/
def State.matTraps (s : State) : List Trap := s.asyncTraps ++ when_ (!s.sl.acc) (matTrap 1 s.cx.pc)
/-- A command enters the queue, or is held while the queue is full (R170, R334). -/
def State.enqueue (s : State) (k : MKind) (slot : Option Word) : State :=
  let act (t : State) : State :=
    let u := t.setSl (t.sl.jobBegin 0)
    let m : MCmd := { what := k, iss := u.issuer, entered := u.core.cyc }
    ({ u with core := { u.core with mq := u.core.mq ++ [m] } }.tally 9 1).bound
  if 8 ≤ s.core.mq.length then s.hold
  else
    match slot with
    | none => act s
    | some a => s.withSlot a 11 act
/-- K, BA or BB of a code. -/
def kSize (c : BitVec 2) : Nat := 16 * 2 ^ c.toNat
/-- The checks of an `mma` (R336). -/
def State.mmaTraps (s : State) (p : Nat) (ga gb gs : Word) (rs : GReg) (kb ba bb : BitVec 2) : List Trap :=
  let k := kSize kb
  s.matTraps ++ when_ (decide (kb.toNat < ba.toNat) || decide (kb.toNat < bb.toNat)) (illegal .c) ++
    when_ (!s.fullService && !pairWarm p) (matTrap 2 s.cx.pc) ++ s.rangeTraps ga (32 * k * pairBytes p) 64 ++
    when_ (gb.toNat % 8 != 0 || decide (1024 < gb.toNat + pairCol p k)) (matTrap 16 gb) ++
    (if rs = 0 ∨ p = 6 then [] else s.rangeTraps gs (32 * (k / kSize ba + k / kSize bb)) 64)
/-- An `mma` of a pair: registers captured, into the queue. -/
def State.mma (s : State) (p : Fin 11) (ra rb rs : GReg) (kb ba bb : BitVec 2) (ap : Bool) : Out :=
  .next (s.guarded (s.mmaTraps p.val (s.readG ra) (s.readG rb) (s.readG rs) rs kb ba bb) fun s =>
    s.enqueue (.mma p (s.readG ra) (s.readG rb) (s.readG rs) (rs != 0 && p.val != 6) (kSize kb) (kSize ba) (kSize bb) ap) none)
def execMmaE4m3E4m3 (ra rb rs : GReg) (kb ba bb : BitVec 2) (ap : Bool) (s : State) : Out := s.mma 0 ra rb rs kb ba bb ap
def execMmaE4m3E5m2 (ra rb rs : GReg) (kb ba bb : BitVec 2) (ap : Bool) (s : State) : Out := s.mma 1 ra rb rs kb ba bb ap
def execMmaE5m2E4m3 (ra rb rs : GReg) (kb ba bb : BitVec 2) (ap : Bool) (s : State) : Out := s.mma 2 ra rb rs kb ba bb ap
def execMmaE5m2E5m2 (ra rb rs : GReg) (kb ba bb : BitVec 2) (ap : Bool) (s : State) : Out := s.mma 3 ra rb rs kb ba bb ap
def execMmaBf16Bf16 (ra rb rs : GReg) (kb ba bb : BitVec 2) (ap : Bool) (s : State) : Out := s.mma 4 ra rb rs kb ba bb ap
def execMmaF16F16 (ra rb rs : GReg) (kb ba bb : BitVec 2) (ap : Bool) (s : State) : Out := s.mma 5 ra rb rs kb ba bb ap
def execMmaI8I8 (ra rb rs : GReg) (kb ba bb : BitVec 2) (ap : Bool) (s : State) : Out := s.mma 6 ra rb rs kb ba bb ap
def execMmaI8T2 (ra rb rs : GReg) (kb ba bb : BitVec 2) (ap : Bool) (s : State) : Out := s.mma 7 ra rb rs kb ba bb ap
def execMmaE8oI8 (ra rb rs : GReg) (kb ba bb : BitVec 2) (ap : Bool) (s : State) : Out := s.mma 8 ra rb rs kb ba bb ap
def execMmaE8oE4m3 (ra rb rs : GReg) (kb ba bb : BitVec 2) (ap : Bool) (s : State) : Out := s.mma 9 ra rb rs kb ba bb ap
def execMmaE8oBf16 (ra rb rs : GReg) (kb ba bb : BitVec 2) (ap : Bool) (s : State) : Out := s.mma 10 ra rb rs kb ba bb ap
/-- The checks of `mldb` (R337). -/
def State.mldbTraps (s : State) (gs go gl : Word) : List Trap :=
  s.matTraps ++ when_ (gl.toNat % 8 != 0 || decide (gl.toNat < 8) || decide (1024 < gl.toNat)) (matTrap 17 gl) ++
    when_ (go.toNat % 8 != 0 || decide (1024 < go.toNat + gl.toNat)) (matTrap 16 go) ++ s.rangeTraps gs (32 * gl.toNat) 64
def execMldb (r1 r2 r3 : GReg) (s : State) : Out :=
  .next (s.guarded (s.mldbTraps (s.readG r1) (s.readG r2) (s.readG r3)) fun s =>
    s.enqueue (.mldb (s.readG r1) (s.readG r2).toNat (s.readG r3).toNat) none)
def execMzero (s : State) : Out := .next (s.guarded s.matTraps fun s => s.enqueue .mzero none)
/-- Output bytes of an `mdrain` type. -/
def drainBytes (ty : BitVec 4) : Nat :=
  match ty.toNat with
  | 12 => 4096
  | 10 => 2048
  | 11 => 2048
  | 15 => 256
  | _ => 1024
/-- The checks of `mdrain` (R339, R340). -/
def State.mdrainTraps (s : State) (gt gs gc : Word) (ty act : BitVec 4) : List Trap :=
  s.matTraps ++ when_ (!(ty == 15 || (8 ≤ ty.toNat && ty.toNat ≤ 12)) || decide (4 ≤ act.toNat)) (illegal .c) ++
    when_ (gs.toNat % 256 == 128) (matTrap 18 gs) ++ s.rangeTraps gt (drainBytes ty) 512 ++ s.slotTraps gc
def execMdrain (r1 r2 r3 r4 : GReg) (ty act : BitVec 4) (s : State) : Out :=
  .next (s.guarded (s.mdrainTraps (s.readG r1) (s.readG r2) (s.readG r4) ty act) fun s =>
    s.enqueue (.mdrain (s.readG r1) ((s.readG r2).setWidth 8) (BitVec.ofNat 8 ((s.readG r2).toNat / 256)) ((s.readG r3).setWidth 16)
      (s.readG r4) ty act (s.cx.fpc.getLsbD 15)) (some (s.readG r4)))

/-! ## Execution (R333, R336-R340) -/

/-- Byte count of the array's occupation by a command; one cycle where the queue is discarding. -/
def MKind.cycles (k : MKind) : Nat :=
  match k with
  | .mma p _ _ _ _ kk _ _ _ => pairCycles p.val kk
  | .mldb _ _ gl => gl / 4
  | .mzero => 1
  | .mdrain .. => 38
/-- Is a slice that of a command's issuer? -/
def MCmd.isOf (m : MCmd) (i : Fin 16) (x : Slice) : Bool := m.iss.slc == i && m.iss.uid == x.uid && m.iss.rgn == x.rgn
/-- The slice of a command's issuer, in its entry, or once it has left (R175, R298). -/
def State.cmdSlice (s : State) (m : MCmd) : Option Slice :=
  let x := s.sliceAt m.iss.core m.iss.slc
  if x.v && m.isOf m.iss.slc x then some x else (s.coreAt m.iss.core).gone.find? (fun y => m.isOf m.iss.slc y)
/-- Is the queue of the command's slice discarding? -/
def State.discarding (s : State) (m : MCmd) : Bool :=
  match s.cmdSlice m with
  | none => false
  | some x => x.mflt.isSome
/-- Change the slice of a command's issuer, in its entry, or where it has left. -/
def State.onCmdSlice (s : State) (m : MCmd) (f : Slice → Slice) : State :=
  let x := s.sliceAt m.iss.core m.iss.slc
  if x.v && m.isOf m.iss.slc x then s.modSlice m.iss.core m.iss.slc f
  else
    let c := s.coreAt m.iss.core
    s.putCore { c with gone := c.gone.map (fun y => if m.isOf m.iss.slc y then f y else y) }
/-- The fault recorded for a slice that has left goes to its region's queue once no command of it is left (R333). -/
def State.goneDone (s : State) (co : CoreId) (m : MCmd) : State :=
  let c := s.coreAt co
  match c.gone.find? (fun y => m.isOf m.iss.slc y) with
  | none => s
  | some x =>
    if c.mq.any (fun n => n.isOf m.iss.slc x) then s
    else
      let t := s.putCore { c with gone := c.gone.filter (fun y => !m.isOf m.iss.slc y) }
      match x.mflt with
      | some r => t.lateFault r
      | none => t
/-- A command leaves the queue: channel 0 of the slice takes its completion (R334), and the unit is free. -/
def State.cmdDone (s : State) (co : CoreId) (m : MCmd) (fault : Bool) : State :=
  let c := s.coreAt co
  let t := (s.putCore { c with mq := c.mq.drop 1 }).onCmdSlice m (fun x => x.jobEnd 0 fault)
  let u : State := { t with munits := t.munits.map (fun u => if u.active = some co then { u with active := none } else u) }
  u.goneDone co m
/-- A command faults at execution: the fault is recorded and the queue discards from here on. -/
def State.cmdFault (s : State) (co : CoreId) (m : MCmd) (i : Info) : State :=
  ((s.onCmdSlice m (fun x => if x.mflt.isSome then x else { x with mflt := some ⟨i, m.iss⟩ })).cmdDone co m true)
/-- Scale of block j of row or column i, a table of n blocks each from an address; 0 without a table. -/
def State.scaleAt (s : State) (co : CoreId) (table : Bool) (base : Nat) (i n j : Nat) : Int :=
  if table then toSigned 8 (s.peek (coreKey co (base + i * n + j)) 1) else 0
/-- Code of A element k of row i. -/
def State.aCode (s : State) (co : CoreId) (p : Nat) (ga : Nat) (kk i k : Nat) : Nat :=
  s.peek (coreKey co (ga + i * (kk * pairBytes p) + k * pairBytes p)) (pairBytes p)
/-- Code of B element k of column c. -/
def State.bCode (s : State) (co : CoreId) (p gb c k : Nat) : Nat :=
  match pairB p with
  | .bf16 => s.peek (shareKey co c (gb + 2 * k)) 2
  | .f16 => s.peek (shareKey co c (gb + 2 * k)) 2
  | .t2 => s.peek (shareKey co c (gb + k / 4)) 1 / 2 ^ (2 * (k % 4)) % 4
  | .e8o => s.peek (shareKey co c (gb + 2 * (k / 8))) 2
  | _ => s.peek (shareKey co c (gb + k)) 1
/-- The first poisoned granule that an `mma` would read: A, then B, then the scales (R336). -/
def State.mmaPoison (s : State) (co : CoreId) (p : Nat) (ga gb gs : Nat) (table : Bool) (kk ba bb : Nat) : Option Nat :=
  match firstPoison s.pois (coreKey co ga) (32 * kk * pairBytes p) with
  | some g => some (g - coreKey co 0)
  | none =>
    match (List.range 32).findSome? (fun c => (firstPoison s.pois (shareKey co c gb) (pairCol p kk)).map (fun g => g - shareKey co c 0)) with
    | some g => some g
    | none =>
      if table then (firstPoison s.pois (coreKey co gs) (32 * (kk / ba + kk / bb))).map (fun g => g - coreKey co 0) else none
/-- Operands of A rows and B columns with their scales, and the 16 products of group g of element (i, j). -/
def groupProds (a b : List (MOp × Int)) (g : Nat) : List MProd :=
  (List.zip ((a.drop (16 * g)).take 16) ((b.drop (16 * g)).take 16)).map (fun t => mprod t.1.1 t.2.1 t.1.2 t.2.2)
/-- One element through all its groups, and whether it saturated. -/
def mmaElem (p : Nat) (ap : Bool) (a b : List (MOp × Int)) (n : Nat) (acc : Nat) : Nat × Bool :=
  (List.range n).foldl (fun r g =>
    if p = 6 then (let t := igroup r.1 (groupProds a b g); (t.1, r.2 || t.2))
    else (mgroup (pairGuard p) (if ap then pairC0 p else 0) r.1 (groupProds a b g), r.2)) (acc, false)
/-- The bank after an `mma`, element (i, j) at 32 i + j, and whether an element saturated. -/
def State.mmaBank (s : State) (co : CoreId) (p : Nat) (ga gb gs : Nat) (table : Bool) (kk ba bb : Nat) (ap : Bool) : List (Nat × Bool) :=
  let rows := (List.range 32).map (fun i => (List.range kk).map (fun k =>
    (mop (pairA p) (s.aCode co p ga kk i k) 0, s.scaleAt co table gs i (kk / ba) (k / ba))))
  let cols := (List.range 32).map (fun c => (List.range kk).map (fun k =>
    (mop (pairB p) (s.bCode co p gb c k) (k % 8), s.scaleAt co table (gs + 32 * (kk / ba)) c (kk / bb) (k / bb))))
  (List.range 1024).map (fun e =>
    mmaElem p ap (rows.getD (e / 32) []) (cols.getD (e % 32) []) (kk / 16) (s.peek (bankKey co (e / 32) (e % 32)) 4))
/-- Does an `i8.t2` command read the bad code 0b10 (R233)? -/
def State.badT2 (s : State) (co : CoreId) (p gb kk : Nat) : Bool :=
  pairB p == .t2 && (List.range 32).any (fun c => (List.range kk).any (fun k => s.bCode co p gb c k == 2))
/-- The scratchpad ranges that a command reads: the A tile and the scale table of an `mma`, the source of an `mldb` (R197). -/
def MKind.ranges : MKind → List (Nat × Nat)
  | .mma p ga _ gs table kk ba bb _ => (ga.toNat, 32 * kk * pairBytes p.val) :: (if table then [(gs.toNat, 32 * (kk / ba + kk / bb))] else [])
  | .mldb gs _ gl => [(gs.toNat, 32 * gl)]
  | .mzero => []
  | .mdrain .. => []
/-- The bytes of those ranges as they stand. -/
def State.operandBytes (s : State) (co : CoreId) (m : MCmd) : Mem :=
  { cells := s.mem.cells.filter (fun c => m.what.ranges.any (fun r => decide (coreKey co r.1 ≤ c.1) && decide (c.1 < coreKey co r.1 + r.2))) }
/-- The granules of those ranges, by key. -/
def MCmd.reads (co : CoreId) (m : MCmd) : List Nat :=
  m.what.ranges.flatMap (fun r => (List.range ((r.2 + 7) / 8)).map (fun g => coreKey co r.1 + 8 * g))
/-- The machine as a command's unit has read it: each granule of its operands as it stands at the command's end, or, where a free choice says so, as it
stood when the command began (R197, R384). -/
def State.asRead (s : State) (co : CoreId) (m : MCmd) : State :=
  match s.munits.find? (fun u => u.active == some co) with
  | none => s
  | some u =>
    { s with mem := (m.reads co).foldl (fun (t : Mem) k =>
        if u.snap.rd k 8 ≠ t.rd k 8 ∧ Config.granule s.draws (k / 8) = true then t.write k (leBytes 8 (u.snap.rd k 8)) else t) s.mem }
/-- The effect of an `mma` on the bank (R336). -/
def State.runMma (s : State) (co : CoreId) (m : MCmd) (p : Nat) (ga gb gs : Word) (table : Bool) (kk ba bb : Nat) (ap : Bool) : State :=
  let c := s.coreAt co
  let x := (s.cmdSlice m).getD Slice.fresh
  if c.share ≠ some m.iss.slc then s.cmdFault co m (infoOf 17 768 gb 0 0)
  else if x.bank.isSome && x.bank != some (pairBank p) then s.cmdFault co m (infoOf 17 1024 ga 0 0)
  else
    match s.mmaPoison co p ga.toNat gb.toNat gs.toNat table kk ba bb with
    | some g => s.cmdFault co m (infoOf 11 0 (BitVec.ofNat 64 g) 0 0)
    | none =>
      let w := s.asRead co m
      let r := w.mmaBank co p ga.toNat gb.toNat gs.toNat table kk ba bb ap
      let t := s.putGood (bankKey co 0 0) 4096 (packNat 32 (r.map (·.1)))
      let bad := s.badT2 co p gb.toNat kk
      ((t.onCmdSlice m (fun x => { x with bank := some (pairBank p), sat := x.sat || r.any (·.2), bc := x.bc || bad })).cmdDone co m false).draw
/-- The bytes of a departed slice that are being cleared from a core's share are zeros already where another slice's `mldb`, begun before, claims the
share (R169; log entry 90). -/
def State.wipeShare (s : State) (co : CoreId) : State :=
  if (s.coreAt co).shareClr.isSome then (List.range 32).foldl (fun s j => s.putGood (shareKey co j 0) 1024 0) s else s
/-- The effect of an `mldb` on the share (R337). -/
def State.runMldb (s : State) (co : CoreId) (m : MCmd) (gs : Word) (go gl : Nat) : State :=
  match firstPoison s.pois (coreKey co gs.toNat) (32 * gl) with
  | some g => s.cmdFault co m (infoOf 11 0 (BitVec.ofNat 64 (g - coreKey co 0)) 0 0)
  | none =>
    let w := s.asRead co m
    let r := s.wipeShare co
    let t := (List.range 32).foldl (fun t c => t.putGood (shareKey co c go) gl (w.peek (coreKey co (gs.toNat + c * gl)) gl)) r
    let d := t.coreAt co
    ((t.putCore { d with share := some m.iss.slc }).cmdDone co m false).draw
/-- The effect of an `mzero` (R338). -/
def State.runMzero (s : State) (co : CoreId) (m : MCmd) : State :=
  ((s.putGood (bankKey co 0 0) 4096 0).onCmdSlice m (fun x => { x with bank := none, sat := false, bc := false })).cmdDone co m false
/-- The activation of a drain (R339): `relu` gives x or +0, clamps give values between their bounds. -/
def activate (act : Nat) (v : FV) : FV :=
  match v with
  | .nan s => .nan s
  | _ =>
    let zero : FV := .fin false 0 0
    let one (n : Bool) : FV := .fin n 1 0
    match act with
    | 0 => v
    | 1 => if ltV zero v then v else zero
    | 2 => if ltV zero v then (if ltV (one false) v then one false else v) else zero
    | _ => if ltV v (one true) then one true else if ltV (one false) v then one false else v
/-- A value times 2^k, exactly. -/
def FV.scaled (v : FV) (k : Int) : FV :=
  match v with
  | .fin n m e => .fin n m (e + k)
  | w => w
/-- Bank element (i, j) as a value, an i32 bank converted by RN32 (R173). -/
def State.bankVal (s : State) (co : CoreId) (b : Option BankTy) (i j : Nat) : FV :=
  let c := s.peek (bankKey co i j) 4
  decodeF Fmt.f32 (if b = some .i32 then (cvtOfInt Fmt.f32 0 false (toSigned 32 c)).1 else c)
/-- Format and bytes of an element of an output type. -/
def drainFmt (ty : Nat) : Fmt :=
  match ty with
  | 12 => Fmt.f32
  | 10 => Fmt.bf16
  | 11 => Fmt.f16
  | 9 => Fmt.e5m2
  | _ => Fmt.e4m3
/-- The octets of a drained bank, in row order, with whether each overflows its shell. -/
def drainOctets (ys : List FV) (sq : Int) : List (Nat × Bool) :=
  (List.range 128).map (fun m =>
    if sq = -128 then (0, false) else quantise ((ys.drop (8 * m)).take 8) sq (List.replicate 8 false))
/-- The effect of an `mdrain`: output bytes, tags, and the slot with its value word (R340). -/
def State.runMdrain (s : State) (co : CoreId) (m : MCmd) (gt : Word) (sd sq : BitVec 8) (tag : BitVec 16) (slot : Word) (ty act : BitVec 4)
    (e4n : Bool) : State :=
  let x := (s.cmdSlice m).getD Slice.fresh
  let ys := (List.range 1024).map (fun e => activate act.toNat ((s.bankVal co x.bank (e / 32) (e % 32)).scaled sd.toInt))
  let n := drainBytes ty
  let octs := if ty = 15 then drainOctets ys sq.toInt else []
  let w := if ty = 15 then 16 else (drainFmt ty.toNat).width
  let codes := if ty = 15 then octs.map (·.1) else ys.map (fun y => (roundV (drainFmt ty.toNat) 0 e4n y).1)
  let t := (s.putGood (coreKey co gt.toNat) n (packNat w codes)).setTags co gt.toNat n tag
  let ovf := (octs.filter (·.2)).length
  let v := BitVec.ofNat 64 (ovf * 256 + x.bc.toNat * 2 + x.sat.toNat)
  (t.slotDone co slot 11 v).cmdDone co m false
/-- A discarded command; an `mdrain` puts the recorded fault into its slot and ends the discarding (R333). -/
def State.discard (s : State) (co : CoreId) (m : MCmd) : State :=
  match m.what, (s.cmdSlice m).bind (·.mflt) with
  | .mdrain _ _ _ _ slot _ _ _, some r =>
    let t := if s.issuerThere m.iss then s.slotFault co slot 11 r else s.lateFault r
    (t.onCmdSlice m (fun x => { x with mflt := none })).cmdDone co m true
  | _, _ => s.cmdDone co m true
/-- The command at the head of a core's queue. -/
def State.headCmd (s : State) (co : CoreId) : Option MCmd := (s.coreAt co).mq.head?
def execMmaExecution (co : CoreId) (s : State) : Out :=
  match s.headCmd co with
  | some m =>
    (match m.what with
     | .mma p ga gb gs table kk ba bb ap =>
       .next (if s.discarding m then s.discard co m else s.runMma co m p.val ga gb gs table kk ba bb ap)
     | _ => .refused (.notEnabled "MMA_EXECUTION"))
  | none => .refused (.notEnabled "MMA_EXECUTION")
def execMldbExecution (co : CoreId) (s : State) : Out :=
  match s.headCmd co with
  | some m =>
    (match m.what with
     | .mldb gs go gl => .next (if s.discarding m then s.discard co m else s.runMldb co m gs go gl)
     | _ => .refused (.notEnabled "MLDB_EXECUTION"))
  | none => .refused (.notEnabled "MLDB_EXECUTION")
def execMzeroExecution (co : CoreId) (s : State) : Out :=
  match s.headCmd co with
  | some m =>
    (match m.what with
     | .mzero => .next (if s.discarding m then s.discard co m else s.runMzero co m)
     | _ => .refused (.notEnabled "MZERO_EXECUTION"))
  | none => .refused (.notEnabled "MZERO_EXECUTION")
def execMdrainExecution (co : CoreId) (s : State) : Out :=
  match s.headCmd co with
  | some m =>
    (match m.what with
     | .mdrain gt sd sq tag slot ty act e4n =>
       .next (if s.discarding m then s.discard co m else s.runMdrain co m gt sd sq tag slot ty act e4n)
     | _ => .refused (.notEnabled "MDRAIN_EXECUTION"))
  | none => .refused (.notEnabled "MDRAIN_EXECUTION")
/-- The clearing of a core's share ends: zeros, and the record none (R169). -/
def execBShareClear (co : CoreId) (s : State) : Out :=
  let c := s.coreAt co
  match c.shareClr with
  | none => .refused (.notEnabled "B_SHARE_CLEAR")
  | some p =>
    if c.share = some p.1 then .next ((s.wipeShare co).putCore { c with share := none, shareClr := none })
    else .next (s.putCore { c with shareClr := none })

/-! ## The cluster (R171, R175) -/

/-- Cluster of a core, and the core of position q of a cluster. -/
def clusterOf (co : CoreId) : Nat :=
  (co.toNat / 16384 * 64 + co.toNat / 128 % 128 / 2) * 32 + co.toNat % 128 / 4
def clusterCore (cl q : Nat) : CoreId :=
  BitVec.ofNat 20 (cl / 2048 * 16384 + (2 * (cl / 32 % 64) + q / 4) * 128 + 4 * (cl % 32) + q % 4)
/-- The unit of a cluster. -/
def State.unitAt (s : State) (cl : Nat) : MUnit :=
  (s.munits.find? (fun u => u.cluster == cl)).getD { cluster := cl, pos := 7, left := 0, active := none, ends := 0, snap := { cells := [] } }
def State.putUnit (s : State) (u : MUnit) : State :=
  { s with munits := u :: s.munits.filter (fun v => v.cluster != u.cluster) }
/-- May the unit begin the head command of position q in a cycle: it entered in an earlier one, and its share is not being cleared? -/
def State.unitMay (s : State) (cl q cyc : Nat) : Bool :=
  let c := s.coreAt (clusterCore cl q)
  match c.mq.head? with
  | none => false
  | some m => decide (m.entered < cyc) && (c.shareClr.isNone || (match m.what with
    | .mma .. => false
    | .mldb .. => false
    | _ => true))
/-- Is the core of position q switching out a slice with a bank, so that its queue is served alone (R175)? -/
def State.unitAlone (s : State) (cl q : Nat) : Bool :=
  let c := s.coreAt (clusterCore cl q)
  match c.switch with
  | some w => w.phase == .stopping && !c.mq.isEmpty
  | none => false
/-- The next position with a command after the one visited, in cyclic order. -/
def State.unitNext (s : State) (u : MUnit) (cyc : Nat) : Option Nat :=
  ((List.range 8).map (fun d => (u.pos + 1 + d) % 8)).find? (fun q => s.unitMay u.cluster q cyc)
/-- Begin the head command of position q, with the position that the unit then visits and the commands left to that visit. -/
def State.unitBegin (s : State) (u : MUnit) (q pos left cyc : Nat) : State :=
  let co := clusterCore u.cluster q
  match (s.coreAt co).mq.head? with
  | none => s
  | some m =>
    let n := if s.discarding m then 1 else m.what.cycles
    s.putUnit { u with pos := pos, left := left, active := some co, ends := cyc + n - 1, snap := s.operandBytes co m }
/-- MWT of the slice that issued the head command of position q. -/
def State.unitWeight (s : State) (cl q : Nat) : Nat :=
  match (s.coreAt (clusterCore cl q)).mq.head? with
  | none => 1
  | some m => max 1 (s.sliceAt m.iss.core m.iss.slc).eff.mwt.toNat
/-- The unit of the front core's cluster begins its next command where it is idle: of a queue that is served alone, which leaves the visits as they are,
of the visit in progress, or of the next one. A visit ends when its queue is empty (R171, R175). -/
def State.unitStart (s : State) : State :=
  let cyc := s.core.cyc
  let u := s.unitAt (clusterOf s.core.id)
  if u.active.isSome || (decide (cyc ≤ u.ends) && u.ends != 0) then s
  else
    match (List.range 8).find? (fun q => s.unitAlone u.cluster q) with
    | some q => if s.unitMay u.cluster q cyc then s.unitBegin u q u.pos u.left cyc else s
    | none =>
      if u.left ≠ 0 ∧ s.unitMay u.cluster u.pos cyc then s.unitBegin u u.pos u.pos (u.left - 1) cyc
      else
        match s.unitNext u cyc with
        | none => if u.left = 0 then s else s.putUnit { u with left := 0 }
        | some q => s.unitBegin u q q (s.unitWeight u.cluster q - 1) cyc
/-- The execution event of the front core's command that ends in this cycle. -/
def State.unitDue (s : State) : Option Instr :=
  let u := s.unitAt (clusterOf s.core.id)
  if u.active = some s.core.id ∧ u.ends ≤ s.core.cyc then
    (s.core.mq.head?).map (fun m => match m.what with
      | .mma .. => .mmaExecution s.core.id
      | .mldb .. => .mldbExecution s.core.id
      | .mzero => .mzeroExecution s.core.id
      | .mdrain .. => .mdrainExecution s.core.id)
  else none

end Sys2Proof.Machine
end

