-- ==== Sys2Proof/Machine/Scalar.lean ====
section
/-! DEFINITION. Machine.Scalar: the scalar instructions of word A (R345-R360). -/

namespace Sys2Proof.Machine

/-! ## Integer operations (R346, R347) -/

/-- An operation on n-bit values, for n = 64 and n = 32. -/
abbrev Op2 := (n : Nat) → BitVec n → BitVec n → BitVec n
/-- A result of the 64-bit form, or of the `.w` form, which is sign-extended (R225). -/
def wide (w32 : Bool) (f : Op2) (a b : Word) : Word :=
  if w32 then (f 32 (a.setWidth 32) (b.setWidth 32)).signExtend 64 else f 64 a b
def opAdd : Op2 := fun _ a b => a + b
def opSub : Op2 := fun _ a b => a - b
def opShl : Op2 := fun n a b => a <<< (b.toNat % n)
def opShr : Op2 := fun n a b => a >>> (b.toNat % n)
def opSar : Op2 := fun n a b => a.sshiftRight (b.toNat % n)
def opRol : Op2 := fun n a b => a.rotateLeft (b.toNat % n)
def opMul : Op2 := fun _ a b => a * b
def opMulh : Op2 := fun n a b => BitVec.ofInt n (a.toInt * b.toInt / (2 ^ n : Nat))
def opMulhn : Op2 := fun n a b => BitVec.ofNat n (a.toNat * b.toNat / 2 ^ n)
def opDiv : Op2 := fun n a b => if b = 0 then BitVec.allOnes n else BitVec.ofInt n (a.toInt.tdiv b.toInt)
def opDivn : Op2 := fun n a b => if b = 0 then BitVec.allOnes n else BitVec.ofNat n (a.toNat / b.toNat)
def opRem : Op2 := fun n a b => if b = 0 then a else BitVec.ofInt n (a.toInt.tmod b.toInt)
def opRemn : Op2 := fun n a b => if b = 0 then a else BitVec.ofNat n (a.toNat % b.toNat)
/-- Latency of a divide (R163). -/
def divLat (w32 : Bool) : Nat := if w32 then 12 else 20
/-- A truth value as 0 or 1. -/
def bit01 (b : Bool) : Word := if b then 1 else 0
/-- Bit (gb mod 64), alone. -/
def bitOf (b : Word) : Word := 1#64 <<< (b.toNat % 64)
/-- Number of 1 bits among bits 0 to n - 1. -/
def popcount (v : Nat) : Nat → Nat
  | 0 => 0
  | n + 1 => popcount v n + (v / 2 ^ n % 2)
/-- Zero bits below the lowest 1 among bits from i on. -/
def trailing (v : Nat) : Nat → Nat
  | 0 => 0
  | n + 1 => if v % 2 = 1 then 0 else 1 + trailing (v / 2) n
def leadZeros (a : Word) : Nat := if a = 0 then 64 else 63 - Nat.log2 a.toNat
/-- Width of an extension's code (R346). -/
def extWidth (wc : BitVec 2) : Nat := 8 * 2 ^ wc.toNat
/-- Bits (w - 1)-0 sign-extended. -/
def signFrom (w : Nat) (a : Word) : Word := BitVec.ofInt 64 (toSigned w (a.toNat % 2 ^ w))

/-- The result of a register form pending with a latency. -/
def State.alu (s : State) (rd : GReg) (v : Word) (l : Nat) : Out := .next (s.pendG .a rd v l)

def execNopA (s : State) : Out := .next s
def execHintA (_v : BitVec 28) (s : State) : Out := .next s
def execAdd (rd ra rb : GReg) (w32 : Bool) (s : State) : Out := s.alu rd (wide w32 opAdd (s.readG ra) (s.readG rb)) 1
def execSub (rd ra rb : GReg) (w32 : Bool) (s : State) : Out := s.alu rd (wide w32 opSub (s.readG ra) (s.readG rb)) 1
def execAnd (rd ra rb : GReg) (s : State) : Out := s.alu rd (s.readG ra &&& s.readG rb) 1
def execOr (rd ra rb : GReg) (s : State) : Out := s.alu rd (s.readG ra ||| s.readG rb) 1
def execXor (rd ra rb : GReg) (s : State) : Out := s.alu rd (s.readG ra ^^^ s.readG rb) 1
def execAndn (rd ra rb : GReg) (s : State) : Out := s.alu rd (s.readG ra &&& ~~~(s.readG rb)) 1
def execOrn (rd ra rb : GReg) (s : State) : Out := s.alu rd (s.readG ra ||| ~~~(s.readG rb)) 1
def execShl (rd ra rb : GReg) (w32 : Bool) (s : State) : Out := s.alu rd (wide w32 opShl (s.readG ra) (s.readG rb)) 1
def execShr (rd ra rb : GReg) (w32 : Bool) (s : State) : Out := s.alu rd (wide w32 opShr (s.readG ra) (s.readG rb)) 1
def execSar (rd ra rb : GReg) (w32 : Bool) (s : State) : Out := s.alu rd (wide w32 opSar (s.readG ra) (s.readG rb)) 1
def execRol (rd ra rb : GReg) (w32 : Bool) (s : State) : Out := s.alu rd (wide w32 opRol (s.readG ra) (s.readG rb)) 1
def execMin (rd ra rb : GReg) (s : State) : Out :=
  s.alu rd (if (s.readG rb).slt (s.readG ra) then s.readG rb else s.readG ra) 1
def execMax (rd ra rb : GReg) (s : State) : Out :=
  s.alu rd (if (s.readG ra).slt (s.readG rb) then s.readG rb else s.readG ra) 1
def execMinn (rd ra rb : GReg) (s : State) : Out :=
  s.alu rd (if (s.readG rb).ult (s.readG ra) then s.readG rb else s.readG ra) 1
def execMaxn (rd ra rb : GReg) (s : State) : Out :=
  s.alu rd (if (s.readG ra).ult (s.readG rb) then s.readG rb else s.readG ra) 1
def execSeq (rd ra rb : GReg) (s : State) : Out := s.alu rd (bit01 (s.readG ra == s.readG rb)) 1
def execSne (rd ra rb : GReg) (s : State) : Out := s.alu rd (bit01 (s.readG ra != s.readG rb)) 1
def execSlt (rd ra rb : GReg) (s : State) : Out := s.alu rd (bit01 ((s.readG ra).slt (s.readG rb))) 1
def execSltn (rd ra rb : GReg) (s : State) : Out := s.alu rd (bit01 ((s.readG ra).ult (s.readG rb))) 1
def execSle (rd ra rb : GReg) (s : State) : Out := s.alu rd (bit01 ((s.readG ra).sle (s.readG rb))) 1
def execSlen (rd ra rb : GReg) (s : State) : Out := s.alu rd (bit01 ((s.readG ra).ule (s.readG rb))) 1
def execBget (rd ra rb : GReg) (s : State) : Out := s.alu rd (bit01 ((s.readG ra).getLsbD ((s.readG rb).toNat % 64))) 1
def execBset (rd ra rb : GReg) (s : State) : Out := s.alu rd (s.readG ra ||| bitOf (s.readG rb)) 1
def execBclr (rd ra rb : GReg) (s : State) : Out := s.alu rd (s.readG ra &&& ~~~(bitOf (s.readG rb))) 1
def execBflip (rd ra rb : GReg) (s : State) : Out := s.alu rd (s.readG ra ^^^ bitOf (s.readG rb)) 1
def execPopc (rd ra : GReg) (s : State) : Out := s.alu rd (BitVec.ofNat 64 (popcount (s.readG ra).toNat 64)) 1
def execClz (rd ra : GReg) (s : State) : Out := s.alu rd (BitVec.ofNat 64 (leadZeros (s.readG ra))) 1
def execCtz (rd ra : GReg) (s : State) : Out := s.alu rd (BitVec.ofNat 64 (trailing (s.readG ra).toNat 64)) 1
def execRev (rd ra : GReg) (s : State) : Out := s.alu rd (s.readG ra).reverse 1
def execMov (rd ra : GReg) (s : State) : Out := s.alu rd (s.readG ra) 1
/-- With gb = 0 nothing is written and pending results of gd stay. -/
def execCmov (rd ra rb : GReg) (s : State) : Out := if s.readG rb = 0 then .next s else s.alu rd (s.readG ra) 1
def execSext (rd ra : GReg) (wc : BitVec 2) (s : State) : Out := s.alu rd (signFrom (extWidth wc) (s.readG ra)) 1
def execZext (rd ra : GReg) (wc : BitVec 2) (s : State) : Out :=
  s.alu rd (BitVec.ofNat 64 ((s.readG ra).toNat % 2 ^ extWidth wc)) 1
def execMul (rd ra rb : GReg) (w32 : Bool) (s : State) : Out := s.alu rd (wide w32 opMul (s.readG ra) (s.readG rb)) 3
def execMulh (rd ra rb : GReg) (w32 : Bool) (s : State) : Out := s.alu rd (wide w32 opMulh (s.readG ra) (s.readG rb)) 3
def execMulhn (rd ra rb : GReg) (w32 : Bool) (s : State) : Out := s.alu rd (wide w32 opMulhn (s.readG ra) (s.readG rb)) 3
def execDiv (rd ra rb : GReg) (w32 : Bool) (s : State) : Out :=
  s.alu rd (wide w32 opDiv (s.readG ra) (s.readG rb)) (divLat w32)
def execDivn (rd ra rb : GReg) (w32 : Bool) (s : State) : Out :=
  s.alu rd (wide w32 opDivn (s.readG ra) (s.readG rb)) (divLat w32)
def execRem (rd ra rb : GReg) (w32 : Bool) (s : State) : Out :=
  s.alu rd (wide w32 opRem (s.readG ra) (s.readG rb)) (divLat w32)
def execRemn (rd ra rb : GReg) (w32 : Bool) (s : State) : Out :=
  s.alu rd (wide w32 opRemn (s.readG ra) (s.readG rb)) (divLat w32)

/-! ## Immediate forms (R348-R350) -/

def execAddi (rd ra : GReg) (imm : BitVec 16) (s : State) : Out := s.alu rd (s.readG ra + sext64 imm) 1
def execAndi (rd ra : GReg) (imm : BitVec 16) (s : State) : Out := s.alu rd (s.readG ra &&& sext64 imm) 1
def execOri (rd ra : GReg) (imm : BitVec 16) (s : State) : Out := s.alu rd (s.readG ra ||| sext64 imm) 1
def execXori (rd ra : GReg) (imm : BitVec 16) (s : State) : Out := s.alu rd (s.readG ra ^^^ sext64 imm) 1
def execSlti (rd ra : GReg) (imm : BitVec 16) (s : State) : Out := s.alu rd (bit01 ((s.readG ra).slt (sext64 imm))) 1
def execMovi (rd : GReg) (imm : BitVec 16) (s : State) : Out := s.alu rd (sext64 imm) 1
def execMovhi (rd ra : GReg) (imm : BitVec 16) (s : State) : Out :=
  s.alu rd (sext64 (imm ++ (s.readG ra).setWidth 16)) 1
/-- Bits pos + width - 1 to pos; wd is width - 1. -/
def execBext (rd ra : GReg) (pos wd : BitVec 6) (s : State) : Out :=
  s.alu rd (BitVec.ofNat 64 ((s.readG ra).toNat / 2 ^ pos.toNat % 2 ^ (wd.toNat + 1))) 1
/-- gd with bits pos + width - 1 to pos replaced by the low bits of ga. -/
def binsOf (d a pos width : Nat) : Nat := d - d / 2 ^ pos % 2 ^ width * 2 ^ pos + a % 2 ^ width * 2 ^ pos
def execBins (rd ra : GReg) (pos wd : BitVec 6) (s : State) : Out :=
  s.alu rd (BitVec.ofNat 64 (binsOf (s.readG rd).toNat (s.readG ra).toNat pos.toNat (wd.toNat + 1))) 1
def execShli (rd ra : GReg) (w32 : Bool) (amt : BitVec 6) (s : State) : Out :=
  s.alu rd (wide w32 opShl (s.readG ra) (amt.setWidth 64)) 1
def execShri (rd ra : GReg) (w32 : Bool) (amt : BitVec 6) (s : State) : Out :=
  s.alu rd (wide w32 opShr (s.readG ra) (amt.setWidth 64)) 1
def execSari (rd ra : GReg) (w32 : Bool) (amt : BitVec 6) (s : State) : Out :=
  s.alu rd (wide w32 opSar (s.readG ra) (amt.setWidth 64)) 1

/-! ## Floating point (R351-R360) -/

/-- A floating-point instruction: 0x15 where an enabled flag is raised (R206), else the result and its flags pending. -/
def State.fpu (s : State) (rd : GReg) (v : Word) (f : FFlags) (l : Nat) : Out :=
  .next (s.guarded (s.fpTrap f l) (fun s => (s.pendG .a rd v l).pendF .a f l))
/-- A float result: bits 63 to w are zero (R352). -/
def State.fpuF (s : State) (rd : GReg) (r : Nat × FFlags) (l : Nat) : Out := s.fpu rd (BitVec.ofNat 64 r.1) r.2 l
/-- The value of a register as type t: operand bits above its width are ignored (R352). -/
def State.readF (s : State) (t : BitVec 2) (r : GReg) : FV :=
  decodeF (scalarFmt t) ((s.readG r).toNat % 2 ^ (scalarFmt t).width)
/-- The code of a register as type t. -/
def State.codeF (s : State) (t : BitVec 2) (r : GReg) : Nat := (s.readG r).toNat % 2 ^ (scalarFmt t).width
/-- Latency of a divide or root (R163). -/
def rootLat (t : BitVec 2) : Nat := if t = 0 then 22 else 14

def faddR (s : State) (ra rb : GReg) (t rm : BitVec 2) : Nat × FFlags :=
  addV (scalarFmt t) rm.toNat (s.readF t ra) (s.readF t rb)
def fsubR (s : State) (ra rb : GReg) (t rm : BitVec 2) : Nat × FFlags :=
  addV (scalarFmt t) rm.toNat (s.readF t ra) (s.readF t rb).flip
def fmulR (s : State) (ra rb : GReg) (t rm : BitVec 2) : Nat × FFlags :=
  mulV (scalarFmt t) rm.toNat (s.readF t ra) (s.readF t rb)
def fmaR (s : State) (rd ra rb : GReg) (t rm : BitVec 2) : Nat × FFlags :=
  fmaV (scalarFmt t) rm.toNat (s.readF t ra) (s.readF t rb) (s.readF t rd)
def fmsR (s : State) (rd ra rb : GReg) (t rm : BitVec 2) : Nat × FFlags :=
  fmaV (scalarFmt t) rm.toNat (s.readF t ra) (s.readF t rb) (s.readF t rd).flip
def fnmaR (s : State) (rd ra rb : GReg) (t rm : BitVec 2) : Nat × FFlags :=
  fmaV (scalarFmt t) rm.toNat (s.readF t ra).flip (s.readF t rb) (s.readF t rd)
def fdivR (s : State) (ra rb : GReg) (t rm : BitVec 2) : Nat × FFlags :=
  divV (scalarFmt t) rm.toNat (s.readF t ra) (s.readF t rb)
def fsqrtR (s : State) (ra : GReg) (t rm : BitVec 2) : Nat × FFlags := sqrtV (scalarFmt t) rm.toNat (s.readF t ra)

def execFadd (rd ra rb : GReg) (t rm : BitVec 2) (s : State) : Out := s.fpuF rd (faddR s ra rb t rm) 4
def execFsub (rd ra rb : GReg) (t rm : BitVec 2) (s : State) : Out := s.fpuF rd (fsubR s ra rb t rm) 4
def execFmul (rd ra rb : GReg) (t rm : BitVec 2) (s : State) : Out := s.fpuF rd (fmulR s ra rb t rm) 4
def execFma (rd ra rb : GReg) (t rm : BitVec 2) (s : State) : Out := s.fpuF rd (fmaR s rd ra rb t rm) 4
def execFms (rd ra rb : GReg) (t rm : BitVec 2) (s : State) : Out := s.fpuF rd (fmsR s rd ra rb t rm) 4
def execFnma (rd ra rb : GReg) (t rm : BitVec 2) (s : State) : Out := s.fpuF rd (fnmaR s rd ra rb t rm) 4
def execFdiv (rd ra rb : GReg) (t rm : BitVec 2) (s : State) : Out := s.fpuF rd (fdivR s ra rb t rm) (rootLat t)
def execFsqrt (rd ra : GReg) (t rm : BitVec 2) (s : State) : Out := s.fpuF rd (fsqrtR s ra t rm) (rootLat t)
def execFrcp (rd ra : GReg) (t : BitVec 2) (s : State) : Out := s.fpuF rd (rcpOn (scalarFmt t) (s.codeF t ra)) 6
def execFrsq (rd ra : GReg) (t : BitVec 2) (s : State) : Out := s.fpuF rd (rsqOn (scalarFmt t) (s.codeF t ra)) 6
def execFmin (rd ra rb : GReg) (t : BitVec 2) (s : State) : Out :=
  s.fpuF rd (minMaxC (scalarFmt t) false (s.codeF t ra) (s.codeF t rb)) 1
def execFmax (rd ra rb : GReg) (t : BitVec 2) (s : State) : Out :=
  s.fpuF rd (minMaxC (scalarFmt t) true (s.codeF t ra) (s.codeF t rb)) 1
/-- The sign bit of a format as a number. -/
def Fmt.top (f : Fmt) : Nat := 2 ^ (f.eb + f.mb)
def execFabs (rd ra : GReg) (t : BitVec 2) (s : State) : Out :=
  s.alu rd (BitVec.ofNat 64 (s.codeF t ra % (scalarFmt t).top)) 1
def execFneg (rd ra : GReg) (t : BitVec 2) (s : State) : Out :=
  s.alu rd (BitVec.ofNat 64 (s.codeF t ra ^^^ (scalarFmt t).top)) 1
def execFcpsgn (rd ra rb : GReg) (t : BitVec 2) (s : State) : Out :=
  s.alu rd (BitVec.ofNat 64 (s.codeF t ra % (scalarFmt t).top + s.codeF t rb / (scalarFmt t).top * (scalarFmt t).top)) 1
/-- The class bit of a value (R357). -/
def classBit (f : Fmt) (code : Nat) : Nat :=
  match decodeF f code with
  | .nan sg => if sg then 8 else 9
  | .inf n => if n then 0 else 7
  | .fin n m _ => if m = 0 then (if n then 3 else 4) else if m < 2 ^ f.mb then (if n then 2 else 5) else (if n then 1 else 6)
def execFclass (rd ra : GReg) (t : BitVec 2) (s : State) : Out :=
  s.alu rd (BitVec.ofNat 64 (2 ^ classBit (scalarFmt t) (s.codeF t ra))) 1
/-- Flags of a compare: NV for a signalling NaN, and for any NaN of `flt` and `fle`. -/
def cmpFlags (quiet : Bool) (a b : FV) : FFlags := flagIf (if quiet then a.isSig || b.isSig else a.isNan || b.isNan) fNV
def execFeq (rd ra rb : GReg) (t : BitVec 2) (s : State) : Out :=
  s.fpu rd (bit01 (eqV (s.readF t ra) (s.readF t rb))) (cmpFlags true (s.readF t ra) (s.readF t rb)) 2
def execFlt (rd ra rb : GReg) (t : BitVec 2) (s : State) : Out :=
  s.fpu rd (bit01 (ltV (s.readF t ra) (s.readF t rb))) (cmpFlags false (s.readF t ra) (s.readF t rb)) 2
def execFle (rd ra rb : GReg) (t : BitVec 2) (s : State) : Out :=
  s.fpu rd (bit01 (ltV (s.readF t ra) (s.readF t rb) || eqV (s.readF t ra) (s.readF t rb)))
    (cmpFlags false (s.readF t ra) (s.readF t rb)) 2
def execFcvt (rd ra : GReg) (t rm ax : BitVec 2) (s : State) : Out :=
  s.fpuF rd (cvtFF (scalarFmt t) (scalarFmt ax) rm.toNat false (s.codeF ax ra)) 3
/-- Bounds of the integer kinds 0 i64, 1 n64, 2 i32, 3 n32 (R359). -/
def kindLo (k : BitVec 2) : Int := if k = 0 then -(2 ^ 63 : Nat) else if k = 2 then -(2 ^ 31 : Nat) else 0
def kindHi (k : BitVec 2) : Int :=
  match k.toNat with
  | 0 => (2 ^ 63 - 1 : Nat)
  | 1 => (2 ^ 64 - 1 : Nat)
  | 2 => (2 ^ 31 - 1 : Nat)
  | _ => (2 ^ 32 - 1 : Nat)
/-- A register as an integer kind: i32 and n32 take bits 31-0. -/
def kindOf (k : BitVec 2) (v : Word) : Int :=
  match k.toNat with
  | 0 => v.toInt
  | 1 => v.toNat
  | 2 => (v.setWidth 32).toInt
  | _ => (v.setWidth 32).toNat
def fcvtiR (s : State) (ra : GReg) (t rm ax : BitVec 2) : Int × FFlags :=
  cvtInt rm.toNat (kindLo ax) (kindHi ax) (s.readF t ra)
def execFcvti (rd ra : GReg) (t rm ax : BitVec 2) (s : State) : Out :=
  s.fpu rd (BitVec.ofInt 64 (fcvtiR s ra t rm ax).1) (fcvtiR s ra t rm ax).2 3
def execFcvtf (rd ra : GReg) (t rm ax : BitVec 2) (s : State) : Out :=
  s.fpuF rd (cvtOfInt (scalarFmt t) rm.toNat false (kindOf ax (s.readG ra))) 3
/-- floor(log2 |x|), or the special value with NV (R360). -/
def fexpV (a : FV) : Word × FFlags :=
  match a with
  | .nan _ => (0x7FFFFFFFFFFFFFFF#64, fNV)
  | .inf _ => (0x7FFFFFFFFFFFFFFF#64, fNV)
  | .fin _ m e => if m = 0 then (0x8000000000000000#64, fNV) else (BitVec.ofInt 64 ((Nat.log2 m : Nat) + e), 0)
def execFexp (rd ra : GReg) (t : BitVec 2) (s : State) : Out :=
  s.fpu rd (fexpV (s.readF t ra)).1 (fexpV (s.readF t ra)).2 3
def execFscl (rd ra rb : GReg) (t rm : BitVec 2) (s : State) : Out :=
  s.fpuF rd (sclV (scalarFmt t) rm.toNat (s.readF t ra) (s.readG rb).toInt) 3

end Sys2Proof.Machine
end

