-- ==== Sys2Proof/Machine/Vector.lean ====
section
/-! DEFINITION. Machine.Vector: the vector instructions of word A (R361-R379). -/

namespace Sys2Proof.Machine

/-! ## Issue (R361, R363, R364) -/

/-- Rounding mode of `s.fpc` (R228). -/
def State.rm (s : State) : Nat := s.cx.fpc.toNat % 4
/-- E4N of `s.fpc` (R229). -/
def State.e4n (s : State) : Bool := s.cx.fpc.getLsbD 15
/-- Do the vector registers named lie below the declared count (R111)? -/
def State.vregs (s : State) (rs : List Nat) : Bool := rs.all (· < s.sl.declared s.core.curCtx)
/-- Traps of a vector instruction: an undeclared register, and an enabled flag. -/
def State.vtr (s : State) (rs : List Nat) (f : FFlags) (l : Nat) : List Trap :=
  when_ (!s.vregs rs) (illegal .a) ++ s.fpTrap f l
/-- A vector instruction of word A occupies the datapath after the beats of the bundle's C instruction. -/
def State.beats (s : State) (n : Nat) : State :=
  let t := s.tally 10 n
  { t with core := { t.core with vecFree := max t.core.vecFree (t.core.cyc + t.core.cBeats + n) } }
/-- Its latency: that of R163 plus the beats of the C instruction. -/
def State.vlat (s : State) (l : Nat) : Nat := l + s.core.cBeats
/-- A vector instruction that writes one vector register. -/
def State.vop (s : State) (rs : List Nat) (vd : VReg) (r : VWord × FFlags) (l beats : Nat) : Out :=
  .next (s.guarded (s.vtr rs r.2 l) (fun s => ((s.beats beats).pendV .a vd r.1 (s.vlat l)).pendF .a r.2 (s.vlat l)))
/-- A vector instruction that writes one general register. -/
def State.vopG (s : State) (rs : List Nat) (gd : GReg) (v : Word) (l : Nat) : Out :=
  .next (s.guarded (s.vtr rs 0 l) (fun s => (s.beats 8).pendG .a gd v (s.vlat l)))
/-- Pending results for consecutive vector registers. -/
def State.pendVs (s : State) (l : Nat) : List (Nat × VWord) → State
  | [] => s
  | r :: rs => (s.pendV .a (BitVec.ofNat 4 r.1) r.2 l).pendVs l rs

/-! ## Lanes -/

/-- Values and flags of lanes as a register and their OR. -/
def packLanes (w : Nat) (rs : List (Nat × FFlags)) : VWord × FFlags :=
  (pack w (rs.map (·.1)), rs.foldl (fun a r => a ||| r.2) 0)
/-- A register of n lanes of w bits. -/
def lanes (n w : Nat) (f : Nat → Nat × FFlags) : VWord × FFlags := packLanes w ((List.range n).map f)
/-- A lane operation on one, two or three registers of a type. -/
def lane1 (ty : BitVec 4) (f : Nat → Nat × FFlags) (a : VWord) : VWord × FFlags :=
  lanes (elemCount ty) (elemBits ty) (fun k => f (elem a (elemBits ty) k))
def lane2 (ty : BitVec 4) (f : Nat → Nat → Nat × FFlags) (a b : VWord) : VWord × FFlags :=
  lanes (elemCount ty) (elemBits ty) (fun k => f (elem a (elemBits ty) k) (elem b (elemBits ty) k))
def lane3 (ty : BitVec 4) (f : Nat → Nat → Nat → Nat × FFlags) (a b d : VWord) : VWord × FFlags :=
  lanes (elemCount ty) (elemBits ty)
    (fun k => f (elem a (elemBits ty) k) (elem b (elemBits ty) k) (elem d (elemBits ty) k))
/-- An integer result of the type. -/
def ires (ty : BitVec 4) (v : Int) : Nat × FFlags := (ofInt (elemBits ty) v, 0)
/-- The value of an element of a float type. -/
def fval (ty : BitVec 4) (x : Nat) : FV := decodeF (elemFmt ty) x

/-! ## Element operations (R365) -/

def addL (ty : BitVec 4) (rm a b : Nat) : Nat × FFlags :=
  if isFloat ty then addV (elemFmt ty) rm (fval ty a) (fval ty b) else ires ty ((a : Int) + b)
def subL (ty : BitVec 4) (rm a b : Nat) : Nat × FFlags :=
  if isFloat ty then addV (elemFmt ty) rm (fval ty a) (fval ty b).flip else ires ty ((a : Int) - b)
def mulL (ty : BitVec 4) (rm a b : Nat) : Nat × FFlags :=
  if isFloat ty then mulV (elemFmt ty) rm (fval ty a) (fval ty b) else ires ty ((a : Int) * b)
def mulhL (ty : BitVec 4) (a b : Nat) : Nat × FFlags := ires ty (intOf ty a * intOf ty b / (2 ^ elemBits ty : Nat))
def fmaL (ty : BitVec 4) (rm a b d : Nat) : Nat × FFlags := fmaV (elemFmt ty) rm (fval ty a) (fval ty b) (fval ty d)
def fmsL (ty : BitVec 4) (rm a b d : Nat) : Nat × FFlags := fmaV (elemFmt ty) rm (fval ty a) (fval ty b) (fval ty d).flip
def minL (ty : BitVec 4) (a b : Nat) : Nat × FFlags :=
  if isFloat ty then minMaxC (elemFmt ty) false a b else (if intOf ty b < intOf ty a then b else a, 0)
def maxL (ty : BitVec 4) (a b : Nat) : Nat × FFlags :=
  if isFloat ty then minMaxC (elemFmt ty) true a b else (if intOf ty a < intOf ty b then b else a, 0)
def absL (ty : BitVec 4) (a : Nat) : Nat × FFlags :=
  if isFloat ty then (a % (elemFmt ty).top, 0) else ires ty (intOf ty a).natAbs
def negL (ty : BitVec 4) (a : Nat) : Nat × FFlags :=
  if isFloat ty then (a ^^^ (elemFmt ty).top, 0) else ires ty (-(a : Int))
def shlL (ty : BitVec 4) (a b : Nat) : Nat × FFlags := ires ty ((a * 2 ^ (b % elemBits ty) : Nat) : Int)
def shrL (ty : BitVec 4) (a b : Nat) : Nat × FFlags := (a / 2 ^ (b % elemBits ty), 0)
def sarL (ty : BitVec 4) (a b : Nat) : Nat × FFlags :=
  ires ty (toSigned (elemBits ty) a / (2 ^ (b % elemBits ty) : Nat))
/-- a + d * (b - a), the difference rounded, then one rounding (R365). -/
def lerpL (ty : BitVec 4) (rm a b d : Nat) : Nat × FFlags :=
  let e := addV (elemFmt ty) rm (fval ty b) (fval ty a).flip
  let r := fmaV (elemFmt ty) rm (fval ty d) (fval ty e.1) (fval ty a)
  (r.1, e.2 ||| r.2)
/-- min(max(d, a), b). -/
def clampL (ty : BitVec 4) (a b d : Nat) : Nat × FFlags :=
  let m := minMaxC (elemFmt ty) true d a
  let r := minMaxC (elemFmt ty) false m.1 b
  (r.1, m.2 ||| r.2)
/-- The condition of a compare and its flags (R366). -/
def cmpL (ty : BitVec 4) (cc a b : Nat) : Bool × FFlags :=
  if isFloat ty then
    let x := fval ty a
    let y := fval ty b
    match cc with
    | 0 => (eqV x y, cmpFlags true x y)
    | 1 => (!eqV x y, cmpFlags true x y)
    | 2 => (ltV x y, cmpFlags false x y)
    | _ => (ltV x y || eqV x y, cmpFlags false x y)
  else
    match cc with
    | 0 => (a == b, 0)
    | 1 => (a != b, 0)
    | 2 => (decide (intOf ty a < intOf ty b), 0)
    | 3 => (decide (intOf ty a ≤ intOf ty b), 0)
    | 4 => (decide (a < b), 0)
    | _ => (decide (a ≤ b), 0)

/-- Latency of `vadd` and `vsub`, of `vmul` (R163). -/
def latAdd (ty : BitVec 4) : Nat := if isFloat ty then 12 else 9
def latMul (ty : BitVec 4) : Nat := if isFloat ty then 12 else 11

def vaddR (s : State) (va vb : VReg) (ty : BitVec 4) : VWord × FFlags :=
  lane2 ty (addL ty s.rm) (s.readV va) (s.readV vb)
def execVadd (vd va vb : VReg) (ty : BitVec 4) (s : State) : Out :=
  s.vop [vd.toNat, va.toNat, vb.toNat] vd (vaddR s va vb ty) (latAdd ty) 8
def vsubR (s : State) (va vb : VReg) (ty : BitVec 4) : VWord × FFlags :=
  lane2 ty (subL ty s.rm) (s.readV va) (s.readV vb)
def execVsub (vd va vb : VReg) (ty : BitVec 4) (s : State) : Out :=
  s.vop [vd.toNat, va.toNat, vb.toNat] vd (vsubR s va vb ty) (latAdd ty) 8
def vmulR (s : State) (va vb : VReg) (ty : BitVec 4) : VWord × FFlags :=
  lane2 ty (mulL ty s.rm) (s.readV va) (s.readV vb)
def execVmul (vd va vb : VReg) (ty : BitVec 4) (s : State) : Out :=
  s.vop [vd.toNat, va.toNat, vb.toNat] vd (vmulR s va vb ty) (latMul ty) 8
def vmulhR (s : State) (va vb : VReg) (ty : BitVec 4) : VWord × FFlags :=
  lane2 ty (mulhL ty) (s.readV va) (s.readV vb)
def execVmulh (vd va vb : VReg) (ty : BitVec 4) (s : State) : Out :=
  s.vop [vd.toNat, va.toNat, vb.toNat] vd (vmulhR s va vb ty) 11 8
def vfmaR (s : State) (vd va vb : VReg) (ty : BitVec 4) : VWord × FFlags :=
  lane3 ty (fmaL ty s.rm) (s.readV va) (s.readV vb) (s.readV vd)
def execVfma (vd va vb : VReg) (ty : BitVec 4) (s : State) : Out :=
  s.vop [vd.toNat, va.toNat, vb.toNat] vd (vfmaR s vd va vb ty) 12 8
def vfmsR (s : State) (vd va vb : VReg) (ty : BitVec 4) : VWord × FFlags :=
  lane3 ty (fmsL ty s.rm) (s.readV va) (s.readV vb) (s.readV vd)
def execVfms (vd va vb : VReg) (ty : BitVec 4) (s : State) : Out :=
  s.vop [vd.toNat, va.toNat, vb.toNat] vd (vfmsR s vd va vb ty) 12 8
def vminR (s : State) (va vb : VReg) (ty : BitVec 4) : VWord × FFlags :=
  lane2 ty (minL ty) (s.readV va) (s.readV vb)
def execVmin (vd va vb : VReg) (ty : BitVec 4) (s : State) : Out :=
  s.vop [vd.toNat, va.toNat, vb.toNat] vd (vminR s va vb ty) 9 8
def vmaxR (s : State) (va vb : VReg) (ty : BitVec 4) : VWord × FFlags :=
  lane2 ty (maxL ty) (s.readV va) (s.readV vb)
def execVmax (vd va vb : VReg) (ty : BitVec 4) (s : State) : Out :=
  s.vop [vd.toNat, va.toNat, vb.toNat] vd (vmaxR s va vb ty) 9 8
def vabsR (s : State) (va : VReg) (ty : BitVec 4) : VWord × FFlags :=
  lane1 ty (absL ty) (s.readV va)
def execVabs (vd va : VReg) (ty : BitVec 4) (s : State) : Out :=
  s.vop [vd.toNat, va.toNat] vd (vabsR s va ty) 9 8
def vnegR (s : State) (va : VReg) (ty : BitVec 4) : VWord × FFlags :=
  lane1 ty (negL ty) (s.readV va)
def execVneg (vd va : VReg) (ty : BitVec 4) (s : State) : Out :=
  s.vop [vd.toNat, va.toNat] vd (vnegR s va ty) 9 8
def vandR (s : State) (va vb : VReg) (_ty : BitVec 4) : VWord × FFlags :=
  (s.readV va &&& s.readV vb, 0)
def execVand (vd va vb : VReg) (_ty : BitVec 4) (s : State) : Out :=
  s.vop [vd.toNat, va.toNat, vb.toNat] vd (vandR s va vb _ty) 9 8
def vorR (s : State) (va vb : VReg) (_ty : BitVec 4) : VWord × FFlags :=
  (s.readV va ||| s.readV vb, 0)
def execVor (vd va vb : VReg) (_ty : BitVec 4) (s : State) : Out :=
  s.vop [vd.toNat, va.toNat, vb.toNat] vd (vorR s va vb _ty) 9 8
def vxorR (s : State) (va vb : VReg) (_ty : BitVec 4) : VWord × FFlags :=
  (s.readV va ^^^ s.readV vb, 0)
def execVxor (vd va vb : VReg) (_ty : BitVec 4) (s : State) : Out :=
  s.vop [vd.toNat, va.toNat, vb.toNat] vd (vxorR s va vb _ty) 9 8
def vandnR (s : State) (va vb : VReg) (_ty : BitVec 4) : VWord × FFlags :=
  (s.readV va &&& ~~~(s.readV vb), 0)
def execVandn (vd va vb : VReg) (_ty : BitVec 4) (s : State) : Out :=
  s.vop [vd.toNat, va.toNat, vb.toNat] vd (vandnR s va vb _ty) 9 8
def vshlR (s : State) (va vb : VReg) (ty : BitVec 4) : VWord × FFlags :=
  lane2 ty (shlL ty) (s.readV va) (s.readV vb)
def execVshl (vd va vb : VReg) (ty : BitVec 4) (s : State) : Out :=
  s.vop [vd.toNat, va.toNat, vb.toNat] vd (vshlR s va vb ty) 9 8
def vshrR (s : State) (va vb : VReg) (ty : BitVec 4) : VWord × FFlags :=
  lane2 ty (shrL ty) (s.readV va) (s.readV vb)
def execVshr (vd va vb : VReg) (ty : BitVec 4) (s : State) : Out :=
  s.vop [vd.toNat, va.toNat, vb.toNat] vd (vshrR s va vb ty) 9 8
def vsarR (s : State) (va vb : VReg) (ty : BitVec 4) : VWord × FFlags :=
  lane2 ty (sarL ty) (s.readV va) (s.readV vb)
def execVsar (vd va vb : VReg) (ty : BitVec 4) (s : State) : Out :=
  s.vop [vd.toNat, va.toNat, vb.toNat] vd (vsarR s va vb ty) 9 8
/-- A mask of the lanes that hold (R362). -/
def maskOf (bs : List Bool) : VWord := BitVec.ofNat 4096 (packNat 1 (bs.map (fun b => if b then 1 else 0)))
/-- Mask bits 0 to E - 1. -/
def maskLow (ty : BitVec 4) (v : VWord) : VWord := BitVec.ofNat 4096 (v.toNat % 2 ^ elemCount ty)
def vcmpR (s : State) (va vb : VReg) (ty : BitVec 4) (cc : BitVec 3) : VWord × FFlags :=
  let rs := (List.range (elemCount ty)).map
    (fun k => cmpL ty cc.toNat (elem (s.readV va) (elemBits ty) k) (elem (s.readV vb) (elemBits ty) k))
  (maskOf (rs.map (·.1)), rs.foldl (fun a r => a ||| r.2) 0)
def execVcmp (vd va vb : VReg) (ty : BitVec 4) (cc : BitVec 3) (s : State) : Out :=
  s.vop [vd.toNat, va.toNat, vb.toNat] vd (vcmpR s va vb ty cc) 9 8
def vselR (s : State) (va vb : VReg) (ty : BitVec 4) (vm : VReg) : VWord × FFlags :=
  lanes (elemCount ty) (elemBits ty)
    (fun k => (elem (if maskBit (s.readV vm) k then s.readV va else s.readV vb) (elemBits ty) k, 0))
def execVsel (vd va vb : VReg) (ty : BitVec 4) (vm : VReg) (s : State) : Out :=
  s.vop [vd.toNat, va.toNat, vb.toNat, vm.toNat] vd (vselR s va vb ty vm) 9 8
def vmandR (s : State) (va vb : VReg) (ty : BitVec 4) : VWord × FFlags :=
  (maskLow ty (s.readV va &&& s.readV vb), 0)
def execVmand (vd va vb : VReg) (ty : BitVec 4) (s : State) : Out :=
  s.vop [vd.toNat, va.toNat, vb.toNat] vd (vmandR s va vb ty) 9 8
def vmorR (s : State) (va vb : VReg) (ty : BitVec 4) : VWord × FFlags :=
  (maskLow ty (s.readV va ||| s.readV vb), 0)
def execVmor (vd va vb : VReg) (ty : BitVec 4) (s : State) : Out :=
  s.vop [vd.toNat, va.toNat, vb.toNat] vd (vmorR s va vb ty) 9 8
def vmnotR (s : State) (va : VReg) (ty : BitVec 4) : VWord × FFlags :=
  (maskLow ty (~~~(s.readV va)), 0)
def execVmnot (vd va : VReg) (ty : BitVec 4) (s : State) : Out :=
  s.vop [vd.toNat, va.toNat] vd (vmnotR s va ty) 9 8

/-! ## Conversion (R368, R247) -/

/-- Bounds of an integer type. -/
def tyLo (ty : BitVec 4) : Int := if isSignedTy ty then -(2 ^ (elemBits ty - 1) : Nat) else 0
def tyHi (ty : BitVec 4) : Int := (if isSignedTy ty then 2 ^ (elemBits ty - 1) else 2 ^ elemBits ty : Nat) - 1
/-- Is a type code an integer type, i4 among them? -/
def anyInt (ty : BitVec 4) : Bool := isInt ty || ty == 14
/-- One element of type S converted to type T. -/
def cvtL (t src : BitVec 4) (rm : Nat) (e4n : Bool) (x : Nat) : Nat × FFlags :=
  if anyInt src then
    (if anyInt t then
       (if elemBits src < elemBits t then ires t (intOf src x)
        else ires t (clampI (tyLo t) (tyHi t) (intOf src x)))
     else cvtOfInt (elemFmt t) rm e4n (intOf src x))
  else if anyInt t then
    (let r := cvtInt rm (tyLo t) (tyHi t) (fval src x)
     (ofInt (elemBits t) r.1, r.2))
  else cvtFF (elemFmt t) (elemFmt src) rm e4n x
/-- Registers on the side of a conversion that is r times as wide. -/
def group (base : VReg) (r : Nat) : List Nat := (List.range r).map (base.toNat + ·)
/-- Width ratio of a conversion: destination over source, and source over destination; 1 where not above. -/
def ratioUp (t src : BitVec 4) : Nat := elemBits t / elemBits src
def ratioDown (t src : BitVec 4) : Nat := elemBits src / elemBits t
/-- The result registers of a conversion, first to last. -/
def vcvtR (s : State) (va : VReg) (t src : BitVec 4) : List (VWord × FFlags) :=
  let c := cvtL t src s.rm s.e4n
  let at_ (q p : Nat) : Nat := elem (s.readV (BitVec.ofNat 4 (va.toNat + q))) (elemBits src) p
  let up := max 1 (ratioUp t src)
  let down := max 1 (ratioDown t src)
  if 1 < down then [lanes (elemCount t) (elemBits t) (fun j => c (at_ (j % down) (j / down)))]
  else (List.range up).map (fun q => lanes (elemCount t) (elemBits t) (fun p => c (at_ 0 (p * up + q))))
/-- The OR of the flags of several registers. -/
def orFlags (rs : List (VWord × FFlags)) : FFlags := rs.foldl (fun a r => a ||| r.2) 0
/-- Beats: 8 for each register of the wider side. -/
def cvtBeats (t src : BitVec 4) : Nat := 8 * max 1 (max (ratioUp t src) (ratioDown t src))
def chkVcvt (vd va : VReg) (ty src : BitVec 4) (s : State) : List Trap :=
  s.vtr (group vd (max 1 (ratioUp ty src)) ++ group va (max 1 (ratioDown ty src))) (orFlags (vcvtR s va ty src))
    (cvtBeats ty src + 3)
def execVcvt (vd va : VReg) (ty src : BitVec 4) (s : State) : Out :=
  .next (s.guarded (chkVcvt vd va ty src s) (fun s =>
    let rs := vcvtR s va ty src
    let l := s.vlat (cvtBeats ty src + 3)
    ((s.beats (cvtBeats ty src)).pendVs l (List.zip (group vd (max 1 (ratioUp ty src))) (rs.map (·.1)))).pendF .a
      (orFlags rs) l))

/-! ## Permutation and rotation (R369) -/

def vpermR (s : State) (va vb : VReg) (ty : BitVec 4) : VWord × FFlags :=
  let w := elemBits ty
  lanes (elemCount ty) w (fun k =>
    let i := elem (s.readV vb) w k
    (elem (s.readV va) w (if w = 8 then 256 * (k / 256) + i else i % elemCount ty), 0))
def execVperm (vd va vb : VReg) (ty : BitVec 4) (s : State) : Out :=
  s.vop [vd.toNat, va.toNat, vb.toNat] vd (vpermR s va vb ty) 12 8
def vrotR (s : State) (va vb : VReg) (ty : BitVec 4) : VWord × FFlags :=
  let r := (s.readV vb).toNat % 65536
  lanes (elemCount ty) (elemBits ty) (fun k => (elem (s.readV va) (elemBits ty) ((k + r) % elemCount ty), 0))
def execVrot (vd va vb : VReg) (ty : BitVec 4) (s : State) : Out :=
  s.vop [vd.toNat, va.toNat, vb.toNat] vd (vrotR s va vb ty) 12 8

/-! ## Reductions (R370) -/

/-- One level of the pairwise tree. -/
def pairUp (op : Nat → Nat → Nat × FFlags) : List Nat → List Nat × FFlags
  | a :: b :: xs =>
    let r := op a b
    let t := pairUp op xs
    (r.1 :: t.1, r.2 ||| t.2)
  | xs => (xs, 0)
/-- The tree of n levels. -/
def reduceV (op : Nat → Nat → Nat × FFlags) : Nat → List Nat → Nat × FFlags
  | 0, xs => (xs.headD 0, 0)
  | n + 1, xs =>
    let p := pairUp op xs
    let r := reduceV op n p.1
    (r.1, p.2 ||| r.2)
/-- A reduction's register: element 0 the result, every other element zero. -/
def reduced (ty : BitVec 4) (op : Nat → Nat → Nat × FFlags) (xs : List Nat) : VWord × FFlags :=
  let r := reduceV op 9 xs
  (BitVec.ofNat 4096 (r.1 % 2 ^ elemBits ty), r.2)
def vsumR (s : State) (va : VReg) (ty : BitVec 4) : VWord × FFlags :=
  reduced ty (addL ty s.rm) (elems (s.readV va) (elemBits ty))
def execVsum (vd va : VReg) (ty : BitVec 4) (s : State) : Out :=
  s.vop [vd.toNat, va.toNat] vd (vsumR s va ty) 20 8
def vmaxrR (s : State) (va : VReg) (ty : BitVec 4) : VWord × FFlags :=
  reduced ty (maxL ty) (elems (s.readV va) (elemBits ty))
def execVmaxr (vd va : VReg) (ty : BitVec 4) (s : State) : Out :=
  s.vop [vd.toNat, va.toNat] vd (vmaxrR s va ty) 20 8
def vminrR (s : State) (va : VReg) (ty : BitVec 4) : VWord × FFlags :=
  reduced ty (minL ty) (elems (s.readV va) (elemBits ty))
def execVminr (vd va : VReg) (ty : BitVec 4) (s : State) : Out :=
  s.vop [vd.toNat, va.toNat] vd (vminrR s va ty) 20 8
def vdotR (s : State) (va vb : VReg) (ty : BitVec 4) : VWord × FFlags :=
  let ps := List.zipWith (mulL ty s.rm) (elems (s.readV va) (elemBits ty)) (elems (s.readV vb) (elemBits ty))
  let r := reduced ty (addL ty s.rm) (ps.map (·.1))
  (r.1, ps.foldl (fun a p => a ||| p.2) r.2)
def execVdot (vd va vb : VReg) (ty : BitVec 4) (s : State) : Out :=
  s.vop [vd.toNat, va.toNat, vb.toNat] vd (vdotR s va vb ty) 20 8
def vlerpR (s : State) (vd va vb : VReg) (ty : BitVec 4) : VWord × FFlags :=
  lane3 ty (lerpL ty s.rm) (s.readV va) (s.readV vb) (s.readV vd)
def execVlerp (vd va vb : VReg) (ty : BitVec 4) (s : State) : Out :=
  s.vop [vd.toNat, va.toNat, vb.toNat] vd (vlerpR s vd va vb ty) 12 8
def vclampR (s : State) (vd va vb : VReg) (ty : BitVec 4) : VWord × FFlags :=
  lane3 ty (clampL ty) (s.readV va) (s.readV vb) (s.readV vd)
def execVclamp (vd va vb : VReg) (ty : BitVec 4) (s : State) : Out :=
  s.vop [vd.toNat, va.toNat, vb.toNat] vd (vclampR s vd va vb ty) 12 8

/-! ## Estimates (R246, R365) -/

def vrcpR (s : State) (va : VReg) (ty : BitVec 4) : VWord × FFlags :=
  lane1 ty (estOn (elemFmt ty) (rcpE Fmt.f32)) (s.readV va)
def execVrcp (vd va : VReg) (ty : BitVec 4) (s : State) : Out :=
  s.vop [vd.toNat, va.toNat] vd (vrcpR s va ty) 14 8
def vrsqR (s : State) (va : VReg) (ty : BitVec 4) : VWord × FFlags :=
  lane1 ty (estOn (elemFmt ty) (rsqE Fmt.f32)) (s.readV va)
def execVrsq (vd va : VReg) (ty : BitVec 4) (s : State) : Out :=
  s.vop [vd.toNat, va.toNat] vd (vrsqR s va ty) 14 8
def vexp2R (s : State) (va : VReg) (ty : BitVec 4) : VWord × FFlags :=
  lane1 ty (estOn (elemFmt ty) exp2E) (s.readV va)
def execVexp2 (vd va : VReg) (ty : BitVec 4) (s : State) : Out :=
  s.vop [vd.toNat, va.toNat] vd (vexp2R s va ty) 14 8
def vlog2R (s : State) (va : VReg) (ty : BitVec 4) : VWord × FFlags :=
  lane1 ty (estOn (elemFmt ty) log2E) (s.readV va)
def execVlog2 (vd va : VReg) (ty : BitVec 4) (s : State) : Out :=
  s.vop [vd.toNat, va.toNat] vd (vlog2R s va ty) 14 8
def vsinpiR (s : State) (va : VReg) (ty : BitVec 4) : VWord × FFlags :=
  lane1 ty (estOn (elemFmt ty) sinpiE) (s.readV va)
def execVsinpi (vd va : VReg) (ty : BitVec 4) (s : State) : Out :=
  s.vop [vd.toNat, va.toNat] vd (vsinpiR s va ty) 14 8
def vcospiR (s : State) (va : VReg) (ty : BitVec 4) : VWord × FFlags :=
  lane1 ty (estOn (elemFmt ty) cospiE) (s.readV va)
def execVcospi (vd va : VReg) (ty : BitVec 4) (s : State) : Out :=
  s.vop [vd.toNat, va.toNat] vd (vcospiR s va ty) 14 8

/-! ## The vector-scalar major (R371) -/

/-- The low w bits of a general register. -/
def State.lowG (s : State) (g : GReg) (ty : BitVec 4) : Nat := (s.readG g).toNat % 2 ^ elemBits ty
/-- The element index that `vins` and `vext` take from g0-g15. -/
def State.idxG (s : State) (gi : BitVec 4) (ty : BitVec 4) : Nat := (s.readG (gi.setWidth 5)).toNat % elemCount ty
def vbcastR (s : State) (gb : GReg) (ty : BitVec 4) : VWord × FFlags :=
  lanes (elemCount ty) (elemBits ty) (fun _ => (s.lowG gb ty, 0))
def execVbcast (vd : VReg) (gb : GReg) (ty : BitVec 4) (s : State) : Out := s.vop [vd.toNat] vd (vbcastR s gb ty) 9 8
def vinsR (s : State) (vd : VReg) (gi : BitVec 4) (gb : GReg) (ty : BitVec 4) : VWord × FFlags :=
  lanes (elemCount ty) (elemBits ty)
    (fun k => (if k = s.idxG gi ty then s.lowG gb ty else elem (s.readV vd) (elemBits ty) k, 0))
def execVins (vd : VReg) (gi : BitVec 4) (gb : GReg) (ty : BitVec 4) (s : State) : Out :=
  s.vop [vd.toNat] vd (vinsR s vd gi gb ty) 9 8
def vextR (s : State) (vd : VReg) (gi : BitVec 4) (ty : BitVec 4) : Word :=
  BitVec.ofInt 64 (intOf ty (elem (s.readV vd) (elemBits ty) (s.idxG gi ty)))
def execVext (vd : VReg) (gi : BitVec 4) (gb : GReg) (ty : BitVec 4) (s : State) : Out :=
  s.vopG [vd.toNat] gb (vextR s vd gi ty) 9
def execVmpop (gb : GReg) (va : VReg) (ty : BitVec 4) (s : State) : Out :=
  s.vopG [va.toNat] gb (BitVec.ofNat 64 (popcount (s.readV va).toNat (elemCount ty))) 9
def vsclR (s : State) (va : VReg) (gb : GReg) (ty : BitVec 4) : VWord × FFlags :=
  lane1 ty (fun x => sclV (elemFmt ty) s.rm (fval ty x) (s.readG gb).toInt) (s.readV va)
def execVscl (vd va : VReg) (gb : GReg) (ty : BitVec 4) (s : State) : Out :=
  s.vop [vd.toNat, va.toNat] vd (vsclR s va gb ty) 12 8

/-! ## E8 quantising and decoding (R372, R373) -/

/-- The exact value of coordinate i of an octet at a scale. -/
def octValue (code i : Nat) (sc : Int) : FV := .fin (decide (octY2 code i < 0)) (octY2 code i).natAbs (sc - 1)
/-- Field S of a control word as i8. -/
def scaleOf (g : Word) : Int := toSigned 8 (g.toNat % 256)
/-- Octet m: the code, its overflow and its flags. -/
def vqe8Oct (s : State) (vd va : VReg) (g : Word) (ty : BitVec 4) (m : Nat) : Nat × Bool × FFlags :=
  let w := elemBits ty
  let sc := scaleOf g
  let cnt := fld g.toNat 16 8
  let mk := g.getLsbD 25
  let mask := s.readV (BitVec.ofNat 4 (fld g.toNat 29 26))
  let old := elem (s.readV vd) 16 ((fld g.toNat 24 17 + m) % 256)
  let xs := (List.range 8).map (fun i =>
    if mk && !maskBit mask (8 * m + i) then octValue old i sc else fval ty (elem (s.readV va) w (8 * m + i)))
  if sc = -128 then (0, false, 0)
  else
    let q := quantise xs sc ((List.range 8).map (fun i => decide (cnt ≤ 8 * m + i)))
    (q.1, q.2, flagIf (xs.any FV.isNan) fNV)
/-- Registers named: the mask register too where MK is 1. -/
def vqe8Regs (vd va : VReg) (g : Word) : List Nat :=
  [vd.toNat, va.toNat] ++ (if g.getLsbD 25 then [fld g.toNat 29 26] else [])
def vqe8All (s : State) (vd va : VReg) (g : Word) (ty : BitVec 4) : List (Nat × Bool × FFlags) :=
  (List.range (elemCount ty / 8)).map (vqe8Oct s vd va g ty)
def vqe8R (s : State) (vd : VReg) (g : Word) (os : List (Nat × Bool × FFlags)) : VWord :=
  pack 16 ((List.range 256).map (fun k =>
    let m := (k + 256 - fld g.toNat 24 17) % 256
    match os[m]? with
    | some o => o.1
    | none => elem (s.readV vd) 16 k))
def octFlags (os : List (Nat × Bool × FFlags)) : FFlags := os.foldl (fun a o => a ||| o.2.2) 0
def octOvf (os : List (Nat × Bool × FFlags)) : Nat := (os.filter (·.2.1)).length
def chkVqe8 (vd va : VReg) (gb : GReg) (ty : BitVec 4) (s : State) : List Trap :=
  s.vtr (vqe8Regs vd va (s.readG gb)) (octFlags (vqe8All s vd va (s.readG gb) ty)) 16
def execVqe8 (vd va : VReg) (gb : GReg) (ty : BitVec 4) (s : State) : Out :=
  .next (s.guarded (chkVqe8 vd va gb ty s) (fun s =>
    let os := vqe8All s vd va (s.readG gb) ty
    let l := s.vlat 16
    ((((s.beats 8).pendV .a vd (vqe8R s vd (s.readG gb) os) l).pendG .a gb (BitVec.ofNat 64 (octOvf os)) l).pendR .a
      (.e8ov (octOvf os)) l).pendF .a (octFlags os) l))
def vde8R (s : State) (va : VReg) (gb : GReg) (ty : BitVec 4) : VWord × FFlags :=
  let g := s.readG gb
  lanes (elemCount ty) (elemBits ty) (fun k =>
    octDecode (elemFmt ty) (elem (s.readV va) 16 ((fld g.toNat 15 8 + k / 8) % 256)) (k % 8) (scaleOf g))
def execVde8 (vd va : VReg) (gb : GReg) (ty : BitVec 4) (s : State) : Out :=
  s.vop [vd.toNat, va.toNat] vd (vde8R s va gb ty) 16 8

/-! ## Reproducible reduction (R374-R376) -/

/-- The results of `vfix`, registers vd and vd + 1. -/
def vfixR (s : State) (va : VReg) (gb : GReg) : List (VWord × FFlags) :=
  (List.range 2).map (fun q => lanes 64 64 (fun p =>
    let r := fixOf ((s.readG gb).toNat % 256) (elem (s.readV va) 32 (2 * p + q))
    (ofInt 64 r.1, r.2)))
def chkVfix (vd va : VReg) (gb : GReg) (_ty : BitVec 4) (s : State) : List Trap :=
  s.vtr (group vd 2 ++ [va.toNat]) (orFlags (vfixR s va gb)) 19
def execVfix (vd va : VReg) (gb : GReg) (ty : BitVec 4) (s : State) : Out :=
  .next (s.guarded (chkVfix vd va gb ty s) (fun s =>
    let rs := vfixR s va gb
    ((s.beats 16).pendVs (s.vlat 19) (List.zip (group vd 2) (rs.map (·.1)))).pendF .a (orFlags rs) (s.vlat 19)))
def vunfixR (s : State) (va : VReg) (gb : GReg) (ty : BitVec 4) : VWord × FFlags :=
  lanes 128 (elemBits ty) (fun j =>
    unfixOf (elemFmt ty) ((s.readG gb).toNat % 256)
      (toSigned 64 (elem (s.readV (BitVec.ofNat 4 (va.toNat + j % 2))) 64 (j / 2))))
def execVunfix (vd va : VReg) (gb : GReg) (ty : BitVec 4) (s : State) : Out :=
  s.vop (vd.toNat :: group va 2) vd (vunfixR s va gb ty) 19 16
/-- An element as an f32 code. -/
def asF32 (ty : BitVec 4) (x : Nat) : Nat := if ty = 12 then x else (cvtFF Fmt.f32 (elemFmt ty) 0 false x).1
def vmaxeR (s : State) (va : VReg) (ty : BitVec 4) : Word :=
  BitVec.ofNat 64 ((elems (s.readV va) (elemBits ty)).foldl (fun a x => max a (expOf32 (asF32 ty x))) 0)
def execVmaxe (gb : GReg) (va : VReg) (ty : BitVec 4) (s : State) : Out := s.vopG [va.toNat] gb (vmaxeR s va ty) 11

/-! ## The postfix expression (R378, R379) -/

/-- Token i of a descriptor. -/
def vexTok (d : Word) (i : Nat) : Nat := fld d.toNat (5 * i + 8) (5 * i + 4)
/-- Operands a token pops. -/
def vexPops (t : Nat) : Nat := if t < 6 then 0 else if t = 9 then 3 else if t ≤ 8 ∨ t = 10 ∨ t = 11 then 2 else 1
/-- Check tokens from i on, with the stack's depth and the operators so far: the index of the first violation, or the
operators. -/
def vexCheck (d : Word) (cnt : Nat) : Nat → Nat → Nat → Nat → Nat ⊕ Nat
  | 0, _, depth, m => if m = 0 ∨ depth ≠ 1 then .inl cnt else .inr m
  | n + 1, i, depth, m =>
    let t := vexTok d i
    let depth1 := depth + 1 - vexPops t
    let m1 := if 6 ≤ t then m + 1 else m
    if 19 < t ∨ depth < vexPops t ∨ 4 < depth1 ∨ 7 < m1 then .inl i else vexCheck d cnt n (i + 1) depth1 m1
/-- The descriptor's check. -/
def vexForm (d : Word) : Nat ⊕ Nat :=
  let cnt := d.toNat % 16
  if cnt = 0 ∨ 11 < cnt then .inl 255 else vexCheck d cnt cnt 0 0 0
/-- Operators of a well-formed descriptor. -/
def vexOps (d : Word) : Nat :=
  match vexForm d with
  | .inl _ => 0
  | .inr m => m
/-- An element widened exactly to f32; a NaN keeps its fraction bits. -/
def widenF (ty : BitVec 4) (x : Nat) : Nat :=
  if ty = 12 then x
  else
    let f := elemFmt ty
    if (decodeF f x).isNan then x / f.top * 2 ^ 31 + 255 * 2 ^ 23 + x % 2 ^ f.mb * 2 ^ (23 - f.mb)
    else (cvtFF Fmt.f32 f 0 false x).1
/-- relu: a NaN gives the default NaN, and a signalling one raises NV as in any arithmetic (R227). -/
def reluF (x : Nat) : Nat × FFlags :=
  match decodeF Fmt.f32 x with
  | .nan s => (Fmt.f32.nan, flagIf s fNV)
  | _ => (if x / 2 ^ 31 = 1 then 0 else x, 0)
/-- One operator on the stack, top first. -/
def vexOp (t : Nat) (st : List Nat) : List Nat × FFlags :=
  let f := Fmt.f32
  let v := decodeF f
  match t, st with
  | 6, b :: a :: r => let x := addV f 0 (v a) (v b); (x.1 :: r, x.2)
  | 7, b :: a :: r => let x := addV f 0 (v a) (v b).flip; (x.1 :: r, x.2)
  | 8, b :: a :: r => let x := mulV f 0 (v a) (v b); (x.1 :: r, x.2)
  | 9, c :: b :: a :: r => let x := fmaV f 0 (v a) (v b) (v c); (x.1 :: r, x.2)
  | 10, b :: a :: r => let x := minMaxC f false a b; (x.1 :: r, x.2)
  | 11, b :: a :: r => let x := minMaxC f true a b; (x.1 :: r, x.2)
  | 12, a :: r => (a % 2 ^ 31 :: r, 0)
  | 13, a :: r => ((a ^^^ 2 ^ 31) :: r, 0)
  | 14, a :: r => let x := rcpE f (v a); (x.1 :: r, x.2)
  | 15, a :: r => let x := sqrtV f 0 (v a); (x.1 :: r, x.2)
  | 16, a :: r => let x := exp2E (v a); (x.1 :: r, x.2)
  | 17, a :: r => let x := log2E (v a); (x.1 :: r, x.2)
  | 18, a :: r => let x := reluF a; (x.1 :: r, x.2)
  | 19, a :: r =>
    let x := minMaxC f true a 0
    let y := minMaxC f false x.1 0x3F800000
    (y.1 :: r, x.2 ||| y.2)
  | _, st => (st, 0)
/-- Run tokens from i on, with the pushed values of tokens 0 to 5. -/
def vexRun (d : Word) (ins : List Nat) : Nat → Nat → List Nat → FFlags → Nat × FFlags
  | 0, _, st, fl => (st.headD 0, fl)
  | n + 1, i, st, fl =>
    let t := vexTok d i
    if t < 6 then vexRun d ins n (i + 1) (ins.getD t 0 :: st) fl
    else
      let r := vexOp t st
      vexRun d ins n (i + 1) r.1 (fl ||| r.2)
/-- One element. -/
def vexL (d g : Word) (ty : BitVec 4) (vd va vb : Nat) : Nat × FFlags :=
  let w := widenF ty
  let r := vexRun d [w vd, w va, w vb, w (g.toNat % 2 ^ elemBits ty), 0, 0x3F800000] (d.toNat % 16) 0 [] 0
  if ty = 12 then r
  else
    let c := cvtFF (elemFmt ty) Fmt.f32 0 false r.1
    (c.1, r.2 ||| c.2)
def vexR (s : State) (vd va vb : VReg) (gd gs : GReg) (ty : BitVec 4) : VWord × FFlags :=
  lane3 ty (fun a b d => vexL (s.readG gd) (s.readG gs) ty d a b) (s.readV va) (s.readV vb) (s.readV vd)
/-- The latency of a descriptor. -/
def vexLat (d : Word) : Nat := 8 * vexOps d + 4
/-- 0x12 where the descriptor is not well formed. -/
def vexTrap (d : Word) : List Trap :=
  match vexForm d with
  | .inl i => [{ rank := 7, info := infoOf 18 (i * 256) 0 0 0 }]
  | .inr _ => []
def chkVex (vd va vb : VReg) (gd gs : GReg) (ty : BitVec 4) (s : State) : List Trap :=
  match vexTrap (s.readG gd) with
  | t :: _ => when_ (!s.vregs [vd.toNat, va.toNat, vb.toNat]) (illegal .a) ++ [t]
  | [] => s.vtr [vd.toNat, va.toNat, vb.toNat] (vexR s vd va vb gd gs ty).2 (vexLat (s.readG gd))
def execVex (vd va vb : VReg) (gd gs : GReg) (ty : BitVec 4) (s : State) : Out :=
  .next (s.guarded (chkVex vd va vb gd gs ty s) (fun s =>
    let d := s.readG gd
    let r := vexR s vd va vb gd gs ty
    let l := s.vlat (vexLat d)
    ((s.beats (8 * vexOps d)).pendV .a vd r.1 l).pendF .a r.2 l))

end Sys2Proof.Machine
end

