-- ==== Sys2Proof/Machine/Checks.lean ====
section
/-! DEFINITION. Machine.Checks: what a bundle is tested for before it issues: the at-issue causes of each instruction (R204, R205), the
registers it reads (R162), the latency of its flags (R206), the beats of its vector accesses (R163, R164), and the advance of its register
fields in a repetition body (R165). The causes are those that the meaning of the instruction tests by itself. -/

namespace Sys2Proof.Machine

/-! ## At-issue causes -/

/-- The at-issue causes of an instruction of word C. -/
def checksC (i : Instr) (s : State) : List Trap :=
  match i with
  | .nopC => []
  | .hintC _ => []
  | .br _ => s.transferTraps
  | .call _ => s.transferTraps
  | .bt _ _ _ => s.transferTraps
  | .bf _ _ _ => s.transferTraps
  | .bnz _ _ => s.transferTraps
  | .bz _ _ => s.transferTraps
  | .bse _ _ => s.transferTraps
  | .bsc _ _ => s.transferTraps
  | .guard _ _ => []
  | .guardn _ _ => []
  | .rept _ _ _ => when_ s.cx.dly (illegal .c) ++ s.noBody
  | .li _ _ => []
  | .lih _ _ => []
  | .start h _ => s.startTraps h
  | .cwait _ ra _ => s.noBody ++ s.slotTraps (s.readG ra)
  | .qwait _ _ => s.noBody
  | .hjoin _ _ => s.controlOnly ++ s.noBody
  | .xend _ => s.controlOnly ++ s.paceOnly ++ s.noBody
  | .mwait _ => s.noBody ++ when_ (!s.sl.acc) (accessTrap 17 256 s.cx.pc 0 0)
  | .sbarOr _ _ _ => s.controlOnly ++ s.paceOnly ++ s.noBody
  | .sbarAnd _ _ _ => s.controlOnly ++ s.paceOnly ++ s.noBody
  | .sbarMax _ _ _ => s.controlOnly ++ s.paceOnly ++ s.noBody
  | .callr ra => s.targetTraps (s.readG ra)
  | .jr ra => s.targetTraps (s.readG ra)
  | .ret => s.targetTraps (s.readG 31)
  | .hend => s.helperOnly ++ s.noBody
  | .yield => s.controlOnly ++ s.freeOnly ++ s.noBody
  | .sexit => s.controlOnly ++ s.noBody
  | .vote _ => s.paceOnly
  | .rfe => s.supOnly 0 ++ when_ s.cx.dly (illegal .c) ++ s.noBody
  | .swp _ ra => s.swpTraps (s.readG ra)
  | .brk => s.noBody
  | .halt => s.supOnly 0 ++ s.noBody
  | .trap _ => s.noBody
  | .mark _ => when_ s.cx.dly (illegal .c) ++ s.noBody
  | .getsr _ n => s.srTraps n
  | .setsr _ n => s.srTraps n
  | .wait _ => []
  | .ldI8 _ ra o _ off => s.localTraps .load true o (s.ea ra 1 off) 1 1 0
  | .ldN8 _ ra o _ off => s.localTraps .load true o (s.ea ra 1 off) 1 1 0
  | .ldI16 _ ra o _ off => s.localTraps .load true o (s.ea ra 2 off) 2 2 0
  | .ldN16 _ ra o _ off => s.localTraps .load true o (s.ea ra 2 off) 2 2 0
  | .ldI32 _ ra o _ off => s.localTraps .load true o (s.ea ra 4 off) 4 4 0
  | .ldN32 _ ra o _ off => s.localTraps .load true o (s.ea ra 4 off) 4 4 0
  | .ldD _ ra o _ off => s.localTraps .load true o (s.ea ra 8 off) 8 8 0
  | .stB rs ra o _ off => s.localTraps .store false o (s.ea ra 1 off) 1 1 (s.readG rs)
  | .stH rs ra o _ off => s.localTraps .store false o (s.ea ra 2 off) 2 2 (s.readG rs)
  | .stW rs ra o _ off => s.localTraps .store false o (s.ea ra 4 off) 4 4 (s.readG rs)
  | .stD rs ra o _ off => s.localTraps .store false o (s.ea ra 8 off) 8 8 (s.readG rs)
  | .ldxI8 _ ra rb o => s.localTraps .load true o (s.eax ra rb) 1 1 0
  | .ldxN8 _ ra rb o => s.localTraps .load true o (s.eax ra rb) 1 1 0
  | .ldxI16 _ ra rb o => s.localTraps .load true o (s.eax ra rb) 2 2 0
  | .ldxN16 _ ra rb o => s.localTraps .load true o (s.eax ra rb) 2 2 0
  | .ldxI32 _ ra rb o => s.localTraps .load true o (s.eax ra rb) 4 4 0
  | .ldxN32 _ ra rb o => s.localTraps .load true o (s.eax ra rb) 4 4 0
  | .ldxD _ ra rb o => s.localTraps .load true o (s.eax ra rb) 8 8 0
  | .stxB rs ra rb o => s.localTraps .store false o (s.eax ra rb) 1 1 (s.readG rs)
  | .stxH rs ra rb o => s.localTraps .store false o (s.eax ra rb) 2 2 (s.readG rs)
  | .stxW rs ra rb o => s.localTraps .store false o (s.eax ra rb) 4 4 (s.readG rs)
  | .stxD rs ra rb o => s.localTraps .store false o (s.eax ra rb) 8 8 (s.readG rs)
  | .vld vd ra o _ off => s.vecTraps .vload true o (s.eav ra off) 64 fullMask [vd]
  | .vst vs ra o _ off => s.vecTraps .vstore false o (s.eav ra off) 64 fullMask [vs]
  | .vldm vd ra vm o _ off => s.vecTraps .vload true o (s.eav ra off) 64 (s.maskOf vm) [vd, vm]
  | .vstm vs ra vm o _ off => s.vecTraps .vstore false o (s.eav ra off) 64 (s.maskOf vm) [vs, vm]
  | .vldt vd ra gt o _ off => s.vecTraps .vplain true o (s.eav ra off) 512 fullMask [vd] ++ s.tagTraps (s.eav ra off) gt
  | .vstt vs ra _ o _ off => s.vecTraps .vplain false o (s.eav ra off) 512 fullMask [vs]
  | .vgather vd ra vi o _ el off => s.gatherTraps true o (s.eav ra off) vi el [vd, vi]
  | .vscatter vs ra vi o _ el off => s.gatherTraps false o (s.eav ra off) vi el [vs, vi]
  | .amoAdd _ ra _ _ dw => s.amoTraps (s.readG ra) (amoSize dw)
  | .amoAnd _ ra _ _ dw => s.amoTraps (s.readG ra) (amoSize dw)
  | .amoOr _ ra _ _ dw => s.amoTraps (s.readG ra) (amoSize dw)
  | .amoXor _ ra _ _ dw => s.amoTraps (s.readG ra) (amoSize dw)
  | .amoMin _ ra _ _ dw => s.amoTraps (s.readG ra) (amoSize dw)
  | .amoMax _ ra _ _ dw => s.amoTraps (s.readG ra) (amoSize dw)
  | .amoMinn _ ra _ _ dw => s.amoTraps (s.readG ra) (amoSize dw)
  | .amoMaxn _ ra _ _ dw => s.amoTraps (s.readG ra) (amoSize dw)
  | .amoSwap _ ra _ _ dw => s.amoTraps (s.readG ra) (amoSize dw)
  | .amoFadd _ ra _ _ dw => s.amoTraps (s.readG ra) (amoSize dw)
  | .cas _ ra _ _ dw => s.amoTraps (s.readG ra) (amoSize dw)
  | .fence _ => []
  | .fenceSc _ => []
  | .xld ra rc o _ sz => s.splitTraps (loadOrd o) (s.readG ra) (s.readG rc) (szBytes sz) []
  | .xst _ ra rc o _ sz => when_ (s.readG ra == stationWord && sz == 3 && !s.cx.prv) (privileged 0) ++ s.splitTraps (storeOrd o) (s.readG ra) (s.readG rc) (szBytes sz) []
  | .xvld rv ra rc o _ => s.splitTraps (loadOrd o) (s.readG ra) (s.readG rc) 512 (s.rangeTraps (s.readG rv) 512 64)
  | .xvst rv ra rc o _ => s.splitTraps (storeOrd o) (s.readG ra) (s.readG rc) 512 (s.rangeTraps (s.readG rv) 512 64)
  | .xamoAdd _ ra rc _ _ dw => s.splitTraps true (s.readG ra) (s.readG rc) (amoSize dw) []
  | .xamoAnd _ ra rc _ _ dw => s.splitTraps true (s.readG ra) (s.readG rc) (amoSize dw) []
  | .xamoOr _ ra rc _ _ dw => s.splitTraps true (s.readG ra) (s.readG rc) (amoSize dw) []
  | .xamoXor _ ra rc _ _ dw => s.splitTraps true (s.readG ra) (s.readG rc) (amoSize dw) []
  | .xamoMin _ ra rc _ _ dw => s.splitTraps true (s.readG ra) (s.readG rc) (amoSize dw) []
  | .xamoMax _ ra rc _ _ dw => s.splitTraps true (s.readG ra) (s.readG rc) (amoSize dw) []
  | .xamoMinn _ ra rc _ _ dw => s.splitTraps true (s.readG ra) (s.readG rc) (amoSize dw) []
  | .xamoMaxn _ ra rc _ _ dw => s.splitTraps true (s.readG ra) (s.readG rc) (amoSize dw) []
  | .xamoSwap _ ra rc _ _ dw => s.splitTraps true (s.readG ra) (s.readG rc) (amoSize dw) []
  | .xamoFadd _ ra rc _ _ dw => s.splitTraps true (s.readG ra) (s.readG rc) (amoSize dw) []
  | .xcas rv ra rc _ _ dw => when_ (rv == 31) (illegal .c) ++ s.splitTraps true (s.readG ra) (s.readG rc) (amoSize dw) []
  | .post e => s.postTraps (s.entry e)
  | .qnext _ => s.asyncTraps
  | .xsend r1 r2 r3 p n _ => s.xsendTraps (s.readG r1) (s.readG r2) (s.readG r3) p (n.toNat + 1)
  | .mmaE4m3E4m3 ra rb rs kb ba bb _ => s.mmaTraps 0 (s.readG ra) (s.readG rb) (s.readG rs) rs kb ba bb
  | .mmaE4m3E5m2 ra rb rs kb ba bb _ => s.mmaTraps 1 (s.readG ra) (s.readG rb) (s.readG rs) rs kb ba bb
  | .mmaE5m2E4m3 ra rb rs kb ba bb _ => s.mmaTraps 2 (s.readG ra) (s.readG rb) (s.readG rs) rs kb ba bb
  | .mmaE5m2E5m2 ra rb rs kb ba bb _ => s.mmaTraps 3 (s.readG ra) (s.readG rb) (s.readG rs) rs kb ba bb
  | .mmaBf16Bf16 ra rb rs kb ba bb _ => s.mmaTraps 4 (s.readG ra) (s.readG rb) (s.readG rs) rs kb ba bb
  | .mmaF16F16 ra rb rs kb ba bb _ => s.mmaTraps 5 (s.readG ra) (s.readG rb) (s.readG rs) rs kb ba bb
  | .mmaI8I8 ra rb rs kb ba bb _ => s.mmaTraps 6 (s.readG ra) (s.readG rb) (s.readG rs) rs kb ba bb
  | .mmaI8T2 ra rb rs kb ba bb _ => s.mmaTraps 7 (s.readG ra) (s.readG rb) (s.readG rs) rs kb ba bb
  | .mmaE8oI8 ra rb rs kb ba bb _ => s.mmaTraps 8 (s.readG ra) (s.readG rb) (s.readG rs) rs kb ba bb
  | .mmaE8oE4m3 ra rb rs kb ba bb _ => s.mmaTraps 9 (s.readG ra) (s.readG rb) (s.readG rs) rs kb ba bb
  | .mmaE8oBf16 ra rb rs kb ba bb _ => s.mmaTraps 10 (s.readG ra) (s.readG rb) (s.readG rs) rs kb ba bb
  | .mldb r1 r2 r3 => s.mldbTraps (s.readG r1) (s.readG r2) (s.readG r3)
  | .mzero => s.matTraps
  | .mdrain r1 r2 _ r4 ty act => s.mdrainTraps (s.readG r1) (s.readG r2) (s.readG r4) ty act
  | .tst r1 _ r3 r4 => s.cisternTraps (s.readG r1) (s.readG r4) (some (s.readG r3))
  | .tadv r1 _ r3 => s.cisternTraps (s.readG r1) (s.readG r3) none
  | .tlow r1 _ r3 => s.cisternTraps (s.readG r1) (s.readG r3) none
  | .tld r1 _ _ r4 gc _ _ => s.cisternTraps (s.readG r1) (s.readG gc) (some (s.readG r4))
  | _ => []
/-- The at-issue causes of an instruction of word A. -/
def checksA (i : Instr) (s : State) : List Trap :=
  match i with
  | .fadd _ ra rb t rm => s.fpTrap (faddR s ra rb t rm).2 4
  | .fsub _ ra rb t rm => s.fpTrap (fsubR s ra rb t rm).2 4
  | .fmul _ ra rb t rm => s.fpTrap (fmulR s ra rb t rm).2 4
  | .fma rd ra rb t rm => s.fpTrap (fmaR s rd ra rb t rm).2 4
  | .fms rd ra rb t rm => s.fpTrap (fmsR s rd ra rb t rm).2 4
  | .fnma rd ra rb t rm => s.fpTrap (fnmaR s rd ra rb t rm).2 4
  | .fdiv _ ra rb t rm => s.fpTrap (fdivR s ra rb t rm).2 (rootLat t)
  | .fsqrt _ ra t rm => s.fpTrap (fsqrtR s ra t rm).2 (rootLat t)
  | .frcp _ ra t => s.fpTrap (rcpOn (scalarFmt t) (s.codeF t ra)).2 6
  | .frsq _ ra t => s.fpTrap (rsqOn (scalarFmt t) (s.codeF t ra)).2 6
  | .fmin _ ra rb t => s.fpTrap (minMaxC (scalarFmt t) false (s.codeF t ra) (s.codeF t rb)).2 1
  | .fmax _ ra rb t => s.fpTrap (minMaxC (scalarFmt t) true (s.codeF t ra) (s.codeF t rb)).2 1
  | .feq _ ra rb t => s.fpTrap (cmpFlags true (s.readF t ra) (s.readF t rb)) 2
  | .flt _ ra rb t => s.fpTrap (cmpFlags false (s.readF t ra) (s.readF t rb)) 2
  | .fle _ ra rb t => s.fpTrap (cmpFlags false (s.readF t ra) (s.readF t rb)) 2
  | .fcvt _ ra t rm ax => s.fpTrap (cvtFF (scalarFmt t) (scalarFmt ax) rm.toNat false (s.codeF ax ra)).2 3
  | .fcvti _ ra t rm ax => s.fpTrap (fcvtiR s ra t rm ax).2 3
  | .fcvtf _ ra t rm ax => s.fpTrap (cvtOfInt (scalarFmt t) rm.toNat false (kindOf ax (s.readG ra))).2 3
  | .fexp _ ra t => s.fpTrap (fexpV (s.readF t ra)).2 3
  | .fscl _ ra rb t rm => s.fpTrap (sclV (scalarFmt t) rm.toNat (s.readF t ra) (s.readG rb).toInt).2 3
  | .vadd vd va vb ty => s.vtr [vd.toNat, va.toNat, vb.toNat] (vaddR s va vb ty).2 (latAdd ty)
  | .vsub vd va vb ty => s.vtr [vd.toNat, va.toNat, vb.toNat] (vsubR s va vb ty).2 (latAdd ty)
  | .vmul vd va vb ty => s.vtr [vd.toNat, va.toNat, vb.toNat] (vmulR s va vb ty).2 (latMul ty)
  | .vmulh vd va vb ty => s.vtr [vd.toNat, va.toNat, vb.toNat] (vmulhR s va vb ty).2 11
  | .vfma vd va vb ty => s.vtr [vd.toNat, va.toNat, vb.toNat] (vfmaR s vd va vb ty).2 12
  | .vfms vd va vb ty => s.vtr [vd.toNat, va.toNat, vb.toNat] (vfmsR s vd va vb ty).2 12
  | .vmin vd va vb ty => s.vtr [vd.toNat, va.toNat, vb.toNat] (vminR s va vb ty).2 9
  | .vmax vd va vb ty => s.vtr [vd.toNat, va.toNat, vb.toNat] (vmaxR s va vb ty).2 9
  | .vabs vd va ty => s.vtr [vd.toNat, va.toNat] (vabsR s va ty).2 9
  | .vneg vd va ty => s.vtr [vd.toNat, va.toNat] (vnegR s va ty).2 9
  | .vand vd va vb ty => s.vtr [vd.toNat, va.toNat, vb.toNat] (vandR s va vb ty).2 9
  | .vor vd va vb ty => s.vtr [vd.toNat, va.toNat, vb.toNat] (vorR s va vb ty).2 9
  | .vxor vd va vb ty => s.vtr [vd.toNat, va.toNat, vb.toNat] (vxorR s va vb ty).2 9
  | .vandn vd va vb ty => s.vtr [vd.toNat, va.toNat, vb.toNat] (vandnR s va vb ty).2 9
  | .vshl vd va vb ty => s.vtr [vd.toNat, va.toNat, vb.toNat] (vshlR s va vb ty).2 9
  | .vshr vd va vb ty => s.vtr [vd.toNat, va.toNat, vb.toNat] (vshrR s va vb ty).2 9
  | .vsar vd va vb ty => s.vtr [vd.toNat, va.toNat, vb.toNat] (vsarR s va vb ty).2 9
  | .vcmp vd va vb ty cc => s.vtr [vd.toNat, va.toNat, vb.toNat] (vcmpR s va vb ty cc).2 9
  | .vsel vd va vb ty vm => s.vtr [vd.toNat, va.toNat, vb.toNat, vm.toNat] (vselR s va vb ty vm).2 9
  | .vmand vd va vb ty => s.vtr [vd.toNat, va.toNat, vb.toNat] (vmandR s va vb ty).2 9
  | .vmor vd va vb ty => s.vtr [vd.toNat, va.toNat, vb.toNat] (vmorR s va vb ty).2 9
  | .vmnot vd va ty => s.vtr [vd.toNat, va.toNat] (vmnotR s va ty).2 9
  | .vcvt vd va ty src => chkVcvt vd va ty src s
  | .vperm vd va vb ty => s.vtr [vd.toNat, va.toNat, vb.toNat] (vpermR s va vb ty).2 12
  | .vrot vd va vb ty => s.vtr [vd.toNat, va.toNat, vb.toNat] (vrotR s va vb ty).2 12
  | .vsum vd va ty => s.vtr [vd.toNat, va.toNat] (vsumR s va ty).2 20
  | .vmaxr vd va ty => s.vtr [vd.toNat, va.toNat] (vmaxrR s va ty).2 20
  | .vminr vd va ty => s.vtr [vd.toNat, va.toNat] (vminrR s va ty).2 20
  | .vdot vd va vb ty => s.vtr [vd.toNat, va.toNat, vb.toNat] (vdotR s va vb ty).2 20
  | .vlerp vd va vb ty => s.vtr [vd.toNat, va.toNat, vb.toNat] (vlerpR s vd va vb ty).2 12
  | .vclamp vd va vb ty => s.vtr [vd.toNat, va.toNat, vb.toNat] (vclampR s vd va vb ty).2 12
  | .vrcp vd va ty => s.vtr [vd.toNat, va.toNat] (vrcpR s va ty).2 14
  | .vrsq vd va ty => s.vtr [vd.toNat, va.toNat] (vrsqR s va ty).2 14
  | .vexp2 vd va ty => s.vtr [vd.toNat, va.toNat] (vexp2R s va ty).2 14
  | .vlog2 vd va ty => s.vtr [vd.toNat, va.toNat] (vlog2R s va ty).2 14
  | .vsinpi vd va ty => s.vtr [vd.toNat, va.toNat] (vsinpiR s va ty).2 14
  | .vcospi vd va ty => s.vtr [vd.toNat, va.toNat] (vcospiR s va ty).2 14
  | .vbcast vd _ _ => s.vtr [vd.toNat] 0 9
  | .vins vd _ _ _ => s.vtr [vd.toNat] 0 9
  | .vext vd _ _ _ => s.vtr [vd.toNat] 0 9
  | .vmpop _ va _ => s.vtr [va.toNat] 0 9
  | .vscl vd va gb ty => s.vtr [vd.toNat, va.toNat] (vsclR s va gb ty).2 12
  | .vqe8 vd va gb ty => chkVqe8 vd va gb ty s
  | .vde8 vd va gb ty => s.vtr [vd.toNat, va.toNat] (vde8R s va gb ty).2 16
  | .vfix vd va gb ty => chkVfix vd va gb ty s
  | .vunfix vd va gb ty => s.vtr (vd.toNat :: group va 2) (vunfixR s va gb ty).2 19
  | .vmaxe _ va _ => s.vtr [va.toNat] 0 11
  | .vex vd va vb gd gs ty => chkVex vd va vb gd gs ty s
  | _ => []

/-! ## Registers read (R162) -/

/-- A register of a context. -/
inductive RegName where
  | g (r : GReg)
  | v (r : VReg)
  deriving DecidableEq, Repr
/-- The registers an instruction reads when its bundle issues. -/
def readsOf (i : Instr) (s : State) : List RegName :=
  match i with
  | .bt r _ _ => [.g r]
  | .bf r _ _ => [.g r]
  | .bnz r _ => [.g r]
  | .bz r _ => [.g r]
  | .guard r _ => [.g r]
  | .guardn r _ => [.g r]
  | .lih rd _ => [.g rd]
  | .cwait _ ra rb => [.g ra, .g rb]
  | .qwait _ rb => [.g rb]
  | .hjoin ra rb => [.g ra, .g rb]
  | .xend rb => [.g rb]
  | .mwait rb => [.g rb]
  | .sbarOr rd ra rb => [.g rd, .g ra, .g rb]
  | .sbarAnd rd ra rb => [.g rd, .g ra, .g rb]
  | .sbarMax rd ra rb => [.g rd, .g ra, .g rb]
  | .callr ra => [.g ra]
  | .jr ra => [.g ra]
  | .ret => [.g 31]
  | .swp _ ra => [.g ra]
  | .setsr ra _ => [.g ra]
  | .ldI8 _ ra _ _ _ => [.g ra]
  | .ldN8 _ ra _ _ _ => [.g ra]
  | .ldI16 _ ra _ _ _ => [.g ra]
  | .ldN16 _ ra _ _ _ => [.g ra]
  | .ldI32 _ ra _ _ _ => [.g ra]
  | .ldN32 _ ra _ _ _ => [.g ra]
  | .ldD _ ra _ _ _ => [.g ra]
  | .stB rs ra _ _ _ => [.g rs, .g ra]
  | .stH rs ra _ _ _ => [.g rs, .g ra]
  | .stW rs ra _ _ _ => [.g rs, .g ra]
  | .stD rs ra _ _ _ => [.g rs, .g ra]
  | .ldxI8 _ ra rb _ => [.g ra, .g rb]
  | .ldxN8 _ ra rb _ => [.g ra, .g rb]
  | .ldxI16 _ ra rb _ => [.g ra, .g rb]
  | .ldxN16 _ ra rb _ => [.g ra, .g rb]
  | .ldxI32 _ ra rb _ => [.g ra, .g rb]
  | .ldxN32 _ ra rb _ => [.g ra, .g rb]
  | .ldxD _ ra rb _ => [.g ra, .g rb]
  | .stxB rs ra rb _ => [.g rs, .g ra, .g rb]
  | .stxH rs ra rb _ => [.g rs, .g ra, .g rb]
  | .stxW rs ra rb _ => [.g rs, .g ra, .g rb]
  | .stxD rs ra rb _ => [.g rs, .g ra, .g rb]
  | .vld _ ra _ _ _ => [.g ra]
  | .vst vs ra _ _ _ => [.g ra, .v vs]
  | .vldm vd ra vm _ _ _ => [.g ra, .v vd, .v vm]
  | .vstm vs ra vm _ _ _ => [.g ra, .v vs, .v vm]
  | .vldt _ ra gt _ _ _ => [.g ra, .g gt]
  | .vstt vs ra gt _ _ _ => [.g ra, .g gt, .v vs]
  | .vgather _ ra vi _ _ _ _ => [.g ra, .v vi]
  | .vscatter vs ra vi _ _ _ _ => [.g ra, .v vs, .v vi]
  | .amoAdd _ ra rb _ _ => [.g ra, .g rb]
  | .amoAnd _ ra rb _ _ => [.g ra, .g rb]
  | .amoOr _ ra rb _ _ => [.g ra, .g rb]
  | .amoXor _ ra rb _ _ => [.g ra, .g rb]
  | .amoMin _ ra rb _ _ => [.g ra, .g rb]
  | .amoMax _ ra rb _ _ => [.g ra, .g rb]
  | .amoMinn _ ra rb _ _ => [.g ra, .g rb]
  | .amoMaxn _ ra rb _ _ => [.g ra, .g rb]
  | .amoSwap _ ra rb _ _ => [.g ra, .g rb]
  | .amoFadd _ ra rb _ _ => [.g ra, .g rb]
  | .cas rd ra rb _ _ => [.g rd, .g ra, .g rb]
  | .xld ra rc _ _ _ => [.g ra, .g rc]
  | .xst rv ra rc _ _ _ => [.g rv, .g ra, .g rc]
  | .xvld rv ra rc _ _ => [.g rv, .g ra, .g rc]
  | .xvst rv ra rc _ _ => [.g rv, .g ra, .g rc]
  | .xamoAdd rv ra rc _ _ _ => [.g rv, .g ra, .g rc]
  | .xamoAnd rv ra rc _ _ _ => [.g rv, .g ra, .g rc]
  | .xamoOr rv ra rc _ _ _ => [.g rv, .g ra, .g rc]
  | .xamoXor rv ra rc _ _ _ => [.g rv, .g ra, .g rc]
  | .xamoMin rv ra rc _ _ _ => [.g rv, .g ra, .g rc]
  | .xamoMax rv ra rc _ _ _ => [.g rv, .g ra, .g rc]
  | .xamoMinn rv ra rc _ _ _ => [.g rv, .g ra, .g rc]
  | .xamoMaxn rv ra rc _ _ _ => [.g rv, .g ra, .g rc]
  | .xamoSwap rv ra rc _ _ _ => [.g rv, .g ra, .g rc]
  | .xamoFadd rv ra rc _ _ _ => [.g rv, .g ra, .g rc]
  | .xcas rv ra rc _ _ _ => [.g rv, .g ra, .g rc, .g (rv + 1)]
  | .xsend r1 r2 r3 _ _ _ => [.g r1, .g r2, .g r3]
  | .mmaE4m3E4m3 ra rb rs _ _ _ _ => [.g ra, .g rb, .g rs]
  | .mmaE4m3E5m2 ra rb rs _ _ _ _ => [.g ra, .g rb, .g rs]
  | .mmaE5m2E4m3 ra rb rs _ _ _ _ => [.g ra, .g rb, .g rs]
  | .mmaE5m2E5m2 ra rb rs _ _ _ _ => [.g ra, .g rb, .g rs]
  | .mmaBf16Bf16 ra rb rs _ _ _ _ => [.g ra, .g rb, .g rs]
  | .mmaF16F16 ra rb rs _ _ _ _ => [.g ra, .g rb, .g rs]
  | .mmaI8I8 ra rb rs _ _ _ _ => [.g ra, .g rb, .g rs]
  | .mmaI8T2 ra rb rs _ _ _ _ => [.g ra, .g rb, .g rs]
  | .mmaE8oI8 ra rb rs _ _ _ _ => [.g ra, .g rb, .g rs]
  | .mmaE8oE4m3 ra rb rs _ _ _ _ => [.g ra, .g rb, .g rs]
  | .mmaE8oBf16 ra rb rs _ _ _ _ => [.g ra, .g rb, .g rs]
  | .mldb r1 r2 r3 => [.g r1, .g r2, .g r3]
  | .mdrain r1 r2 r3 r4 _ _ => [.g r1, .g r2, .g r3, .g r4]
  | .tst r1 r2 r3 r4 => [.g r1, .g r2, .g r3, .g r4]
  | .tadv r1 r2 r3 => [.g r1, .g r2, .g r3]
  | .tlow r1 r2 r3 => [.g r1, .g r2, .g r3]
  | .tld r1 r2 r3 r4 gc _ _ => [.g r1, .g r2, .g r3, .g r4, .g gc]
  | .add _ ra rb _ => [.g ra, .g rb]
  | .sub _ ra rb _ => [.g ra, .g rb]
  | .and _ ra rb => [.g ra, .g rb]
  | .or _ ra rb => [.g ra, .g rb]
  | .xor _ ra rb => [.g ra, .g rb]
  | .andn _ ra rb => [.g ra, .g rb]
  | .orn _ ra rb => [.g ra, .g rb]
  | .shl _ ra rb _ => [.g ra, .g rb]
  | .shr _ ra rb _ => [.g ra, .g rb]
  | .sar _ ra rb _ => [.g ra, .g rb]
  | .rol _ ra rb _ => [.g ra, .g rb]
  | .min _ ra rb => [.g ra, .g rb]
  | .max _ ra rb => [.g ra, .g rb]
  | .minn _ ra rb => [.g ra, .g rb]
  | .maxn _ ra rb => [.g ra, .g rb]
  | .seq _ ra rb => [.g ra, .g rb]
  | .sne _ ra rb => [.g ra, .g rb]
  | .slt _ ra rb => [.g ra, .g rb]
  | .sltn _ ra rb => [.g ra, .g rb]
  | .sle _ ra rb => [.g ra, .g rb]
  | .slen _ ra rb => [.g ra, .g rb]
  | .bget _ ra rb => [.g ra, .g rb]
  | .bset _ ra rb => [.g ra, .g rb]
  | .bclr _ ra rb => [.g ra, .g rb]
  | .bflip _ ra rb => [.g ra, .g rb]
  | .popc _ ra => [.g ra]
  | .clz _ ra => [.g ra]
  | .ctz _ ra => [.g ra]
  | .rev _ ra => [.g ra]
  | .mov _ ra => [.g ra]
  | .cmov _ ra rb => [.g ra, .g rb]
  | .sext _ ra _ => [.g ra]
  | .zext _ ra _ => [.g ra]
  | .mul _ ra rb _ => [.g ra, .g rb]
  | .mulh _ ra rb _ => [.g ra, .g rb]
  | .mulhn _ ra rb _ => [.g ra, .g rb]
  | .div _ ra rb _ => [.g ra, .g rb]
  | .divn _ ra rb _ => [.g ra, .g rb]
  | .rem _ ra rb _ => [.g ra, .g rb]
  | .remn _ ra rb _ => [.g ra, .g rb]
  | .addi _ ra _ => [.g ra]
  | .andi _ ra _ => [.g ra]
  | .ori _ ra _ => [.g ra]
  | .xori _ ra _ => [.g ra]
  | .slti _ ra _ => [.g ra]
  | .bext _ ra _ _ => [.g ra]
  | .bins rd ra _ _ => [.g rd, .g ra]
  | .movhi _ ra _ => [.g ra]
  | .shli _ ra _ _ => [.g ra]
  | .shri _ ra _ _ => [.g ra]
  | .sari _ ra _ _ => [.g ra]
  | .fadd _ ra rb _ _ => [.g ra, .g rb]
  | .fsub _ ra rb _ _ => [.g ra, .g rb]
  | .fmul _ ra rb _ _ => [.g ra, .g rb]
  | .fma rd ra rb _ _ => [.g rd, .g ra, .g rb]
  | .fms rd ra rb _ _ => [.g rd, .g ra, .g rb]
  | .fnma rd ra rb _ _ => [.g rd, .g ra, .g rb]
  | .fdiv _ ra rb _ _ => [.g ra, .g rb]
  | .fsqrt _ ra _ _ => [.g ra]
  | .frcp _ ra _ => [.g ra]
  | .frsq _ ra _ => [.g ra]
  | .fmin _ ra rb _ => [.g ra, .g rb]
  | .fmax _ ra rb _ => [.g ra, .g rb]
  | .fabs _ ra _ => [.g ra]
  | .fneg _ ra _ => [.g ra]
  | .fcpsgn _ ra rb _ => [.g ra, .g rb]
  | .fclass _ ra _ => [.g ra]
  | .feq _ ra rb _ => [.g ra, .g rb]
  | .flt _ ra rb _ => [.g ra, .g rb]
  | .fle _ ra rb _ => [.g ra, .g rb]
  | .fcvt _ ra _ _ _ => [.g ra]
  | .fcvti _ ra _ _ _ => [.g ra]
  | .fcvtf _ ra _ _ _ => [.g ra]
  | .fexp _ ra _ => [.g ra]
  | .fscl _ ra rb _ _ => [.g ra, .g rb]
  | .vadd _ va vb _ => [.v va, .v vb]
  | .vsub _ va vb _ => [.v va, .v vb]
  | .vmul _ va vb _ => [.v va, .v vb]
  | .vmulh _ va vb _ => [.v va, .v vb]
  | .vfma vd va vb _ => [.v vd, .v va, .v vb]
  | .vfms vd va vb _ => [.v vd, .v va, .v vb]
  | .vmin _ va vb _ => [.v va, .v vb]
  | .vmax _ va vb _ => [.v va, .v vb]
  | .vabs _ va _ => [.v va]
  | .vneg _ va _ => [.v va]
  | .vand _ va vb _ => [.v va, .v vb]
  | .vor _ va vb _ => [.v va, .v vb]
  | .vxor _ va vb _ => [.v va, .v vb]
  | .vandn _ va vb _ => [.v va, .v vb]
  | .vshl _ va vb _ => [.v va, .v vb]
  | .vshr _ va vb _ => [.v va, .v vb]
  | .vsar _ va vb _ => [.v va, .v vb]
  | .vcmp _ va vb _ _ => [.v va, .v vb]
  | .vsel _ va vb _ vm => [.v va, .v vb, .v vm]
  | .vmand _ va vb _ => [.v va, .v vb]
  | .vmor _ va vb _ => [.v va, .v vb]
  | .vmnot _ va _ => [.v va]
  | .vcvt _ va ty src => (group va (max 1 (ratioDown ty src))).map (fun r => .v (BitVec.ofNat 4 r))
  | .vperm _ va vb _ => [.v va, .v vb]
  | .vrot _ va vb _ => [.v va, .v vb]
  | .vsum _ va _ => [.v va]
  | .vmaxr _ va _ => [.v va]
  | .vminr _ va _ => [.v va]
  | .vdot _ va vb _ => [.v va, .v vb]
  | .vlerp vd va vb _ => [.v vd, .v va, .v vb]
  | .vclamp vd va vb _ => [.v vd, .v va, .v vb]
  | .vrcp _ va _ => [.v va]
  | .vrsq _ va _ => [.v va]
  | .vexp2 _ va _ => [.v va]
  | .vlog2 _ va _ => [.v va]
  | .vsinpi _ va _ => [.v va]
  | .vcospi _ va _ => [.v va]
  | .vbcast _ gb _ => [.g gb]
  | .vins vd gi gb _ => [.g gb, .g (gi.setWidth 5), .v vd]
  | .vext vd gi _ _ => [.g (gi.setWidth 5), .v vd]
  | .vmpop _ va _ => [.v va]
  | .vscl _ va gb _ => [.g gb, .v va]
  | .vqe8 vd va gb _ => [.g gb, .v vd, .v va] ++ (if (s.readG gb).getLsbD 25 then [.v (BitVec.ofNat 4 (fld (s.readG gb).toNat 29 26))] else [])
  | .vde8 _ va gb _ => [.g gb, .v va]
  | .vfix _ va gb _ => [.g gb, .v va]
  | .vunfix _ va gb _ => .g gb :: (group va 2).map (fun r => .v (BitVec.ofNat 4 r))
  | .vmaxe _ va _ => [.v va]
  | .vex vd va vb gd gs _ => [.g gd, .g gs, .v vd, .v va, .v vb]
  | _ => []

/-! ## Flags, beats -/

/-- The latency of an instruction of word A that can raise a floating-point flag (R163, R206). -/
def flagLat (i : Instr) (s : State) : Option Nat :=
  match i with
  | .fadd _ _ _ _ _ => some 4
  | .fsub _ _ _ _ _ => some 4
  | .fmul _ _ _ _ _ => some 4
  | .fma _ _ _ _ _ => some 4
  | .fms _ _ _ _ _ => some 4
  | .fnma _ _ _ _ _ => some 4
  | .fdiv _ _ _ t _ => some (rootLat t)
  | .fsqrt _ _ t _ => some (rootLat t)
  | .frcp _ _ _ => some 6
  | .frsq _ _ _ => some 6
  | .fmin _ _ _ _ => some 1
  | .fmax _ _ _ _ => some 1
  | .feq _ _ _ _ => some 2
  | .flt _ _ _ _ => some 2
  | .fle _ _ _ _ => some 2
  | .fcvt _ _ _ _ _ => some 3
  | .fcvti _ _ _ _ _ => some 3
  | .fcvtf _ _ _ _ _ => some 3
  | .fexp _ _ _ => some 3
  | .fscl _ _ _ _ _ => some 3
  | .vadd _ _ _ ty => if isFloat ty then some (latAdd ty) else none
  | .vsub _ _ _ ty => if isFloat ty then some (latAdd ty) else none
  | .vmul _ _ _ ty => if isFloat ty then some (latMul ty) else none
  | .vfma _ _ _ ty => if isFloat ty then some 12 else none
  | .vfms _ _ _ ty => if isFloat ty then some 12 else none
  | .vmin _ _ _ ty => if isFloat ty then some 9 else none
  | .vmax _ _ _ ty => if isFloat ty then some 9 else none
  | .vcmp _ _ _ ty _ => if isFloat ty then some 9 else none
  | .vcvt _ _ ty src => if anyInt ty && anyInt src then none else some (cvtBeats ty src + 3)
  | .vsum _ _ ty => if isFloat ty then some 20 else none
  | .vmaxr _ _ ty => if isFloat ty then some 20 else none
  | .vminr _ _ ty => if isFloat ty then some 20 else none
  | .vdot _ _ _ ty => if isFloat ty then some 20 else none
  | .vlerp _ _ _ ty => if isFloat ty then some 12 else none
  | .vclamp _ _ _ ty => if isFloat ty then some 12 else none
  | .vrcp _ _ ty => if isFloat ty then some 14 else none
  | .vrsq _ _ ty => if isFloat ty then some 14 else none
  | .vexp2 _ _ ty => if isFloat ty then some 14 else none
  | .vlog2 _ _ ty => if isFloat ty then some 14 else none
  | .vsinpi _ _ ty => if isFloat ty then some 14 else none
  | .vcospi _ _ ty => if isFloat ty then some 14 else none
  | .vscl _ _ _ ty => if isFloat ty then some 12 else none
  | .vqe8 _ _ _ _ => some 16
  | .vde8 _ _ _ ty => if isFloat ty then some 16 else none
  | .vfix _ _ _ _ => some 19
  | .vunfix _ _ _ _ => some 19
  | .vex _ _ _ gd _ _ => some (vexLat (s.readG gd))
  | _ => none
/-- Is it a vector instruction of word A? -/
def isVecA (i : Instr) : Bool :=
  match i with
  | .vadd _ _ _ _ => true
  | .vsub _ _ _ _ => true
  | .vmul _ _ _ _ => true
  | .vmulh _ _ _ _ => true
  | .vfma _ _ _ _ => true
  | .vfms _ _ _ _ => true
  | .vmin _ _ _ _ => true
  | .vmax _ _ _ _ => true
  | .vabs _ _ _ => true
  | .vneg _ _ _ => true
  | .vand _ _ _ _ => true
  | .vor _ _ _ _ => true
  | .vxor _ _ _ _ => true
  | .vandn _ _ _ _ => true
  | .vshl _ _ _ _ => true
  | .vshr _ _ _ _ => true
  | .vsar _ _ _ _ => true
  | .vcmp _ _ _ _ _ => true
  | .vsel _ _ _ _ _ => true
  | .vmand _ _ _ _ => true
  | .vmor _ _ _ _ => true
  | .vmnot _ _ _ => true
  | .vcvt _ _ _ _ => true
  | .vperm _ _ _ _ => true
  | .vrot _ _ _ _ => true
  | .vsum _ _ _ => true
  | .vmaxr _ _ _ => true
  | .vminr _ _ _ => true
  | .vdot _ _ _ _ => true
  | .vlerp _ _ _ _ => true
  | .vclamp _ _ _ _ => true
  | .vrcp _ _ _ => true
  | .vrsq _ _ _ => true
  | .vexp2 _ _ _ => true
  | .vlog2 _ _ _ => true
  | .vsinpi _ _ _ => true
  | .vcospi _ _ _ => true
  | .vbcast _ _ _ => true
  | .vins _ _ _ _ => true
  | .vext _ _ _ _ => true
  | .vmpop _ _ _ => true
  | .vscl _ _ _ _ => true
  | .vqe8 _ _ _ _ => true
  | .vde8 _ _ _ _ => true
  | .vfix _ _ _ _ => true
  | .vunfix _ _ _ _ => true
  | .vmaxe _ _ _ => true
  | .vex _ _ _ _ _ _ => true
  | _ => false
/-- The beats for which an instruction of word C occupies the vector datapath (R163, R321). -/
def beatsC (i : Instr) : Nat :=
  match i with
  | .vld _ _ _ _ _ => 8
  | .vst _ _ _ _ _ => 8
  | .vldm _ _ _ _ _ _ => 8
  | .vstm _ _ _ _ _ _ => 8
  | .vldt _ _ _ _ _ _ => 8
  | .vstt _ _ _ _ _ _ => 8
  | .vgather _ _ _ _ _ el _ => (gatherCount el + 7) / 8
  | .vscatter _ _ _ _ _ el _ => (gatherCount el + 7) / 8
  | .xvst _ _ _ _ _ => 8
  | _ => 0
/-- Is it a matrix command (R331)? -/
def isMatrix (i : Instr) : Bool :=
  match i with
  | .mmaE4m3E4m3 _ _ _ _ _ _ _ => true
  | .mmaE4m3E5m2 _ _ _ _ _ _ _ => true
  | .mmaE5m2E4m3 _ _ _ _ _ _ _ => true
  | .mmaE5m2E5m2 _ _ _ _ _ _ _ => true
  | .mmaBf16Bf16 _ _ _ _ _ _ _ => true
  | .mmaF16F16 _ _ _ _ _ _ _ => true
  | .mmaI8I8 _ _ _ _ _ _ _ => true
  | .mmaI8T2 _ _ _ _ _ _ _ => true
  | .mmaE8oI8 _ _ _ _ _ _ _ => true
  | .mmaE8oE4m3 _ _ _ _ _ _ _ => true
  | .mmaE8oBf16 _ _ _ _ _ _ _ => true
  | .mldb _ _ _ => true
  | .mzero => true
  | .mdrain _ _ _ _ _ _ => true
  | _ => false
/-- Does it count among the 64 outstanding operations of a core (R321, R343)? -/
def isSplit (i : Instr) : Bool :=
  match i with
  | .xld _ _ _ _ _ => true
  | .xst _ _ _ _ _ _ => true
  | .xvld _ _ _ _ _ => true
  | .xvst _ _ _ _ _ => true
  | .xamoAdd _ _ _ _ _ _ => true
  | .xamoAnd _ _ _ _ _ _ => true
  | .xamoOr _ _ _ _ _ _ => true
  | .xamoXor _ _ _ _ _ _ => true
  | .xamoMin _ _ _ _ _ _ => true
  | .xamoMax _ _ _ _ _ _ => true
  | .xamoMinn _ _ _ _ _ _ => true
  | .xamoMaxn _ _ _ _ _ _ => true
  | .xamoSwap _ _ _ _ _ _ => true
  | .xamoFadd _ _ _ _ _ _ => true
  | .xcas _ _ _ _ _ _ => true
  | .tst _ _ _ _ => true
  | .tadv _ _ _ => true
  | .tlow _ _ _ => true
  | .tld _ _ _ _ _ _ _ => true
  | _ => false

/-! ## Repetition (R165) -/

/-- A general register field advanced: g0 stays g0. -/
def advG (n : Nat) (r : GReg) : GReg := if r = 0 then 0 else r + BitVec.ofNat 5 n
/-- An instruction of word A with every register field advanced. -/
noncomputable def advanceA (n : Nat) (i : Instr) : Instr :=
  match i with
  | .add rd ra rb w32 => .add (advG n rd) (advG n ra) (advG n rb) w32
  | .sub rd ra rb w32 => .sub (advG n rd) (advG n ra) (advG n rb) w32
  | .and rd ra rb => .and (advG n rd) (advG n ra) (advG n rb)
  | .or rd ra rb => .or (advG n rd) (advG n ra) (advG n rb)
  | .xor rd ra rb => .xor (advG n rd) (advG n ra) (advG n rb)
  | .andn rd ra rb => .andn (advG n rd) (advG n ra) (advG n rb)
  | .orn rd ra rb => .orn (advG n rd) (advG n ra) (advG n rb)
  | .shl rd ra rb w32 => .shl (advG n rd) (advG n ra) (advG n rb) w32
  | .shr rd ra rb w32 => .shr (advG n rd) (advG n ra) (advG n rb) w32
  | .sar rd ra rb w32 => .sar (advG n rd) (advG n ra) (advG n rb) w32
  | .rol rd ra rb w32 => .rol (advG n rd) (advG n ra) (advG n rb) w32
  | .min rd ra rb => .min (advG n rd) (advG n ra) (advG n rb)
  | .max rd ra rb => .max (advG n rd) (advG n ra) (advG n rb)
  | .minn rd ra rb => .minn (advG n rd) (advG n ra) (advG n rb)
  | .maxn rd ra rb => .maxn (advG n rd) (advG n ra) (advG n rb)
  | .seq rd ra rb => .seq (advG n rd) (advG n ra) (advG n rb)
  | .sne rd ra rb => .sne (advG n rd) (advG n ra) (advG n rb)
  | .slt rd ra rb => .slt (advG n rd) (advG n ra) (advG n rb)
  | .sltn rd ra rb => .sltn (advG n rd) (advG n ra) (advG n rb)
  | .sle rd ra rb => .sle (advG n rd) (advG n ra) (advG n rb)
  | .slen rd ra rb => .slen (advG n rd) (advG n ra) (advG n rb)
  | .bget rd ra rb => .bget (advG n rd) (advG n ra) (advG n rb)
  | .bset rd ra rb => .bset (advG n rd) (advG n ra) (advG n rb)
  | .bclr rd ra rb => .bclr (advG n rd) (advG n ra) (advG n rb)
  | .bflip rd ra rb => .bflip (advG n rd) (advG n ra) (advG n rb)
  | .popc rd ra => .popc (advG n rd) (advG n ra)
  | .clz rd ra => .clz (advG n rd) (advG n ra)
  | .ctz rd ra => .ctz (advG n rd) (advG n ra)
  | .rev rd ra => .rev (advG n rd) (advG n ra)
  | .mov rd ra => .mov (advG n rd) (advG n ra)
  | .cmov rd ra rb => .cmov (advG n rd) (advG n ra) (advG n rb)
  | .sext rd ra wc => .sext (advG n rd) (advG n ra) wc
  | .zext rd ra wc => .zext (advG n rd) (advG n ra) wc
  | .mul rd ra rb w32 => .mul (advG n rd) (advG n ra) (advG n rb) w32
  | .mulh rd ra rb w32 => .mulh (advG n rd) (advG n ra) (advG n rb) w32
  | .mulhn rd ra rb w32 => .mulhn (advG n rd) (advG n ra) (advG n rb) w32
  | .div rd ra rb w32 => .div (advG n rd) (advG n ra) (advG n rb) w32
  | .divn rd ra rb w32 => .divn (advG n rd) (advG n ra) (advG n rb) w32
  | .rem rd ra rb w32 => .rem (advG n rd) (advG n ra) (advG n rb) w32
  | .remn rd ra rb w32 => .remn (advG n rd) (advG n ra) (advG n rb) w32
  | .addi rd ra imm => .addi (advG n rd) (advG n ra) imm
  | .andi rd ra imm => .andi (advG n rd) (advG n ra) imm
  | .ori rd ra imm => .ori (advG n rd) (advG n ra) imm
  | .xori rd ra imm => .xori (advG n rd) (advG n ra) imm
  | .slti rd ra imm => .slti (advG n rd) (advG n ra) imm
  | .movi rd imm => .movi (advG n rd) imm
  | .bext rd ra pos wd => .bext (advG n rd) (advG n ra) pos wd
  | .bins rd ra pos wd => .bins (advG n rd) (advG n ra) pos wd
  | .movhi rd ra imm => .movhi (advG n rd) (advG n ra) imm
  | .shli rd ra w32 amt => .shli (advG n rd) (advG n ra) w32 amt
  | .shri rd ra w32 amt => .shri (advG n rd) (advG n ra) w32 amt
  | .sari rd ra w32 amt => .sari (advG n rd) (advG n ra) w32 amt
  | .fadd rd ra rb t rm => .fadd (advG n rd) (advG n ra) (advG n rb) t rm
  | .fsub rd ra rb t rm => .fsub (advG n rd) (advG n ra) (advG n rb) t rm
  | .fmul rd ra rb t rm => .fmul (advG n rd) (advG n ra) (advG n rb) t rm
  | .fma rd ra rb t rm => .fma (advG n rd) (advG n ra) (advG n rb) t rm
  | .fms rd ra rb t rm => .fms (advG n rd) (advG n ra) (advG n rb) t rm
  | .fnma rd ra rb t rm => .fnma (advG n rd) (advG n ra) (advG n rb) t rm
  | .fdiv rd ra rb t rm => .fdiv (advG n rd) (advG n ra) (advG n rb) t rm
  | .fsqrt rd ra t rm => .fsqrt (advG n rd) (advG n ra) t rm
  | .frcp rd ra t => .frcp (advG n rd) (advG n ra) t
  | .frsq rd ra t => .frsq (advG n rd) (advG n ra) t
  | .fmin rd ra rb t => .fmin (advG n rd) (advG n ra) (advG n rb) t
  | .fmax rd ra rb t => .fmax (advG n rd) (advG n ra) (advG n rb) t
  | .fabs rd ra t => .fabs (advG n rd) (advG n ra) t
  | .fneg rd ra t => .fneg (advG n rd) (advG n ra) t
  | .fcpsgn rd ra rb t => .fcpsgn (advG n rd) (advG n ra) (advG n rb) t
  | .fclass rd ra t => .fclass (advG n rd) (advG n ra) t
  | .feq rd ra rb t => .feq (advG n rd) (advG n ra) (advG n rb) t
  | .flt rd ra rb t => .flt (advG n rd) (advG n ra) (advG n rb) t
  | .fle rd ra rb t => .fle (advG n rd) (advG n ra) (advG n rb) t
  | .fcvt rd ra t rm ax => .fcvt (advG n rd) (advG n ra) t rm ax
  | .fcvti rd ra t rm ax => .fcvti (advG n rd) (advG n ra) t rm ax
  | .fcvtf rd ra t rm ax => .fcvtf (advG n rd) (advG n ra) t rm ax
  | .fexp rd ra t => .fexp (advG n rd) (advG n ra) t
  | .fscl rd ra rb t rm => .fscl (advG n rd) (advG n ra) (advG n rb) t rm
  | .vadd vd va vb ty => .vadd (vd + BitVec.ofNat 4 n) (va + BitVec.ofNat 4 n) (vb + BitVec.ofNat 4 n) ty
  | .vsub vd va vb ty => .vsub (vd + BitVec.ofNat 4 n) (va + BitVec.ofNat 4 n) (vb + BitVec.ofNat 4 n) ty
  | .vmul vd va vb ty => .vmul (vd + BitVec.ofNat 4 n) (va + BitVec.ofNat 4 n) (vb + BitVec.ofNat 4 n) ty
  | .vmulh vd va vb ty => .vmulh (vd + BitVec.ofNat 4 n) (va + BitVec.ofNat 4 n) (vb + BitVec.ofNat 4 n) ty
  | .vfma vd va vb ty => .vfma (vd + BitVec.ofNat 4 n) (va + BitVec.ofNat 4 n) (vb + BitVec.ofNat 4 n) ty
  | .vfms vd va vb ty => .vfms (vd + BitVec.ofNat 4 n) (va + BitVec.ofNat 4 n) (vb + BitVec.ofNat 4 n) ty
  | .vmin vd va vb ty => .vmin (vd + BitVec.ofNat 4 n) (va + BitVec.ofNat 4 n) (vb + BitVec.ofNat 4 n) ty
  | .vmax vd va vb ty => .vmax (vd + BitVec.ofNat 4 n) (va + BitVec.ofNat 4 n) (vb + BitVec.ofNat 4 n) ty
  | .vabs vd va ty => .vabs (vd + BitVec.ofNat 4 n) (va + BitVec.ofNat 4 n) ty
  | .vneg vd va ty => .vneg (vd + BitVec.ofNat 4 n) (va + BitVec.ofNat 4 n) ty
  | .vand vd va vb ty => .vand (vd + BitVec.ofNat 4 n) (va + BitVec.ofNat 4 n) (vb + BitVec.ofNat 4 n) ty
  | .vor vd va vb ty => .vor (vd + BitVec.ofNat 4 n) (va + BitVec.ofNat 4 n) (vb + BitVec.ofNat 4 n) ty
  | .vxor vd va vb ty => .vxor (vd + BitVec.ofNat 4 n) (va + BitVec.ofNat 4 n) (vb + BitVec.ofNat 4 n) ty
  | .vandn vd va vb ty => .vandn (vd + BitVec.ofNat 4 n) (va + BitVec.ofNat 4 n) (vb + BitVec.ofNat 4 n) ty
  | .vshl vd va vb ty => .vshl (vd + BitVec.ofNat 4 n) (va + BitVec.ofNat 4 n) (vb + BitVec.ofNat 4 n) ty
  | .vshr vd va vb ty => .vshr (vd + BitVec.ofNat 4 n) (va + BitVec.ofNat 4 n) (vb + BitVec.ofNat 4 n) ty
  | .vsar vd va vb ty => .vsar (vd + BitVec.ofNat 4 n) (va + BitVec.ofNat 4 n) (vb + BitVec.ofNat 4 n) ty
  | .vcmp vd va vb ty cc => .vcmp (vd + BitVec.ofNat 4 n) (va + BitVec.ofNat 4 n) (vb + BitVec.ofNat 4 n) ty cc
  | .vsel vd va vb ty vm => .vsel (vd + BitVec.ofNat 4 n) (va + BitVec.ofNat 4 n) (vb + BitVec.ofNat 4 n) ty (vm + BitVec.ofNat 4 n)
  | .vmand vd va vb ty => .vmand (vd + BitVec.ofNat 4 n) (va + BitVec.ofNat 4 n) (vb + BitVec.ofNat 4 n) ty
  | .vmor vd va vb ty => .vmor (vd + BitVec.ofNat 4 n) (va + BitVec.ofNat 4 n) (vb + BitVec.ofNat 4 n) ty
  | .vmnot vd va ty => .vmnot (vd + BitVec.ofNat 4 n) (va + BitVec.ofNat 4 n) ty
  | .vcvt vd va ty src => .vcvt (vd + BitVec.ofNat 4 n) (va + BitVec.ofNat 4 n) ty src
  | .vperm vd va vb ty => .vperm (vd + BitVec.ofNat 4 n) (va + BitVec.ofNat 4 n) (vb + BitVec.ofNat 4 n) ty
  | .vrot vd va vb ty => .vrot (vd + BitVec.ofNat 4 n) (va + BitVec.ofNat 4 n) (vb + BitVec.ofNat 4 n) ty
  | .vsum vd va ty => .vsum (vd + BitVec.ofNat 4 n) (va + BitVec.ofNat 4 n) ty
  | .vmaxr vd va ty => .vmaxr (vd + BitVec.ofNat 4 n) (va + BitVec.ofNat 4 n) ty
  | .vminr vd va ty => .vminr (vd + BitVec.ofNat 4 n) (va + BitVec.ofNat 4 n) ty
  | .vdot vd va vb ty => .vdot (vd + BitVec.ofNat 4 n) (va + BitVec.ofNat 4 n) (vb + BitVec.ofNat 4 n) ty
  | .vlerp vd va vb ty => .vlerp (vd + BitVec.ofNat 4 n) (va + BitVec.ofNat 4 n) (vb + BitVec.ofNat 4 n) ty
  | .vclamp vd va vb ty => .vclamp (vd + BitVec.ofNat 4 n) (va + BitVec.ofNat 4 n) (vb + BitVec.ofNat 4 n) ty
  | .vrcp vd va ty => .vrcp (vd + BitVec.ofNat 4 n) (va + BitVec.ofNat 4 n) ty
  | .vrsq vd va ty => .vrsq (vd + BitVec.ofNat 4 n) (va + BitVec.ofNat 4 n) ty
  | .vexp2 vd va ty => .vexp2 (vd + BitVec.ofNat 4 n) (va + BitVec.ofNat 4 n) ty
  | .vlog2 vd va ty => .vlog2 (vd + BitVec.ofNat 4 n) (va + BitVec.ofNat 4 n) ty
  | .vsinpi vd va ty => .vsinpi (vd + BitVec.ofNat 4 n) (va + BitVec.ofNat 4 n) ty
  | .vcospi vd va ty => .vcospi (vd + BitVec.ofNat 4 n) (va + BitVec.ofNat 4 n) ty
  | .vbcast vd gb ty => .vbcast (vd + BitVec.ofNat 4 n) (advG n gb) ty
  | .vins vd gi gb ty => .vins (vd + BitVec.ofNat 4 n) (if gi = 0 then 0 else gi + BitVec.ofNat 4 n) (advG n gb) ty
  | .vext vd gi gb ty => .vext (vd + BitVec.ofNat 4 n) (if gi = 0 then 0 else gi + BitVec.ofNat 4 n) (advG n gb) ty
  | .vmpop gb va ty => .vmpop (advG n gb) (va + BitVec.ofNat 4 n) ty
  | .vscl vd va gb ty => .vscl (vd + BitVec.ofNat 4 n) (va + BitVec.ofNat 4 n) (advG n gb) ty
  | .vqe8 vd va gb ty => .vqe8 (vd + BitVec.ofNat 4 n) (va + BitVec.ofNat 4 n) (advG n gb) ty
  | .vde8 vd va gb ty => .vde8 (vd + BitVec.ofNat 4 n) (va + BitVec.ofNat 4 n) (advG n gb) ty
  | .vfix vd va gb ty => .vfix (vd + BitVec.ofNat 4 n) (va + BitVec.ofNat 4 n) (advG n gb) ty
  | .vunfix vd va gb ty => .vunfix (vd + BitVec.ofNat 4 n) (va + BitVec.ofNat 4 n) (advG n gb) ty
  | .vmaxe gb va ty => .vmaxe (advG n gb) (va + BitVec.ofNat 4 n) ty
  | .vex vd va vb gd gs ty => .vex (vd + BitVec.ofNat 4 n) (va + BitVec.ofNat 4 n) (vb + BitVec.ofNat 4 n) (advG n gd) (advG n gs) ty
  | i => i

end Sys2Proof.Machine
end

