-- ==== Sys2Proof/Machine/Requests.lean ====
section
/-! DEFINITION. Machine.Requests: what becomes of a request: translation at the edge station, performance at the home station or at a
target core, replicas, read copies, invalidation, and the completion at the issuer (R110, R120-R136, R185-R196, R322). -/

namespace Sys2Proof.Machine

/-! ## Operations by identity -/

/-- An event about an operation; it does not occur where there is no such operation. -/
def State.onOp (s : State) (k : Nat) (name : String) (f : Op → Out) : Out :=
  match s.ops.find? (fun o => o.id == k) with
  | none => .refused (.notEnabled name)
  | some o => f o
/-- The operation ends. -/
def State.dropOp (s : State) (k : Nat) : State := { s with ops := s.ops.filter (fun (p : Op) => p.id != k) }
/-- An answer that is a fault with a cause word and an address. -/
def faultAns (cause : Nat) (a : Word) : Answer := .fault (BitVec.ofNat 64 cause) a 0 0
/-- The effective values under which a request is translated: those of its region, or of its issuer's slice (R123). -/
def State.effFor (s : State) (i : Issuer) : Eff :=
  match s.regions.find? (fun g => g.id == i.rgn && g.uid == i.uid) with
  | some g => g.eff
  | none => let x := s.sliceAt i.core i.slc
    if x.rgn = i.rgn ∧ x.uid = i.uid then x.eff else ((s.past.find? (fun g => g.id == i.rgn && g.uid == i.uid)).map (·.eff)).getD Eff.zero

/-! ## Performing an access at its bytes (R120, R135, R136, R194) -/

/-- An access at a key: the machine after it, and its answer. -/
def State.perform (s : State) (key : Nat) (a : Access) : State × Answer :=
  let bad (g : Nat) : Answer := faultAns 11 (a.addr + BitVec.ofNat 64 g - BitVec.ofNat 64 key)
  match a.kind.toNat with
  | 0 =>
    (match if a.size = 512 then maskPoison s.pois a.mask.toNat key else firstPoison s.pois key a.size with
     | some g => (s, bad g)
     | none => (s, .done (BitVec.ofNat 4096 (s.peek key a.size)) 0))
  | 1 =>
    (s.performStore key a, .done 0 0)
  | _ =>
    match firstPoison s.pois key a.size with
    | some g => (s, bad g)
    | none =>
      let old := s.peek key a.size
      let ans : Answer := .done (BitVec.ofNat 4096 old) 0
      if a.aop = 10 then
        (if old = a.cmp.toNat % 2 ^ (8 * a.size) then (s.putGood key a.size (a.data.toNat % 2 ^ (8 * a.size)), ans) else (s, ans))
      else (s.putGood key a.size (amoNew a.aop.toNat a.size old a.data.toNat), ans)

/-! ## Translation (R123-R130) -/

/-- The edge station of a core: its slab, and its local column div 8 (R35). -/
def coreStation (co : CoreId) : Nat × Nat := (slabOf co, co.toNat % 128 / 8)
/-- The access kind of R127. -/
def accOf (a : Access) : Nat := a.kind.toNat
/-- The translation a station holds for a page, where it uses one. For a store-kind access it walks again where DT is clear in a leaf (R128). -/
def State.cached (s : State) (st : Nat × Nat) (e : Eff) (va acc : Nat) : Option CachedTr :=
  if Config.useCached s.draws then
    s.tlb.find? (fun t => t.slab.toNat == st.1 && t.station.toNat == st.2 && t.pasid == e.pasid && t.s2f == e.s2f && t.page == va / 65536 &&
      (!storeKind acc || (t.bits1.getLsbD 11 && t.bits2.getLsbD 11)))
  else none
/-- What a station finds for an address: by a cached translation, or by a walk, with the permissions of the access checked (R127, R387); AC and DT are
set in a leaf in peer HBM that is in reach (R23, R47, R128). -/
def State.translate (s : State) (st : Nat × Nat) (e : Eff) (va acc : Nat) : Walk Walked :=
  match s.cached st e va acc with
  | some t =>
    let ap := fld t.bits2.toNat 7 6
    if s.keyOut t.leaf1 then .bad (refusalCause 4)
    else if !((needs acc ap).all (fun i => t.bits2.getLsbD i)) || (ap == 0 && t.bits2.getLsbD 9 && acc == 2) then
      .bad (walkCause 9 1 (if t.big2 then 1 else 2) 0 acc none)
    else if !((needs acc ap).all (fun i => t.bits1.getLsbD i)) then .bad (walkCause 9 0 (if t.big1 then 1 else 2) 0 acc none)
    else .ok { leaf1 := t.leaf1, leaf2 := t.leaf2, bits1 := t.bits1, bits2 := t.bits2, phys := t.phys + va % 65536, big1 := t.big1, big2 := t.big2 }
  | none => walk s e.pasid.toNat e.s2f.toNat va acc
/-- The station caches what a walk for an access found, with the bits that the access has set (R128, R129). -/
def State.cache (s : State) (st : Nat × Nat) (e : Eff) (rgn : BitVec 12) (va : Nat) (w : Walked) (acc : Nat) : State :=
  let m : Word := if storeKind acc then 3072 else 1024
  let t : CachedTr := { slab := BitVec.ofNat 6 st.1, station := BitVec.ofNat 4 st.2, pasid := e.pasid, s2f := e.s2f, rgn := rgn,
                        page := va / 65536, phys := w.phys - va % 65536, big1 := w.big1, big2 := w.big2, leaf1 := w.leaf1, leaf2 := w.leaf2,
                        bits1 := w.bits1 ||| m, bits2 := w.bits2 ||| m }
  { s with tlb := t :: s.tlb.filter (fun u => !(u.slab == t.slab && u.station == t.station && u.pasid == t.pasid && u.s2f == t.s2f && u.page == t.page)) }
/-- A translated request leaves the module by the path-table route from a station's router: the subcode of its refusal, the router at which it is
discarded, or none where it leaves by an off-module port (R32, R35, R36, R47). -/
def State.leavesBy (s : State) (st : Nat × Nat) (p : Packet) : Nat ⊕ Option (Nat × Nat) :=
  let pos := stationPos st.1 st.2
  if !s.reachable p.dmod then .inl 4
  else
    match s.routeFrom pos.1 pos.2 p with
    | .inr sub => .inl sub
    | .inl q =>
      match follow q.segs pos.1 pos.2 with
      | .ends row col port => .inr (if port = 6 ∧ (portAtPos row col).isSome then none else some (row, col))
      | .lost row col => .inr (some (row, col))
/-- The header of a translated request to a station of another module, or to a host node (R30, R130). -/
def State.homePacket (s : State) (kind : Nat) (host : Bool) (m : BitVec 12) (phys : Nat) : Packet :=
  { hdr := if host then mkHdr kind 0 4 s.modId (m.setWidth 20) (s.ctrlStamp 0) 0 0
      else mkHdr kind 0 1 m (BitVec.ofNat 20 (homeSlab phys * 16384 + homeStation phys)) (s.ctrlStamp 0) 0 0, body := 0, pois := 0 }
/-- A request leaves its translating station for another module or a host node; `a` is the address that a refusal names. -/
def State.goesAway (s : State) (o : Op) (st : Nat × Nat) (p : Packet) (host : Bool) (a : Word) : State :=
  match s.leavesBy st p with
  | .inl sub => s.toStage o (.reply (faultAns (refusalCause sub) a))
  | .inr none => s.toStage o (.away host)
  | .inr (some p) => (s.toStage o .lost).bump (p.1 / 128 * 8 + p.2 / 128) 2
/-- The translating station of a global request: its access table, the window, then translation, and the request goes on to the home
station, to a replica, or to a unit outside the module (R123, R129-R131, R190). -/
def State.stationTakes (s : State) (o : Op) (a : Access) : State :=
  let st := coreStation o.iss.core
  let va := a.addr.toNat % 2 ^ 57
  let e := s.effFor o.iss
  let back (s : State) (x : Answer) : State := s.toStage o (.reply x)
  match s.stationRefusal st.1 st.2 o.iss.rgn o.smod o.host a.kind.toNat with
  | some sub => back s (faultAns (refusalCause sub) a.addr)
  | none =>
    if atWindow va then back s (faultAns (walkCause 9 0 0 0 (accOf a) none) a.addr)
    else if inWindow va then back s (faultAns (walkCause 8 0 0 0 (accOf a) none) a.addr)
    else
      match s.translate st e va (accOf a) with
      | .bad c => back s.draw (faultAns c a.addr)
      | .ok w =>
        let t := ((s.draw.setAcDt w (accOf a)).cache st e o.iss.rgn va w (accOf a))
        let ap := BitVec.ofNat 2 (fld w.bits2.toNat 7 6)
        let m := BitVec.ofNat 12 (fld w.bits2.toNat 23 12)
        let mc := w.bits2.getLsbD 8
        let rp := w.bits2.getLsbD 9 && ap == 0
        let store := storeKind (accOf a)
        if ap = 1 ∨ ap = 2 then t.goesAway { o with mc0 := store && !mc } st (s.homePacket a.kind.toNat (ap == 2) m w.phys) (ap == 2) a.addr
        else if rp && !store then
          t.toStage o (.home (hbmKey t.modId (replicaOf w.phys st.1)) true true ap m)
        else
          let key := hbmKey t.modId w.phys
          let far := !mc && !rp && homeSlab w.phys != st.1
          if far && a.kind == 0 then
            (match t.fromCopies st key a.size with
             | some v => back t.draw (.done (BitVec.ofNat 4096 v) 0)
             | none => t.draw.toStage o (.home key mc rp ap m))
          else (if store then t.dropCopies st.1 key a.size else t).toStage { o with mc0 := store && !mc } (.home key mc rp ap m)
def execGlobalRequestTranslation (k : Nat) (s : State) : Out :=
  s.onOp k "GLOBAL_REQUEST_TRANSLATION" fun o =>
    match o.req, o.stage with
    | .mem a, .flight => if isGlobal a.addr then .next (s.stationTakes o a) else .refused (.notEnabled "GLOBAL_REQUEST_TRANSLATION")
    | _, _ => .refused (.notEnabled "GLOBAL_REQUEST_TRANSLATION")

/-! ## The home station (R131, R133, R185, R190, R322) -/

/-- The home station's access table. -/
def State.homeRefusal (s : State) (o : Op) (key : Nat) (kind : Nat) : Option Nat :=
  s.stationRefusal (homeSlab (s.physOf key)) (homeStation (s.physOf key)) o.iss.rgn o.smod o.host kind
/-- The home station performs a request, on a replicated page a load. -/
def State.homeTakes (s : State) (o : Op) (a : Access) (key : Nat) (mc : Bool) : State :=
  match s.homeRefusal o key a.kind.toNat with
  | some sub => s.toStage o (.reply (faultAns (refusalCause sub) a.addr))
  | none =>
    let st := coreStation o.iss.core
    let r := s.perform (s.real key) a
    let t := r.1
    let u :=
      if a.kind = 0 then (if !mc && homeSlab (s.physOf key) != st.1 then t.keepCopies st key a.size else t)
      else if mc then t else t.dropCopies st.1 key a.size
    u.toStage o (.reply r.2)
def execHomeRequest (k : Nat) (s : State) : Out :=
  s.onOp k "HOME_REQUEST" fun o =>
    match o.req, o.stage with
    | .mem a, .home key mc rp _ _ =>
      if rp && storeKind (accOf a) then .refused (.notEnabled "HOME_REQUEST") else .next (s.homeTakes o a key mc)
    | _, _ => .refused (.notEnabled "HOME_REQUEST")
/-- A replicated store: first at its primary, then at one more replica with each event; it completes after the last (R131). -/
def execReplicaStore (k : Nat) (s : State) : Out :=
  s.onOp k "REPLICA_STORE" fun o =>
    match o.req, o.stage with
    | .mem a, .home key _ rp _ _ =>
      if !(rp && storeKind (accOf a)) then .refused (.notEnabled "REPLICA_STORE")
      else
        (match s.homeRefusal o key a.kind.toNat with
         | some sub => .next (s.toStage o (.reply (faultAns (refusalCause sub) a.addr)))
         | none => .next ((s.perform (s.real key) a).1.toStage o (.replicas key 39 s.draws s.pace.toNat)))
    | .mem a, .replicas key left seq tick =>
      let t := s.atReplica key ((otherSlabs k (homeSlab (s.physOf key))).getD (left - 1) 0) a
      .next (t.toStage o (if left ≤ 1 then .reply (.done 0 0) else .replicas key (left - 1) seq tick))
    | _, _ => .refused (.notEnabled "REPLICA_STORE")
/-! ## Invalidation (R129) -/

/-- The 8-byte store to the station window drops the covered translations of every station: stage-1 entries of a PASID, entries derived through the
stage 2 of a region, or all. -/
def State.invalidate (s : State) (v : Nat) : State :=
  let kind := fld v 63 62
  let root := (s.regions.find? (fun g => g.id.toNat == fld v 31 20)).map (·.eff.s2f)
  { s with tlb := s.tlb.filter (fun t =>
      !(kind == 2 || (kind == 0 && t.pasid.toNat == fld v 19 0) || (kind == 1 && (t.rgn.toNat == fld v 31 20 || root == some t.s2f)))) }
/-- Has every translated request of the module been performed at its home? -/
def State.homesQuiet (s : State) : Bool := !s.ops.any (fun o => match o.stage with
  | .home .. => true
  | .replicas .. => true
  | .away _ => (match o.req with
    | .mem a => isGlobal a.addr
    | _ => false)
  | _ => false)
/-- An invalidation: the entries are dropped, and the store completes once every request translated with them has been performed. -/
def execTranslationInvalidation (k : Nat) (s : State) : Out :=
  s.onOp k "TRANSLATION_INVALIDATION" fun o =>
    match o.req, o.stage with
    | .mem a, .flight =>
      let st := coreStation o.iss.core
      if a.addr ≠ stationWord ∨ o.kind ≠ 2 ∨ a.size ≠ 8 then .refused (.notEnabled "TRANSLATION_INVALIDATION")
      else
        (match s.stationRefusal st.1 st.2 o.iss.rgn o.smod o.host 1 with
         | some sub => .next (s.toStage o (.reply (faultAns (refusalCause sub) a.addr)))
         | none =>
           let v := a.data.toNat % 2 ^ 64
           if fld v 63 62 = 3 then .next (s.toStage o (.reply (faultAns (refusalCause 8) a.addr)))
           else .next ((s.invalidate v).toStage o (if s.homesQuiet then .reply (.done 0 0) else .flight)))
    | _, _ => .refused (.notEnabled "TRANSLATION_INVALIDATION")

/-! ## Core space (R46, R110, R117) -/

/-- The slice of a core whose partition holds n bytes at a core-space offset, resident and of a region that an entry matches (R110). -/
def State.spaceSlice (s : State) (co : CoreId) (off n : Nat) (e : BitVec 64) : Option Slice :=
  let rm := BitVec.ofNat 12 (fld e.toNat 50 39)
  ((List.finRange 16).map (fun i => s.sliceAt co i)).find? (fun x => x.resident && (x.rgn &&& rm) == (BitVec.ofNat 12 (fld e.toNat 62 51) &&& rm) &&
    (if off < 393216 then x.inPart off n
     else decide (393216 + x.ib.toNat * 4096 ≤ off) && decide (off + n ≤ 393216 + x.ib.toNat * 4096 + x.eff.iskb.toNat * 1024)))
/-- Is a request one of a slab controller of the module, which no partition binds (R110)? -/
def State.fromController (s : State) (o : Op) : Bool := o.smod == s.modId && !o.host && o.iss.rgn == 0 && o.iss.core.toNat % 16384 == 0 && o.foreign
/-- Do n bytes at an offset touch the instruction-store partition of a slice that has taken its start message (R117)? -/
def State.startedCode (s : State) (co : CoreId) (off n : Nat) : Bool :=
  ((List.finRange 16).map (fun i => s.sliceAt co i)).any (fun x => x.resident && x.started &&
    decide (off < 393216 + x.ib.toNat * 4096 + x.eff.iskb.toNat * 1024) && decide (393216 + x.ib.toNat * 4096 < off + n))
/-- The subcode with which a target core refuses a request, none where it performs it. An instruction store takes stores alone (R117). -/
def State.spaceRefusal (s : State) (o : Op) (a : Access) : Option Nat :=
  let co := spaceCore a.addr
  let off := fld a.addr.toNat 18 0
  let code := decide (393216 ≤ off ∧ off < 458752)
  match deciding (s.coreTable co) o.iss.rgn o.smod o.host with
  | none => some 0
  | some e =>
    if !e.getLsbD (if a.kind = 1 ∧ code then 7 else accBit a.kind.toNat) then some 2
    else if 458752 ≤ off ∨ code = true ∧ a.kind = 2 then some 3
    else if s.fromController o then (if code && a.kind == 1 && s.startedCode co off a.size then some 9 else none)
    else
      match s.spaceSlice co off a.size e with
      | none => some 3
      | some x => if code && a.kind == 1 && x.started then some 9 else none
def execCoreSpaceRequest (k : Nat) (s : State) : Out :=
  s.onOp k "CORE_SPACE_REQUEST" fun o =>
    match o.req, o.stage with
    | .mem a, .flight =>
      if !isCoreSpace a.addr || spaceMod a.addr != s.modId then .refused (.notEnabled "CORE_SPACE_REQUEST")
      else
        (match s.spaceRefusal o a with
         | some sub => .next (s.toStage o (.reply (faultAns (refusalCause sub) a.addr)))
         | none =>
           let r := s.perform (coreKey (spaceCore a.addr) (fld a.addr.toNat 18 0)) a
           .next (r.1.toStage o (.reply r.2)))
    | _, _ => .refused (.notEnabled "CORE_SPACE_REQUEST")

/-! ## Pumps (R179) -/

/-- The pump with an identity. -/
def State.pumpAt (s : State) (u : PumpId) : Pump := (s.pumps.find? (fun p => p.id == u)).getD { id := u, queue := [], mc0 := none }
def State.putPump (s : State) (p : Pump) : State := { s with pumps := p :: s.pumps.filter (fun q => q.id != p.id) }
/-- The answer to a request of a pump reaches the job that waits for it; that of a store to a page with MC = 0 is remembered (R193). -/
def State.jobAnswer (s : State) (u : PumpId) (o : Op) (x : Answer) : State :=
  let p := s.pumpAt u
  let k := o.id
  s.putPump { p with mc0 := if o.mc0 then some s.pace else p.mc0, queue := p.queue.map (fun (j : Job) => if j.asked == some k then { j with ans := some x } else j) }

/-! ## Completion (R116, R190, R215, R318, R322) -/

/-- The value word of a completed split-phase access (R320). -/
def opValue (o : Op) (a : Access) (d : BitVec 4096) : Word :=
  match o.kind.toNat with
  | 1 => zextN a.size d.toNat
  | 5 => amoOld a.aop.toNat a.size d.toNat
  | 6 => amoOld 10 a.size d.toNat
  | _ => 0
/-- Change the context that issued an operation, where its slice is still there. -/
def State.onIssuer (s : State) (i : Issuer) (f : Ctx → Ctx) : State :=
  if s.issuerThere i then s.modSlice i.core i.slc (fun x => x.modCtx i.ctx f) else s
/-- The body, the payload flits and the operation field of the answer to a request of another module or a host node: data of n bytes, or the record
of a fault (R29; log entry 20). -/
def answerBody (n : Nat) (x : Answer) : BitVec 4096 × Nat × Nat :=
  match x with
  | .done d _ => (d, (n + 31) / 32, 0)
  | .fault c a d0 d1 => (BitVec.ofNat 4096 (c.toNat + a.toNat * 2 ^ 64 + d0.toNat * 2 ^ 128 + d1.toNat * 2 ^ 192), 1, 1)
/-- A response goes back to where a request came from, by the source's module and id, with its tag and the stamp of the unit that answers (R30,
R35). DESIGN CHOICE (log entry 92): the requester of another module is taken for a core, DCLS 0. -/
def State.respond (s : State) (o : Op) (n : Nat) (x : Answer) : State :=
  match o.origin with
  | none => s
  | some g =>
    let st : Stamp := { smod := s.modId, score := g.unit, srgn := 0, sslc := 0, gang := 0 }
    let b := answerBody n x
    let bad : BitVec 64 := match x with
      | .done _ p => p
      | _ => 0
    s.sendFrom g.row g.col g.inp
      { hdr := if o.host then mkHdr 5 b.2.1 4 s.modId (o.smod.setWidth 20) st g.tag.toNat b.2.2
          else mkHdr 5 b.2.1 0 o.smod o.iss.core st g.tag.toNat b.2.2, body := b.1, pois := bad }
/-- The acknowledgement of a store to a page with MC = 0 counts for its context and for every later operation of it (R193, R203). -/
def State.acknowledge (s : State) (o : Op) : State :=
  if !o.mc0 then s
  else
    let t := s.onIssuer o.iss (fun c => { c with mc0 := some s.pace })
    { t with ops := t.ops.map (fun (p : Op) => if o.id < p.id ∧ p.issuedBy o.iss.core o.iss.slc o.iss.ctx ∧ p.iss.uid = o.iss.uid
        then { p with after := some s.pace } else p) }
/-- The answer to an access reaches its issuer: a stack-window access takes it, a split-phase access writes its data and its slot; the
answer to a request of another module leaves. -/
def State.accessEnds (s : State) (o : Op) (a : Access) (x : Answer) : State :=
  let t := s.dropOp o.id
  if o.foreign then t.respond o (if a.kind = 1 then 0 else a.size) x
  else
    match o.pump with
    | some u => t.jobAnswer u o x
    | none =>
    let u := t.acknowledge o
    if o.kind = 0 then
      u.onIssuer o.iss (fun c => match c.spill with
        | some p => if p.op = o.id then { c with spill := some { p with answer := some x } } else c
        | none => c)
    else
      match x with
      | .fault c ad d0 d1 => u.opFault o { cause := c, addr := ad, d0 := d0, d1 := d1 }
      | .done d p =>
        if u.issuerThere o.iss then
          (let v := if o.kind = 3 then u.put (coreKey o.iss.core o.dst.toNat) 512 d.toNat p.toNat else u
           v.slotDone o.iss.core o.slot o.kind (opValue o a d))
        else u
/-- What a host node answers: its data, or a refusal, which is 0x0A with subcode 7 whatever the reason (R130, R390). -/
def hostAnswer (a : Access) (x : Answer) : Answer :=
  match x with
  | .done d p => .done d p
  | .fault .. => faultAns (refusalCause 7) a.addr
def execSplitPhaseCompletion (k : Nat) (ext : Answer) (s : State) : Out :=
  s.onOp k "SPLIT_PHASE_COMPLETION" fun o =>
    match o.req, o.stage with
    | .mem a, .reply x => .next (s.accessEnds o a x)
    | .mem a, .away false => .next (s.accessEnds o a ext)
    | .mem a, .away true => .next (s.accessEnds o a (hostAnswer a ext))
    | .post .., .away _ => .next (s.dropOp o.id)
    | _, _ => .refused (.notEnabled "SPLIT_PHASE_COMPLETION")

/-! ## Kick words (R179) -/

/-- The kick reaches its pump: a job enters the queue, or the kick waits while the queue is full. -/
def execKickWordStore (k : Nat) (s : State) : Out :=
  s.onOp k "KICK_WORD_STORE" fun o =>
    match o.req with
    | .kick u v =>
      let p := s.pumpAt u
      if 8 ≤ p.queue.length then .next (s.toStage o o.stage)
      else
        let j : Job := { iss := o.iss, off := BitVec.ofNat 64 (fld v.toNat 20 0), chan := BitVec.ofNat 4 (fld v.toNat 27 24), desc := none,
                         count := 0, asked := none, ans := none, outcome := none, half := false, due := s.dueTime }
        .next ((s.putPump { p with queue := p.queue ++ [j] }).draw.dropOp o.id)
    | _ => .refused (.notEnabled "KICK_WORD_STORE")

end Sys2Proof.Machine
end

