-- ==== Sys2Proof/Machine/Fabric.lean ====
section
/-! DEFINITION. Machine.Fabric: packets in the routers: the open plane with its buffers, credits and grants, the scheduled plane, multicast, ingress,
links (R28-R49), and the arrival of messages, start messages and scheduled transfers at a core (R117, R326, R329). -/

namespace Sys2Proof.Machine

/-! ## Flights -/

/-- An event about a packet in the fabric. -/
def State.onFlight (s : State) (k : Nat) (name : String) (f : Flight → Out) : Out :=
  match s.fab.flights.find? (fun x => x.id == k) with
  | none => .refused (.notEnabled name)
  | some x => f x
/-- Is it on the scheduled plane (R30)? -/
def Flight.sched (x : Flight) : Bool := x.pkt.kind == 4
/-- The packet is gone. -/
def State.dropFlight (s : State) (k : Nat) : State :=
  { s with fab := { s.fab with flights := s.fab.flights.filter (fun x => x.id != k) } }
/-- The packet as it is now: behind every packet that has come earlier to where it is. -/
def State.putFlight (s : State) (y : Flight) : State :=
  { s with fab := { s.fab with flights := s.fab.flights.filter (fun x => x.id != y.id) ++ [y] } }
/-- The packet as it is now, in its place. -/
def State.keepFlight (s : State) (y : Flight) : State :=
  { s with fab := { s.fab with flights := s.fab.flights.map (fun x => if x.id == y.id then y else x) } }
/-- Slab of a grid position. -/
def slabAt (row col : Nat) : Nat := row / 128 * 8 + col / 128
/-- A scheduled packet that goes no further: its flits behind it use their outputs to the end (R37); an open one is gone. -/
def State.ghost (s : State) (x : Flight) : State :=
  if x.sched then s.keepFlight { x with arrived := some 9, due := x.track.foldl (fun t g => max t g.last) s.time } else s.dropFlight x.id
/-- A packet is discarded at a router, counted as a misroute (R32). -/
def State.misroute (s : State) (x : Flight) : State := (s.ghost x).bump (slabAt x.row x.col) 2
/-- The neighbour in a direction, and the input on which a packet arrives there (R31, R38). -/
def neighbour (row col dir : Nat) : Option (Nat × Nat × Nat) :=
  match dir with
  | 0 => if row = 0 then none else some (row - 1, col, 2)
  | 1 => if 1024 ≤ col + 1 then none else some (row, col + 1, 3)
  | 2 => if 640 ≤ row + 1 then none else some (row + 1, col, 0)
  | _ => if col = 0 then none else some (row, col - 1, 1)
/-- Fabric cycles of a scheduled hop: 2 within a slab, 4 across a slab edge (R37). -/
def hopCycles (row col row2 col2 : Nat) : Nat := if slabAt row col = slabAt row2 col2 then 2 else 4
/-- An open-plane packet whose head comes to a router at which it is multicast latches the entry of its group there; one that is a copy is multicast at
every router (R43). -/
def State.latch (s : State) (x : Flight) : Flight :=
  if x.sched then x
  else if x.latched.isSome then { x with latched := some (s.groupAt x.row x.col x.pkt) }
  else { x with latched := s.latchAt x.row x.col x.pkt }
/-- Does a unit of a class attach where a packet is to be delivered (R33)? -/
def unitHere (x : Flight) : Bool :=
  match stationAtPos x.row x.col with
  | none => false
  | some e =>
    let slab := slabAt x.row x.col
    let u := x.pkt.did.toNat % 256
    x.pkt.did.toNat / 16384 == slab && (match x.pkt.dcls with
      | 1 => u == e
      | 2 => u / 4 == e
      | 3 => e == 0 && u == 0
      | _ => false)
/-- The entry by which a router multicasts a packet: on the open plane the one latched when its head came, on the scheduled plane that of the cycle in
which it comes, which is the present one. -/
def State.groupEntry (s : State) (x : Flight) : BitVec 8 := if x.sched then s.groupAt x.row x.col x.pkt else x.latched.getD (s.groupAt x.row x.col x.pkt)
/-- Does a router have an output: a neighbour, its core, an attached unit (R33)? -/
def hasOutput (row col k : Nat) : Bool := if k < 4 then (neighbour row col k).isSome else k == 4 || (stationAtPos row col).isSome
/-- The ports that the copies of a packet are for: those of the entry but the one that the packet came in by (R43). -/
def State.outPorts (s : State) (x : Flight) : List Nat := (List.range 6).filter (fun k => (s.groupEntry x).getLsbD k && k != x.inp)
/-- Those of them by which copies leave: a copy that has still one to leave by, by that. -/
def State.copyPorts (s : State) (x : Flight) : List Nat :=
  match x.only with
  | some k => [k]
  | none => (s.outPorts x).filter (hasOutput x.row x.col)
/-- Does a router multicast a packet at its present segment, which is terminal (R32)? -/
def Flight.copied (x : Flight) : Bool := x.latched.isSome || (x.pkt.mc && x.pkt.segn == 1 && x.pkt.seg0 == 7 * 1024)
/-- The outputs that a packet needs at its router: none where it is discarded there (R32, R43). -/
def State.wants (s : State) (x : Flight) : List Nat :=
  let p := x.pkt
  let port := p.seg0 / 1024
  if x.copied then (if (s.groupEntry x).getLsbD 7 then s.copyPorts x else [])
  else if p.segn = 0 then []
  else if port < 4 then (if p.seg0 % 1024 = 0 ∨ (neighbour x.row x.col port).isNone = true then [] else [port])
  else if p.seg0 % 1024 ≠ 0 ∨ p.segn ≠ 1 then []
  else
    match port with
    | 4 => if p.dcls = 0 ∧ p.did = coreAtPos x.row x.col then [4] else []
    | 5 => if unitHere x then [5] else []
    | 6 => if (portAtPos x.row x.col).isSome then [6] else []
    | _ => []

/-! ## Buffers, credits and grants of the open plane (R40, R41) -/

/-- The channel of an open-plane packet: 1 for responses, 0 for every other kind. -/
def Flight.chan (x : Flight) : Nat := if x.pkt.kind = 5 then 1 else 0
/-- Is a packet's head in a router's buffer: it has not arrived, or it is being copied there? -/
def Flight.buffered (x : Flight) : Bool := x.arrived.isNone || x.arrived == some 7
/-- Flits of a packet in the buffer of an input. -/
def Flight.flitsIn (x : Flight) (row col inp : Nat) : Nat :=
  (if x.buffered && x.row == row && x.col == col && x.inp == inp then x.here else 0) +
    x.worm.foldl (fun n g => if g.row = row ∧ g.col = col ∧ g.inp = inp then n + g.n else n) 0
/-- Has the buffer of an input and channel a free flit slot of its 8? -/
def State.room (s : State) (chan row col inp : Nat) : Bool :=
  decide (s.fab.flights.foldl (fun n x => if !x.sched && x.chan == chan then n + x.flitsIn row col inp else n) 0 < 8)
/-- Do flits of the packet still have to follow its head through its router's input? -/
def Flight.whole (x : Flight) : Bool := x.worm.isEmpty && x.unsent == 0
/-- Does a packet of the open plane stand behind another in one buffer: same router, input and channel, or same port? -/
def State.behind (s : State) (x : Flight) : Bool :=
  !x.sched &&
    ((s.fab.flights.takeWhile (fun z => z.id != x.id)).any (fun z =>
      !z.sched && z.row == x.row && z.col == x.col && z.arrived == x.arrived && (x.arrived.isSome || z.inp == x.inp) && z.chan == x.chan) ||
     (x.arrived.isNone && s.fab.flights.any (fun z =>
      z.id != x.id && !z.sched && z.chan == x.chan && (z.worm.any (fun g => g.row == x.row && g.col == x.col && g.inp == x.inp) ||
        (z.arrived == some 7 && z.row == x.row && z.col == x.col && z.inp == x.inp)))))
/-- Free slots of the router beyond an off-module port, for a channel. -/
def State.portCredits (s : State) (row col chan : Nat) : Nat :=
  match portAtPos row col with
  | none => 0
  | some p => (s.fab.credits.get (2 * p + chan)).toNat
/-- May a flit of a channel leave a router by an output: the next buffer has a slot for it, or what stands there takes it? -/
def State.takesFlit (s : State) (row col out chan : Nat) : Bool :=
  if out < 4 then
    (match neighbour row col out with
     | none => false
     | some n => s.room chan n.1 n.2.1 n.2.2)
  else out != 6 || decide (0 < s.portCredits row col chan)
/-- Is an output of a router held, on a channel, by a packet whose flits are still passing? -/
def State.outputHeld (s : State) (row col out chan : Nat) : Bool :=
  s.fab.flights.any (fun z => !z.sched && z.chan == chan && (z.worm.any (fun g => g.row == row && g.col == col && g.out == out) ||
    (z.arrived == some 7 && z.row == row && z.col == col && (z.latched.getD 0).getLsbD out)))
/-- Is the head of an open-plane packet ready for an output? -/
def State.headReady (s : State) (x : Flight) (out : Nat) : Bool :=
  !x.sched && x.arrived.isNone && decide (x.due ≤ s.time) && decide (0 < x.here) && !s.behind x && (s.wants x).contains out &&
    !s.outputHeld x.row x.col out x.chan && s.takesFlit x.row x.col out x.chan
/-- Is a response flit ready for an output of a router? -/
def State.responseReady (s : State) (row col out : Nat) : Bool :=
  s.fab.flights.any (fun z => z.row == row && z.col == col && z.chan == 1 && s.headReady z out) ||
    (s.takesFlit row col out 1 && s.fab.flights.any (fun z => !z.sched && z.chan == 1 &&
      z.worm.any (fun g => g.row == row && g.col == col && g.out == out && decide (0 < g.n))))
/-- Key of the grant of an output on a channel. -/
def grantKey (row col out chan : Nat) : Nat := ((row * 1024 + col) * 8 + out) * 2 + chan
/-- Distance of an input from the one last granted, in the round robin. -/
def State.turnOf (s : State) (row col out chan inp : Nat) : Nat := (inp + 8 - (s.fab.grants.get (grantKey row col out chan)).toNat) % 8
/-- Is an output granted to the head of a packet in this cycle: an odd one in which it has carried no flit, no response flit is ready where this is
none, and no other head of the channel comes before it in the round robin? -/
def State.granted (s : State) (x : Flight) (out : Nat) : Bool :=
  s.fcyc % 2 == 1 && s.headReady x out && !s.fab.used.contains (x.row, x.col, out) && (x.chan == 1 || !s.responseReady x.row x.col out) &&
    !s.fab.flights.any (fun z => z.id != x.id && z.row == x.row && z.col == x.col && z.chan == x.chan && s.headReady z out &&
      decide (s.turnOf x.row x.col out x.chan z.inp < s.turnOf x.row x.col out x.chan x.inp))
/-- May the head of a packet go on, or is the packet to be discarded where it is? The copies of a multicast packet move together. -/
def State.mayMove (s : State) (x : Flight) : Bool :=
  if x.sched then true else decide (0 < x.here) && (s.wants x).all (fun k => s.granted x k)
/-- An output carries a flit of a packet in this cycle; one that leaves the module takes a credit. -/
def State.carries (s : State) (row col out chan : Nat) : State :=
  let t := { s with fab := { s.fab with used := (row, col, out) :: s.fab.used } }
  match (if out = 6 then portAtPos row col else none) with
  | none => t
  | some p => { t with fab := { t.fab with credits := t.fab.credits.set (2 * p + chan) (t.fab.credits.get (2 * p + chan) - 1) } }
/-- An output is granted to a head. -/
def State.grant (s : State) (x : Flight) (out : Nat) : State :=
  let t := s.carries x.row x.col out x.chan
  { t with fab := { t.fab with grants := t.fab.grants.set (grantKey x.row x.col out x.chan) (BitVec.ofNat 4 (x.inp + 1)) } }
/-- The buffers behind the head once it has left its router by an output. -/
def Flight.trail (x : Flight) (out : Nat) : List Seat :=
  if x.here ≤ 1 ∧ x.worm.isEmpty = true ∧ x.unsent = 0 then [] else { row := x.row, col := x.col, inp := x.inp, out := out, n := x.here - 1 } :: x.worm

/-! ## Outputs of the scheduled plane (R37, R38, R48) -/

/-- Do two uses of an output collide (R38)? -/
def Hop.meets (h g : Hop) : Bool :=
  h.row == g.row && h.col == g.col && h.out == g.out && decide (h.first ≤ g.last) && decide (g.first ≤ h.last)
/-- A scheduled packet takes an output: where another's flits need it in the same cycles, the one from the lower-numbered input goes on and the
other is discarded (R38; log entry 19); where one of them is late by a resent flit, the packet is delayed by 2 cycles instead (R48). The packet, if it
goes on, with the use noted. -/
def State.takeSched (s : State) (x : Flight) (out : Nat) : State × Option Flight :=
  let h : Hop := { row := x.row, col := x.col, out := out, inp := x.inp, first := x.due, last := x.due + 2 * (x.pkt.len + x.slips.length) }
  let y := { x with track := h :: x.track.filter (fun g => decide (s.time ≤ g.last)) }
  let rivals := s.fab.flights.filter (fun z => z.id != x.id && z.track.any (fun g => g.meets h))
  if rivals.isEmpty then (s, some y)
  else if x.late || rivals.any (fun z => z.late) then (s.putFlight { x with due := x.due + 2, late := true }, none)
  else
    let t := s.bump (slabAt x.row x.col) 3
    if rivals.any (fun z => z.track.any (fun g => g.meets h && decide (g.inp ≤ h.inp))) then (t.ghost x, none)
    else (rivals.foldl (fun t z => t.ghost z) t, some y)
/-- A packet takes an output: on the open plane it has been granted, and its flits follow. -/
def State.takeOutput (s : State) (x : Flight) (out : Nat) : State × Option Flight :=
  if x.sched then s.takeSched x out else (s.grant x out, some { x with here := 1, worm := x.trail out })
/-- When a packet that goes on may move again: after its fixed time on the scheduled plane, after a free time on the open plane. -/
def State.nextDue (s : State) (x : Flight) (cycles : Nat) : Nat := if x.sched then x.due + cycles else s.dueTime

/-! ## A router's work (R32, R43) -/

/-- The packet moves one hop in a direction. -/
def State.hopTo (s : State) (x : Flight) (dir : Nat) (pkt : Packet) : State :=
  match neighbour x.row x.col dir with
  | none => s.misroute x
  | some n =>
    let r := s.takeOutput x dir
    match r.2 with
    | none => r.1
    | some y => (r.1.putFlight (r.1.latch { y with pkt := pkt, row := n.1, col := n.2.1, inp := n.2.2, only := none,
                                                   due := r.1.nextDue x (hopCycles x.row x.col n.1 n.2.1) })).draw
/-- The unit number of an edge station in DID form. -/
def stationUnit (row col : Nat) : BitVec 20 := BitVec.ofNat 20 (slabAt row col * 16384 + col % 128 / 8)
/-- The operation that a request from outside the module is at the core or station that its packet has come to (R30, R44). -/
def State.askOp (s : State) (x : Flight) (core : Bool) (r : Req) (st : Stage) : Op :=
  let p := x.pkt
  let iss : Issuer := { pc := 0, npc := 0, d := false, prv := false, core := p.score, slc := Fin.ofNat 16 p.sslc, ctx := 0, rgn := p.srgn,
                        gang := BitVec.ofNat 16 p.gang, uid := 0 }
  let g : Origin := { row := x.row, col := x.col, inp := if core then 4 else 5,
                      unit := if core then coreAtPos x.row x.col else stationUnit x.row x.col, tag := BitVec.ofNat 10 p.tag }
  { id := x.id, kind := 0, slot := 0, dst := 0, ord := 0, scope := 4, iss := iss, smod := p.smod, host := p.h, req := r, stage := st,
    due := s.dueTime, foreign := true, origin := some g, mc0 := false, after := none, cancel := none, pump := none }
/-- Is an operation the request that a cancel names by its sender and tag (R151)? -/
def Op.askedBy (o : Op) (p : Packet) : Bool :=
  o.foreign && o.smod == p.smod && o.iss.core == p.score && o.origin.any (fun (g : Origin) => g.tag.toNat == p.tag)
/-- A request from outside the module, once it is whole, becomes an operation of its target: core space at a core, a physical address at a station
(R130; log entry 20). A cancel goes to its request; one whose request has been answered is replied to (R151). -/
def State.foreignOp (s : State) (x : Flight) (a : Ask) (core : Bool) : State :=
  let t := s.dropFlight x.id
  match a.req with
  | none =>
    if t.ops.any (fun o => o.askedBy x.pkt) then
      { t with ops := t.ops.map (fun (o : Op) => if o.askedBy x.pkt then { o with cancel := some s.dueTime } else o) }.draw
    else t.respond (s.askOp x core (.kick 0 0) .flight) 0 (.done 0 0)
  | some r => { t with ops := t.ops ++ [s.askOp x core r (a.stage s.modId core)] }.draw
/-- Cycles by which a flit of a packet is late behind the one before it (R48). -/
def Flight.slip (x : Flight) (i : Nat) : Nat := 2 * x.slips.count i
/-- The packet reaches the core or the attached unit: its delivery is due after 2 more cycles and the flit behind its head, or a free time. -/
def State.arrive (s : State) (x : Flight) (port : Nat) : State :=
  let r := s.takeOutput x port
  match r.2 with
  | none => r.1
  | some y => (r.1.putFlight { y with arrived := some port, only := none, due := r.1.nextDue x (4 + x.slip 1) }).draw
/-- Does a module in warm-up keep a packet from leaving by an off-module port: any on the scheduled plane, and any on the open plane that is not for a
host node (R22)? -/
def State.keptIn (s : State) (x : Flight) : Bool := !s.fullService && (x.sched || x.pkt.dcls != 4)
/-- The packet leaves by the off-module port that attaches to the router: a scheduled one with the port's latency; a port that has not been trained
carries none (R37; log entry 77), and in warm-up one for another module is discarded and counted (R22; log entry 79). -/
def State.exits (s : State) (x : Flight) : State :=
  let lp := ((portAtPos x.row x.col).map (fun p => (s.fab.lp.get p).toNat)).getD 0
  if s.keptIn x || (x.sched && lp == 0) then s.misroute x
  else
    let r := s.takeOutput x 6
    match r.2 with
    | none => r.1
    | some y => (r.1.putFlight { y with arrived := some 6, due := r.1.nextDue x (lp - 1 + 2 * (x.pkt.len + x.slips.length)) }).draw
/-- A copy leaves by an output of its router. -/
def State.copyOut (s : State) (c : Flight) (k : Nat) : State := if k < 4 then s.hopTo c k c.pkt else s.arrive c k
/-- A copy of a multicast packet leaves by a port: it is a packet of its own, whose flits on the open plane come from the one that is copied. -/
def State.copyTo (s : State) (x : Flight) (k : Nat) : State :=
  let c : Flight := { x with id := s.nextId, latched := some (s.groupEntry x), only := some k, here := 1, worm := [], unsent := if x.sched then 0 else x.pkt.len,
                             trunk := if x.sched then none else some x.id }
  let u := { s with nextId := s.nextId + 1, fab := { s.fab with flights := s.fab.flights ++ [c] } }
  u.copyOut c k
/-- The copies of a multicast packet leave together, by each port of the entry but the one it came in by; on the open plane the flits behind its head
are passed on to all of them (R43). -/
def State.replicate (s : State) (x : Flight) (ports : List Nat) : State :=
  let t := ports.foldl (fun t k => t.copyTo x k) s
  if x.sched ∨ (x.here ≤ 1 ∧ x.whole = true) then t.dropFlight x.id
  else t.keepFlight { x with arrived := some 7, here := x.here - 1, latched := some (BitVec.ofNat 8 (ports.foldl (fun a k => a + 2 ^ k) 0)) }
/-- A multicast copy at a router: replicated by its entry, or discarded and counted; on the scheduled plane one that a resent flit has kept from an output
takes that output alone (R48). DESIGN CHOICE (log entry 91): a copy for a neighbour beyond the grid, or for a unit that the router lacks, is discarded
and counts as a misroute. -/
def State.multicast (s : State) (x : Flight) : State :=
  match x.only with
  | some k => s.copyOut x k
  | none =>
    if (s.groupEntry x).getLsbD 7 then
      ((s.outPorts x).filter (fun k => !hasOutput x.row x.col k)).foldl (fun t _ => t.bump (slabAt x.row x.col) 2) (s.replicate x (s.copyPorts x))
    else (s.ghost x).bump (slabAt x.row x.col) 9
/-- One router's work on a packet at its current segment (R32); a PORT 7 segment in a packet with MC = 0 is a misroute (log entry 87). -/
def State.forward (s : State) (x : Flight) : State :=
  let p := x.pkt
  if x.copied then s.multicast x
  else
    match s.wants x with
    | [] => s.misroute x
    | k :: _ =>
      match k with
      | 4 => s.arrive x 4
      | 5 => s.arrive x 5
      | 6 => s.exits x
      | dir => s.hopTo x dir (if p.seg0 % 1024 = 1 then p.shifted else p.setF 160 148 (p.seg0 - 1))
def execRouterForward (k : Nat) (s : State) : Out :=
  s.onFlight k "ROUTER_FORWARD" fun x =>
    if x.arrived.isSome then .refused (.notEnabled "ROUTER_FORWARD") else .next (s.forward x)

/-! ## The flits behind the heads (R40, R41, R43) -/

/-- One flit more in the last buffer of a packet, or, where all behind the head is empty, where the head is. -/
def Flight.feed (x : Flight) : Flight :=
  match x.worm.reverse with
  | [] => { x with here := x.here + 1, unsent := x.unsent - 1 }
  | g :: gs => { x with worm := (({ g with n := g.n + 1 } : Seat) :: gs).reverse, unsent := x.unsent - 1 }
/-- Has the last buffer of a packet a slot? Where its head has arrived, its target takes every flit. -/
def State.feedRoom (s : State) (x : Flight) : Bool :=
  match x.worm.reverse with
  | [] => !x.buffered || s.room x.chan x.row x.col x.inp
  | g :: _ => s.room x.chan g.row g.col g.inp
/-- The router and input at which a packet enters the fabric. -/
def Flight.entry (x : Flight) : Nat × Nat × Nat :=
  match x.worm.reverse with
  | [] => (x.row, x.col, x.inp)
  | g :: _ => (g.row, g.col, g.inp)
/-- The flits of a packet in its i-th buffer behind the head: the first of them goes on where its output is free in this cycle and the buffer ahead has
a slot. -/
def State.seatMoves (s : State) (k i : Nat) : State :=
  match s.fab.flights.find? (fun x => x.id == k) with
  | none => s
  | some x =>
    match x.worm[i]? with
    | none => s
    | some g =>
      let free := if i = 0 ∧ x.buffered = false then s.takesFlit g.row g.col g.out x.chan
        else match (if i = 0 then some (x.row, x.col, x.inp) else (x.worm[i - 1]?).map (fun h => (h.row, h.col, h.inp))) with
          | none => false
          | some b => s.room x.chan b.1 b.2.1 b.2.2
      if g.n = 0 ∨ s.fab.used.contains (g.row, g.col, g.out) = true ∨ free = false then s
      else
        let w := x.worm.set i { g with n := g.n - 1 }
        let y := if i = 0 then { x with worm := w, here := x.here + 1 }
          else { x with worm := w.modify (i - 1) (fun h => { h with n := h.n + 1 }) }
        (s.carries g.row g.col g.out x.chan).keepFlight y
/-- A flit enters the fabric behind those of its packet, behind every packet that enters before it by the same input. -/
def State.enters (s : State) (k : Nat) : State :=
  match s.fab.flights.find? (fun x => x.id == k) with
  | none => s
  | some x =>
    let e := x.entry
    let first := !(s.fab.flights.takeWhile (fun z => z.id != k)).any (fun z =>
      !z.sched && z.chan == x.chan && z.trunk.isNone && z.unsent != 0 && z.entry == e)
    if x.unsent = 0 ∨ x.trunk.isSome = true ∨ first = false ∨ s.feedRoom x = false ∨ s.fab.used.contains (e.1, e.2.1, 8 + e.2.2) = true then s
    else ({ s with fab := { s.fab with used := (e.1, e.2.1, 8 + e.2.2) :: s.fab.used } }).keepFlight x.feed
/-- A flit of a packet that is being copied goes to every copy, once all have a slot and every output is free. -/
def State.copyFlit (s : State) (k : Nat) : State :=
  match s.fab.flights.find? (fun x => x.id == k) with
  | none => s
  | some x =>
    let ports := (List.range 6).filter (fun o => (x.latched.getD 0).getLsbD o)
    let kids := s.fab.flights.filter (fun z => z.trunk == some k)
    if x.here = 0 ∨ ports.any (fun o => s.fab.used.contains (x.row, x.col, o)) = true ∨ kids.any (fun z => !s.feedRoom z) = true then s
    else
      let t := ports.foldl (fun (t : State) o => t.carries x.row x.col o x.chan) (s.keepFlight { x with here := x.here - 1 })
      kids.foldl (fun (t : State) z => t.keepFlight z.feed) t
/-- The flits behind a packet's head move, the foremost first, one more enters, and buffers that no flit will use again are left. -/
def State.flitsOf (s : State) (x : Flight) : State :=
  let t := if x.arrived = some 7 then s.copyFlit x.id else s
  let u := (List.range x.worm.length).foldl (fun (t : State) i => t.seatMoves x.id i) t
  let v := u.enters x.id
  { v with fab := { v.fab with flights := (v.fab.flights.map (fun y => if y.id == x.id && y.unsent == 0
      then { y with worm := (y.worm.reverse.dropWhile (fun g => g.n == 0)).reverse } else y)).filter (fun y =>
        !(y.id == x.id && y.arrived == some 7 && y.here == 0 && y.whole)) } }
/-- In an odd cycle the flits of the open plane move, those of responses first. -/
def State.openCycle (s : State) : State :=
  if s.fcyc % 2 = 0 then s
  else
    let go (t : State) (c : Nat) : State := (t.fab.flights.filter (fun x => !x.sched && x.chan == c)).foldl (fun t x => t.flitsOf x) t
    go (go s 1) 0

/-! ## Ports and links (R35, R37, R40, R44, R48, R49) -/

/-- The router of an off-module port on which a packet comes in. -/
def portPos (port : BitVec 6) : Nat × Nat := if port.toNat < 32 then (0, 32 * port.toNat) else (639, 32 * (port.toNat - 32))
/-- The stamps of a packet from a host node, which the ingress router writes (R44). -/
def hostStamped (p : Packet) (node : Nat) : Packet := (((p.setF 31 31 1).setF 95 84 node).setF 63 48 0).setF 47 32 0
/-- The packet as the ingress router of a port passes it on. -/
def State.ingressStamp (s : State) (p : Packet) (port : BitVec 6) : Packet :=
  match (s.fab.hostPort.get port.toNat).toNat with
  | 0 => p
  | n + 1 => hostStamped p n
/-- A packet that the path table of its ingress router refuses: a request is answered with 0x0A subcode 6, any other packet is discarded, and counted as
a misroute (R36, R46). DESIGN CHOICE (log entry 93): SCORE of the answer is the core's at that router. -/
def State.refuseIngress (s : State) (row col : Nat) (p : Packet) : State :=
  if p.kind ≤ 2 ∨ p.kind = 6 then
    let st : Stamp := { smod := s.modId, score := coreAtPos row col, srgn := 0, sslc := 0, gang := 0 }
    let b := answerBody 0 (faultAns (refusalCause 6) 0)
    s.sendFrom row col 6
      { hdr := if p.h then mkHdr 5 b.2.1 4 s.modId (p.smod.setWidth 20) st p.tag b.2.2 else mkHdr 5 b.2.1 0 p.smod p.score st p.tag b.2.2,
        body := b.1, pois := 0 }
  else s.bump (slabAt row col) 2
/-- A packet comes in through a port; with SEGN = 0 its route is filled afresh (R35); it brings the stamps of its sender, but that of a host node is
written here (R44), and with a request what that asks. A malformed packet is discarded, and so is one of another module in warm-up (R22; log
entries 78, 79). No plane carries a flit in a hush tick (R24). -/
def execModuleIngress (p0 : Packet) (port : BitVec 6) (rq : Option Ask) (s : State) : Out :=
  let r := portPos port
  let p := s.ingressStamp p0 port
  let fly (q : Packet) : State :=
    (s.launchFlight r.1 r.2 6 q rq (if q.kind = 4 then s.time + 2 + s.fcyc % 2 else s.dueTime) none none).draw
  if s.hush then .refused (.notEnabled "MODULE_INGRESS")
  else if p.malformed ∨ (s.fullService = false ∧ p.h = false) then .next (s.bump (slabAt r.1 r.2) 2)
  else if p.segn ≠ 0 then .next (fly p)
  else
    match s.routeFrom r.1 r.2 p with
    | .inl q => .next (fly q)
    | .inr _ => .next (s.refuseIngress r.1 r.2 p)
/-- A scheduled packet whose flit on the output of its n-th latest hop is resent: that flit and those behind it are 2 cycles late there and on every
output that they have still to pass, which are held as much longer; flits ahead of it are not (R48). -/
def Flight.resent (x : Flight) (now n : Nat) : Flight :=
  let i := match x.track[n]? with
    | some h => (now - h.first) / 2
    | none => 0
  let y := { x with late := true, track := x.track.mapIdx (fun j (h : Hop) => if j ≤ n then { h with last := h.last + 2 } else h) }
  let next := match x.arrived with
    | none => 0
    | some 4 => x.got + 1
    | some _ => i
  if i ≤ next then { y with due := x.due + 2 } else { y with slips := i :: x.slips }
/-- A flit is resent in the next cycle of its plane: on the open plane this delays the packet; on the scheduled plane it is a flit on one of the outputs
that the packet is passing, a free choice, and each packet that finds an output held longer by it is delayed in its turn (R48). -/
def execFlitReplay (slab : BitVec 6) (k : Nat) (s : State) : Out :=
  s.onFlight k "FLIT_REPLAY" fun x =>
    let live := (List.range x.track.length).filter (fun j => (x.track[j]?).any (fun h => decide (h.first ≤ s.time) && decide (s.time ≤ h.last)))
    let y := if x.sched then x.resent s.time (live.getD (Config.latency s.draws % live.length) 0) else { x with due := x.due + 2 }
    .next ((s.keepFlight y).bump slab.toNat 4).draw
/-- Credits come back on a channel of an off-module link (R40). -/
def execLinkControlFlit (port : BitVec 6) (credits : CreditReturn) (s : State) : Out :=
  let k := 2 * port.toNat + credits.resp.toNat
  .next { s with fab := { s.fab with credits := s.fab.credits.set k (BitVec.ofNat 16 ((s.fab.credits.get k).toNat + credits.n)) } }
/-- A lane is replaced by the spare; the codeword in flight is resent, so nothing is lost (R49). -/
def execLaneSparing (slab : BitVec 6) (s : State) : Out := .next ((s.bump slab.toNat 5).bump slab.toNat 4)
/-- A port completes training: its latency, which is even, is fixed, and the router beyond it grants 8 slots a channel (R37, R40). -/
def execOffModulePortTraining (port : BitVec 6) (lp : Nat) (s : State) : Out :=
  if lp % 2 = 1 then .refused (.notEnabled "OFF_MODULE_PORT_TRAINING")
  else
    .next { s with fab := { s.fab with lp := s.fab.lp.set port.toNat (BitVec.ofNat 32 (lp + 1)),
                                       credits := (s.fab.credits.set (2 * port.toNat) 8).set (2 * port.toNat + 1) 8 } }

/-! ## Scheduled transfers (R37, R199, R329) -/

/-- Window cycle of an entry of the injector. -/
def State.sendCycle (s : State) (x : XSend) : Nat := (s.pace.toNat - x.win.toNat) * s.ticksN + s.fcyc
/-- Is the entry's departure cycle the present one? -/
def State.departs (s : State) (x : XSend) : Bool := decide (x.win.toNat ≤ s.pace.toNat) && s.sendCycle x == x.depart
/-- The cycle of an entry's departure, counted from the count of ticks 0. -/
def State.departure (s : State) (x : XSend) : Nat := x.win.toNat * s.ticksN + x.depart
/-- Do two entries need the core's injection port in one cycle? -/
def State.clash (s : State) (x y : XSend) : Bool :=
  decide (s.departure x ≤ s.departure y + 2 * y.n) && decide (s.departure y ≤ s.departure x + 2 * x.n)
/-- The packet of a scheduled transfer: route and destination of its path-table entry, tag and destination in the header (R329). -/
def State.xsendPacket (s : State) (co : CoreId) (x : XSend) : Packet :=
  let k := coreKey co x.src.toNat
  let n := 32 * x.n
  let st : Stamp := { smod := s.modId, score := co, srgn := x.iss.rgn, sslc := x.iss.slc.val, gang := x.iss.gang }
  let p : Packet := { hdr := mkHdr 4 x.n 0 0 0 st (x.tag.toNat % 1024) (x.tag.toNat / 1024 * 16384 + x.dst.toNat / 32),
                      body := BitVec.ofNat 4096 (s.peek k n), pois := BitVec.ofNat 64 (poisonBits s.pois k n) }
  p.routeDest (s.pathEntry co x.path.toNat)
/-- Is a transfer refused at injection, so that it is discarded: its path-table entry is no longer valid or leads to no core, its module is absent, or
warm-up forbids traffic with it (R22, R30, R36, R46, R47)? -/
def State.xsendRefused (s : State) (co : CoreId) (x : XSend) : Bool :=
  !entryValid (s.pathEntry co x.path.toNat) || (s.xsendPacket co x).dcls != 0 || !s.reachable (s.xsendPacket co x).dmod
/-- At its window cycle the transfer leaves the injector: its granules are read and its head departs. One in a hush frame armed since its issue takes
0x0E (R65), one that is refused is discarded, and a later-issued one that needs the injection port in a cycle of an earlier one is discarded whole and
counted (R329). -/
def execXsendDeparture (co : CoreId) (s : State) : Out :=
  let c := s.coreAt co
  match c.inj.find? (fun x => s.departs x) with
  | none => .refused (.notEnabled "XSEND_DEPARTURE")
  | some x =>
    let earlier := c.inj.takeWhile (fun y => y != x)
    let t := s.putCore { c with inj := c.inj.erase x }
    let pos := corePos co
    let h : Hop := { row := pos.1, col := pos.2, out := 8, inp := 4, first := s.time, last := s.time + 2 * x.n }
    if s.hushFor x.iss.gang (x.win.toNat + x.depart / s.ticksN) then
      .next (t.lateFault ⟨infoOf 14 768 x.src (BitVec.ofNat 64 x.depart) (BitVec.ofNat 64 x.depart), x.iss⟩)
    else if s.xsendRefused co x then .next t
    else if earlier.any (fun y => s.clash y x) || s.fab.flights.any (fun z => z.track.any (fun g => g.meets h)) then
      .next (t.bump (slabOf co) 3)
    else
      let closes := s.time + ((t.sliceAt co x.iss.slc).eff.xlen.toNat * t.ticksN - x.depart)
      let u := t.launchFlight pos.1 pos.2 4 (t.xsendPacket co x) none t.time (some closes) none
      .next { u with fab := { u.fab with flights := u.fab.flights.map (fun z => if z.id == t.nextId then { z with track := [h] } else z) } }
/-- The slice of a core whose partition holds n bytes at an offset, resident and of the region an entry matches. -/
def State.deliverySlice (s : State) (co : CoreId) (off n : Nat) (e : BitVec 64) : Bool := off + n ≤ 393216 && (s.spaceSlice co off n e).isSome
/-- The tag word of a transfer: epoch and sequence tag (R329). -/
def packetTag (p : Packet) : BitVec 16 := BitVec.ofNat 16 (p.opx / 16384 % 64 * 1024 + p.tag)
/-- Has the window of a transfer closed by its end (R48)? -/
def Flight.isLate (x : Flight) (now : Nat) : Bool :=
  match x.closes with
  | some c => decide (c ≤ now)
  | none => false
/-- A payload flit of a transfer is written at its offset. -/
def State.deliverFlit (s : State) (x : Flight) (co : CoreId) (off : Nat) : State :=
  s.put (coreKey co (off + 32 * x.got)) 32 (x.pkt.body.toNat / 2 ^ (256 * x.got) % 2 ^ 256) (x.pkt.pois.toNat / 2 ^ (4 * x.got) % 16)
/-- The next flit of a transfer that the core accepts is written; behind the last the tags of its tiles, unless it is late (R37, R48, R199). -/
def State.deliverAt (s : State) (x : Flight) (co : CoreId) (off : Nat) : State :=
  let u := s.deliverFlit x co off
  if x.got + 1 < x.pkt.len then u.keepFlight { x with got := x.got + 1, due := x.due + 2 + x.slip (x.got + 2) }
  else (if x.isLate s.time then u else u.setTags co off (32 * x.pkt.len) (packetTag x.pkt)).dropFlight x.id
/-- Does the core accept a transfer: its access table, and the range in the partition of a resident slice (R46, R329)? -/
def State.deliverable (s : State) (x : Flight) (co : CoreId) (off : Nat) : Bool :=
  match deciding (s.coreTable co) x.pkt.srgn x.pkt.smod x.pkt.h with
  | none => false
  | some e => e.getLsbD 9 && s.deliverySlice co off (32 * x.pkt.len) e
/-- A flit of a scheduled transfer comes to its core; the first decides whether the transfer is accepted or discarded (R46, R329). One without payload
writes nothing. -/
def State.deliver (s : State) (x : Flight) : State :=
  let co := coreAtPos x.row x.col
  let off := x.pkt.opx % 16384 * 32
  if x.pkt.len = 0 ∨ (x.got = 0 ∧ s.deliverable x co off = false) then s.dropFlight x.id else s.deliverAt x co off
def execScheduledDelivery (k : Nat) (s : State) : Out :=
  s.onFlight k "SCHEDULED_DELIVERY" fun x =>
    if x.pkt.kind ≠ 4 ∨ x.arrived ≠ some 4 then .refused (.notEnabled "SCHEDULED_DELIVERY")
    else .next (s.deliver x)

/-! ## Messages (R46, R117, R326) -/

/-- A refused message: discarded, with a fault record in the sender's region queue, where the sender is of this module; the record of a `post`
is that of its issuing bundle (R102). -/
def State.refuseMessage (s : State) (p : Packet) (sub : Nat) (iss : Option Issuer) : State :=
  if p.smod ≠ s.modId ∨ p.h then s
  else if p.score.toNat % 16384 = 0 ∧ p.srgn = 0 ∧ p.sslc = 0 then s.bump (p.score.toNat / 16384) 10
  else
    match iss with
    | some i => s.lateFault ⟨{ cause := BitVec.ofNat 64 (refusalCause sub), addr := p.did.setWidth 64, d0 := 0, d1 := 0 }, i⟩
    | none =>
      let r := faultBytes (BitVec.ofNat 64 (refusalCause sub)) 0 0 (p.did.setWidth 64) 0 0 p.score p.sslc p.srgn s.modId 0 s.pace
      match s.regions.find? (fun g => g.id == p.srgn) with
      | some g => s.faultRecord g.eff p.srgn (slabOf p.score) r
      | none => s.rootRecord r
/-- The record of a message: header, then payload (R326). -/
def State.messageRecord (s : State) (p : Packet) : Nat :=
  (p.smod.toNat * 2 ^ 52 + p.score.toNat * 2 ^ 32 + p.srgn.toNat * 2 ^ 20 + p.sslc * 65536 + p.opx % 65536) +
    (p.gang * 2 ^ 32 + p.h.toNat * 2 ^ 31 + p.tag * 65536 + p.len) * 2 ^ 64 + s.pace.toNat % 2 ^ 48 * 2 ^ 128 +
    p.body.toNat % 2 ^ (256 * p.len) * 2 ^ 256
/-- The subcode with which a core refuses a message, none where it accepts it. -/
def State.messageRefusal (s : State) (co : CoreId) (p : Packet) : Option Nat :=
  match deciding (s.coreTable co) p.srgn p.smod p.h with
  | none => some 0
  | some e =>
    if !e.getLsbD 10 then some 2
    else
      let x := s.sliceAt co (Fin.ofNat 16 (p.opx / 65536 % 16))
      let rm := BitVec.ofNat 12 (fld e.toNat 50 39)
      if !x.resident || (x.rgn &&& rm) != (BitVec.ofNat 12 (fld e.toNat 62 51) &&& rm) || x.rqSlots == 0 ||
          !x.inPart (x.rqBase.toNat * 32) (x.rqSize * x.rqSlots.toNat) then some 18
      else if x.rqMaxF < p.len then some 17
      else if x.rqSlots.toNat ≤ (x.rqTail - x.rqHead).toNat then some 16
      else none
/-- An accepted message is written into the ring, then TAIL moves. -/
def State.acceptMessage (s : State) (co : CoreId) (p : Packet) : State :=
  let i : Fin 16 := Fin.ofNat 16 (p.opx / 65536 % 16)
  let x := s.sliceAt co i
  let k := coreKey co (x.rqAddr x.rqTail.toNat)
  let t := s.put k (32 + 32 * p.len) (s.messageRecord p) (p.pois.toNat % 2 ^ (4 * p.len) * 16)
  t.modSlice co i (fun y => { y with rqTail := y.rqTail + 1 })
def execMessageArrival (k : Nat) (s : State) : Out :=
  s.onFlight k "MESSAGE_ARRIVAL" fun x =>
    let p := x.pkt
    let co := coreAtPos x.row x.col
    if p.kind ≠ 3 ∨ x.arrived ≠ some 4 ∨ p.opx / 1048576 % 2 = 1 then .refused (.notEnabled "MESSAGE_ARRIVAL")
    else
      let t := s.dropFlight k
      match s.messageRefusal co p with
      | some sub => .next (t.refuseMessage p sub x.iss)
      | none => .next (t.acceptMessage co p)
/-- A slice becomes ready: a dispatcher event (R96, R97). -/
def State.nowReady (s : State) (co : CoreId) (i : Fin 16) : State :=
  (s.modSlice co i (fun x => x.becomeReady s.pace)).onCore co (fun s => (s.traceRec 6 none (some i)).evaluateNow)
/-- Does a start message come from a slab controller of the module, with one flit that names a slice-table index (R117)? -/
def State.startValid (s : State) (p : Packet) : Bool :=
  (p.smod == s.modId && !p.h && p.score.toNat % 16384 == 0 && p.srgn == 0) && p.len == 1 && p.opx / 65536 == 31 &&
    decide (p.body.toNat % 2 ^ 256 < 65536) && decide (p.body.toNat % 65536 < 16)
/-- A slice takes its start message: its accesses to the region's core space are no longer held off, and it becomes ready (R117). -/
def State.takesStart (s : State) (co : CoreId) (i : Fin 16) : State :=
  let u := s.modSlice co i (fun y => { y with started := true })
  let x := u.sliceAt co i
  let t := u.coreTable co
  let v := match t.findIdx? (samePlace (placementEntry x.rgn u.modId)) with
    | some n => u.setCoreTable co (t.modify n (fun e => e &&& ~~~128#64))
    | none => u
  if x.v && x.st == .held && x.gang == 0 then
    (if v.isolated && x.disc then v.modSlice co i (fun y => { y.becomeReady v.pace with st := .suspended, suspTick := v.pace }) else v.nowReady co i)
  else v
/-- The start message of a slab controller of this module activates a slice's instruction store; the region's entry then permits no more code
stores; a slice placed by LAUNCH becomes ready, or, of the pace discipline in an isolated module, suspended (R73). Any other is discarded and counted (R117, R393); one that the core's table does not let
in is refused like any message (R46). -/
def execStartMessage (k : Nat) (s : State) : Out :=
  s.onFlight k "START_MESSAGE" fun x =>
    let co := coreAtPos x.row x.col
    if x.pkt.kind ≠ 3 ∨ x.arrived ≠ some 4 ∨ x.pkt.opx / 1048576 % 2 = 0 then .refused (.notEnabled "START_MESSAGE")
    else
      match refusal (s.coreTable co) x.pkt.srgn x.pkt.smod x.pkt.h (accBit 3) with
      | some sub => .next ((s.dropFlight k).refuseMessage x.pkt sub x.iss)
      | none =>
        if s.startValid x.pkt then .next ((s.dropFlight k).takesStart co (Fin.ofNat 16 (x.pkt.body.toNat % 16)))
        else .next ((s.dropFlight k).bump (slabOf co) 8)

end Sys2Proof.Machine
end

