-- ==== Sys2Proof/Machine/Cistern.lean ====
section
/-! DEFINITION. Machine.Cistern: pools and keys, what a home station does with a cistern request, waiting requests, cancels, completions, and
what the slab controllers do for a slice that leaves (R137-R155, R343, R344). -/

namespace Sys2Proof.Machine

/-! ## Keys and samples (R137-R141, R147) -/

/-- Module, region, pool and index of a key word. -/
def keyMod (k : Word) : BitVec 12 := BitVec.ofNat 12 (fld k.toNat 55 44)
def keyRgn (k : Word) : BitVec 12 := BitVec.ofNat 12 (fld k.toNat 43 32)
def keyPool (k : Word) : BitVec 4 := BitVec.ofNat 4 (fld k.toNat 31 28)
def keyIdx (k : Word) : Nat := fld k.toNat 27 0
/-- The least signed 64-bit count. -/
def minStamp : Word := 0x8000000000000000#64
/-- A key that holds nothing (R139). -/
def Key.empty (i : Nat) : Key := { idx := i, samples := [], l := minStamp, h := minStamp, writer := none }
/-- The key of an index; one that has received nothing is empty. -/
def Pool.key (p : Pool) (i : Nat) : Key := (p.keys.find? (fun k => k.idx == i)).getD (Key.empty i)
/-- Put a key back. -/
def Pool.putKey (p : Pool) (k : Key) : Pool := { p with keys := p.keys.filter (fun x => x.idx != k.idx) ++ [k] }
/-- Earliest instant answerable where a sample is the oldest (R147). -/
def Sample.tlo (x : Sample) : Word := if x.first then x.t else x.h
/-- The pool that a key word names (R137). -/
def State.poolOf (s : State) (k : Word) : Option Pool :=
  s.pools.find? (fun p => p.rgn == keyRgn k && p.num == keyPool k && decide (keyIdx k < p.nkey))
/-- Put a pool back. -/
def State.putPool (s : State) (p : Pool) : State :=
  { s with pools := s.pools.map (fun q => if q.rgn == p.rgn && q.num == p.num then p else q) }

/-! ## Interpolation (R149) -/

/-- Element i of a record. -/
def recElem (r : BitVec 2048) (i : Nat) : Nat := r.toNat / 2 ^ (32 * i) % 2 ^ 32
/-- The default NaN for any NaN. -/
def canonNaN (v : Nat) : Nat := if (decodeF .f32 v).isNan then Fmt.f32.nan else v
/-- I(ta, va, tb, vb, t) on one element: f with one rounding of the exact quotient, d with one, then one fused. -/
def interpElem (ta tb t : Int) (a b : Nat) : Nat :=
  let f := (divV .f32 0 (.fin (decide (t < ta)) (t - ta).natAbs 0) (.fin false (tb - ta).natAbs 0)).1
  let d := (addV .f32 0 (decodeF .f32 b) (decodeF .f32 a).flip).1
  canonNaN (fmaV .f32 0 (decodeF .f32 f) (decodeF .f32 d) (decodeF .f32 a)).1
/-- I on n elements. -/
def interp (n : Nat) (ta : Word) (va : BitVec 2048) (tb : Word) (vb : BitVec 2048) (t : Word) : BitVec 2048 :=
  BitVec.ofNat 2048 ((List.range n).foldr (fun i acc =>
    interpElem ta.toInt tb.toInt t.toInt (recElem va i) (recElem vb i) + 2 ^ 32 * acc) 0)
/-- E(k, t): from the sample before, or the record itself where there is none (R148). -/
def extrap (n : Nat) (prev : Option Sample) (x : Sample) (t : Word) : BitVec 2048 :=
  match prev with
  | none => x.recd
  | some y => interp n y.t y.recd x.t x.recd t

/-! ## Reading (R148) -/

/-- What a load finds: a code with its record, the retention fault, or an instant beyond or an empty key. -/
inductive Look where
  | code (c : Nat) (r : BitVec 2048)
  | retention (tlo : Word)
  | beyond
  deriving DecidableEq, Repr

/-- The row that applies from a retained sample x with the one before it, the later ones following. -/
def lookFrom (n : Nat) (t lx : Word) (hold : Bool) : Option Sample → Sample → List Sample → Look
  | prev, x, [] =>
    if t.sle x.h then .code 2 (if hold then x.recd else if t = x.h then x.hp else extrap n prev x t)
    else if t.sle lx then .code 3 (if hold then x.recd else extrap n prev x t)
    else .beyond
  | prev, x, y :: ys =>
    if t.sle x.h then .code 2 (if hold then x.recd else if t = x.h then x.hp else extrap n prev x t)
    else if t.slt y.t then
      .code 1 (if hold then x.recd else if x.t.slt x.h then interp n x.h x.hp y.t y.recd t else interp n x.t x.recd y.t y.recd t)
    else lookFrom n t lx hold (some x) y ys
/-- L + the unsigned limit, saturated. -/
def limitInstant (l lim : Word) : Word := BitVec.ofInt 64 (min (l.toInt + lim.toNat) (2 ^ 63 - 1))
/-- A load of a key at an instant. -/
def Key.look (k : Key) (n : Nat) (t lim : Word) (hold : Bool) : Look :=
  match k.samples with
  | [] => .beyond
  | x :: xs =>
    match k.samples.find? (fun y => y.t == t) with
    | some y => .code 0 y.recd
    | none => if t.slt x.tlo then .retention x.tlo else lookFrom n t (limitInstant k.l lim) hold none x xs

/-! ## Writing (R145, R146, R153) -/

/-- The floor of a pool: the least registered low-water instant. -/
def Pool.floor (p : Pool) : Option Word :=
  p.readers.foldl (fun f r => match f with
    | none => some r.t
    | some t => some (if r.t.slt t then r.t else t)) none
/-- Would evicting the oldest sample be blocked by the floor? -/
def Pool.blocked (p : Pool) (k : Key) : Bool :=
  match p.floor, k.samples with
  | some f, _ :: y :: _ => !p.lossy && f.slt y.h
  | _, _ => false
/-- The key with a sample appended, the oldest evicted from a full ring. -/
def Key.append (k : Key) (d : Nat) (t : Word) (r : BitVec 2048) : Key :=
  let x : Sample := { t := t, recd := r, h := t, hp := r, first := k.samples.isEmpty }
  { k with samples := (if d ≤ k.samples.length then k.samples.drop 1 else k.samples) ++ [x], l := t, h := t }
/-- The key with its horizon raised: the horizon point is on the line through the last two samples. -/
def Key.raise (k : Key) (n : Nat) (h : Word) : Key :=
  match k.samples.reverse with
  | [] => k
  | x :: r => { k with samples := r.reverse ++ [{ x with h := h, hp := extrap n r.head? x h }], h := h }
/-- What the home station finds for a writer's request. -/
inductive Wr where
  | refused
  | poison (g : Nat)
  | disorder
  | held
  | done (k : Key)
  deriving DecidableEq, Repr

/-- Does a request come from the slice a key is bound to, or is the key unbound (R140)? -/
def Key.admits (k : Key) (o : Op) : Bool :=
  match k.writer with
  | none => true
  | some w => w.1 == o.iss.core && w.2 == o.iss.slc
/-- The first poisoned granule of the first 4n bytes of a record. -/
def recPoison (pois : BitVec 32) (n : Nat) : Option Nat := (List.range (n / 2)).find? (fun g => pois.getLsbD g)
/-- The bytes of a record that are stored. -/
def recCut (r : BitVec 2048) (n : Nat) : BitVec 2048 := BitVec.ofNat 2048 (r.toNat % 2 ^ (32 * n))
/-- A `tst` or `tadv` at its key. -/
def Pool.write (p : Pool) (m : BitVec 12) (o : Op) : Wr :=
  match o.req with
  | .tst key t r pois =>
    let k := p.key (keyIdx key)
    if o.smod ≠ m ∨ !k.admits o then .refused
    else
      match recPoison pois p.n with
      | some g => .poison g
      | none =>
        if t.sle k.l || t.slt k.h then .disorder
        else if p.d ≤ k.samples.length ∧ p.blocked k = true then .held
        else .done { k.append p.d t (recCut r p.n) with writer := some (o.iss.core, o.iss.slc) }
  | .tadv key h =>
    let k := p.key (keyIdx key)
    if o.smod ≠ m ∨ !k.admits o then .refused
    else if k.samples.isEmpty then .disorder
    else .done (if h.sle k.h then k else k.raise p.n h)
  | _ => .refused

/-! ## Answers (R143, R144, R343) -/

/-- Key word and instant of a cistern request. -/
def Op.keyOf (o : Op) : Word :=
  match o.req with
  | .tst k _ _ _ => k
  | .tadv k _ => k
  | .tld k _ _ _ _ _ => k
  | .tlow k _ => k
  | _ => 0
def Op.instant (o : Op) : Word :=
  match o.req with
  | .tst _ t _ _ => t
  | .tadv _ h => h
  | .tld _ t _ _ _ _ => t
  | .tlow _ t => t
  | _ => 0
/-- Is it a request that may change its key? -/
def Op.writes (o : Op) : Bool :=
  match o.req with
  | .tst .. => true
  | .tadv .. => true
  | _ => false
def Op.isTst (o : Op) : Bool :=
  match o.req with
  | .tst .. => true
  | _ => false
def Op.isTld (o : Op) : Bool :=
  match o.req with
  | .tld .. => true
  | _ => false
/-- An answer with a status code, and for a load its record and the number n of its elements: record, code from bit 2048, n from 2056. -/
def codeAns (c n : Nat) (r : BitVec 2048) : Answer := .done (BitVec.ofNat 4096 (r.toNat + c * 2 ^ 2048 + n * 2 ^ 2056)) 0
/-- Codes 5, 6 and 7: cause 0x10 with key word, instant and a third value. -/
def cisternFault (o : Op) (code : Nat) (d1 : Word) : Answer := .fault (BitVec.ofNat 64 (16 + code * 256)) o.keyOf o.instant d1
/-- A refusal with its subcode. -/
def cisternRefuse (o : Op) (sub : Nat) : Answer := faultAns (refusalCause sub) o.keyOf
/-- The request is answered. -/
def State.answer (s : State) (o : Op) (a : Answer) : State := s.toStage o (.reply a)

/-! ## Waiting requests (R150, R151, R153) -/

/-- An operation by identity. -/
def State.opAt (s : State) (k : Nat) : Option Op := s.ops.find? (fun o => o.id == k)
/-- The waiting requests of a pool, oldest first. -/
def State.waiters (s : State) (p : Pool) : List Op := p.waiting.filterMap s.opAt
/-- Waiting entries used at the station of a key index. -/
def State.entriesAt (s : State) (p : Pool) (i : Nat) : Nat :=
  ((s.waiters p).filter (fun (o : Op) => keyIdx o.keyOf % p.nst == i % p.nst)).length
/-- Has the requesting slice left its table (R155)? A pump's job goes on whatever becomes of its kicker (R183). -/
def State.left (s : State) (o : Op) : Bool := !o.foreign && o.pump.isNone && !s.issuerThere o.iss
/-- The record of a held store removed for a slice that leaves (R155). -/
def State.heldRecord (s : State) (p : Pool) (o : Op) : State :=
  s.lateFault ⟨{ cause := 12, addr := o.keyOf, d0 := o.instant, d1 := p.floor.getD (p.key (keyIdx o.keyOf)).l }, o.iss⟩
/-- A request takes a waiting entry, where one is free (R150, R153). -/
def State.takeEntry (s : State) (p : Pool) (o : Op) : State :=
  if 64 ≤ s.entriesAt p (keyIdx o.keyOf) then s.answer o (cisternFault o 7 (p.key (keyIdx o.keyOf)).l)
  else if s.left o then (if o.isTst then (s.dropOp o.id).heldRecord p o else s.dropOp o.id)
  else (s.putPool { p with waiting := p.waiting ++ [o.id] }).toStage o .queued
/-- A load is answered by what it finds. -/
def State.answerLoad (s : State) (p : Pool) (o : Op) (x : Look) : State :=
  match x with
  | .code c r => s.answer o (codeAns c p.n r)
  | .retention t => s.answer o (cisternFault o 5 t)
  | .beyond => s.answer o (codeAns 4 p.n 0)
/-- Loads that an accepted store or horizon releases are answered in their order (R150). -/
def State.releaseLoads (s : State) (p : Pool) (k : Key) : State :=
  let top := if k.l.slt k.h then k.h else k.l
  let out := (s.waiters p).filter (fun (o : Op) => o.isTld && keyIdx o.keyOf == k.idx && o.instant.sle top)
  out.foldl (fun s o => match o.req with
      | .tld _ t lim _ _ hold => s.answerLoad p o (k.look p.n t lim hold)
      | _ => s)
    (s.putPool { p with waiting := p.waiting.filter (fun i => !(out.any (fun (o : Op) => o.id == i))) })
/-- What becomes of a writer's request that is served now; one that is to be held is left where it is. -/
def State.served (s : State) (p : Pool) (o : Op) : State :=
  match p.write s.modId o with
  | .refused => s.answer o (cisternRefuse o 21)
  | .poison g => s.answer o (faultAns 11 (o.dst + BitVec.ofNat 64 (8 * g)))
  | .disorder => s.answer o (cisternFault o 6 (p.key (keyIdx o.keyOf)).h)
  | .held => s
  | .done k =>
    let q := p.putKey k
    ((s.putPool q).answer o (codeAns 0 0 0)).releaseLoads q k
/-- The first waiting writer's request that no earlier one of its key stands before and that need not be held. -/
def Pool.servable (p : Pool) (m : BitVec 12) : List Nat → List Op → Option Op
  | _, [] => none
  | seen, o :: os =>
    if !o.writes || seen.contains (keyIdx o.keyOf) then p.servable m seen os
    else if p.write m o == .held then p.servable m (keyIdx o.keyOf :: seen) os
    else some o
/-- Held stores perform once the floor allows it, and those behind them follow (R153). -/
def State.drain (s : State) (rgn : BitVec 12) (num : BitVec 4) : Nat → State
  | 0 => s
  | fuel + 1 =>
    match s.pools.find? (fun p => p.rgn == rgn && p.num == num) with
    | none => s
    | some p =>
      match p.servable s.modId [] (s.waiters p) with
      | none => s
      | some o =>
        let q := { p with waiting := p.waiting.filter (fun i => i != o.id) }
        ((s.putPool q).served q o).drain rgn num fuel
/-- Serve what a change of floor or a removal lets go on. -/
def State.drained (s : State) (p : Pool) : State := s.drain p.rgn p.num (p.waiting.length + 1)

/-! ## The home station (R138, R145, R146, R148, R152) -/

/-- The translating station of a requester: a core's, or the station its pump sits beside (R123). -/
def Op.station (o : Op) : Nat × Nat :=
  match o.pump with
  | some u => (u.toNat / 64, u.toNat % 64 / 4)
  | none => coreStation o.iss.core
/-- A cistern request on its way: resolved at the translating station, then served at its home; of another module, it goes there. -/
def State.cisternRequest (s : State) (k : Nat) (name : String) (mine : Op → Bool) (serve : State → Pool → Op → State) : Out :=
  s.onOp k name fun o =>
    if o.stage ≠ .flight ∨ !mine o then .refused (.notEnabled name)
    else
      let key := o.keyOf
      let st := o.station
      let refuse (sub : Nat) : Out := .next (s.answer o (cisternRefuse o sub))
      match (if o.foreign then none else s.stationRefusal st.1 st.2 o.iss.rgn o.smod o.host 6) with
      | some sub => refuse sub
      | none =>
        if key.toNat / 2 ^ 56 ≠ 0 then refuse 20
        else if keyMod key ≠ s.modId then
          (if o.foreign then refuse 20 else .next (s.goesAway o st (s.homePacket 6 false (keyMod key) 0) false key))
        else
          match s.poolOf key with
          | none => refuse 20
          | some p =>
            let e := match o.req with
              | .tlow .. => 0
              | _ => keyIdx key % p.nst
            match s.stationRefusal p.slab.toNat e o.iss.rgn o.smod o.host 6 with
            | some sub => refuse sub
            | none => .next (serve s p o)
/-- A writer's request: behind a held one of its key, held, or served. -/
def State.serveWrite (s : State) (p : Pool) (o : Op) : State :=
  if (s.waiters p).any (fun (w : Op) => w.writes && keyIdx w.keyOf == keyIdx o.keyOf) || p.write s.modId o == .held then s.takeEntry p o
  else s.served p o
/-- A load: answered, refused or queued. -/
def State.serveLoad (s : State) (p : Pool) (o : Op) : State :=
  match o.req with
  | .tld key t lim _ block hold =>
    let x := (p.key (keyIdx key)).look p.n t lim hold
    if x == .beyond && block then s.takeEntry p o else s.answerLoad p o x
  | _ => s
/-- The reader that a request comes from, and is a registration its? -/
def Reader.of (r : Reader) (o : Op) : Bool := r.m == o.smod && r.core == o.iss.core && r.slc == o.iss.slc
/-- A low-water instant is registered, moved or removed; then held stores may perform. -/
def State.serveLow (s : State) (p : Pool) (o : Op) : State :=
  let others := p.readers.filter (fun r => !r.of o)
  if o.instant = 0x7FFFFFFFFFFFFFFF#64 ∨ s.left o = true then
    (let q := { p with readers := others }
     ((s.putPool q).answer o (codeAns 0 0 0)).drained q)
  else if 16 ≤ others.length then s.answer o (cisternFault o 7 (p.floor.getD 0))
  else
    let q := { p with readers := others ++ [{ m := o.smod, core := o.iss.core, slc := o.iss.slc, t := o.instant }] }
    ((s.putPool q).answer o (codeAns 0 0 0)).drained q
def execCisternTstRequest (k : Nat) (s : State) : Out := s.cisternRequest k "CISTERN_TST_REQUEST" Op.isTst State.serveWrite
def execCisternTadvRequest (k : Nat) (s : State) : Out :=
  s.cisternRequest k "CISTERN_TADV_REQUEST" (fun o => o.writes && !o.isTst) State.serveWrite
def execCisternTldRequest (k : Nat) (s : State) : Out := s.cisternRequest k "CISTERN_TLD_REQUEST" Op.isTld State.serveLoad
/-- Is it a `tlow`? -/
def Op.isTlow (o : Op) : Bool :=
  match o.req with
  | .tlow .. => true
  | _ => false
def execCisternTlowRequest (k : Nat) (s : State) : Out := s.cisternRequest k "CISTERN_TLOW_REQUEST" Op.isTlow State.serveLow

/-! ## Cancels and completions (R151, R153, R344) -/

/-- The reply to a cancel that removed a waiting entry: 0x0C with key word, instant or stamp, and L or the floor. -/
def cancelReply (p : Pool) (o : Op) : Answer :=
  let l := (p.key (keyIdx o.keyOf)).l
  .fault 12 o.keyOf o.instant (if o.isTst then p.floor.getD l else l)
/-- The contexts of the issuer's slice that stay in a `cwait` for the reply to a cancel (R151). -/
def State.cancelledAt (s : State) (o : Op) : List (Fin 11) :=
  if s.issuerThere o.iss then
    (List.finRange 11).filter (fun c => (s.sliceAt o.iss.core o.iss.slc).ctxs[c].wait.any (fun w => w.kind == .cwait && w.arg == o.slot && w.cancelled))
  else []
/-- They take a trap. -/
def State.trapWaiters (s : State) (o : Op) (i : Info) : State :=
  (s.cancelledAt o).foldl (fun s c => s.onCore o.iss.core (fun s => (s.focus o.iss.slc c).trapNow i)) s
/-- The reply to a cancel reaches the contexts that are still in the wait, which take 0x0C; where there is none, it is a fault like any other (R151,
R215; log entry 80). -/
def State.cancelEnds (s : State) (o : Op) (i : Info) : State := if (s.cancelledAt o).isEmpty then s.opFault o i else s.trapWaiters o i
/-- Bytes of the answer to a request of another module: the code, its count and the record of a load, else the code (log entry 20). -/
def Op.answerBytes (o : Op) : Nat := if o.isTld then 258 else 1
/-- Such an answer: a load's as `codeAns` has it, any other the code alone. -/
def Op.wireAnswer (o : Op) (x : Answer) : Answer :=
  match x with
  | .done d p => if o.isTld then .done d p else .done (BitVec.ofNat 4096 (d.toNat / 2 ^ 2048 % 256)) p
  | y => y
/-- The answer reaches the issuing core: the record of a load, then the slot; that of a pump reaches its job; that of another module leaves, and behind
it the reply to a cancel that has found its request answered (R151). -/
def State.cisternEnds (s : State) (o : Op) (x : Answer) : State :=
  let t := s.dropOp o.id
  if o.foreign then
    (let u := t.respond o o.answerBytes (o.wireAnswer x)
     if o.cancel.isSome && !(match x with
       | .fault c _ _ _ => c.toNat % 256 == 12
       | _ => false) then u.respond o 0 (.done 0 0) else u)
  else
    match o.pump with
    | some u => t.jobAnswer u o x
    | none =>
      match x with
      | .fault c a d0 d1 =>
        let i : Info := { cause := c, addr := a, d0 := d0, d1 := d1 }
        if c.toNat % 256 = 12 then t.cancelEnds o i else t.opFault o i
      | .done d _ =>
        if !t.issuerThere o.iss then t
        else
          let c := d.toNat / 2 ^ 2048 % 256
          let n := d.toNat / 2 ^ 2056 % 256
          let u := if o.isTld && decide (c ≤ 3) then t.putGood (coreKey o.iss.core o.dst.toNat) (4 * n) (d.toNat % 2 ^ (32 * n)) else t
          u.slotDone o.iss.core o.slot o.kind (BitVec.ofNat 64 c)
/-- The cancel is judged where its request is: a waiting entry is removed; a request already answered, or away, is left; one that was lost on its way is
not found, and the wait has expired (R32, R151). The answer to a request of another module leaves then, if it has not left, and behind it the reply to
the cancel. -/
def execCisternCancel (k : Nat) (s : State) : Out :=
  s.onOp k "CISTERN_CANCEL" fun o =>
    let clear : Op := { o with cancel := none }
    if o.cancel.isNone then .refused (.notEnabled "CISTERN_CANCEL")
    else
      match o.stage with
      | .reply a => .next (if o.foreign then s.cisternEnds o a else s.toStage clear (.reply a))
      | .away h => .next (s.toStage clear (.away h))
      | .lost => .next ((s.trapWaiters o (infoOf 12 0 0 0 0)).toStage clear .lost)
      | .queued =>
        (match s.poolOf o.keyOf with
         | none => .next (s.toStage clear (.reply (cisternRefuse o 20)))
         | some p =>
           let q := { p with waiting := p.waiting.filter (fun i => i != o.id) }
           .next (((s.putPool q).toStage clear (.reply (cancelReply p o))).drained q))
      | _ => .refused (.notEnabled "CISTERN_CANCEL")
/-- An answer from another module is the one given by the outside, in the form of `codeAns` or as a fault. -/
def execCisternCompletion (k : Nat) (ext : Answer) (s : State) : Out :=
  s.onOp k "CISTERN_COMPLETION" fun o =>
    if !(o.writes || o.isTld || o.isTlow) then .refused (.notEnabled "CISTERN_COMPLETION")
    else
      match o.stage with
      | .reply a => .next (s.cisternEnds o a)
      | .away _ => .next (s.cisternEnds o ext)
      | _ => .refused (.notEnabled "CISTERN_COMPLETION")

/-! ## A slice that leaves its table (R155) -/

/-- The slab controllers cancel a slice's queued loads, remove its held stores with their records, and its reader registrations. -/
def State.cisternLeave (s : State) (co : CoreId) (i : Fin 16) : State :=
  s.pools.foldl (fun s p0 =>
    match s.pools.find? (fun p => p.rgn == p0.rgn && p.num == p0.num) with
    | none => s
    | some p =>
      let gone := (s.waiters p).filter (fun (o : Op) => !o.foreign && o.pump.isNone && o.iss.core == co && o.iss.slc == i && (o.isTld || o.isTst))
      let q := { p with waiting := p.waiting.filter (fun k => !(gone.any (fun (o : Op) => o.id == k))),
                        readers := p.readers.filter (fun r => !(r.m == s.modId && r.core == co && r.slc == i)) }
      (gone.foldl (fun s o => if o.isTst then (s.dropOp o.id).heldRecord p o else s.dropOp o.id) (s.putPool q)).drained q) s

end Sys2Proof.Machine
end

