-- ==== Sys2Proof/Machine/Pumps.lean ====
section
/-! DEFINITION. Machine.Pumps: the jobs of the pump harts, and their completion (R177-R183). One event does one piece of a job: an element, a
key, or the bytes up to the next 8-byte boundary of the destination. -/

namespace Sys2Proof.Machine

/-! ## The descriptor (R180, R181) -/

/-- Word i of a descriptor, and its fields. -/
def descWord (d : BitVec 512) (i : Nat) : Nat := d.toNat / 2 ^ (64 * i) % 2 ^ 64
def descOp (d : BitVec 512) : Nat := fld (descWord d 0) 3 0
def descSize (d : BitVec 512) : Nat := 2 ^ fld (descWord d 0) 9 8
def descTag (d : BitVec 512) : Nat := fld (descWord d 0) 63 32
def descSrc (d : BitVec 512) : Word := BitVec.ofNat 64 (descWord d 1)
def descDst (d : BitVec 512) : Word := BitVec.ofNat 64 (descWord d 2)
def descLen (d : BitVec 512) : Nat := fld (descWord d 3) 39 0
def descIdx (d : BitVec 512) : Word := BitVec.ofNat 64 (descWord d 4)
def descBox (d : BitVec 512) : Word := BitVec.ofNat 64 (descWord d 5)
def descKey (d : BitVec 512) : Word := BitVec.ofNat 64 (descWord d 6)
def descTime (d : BitVec 512) : Word := BitVec.ofNat 64 (descWord d 7)
/-- Is a descriptor malformed? -/
def descBad (d : BitVec 512) : Bool :=
  let op := descOp d
  let len := descLen d
  let src := (descSrc d).toNat
  let dst := (descDst d).toNat
  8 ≤ op || fld (descWord d 0) 7 4 != 0 || fld (descWord d 0) 31 10 != 0 || fld (descWord d 3) 63 40 != 0 || (descBox d).toNat % 16 != 0 ||
    len == 0 || ((op == 0 || op == 3 || op == 4) && len % 8 != 0) || (op == 4 && descSize d != 4) || (op == 7 && len != 32768) ||
    (op == 0 && decide (src < dst + len) && decide (dst < src + len))
/-- The descriptor of a job: as read, or as it stands in the kicker's scratchpad; and the poison there. -/
def State.jobDesc (s : State) (j : Job) : BitVec 512 := j.desc.getD (BitVec.ofNat 512 (s.peek (coreKey j.iss.core j.off.toNat) 64))
def State.jobPoisoned (s : State) (j : Job) : Bool := j.desc.isNone && (firstPoison s.pois (coreKey j.iss.core j.off.toNat) 64).isSome

/-! ## A pump's accesses (R44, R123, R127, R135, R178, R190) -/

/-- Unit id of a pump in DID form; its slab and the station it sits beside. -/
def pumpDid (u : PumpId) : CoreId := BitVec.ofNat 20 (u.toNat / 64 * 16384 + u.toNat % 64)
def pumpStation (u : PumpId) : Nat × Nat := (u.toNat / 64, u.toNat % 64 / 4)
/-- A request of a pump's job. -/
def State.pumpOp (s : State) (u : PumpId) (iss : Issuer) (dst : Word) (r : Req) : Op :=
  { id := s.nextId, kind := 0, slot := 0, dst := dst, ord := 0, scope := 4, iss := { iss with core := pumpDid u }, smod := s.modId, host := false,
    req := r, stage := .flight, due := s.dueTime, foreign := false, origin := none, mc0 := false, after := none, cancel := none, pump := some u }
/-- The byte of a core of another module, as the model keeps it (log entry 21). -/
def farCoreKey (m : BitVec 12) (co : CoreId) (off : Nat) : Nat := 2 ^ 104 + m.toNat * 2 ^ 50 + co.toNat * 2 ^ 30 + off
/-- Where a request of a pump finds its bytes: their key; whether the station may hold copies of their lines, with a home on another slab; whether the
page is replicated, has MC = 0, and is a host node's. -/
structure Spot where
  key : Nat
  cold : Bool
  rp : Bool
  mc0 : Bool
  host : Bool
  deriving DecidableEq, Repr

/-- A request of a pump goes to its target by the route from the router of its station: none where it comes to it; else the cause of its fault, 0 where
it is lost on its way, which counts a misroute and is never answered (R32, R35, R36, R47). -/
def State.pumpTo (s : State) (st : Nat × Nat) (p : Packet) : State × Option Nat :=
  let lost (row col : Nat) : State × Option Nat := (s.bump (row / 128 * 8 + col / 128) 2, some 0)
  if p.dmod = s.modId ∧ p.dcls = 0 then
    (let pos := stationPos st.1 st.2
     match s.routeFrom pos.1 pos.2 p with
     | .inr sub => (s, some (refusalCause sub))
     | .inl q =>
       match follow q.segs pos.1 pos.2 with
       | .ends .. => (s, none)
       | .lost row col => lost row col)
  else
    match s.leavesBy st p with
    | .inl sub => (s, some (refusalCause sub))
    | .inr none => (s, none)
    | .inr (some d) => lost d.1 d.2
/-- The place of a byte that a pump reads (acc 3), writes (4) or updates (2), or the cause of its fault, 0 where it gets no answer; AC and DT are set once
it is translated, whatever becomes of it then (R128). -/
def State.pumpSpot (s : State) (u : PumpId) (iss : Issuer) (a : Word) (n acc : Nat) : State × (Nat ⊕ Spot) :=
  let kind : BitVec 2 := if acc = 3 then 0 else if acc = 4 then 1 else 2
  let st := pumpStation u
  if isCoreSpace a then
    (match s.pumpTo st (s.spacePacket a) with
     | (t, some c) => (t, .inl c)
     | (t, none) =>
       if spaceMod a ≠ s.modId then (t, .inr ⟨farCoreKey (spaceMod a) (spaceCore a) (fld a.toNat 18 0), false, false, false, false⟩)
       else
         match s.spaceRefusal (s.pumpOp u iss 0 (.kick 0 0)) (plainAccess kind a n 0 0 0 0) with
         | some sub => (t, .inl (refusalCause sub))
         | none => (t, .inr ⟨coreKey (spaceCore a) (fld a.toNat 18 0), false, false, false, false⟩))
  else if !isGlobal a then (s, .inl 7)
  else
    match s.stationRefusal st.1 st.2 iss.rgn s.modId false kind.toNat with
    | some sub => (s, .inl (refusalCause sub))
    | none =>
      let va := a.toNat % 2 ^ 57
      match s.translate st (s.effFor iss) va acc with
      | .bad c => (s.draw, .inl c)
      | .ok w =>
        let t := (s.draw.setAcDt w acc).cache st (s.effFor iss) iss.rgn va w acc
        let mc0 := !w.bits2.getLsbD 8
        let ap := fld w.bits2.toNat 7 6
        if ap ≠ 0 then
          (match t.pumpTo st (t.homePacket kind.toNat (ap == 2) (BitVec.ofNat 12 (fld w.bits2.toNat 23 12)) w.phys) with
           | (v, some c) => (v, .inl c)
           | (v, none) =>
             if acc ≠ 2 ∧ s.hostSaysNo w = true then (v, .inl (refusalCause 7)) else (v, .inr ⟨w.key t, false, false, mc0, ap == 2⟩))
        else
          let phys := if w.replicated && acc == 3 then replicaOf w.phys st.1 else w.phys
          match t.stationRefusal (homeSlab phys) (homeStation phys) iss.rgn s.modId false kind.toNat with
          | some sub => (t, .inl (refusalCause sub))
          | none => (t, .inr ⟨hbmKey t.modId phys, mc0 && !w.replicated && homeSlab phys != st.1, w.replicated, mc0, false⟩)
/-- A byte read by a pump, from a read copy of its station or from its home, whose line the station may then copy; and whether its granule is poisoned. -/
def State.spotByte (s : State) (u : PumpId) (x : Spot) : State × Nat × Bool :=
  match (if x.cold then s.fromCopies (pumpStation u) x.key 1 else none) with
  | some v => (s, v, false)
  | none =>
    (if x.cold then s.keepCopies (pumpStation u) x.key 1 else s, s.peek (s.real x.key) 1, poisoned s.pois (8 * (s.real x.key / 8)))
/-- What a pump has read in order: how many bytes, their value, the poison of each, and the fault at which it stopped. -/
structure Bytes where
  n : Nat
  v : Nat
  p : Nat
  fault : Option Info
  deriving DecidableEq, Repr

/-- n bytes read by a pump, in order, up to the first fault. -/
def State.pumpRead (s : State) (u : PumpId) (iss : Issuer) : Word → Nat → State × Bytes
  | _, 0 => (s, ⟨0, 0, 0, none⟩)
  | a, n + 1 =>
    match s.pumpSpot u iss a 1 3 with
    | (t, .inl c) => (t, ⟨0, 0, 0, some (infoOf c 0 a 0 0)⟩)
    | (t, .inr x) =>
      let b := t.spotByte u x
      let r := b.1.pumpRead u iss (a + 1) n
      (r.1, { n := r.2.n + 1, v := b.2.1 + 256 * r.2.v, p := b.2.2.toNat + 2 * r.2.p, fault := r.2.fault })
/-- n bytes read whose poison is a fault: an index, an addend (R136). -/
def State.pumpWord (s : State) (u : PumpId) (iss : Issuer) (a : Word) (n : Nat) : State × (Info ⊕ Nat) :=
  let r := s.pumpRead u iss a n
  match r.2.fault with
  | some i => (r.1, .inl i)
  | none => (r.1, if r.2.p = 0 then .inr r.2.v else .inl (infoOf 11 0 (a &&& ~~~7#64) 0 0))
/-- The keys that a write to a spot reaches: all replicas of a replicated page. -/
def State.spotKeys (s : State) (x : Spot) : List Nat :=
  if x.rp then (List.range 40).map (fun h => hbmKey s.modId (replicaOf (s.physOf x.key) h)) else [x.key]
/-- A store of a pump: the copies that its slab holds of a line with MC = 0 are dropped, and a store to a page with MC = 0 is remembered (R190, R193). -/
def State.pumpStores (s : State) (u : PumpId) (x : Spot) (n : Nat) : State :=
  let t := if x.cold then s.dropCopies (pumpStation u).1 x.key n else s
  if x.mc0 then t.putPump { t.pumpAt u with mc0 := some t.pace } else t
/-- n bytes within one granule written by a pump, poisoned where a byte of them came from a poisoned granule; none where that is done. A replicated page
takes them behind the stores that its primary has already performed (R131). -/
def State.pumpPiece (s : State) (u : PumpId) (iss : Issuer) (a : Word) (n v : Nat) (bad : Bool) : State × Option Info :=
  match s.pumpSpot u iss a n 4 with
  | (t, .inl c) => (t, some (infoOf c 0 a 0 0))
  | (t, .inr x) =>
    let t2 := (if x.rp then t.flushPage x.key else t).pumpStores u x n
    ((t2.spotKeys x).foldl (fun (t : State) k => t.put (t.real k) n v (if bad then 1 else 0)) t2, none)
/-- n bytes written by a pump, granule after granule. -/
def State.pumpWrite (s : State) (u : PumpId) (iss : Issuer) (a : Word) (n v p : Nat) : State × Option Info :=
  let m := min n (8 - a.toNat % 8)
  match s.pumpPiece u iss a m (v % 2 ^ (8 * m)) (p % 2 ^ m != 0) with
  | (t, some i) => (t, some i)
  | (t, none) =>
    if n ≤ m then (t, none)
    else t.pumpPiece u iss (a + BitVec.ofNat 64 m) (n - m) (v / 2 ^ (8 * m) % 2 ^ (8 * (n - m))) (p / 2 ^ m % 2 ^ (n - m) != 0)

/-! ## Pieces of the jobs (R181, R182) -/

/-- The job waits for an answer that does not come: a request of it has been lost (R32). -/
def Job.stuck (j : Job) : Job := { j with asked := some 0, ans := none }
/-- A job goes on after n more bytes, elements or keys, or ends with its first fault. -/
def Job.went (j : Job) (n : Nat) (i : Option Info) : Job :=
  match i with
  | some x => if x.cause = 0 then j.stuck else { j with outcome := some x, asked := none, ans := none }
  | none => { j with count := j.count + n, asked := none, ans := none }
/-- Bytes of the next piece of a copy. -/
def pieceLen (d : BitVec 512) (c : Nat) : Nat := min (descLen d - c) (8 - ((descDst d).toNat + c) % 8)
/-- Read an element of n bytes and write it elsewhere, poison and all. -/
def State.pumpMove (s : State) (u : PumpId) (iss : Issuer) (src dst : Word) (n : Nat) : State × Option Info :=
  let r := s.pumpRead u iss src n
  match r.2.fault with
  | some i => (r.1, some i)
  | none => r.1.pumpWrite u iss dst n r.2.v r.2.p
/-- The next piece of a job of each type; a cistern job whose answer is awaited does not change. -/
def State.copyPiece (s : State) (u : PumpId) (j : Job) (d : BitVec 512) : State × Job :=
  let r := s.pumpRead u j.iss (descSrc d + BitVec.ofNat 64 j.count) (pieceLen d j.count)
  if r.2.n = 0 then (r.1, j.went 0 r.2.fault)
  else
    let w := r.1.pumpWrite u j.iss (descDst d + BitVec.ofNat 64 j.count) r.2.n r.2.v r.2.p
    (w.1, if w.2.isSome then j.went 0 w.2 else (j.went r.2.n none).went 0 r.2.fault)
/-- Element address base + size * i. -/
def elemAt (base : Word) (size i : Nat) : Word := base + BitVec.ofNat 64 (size * i)
def State.gatherPiece (s : State) (u : PumpId) (j : Job) (d : BitVec 512) : State × Job :=
  let z := descSize d
  match s.pumpWord u j.iss (elemAt (descIdx d) 4 j.count) 4 with
  | (t, .inl i) => (t, j.went 0 (some i))
  | (t, .inr x) =>
    let r := t.pumpMove u j.iss (elemAt (descSrc d) z x) (elemAt (descDst d) z j.count) z
    (r.1, j.went 1 r.2)
def State.scatterPiece (s : State) (u : PumpId) (j : Job) (d : BitVec 512) : State × Job :=
  let z := descSize d
  match s.pumpWord u j.iss (elemAt (descIdx d) 4 j.count) 4 with
  | (t, .inl i) => (t, j.went 0 (some i))
  | (t, .inr x) =>
    let r := t.pumpMove u j.iss (elemAt (descSrc d) z j.count) (elemAt (descDst d) z x) z
    (r.1, j.went 1 r.2)
/-- Byte k of the pattern goes to byte k of each granule of DST counted from its start. -/
def State.fillPiece (s : State) (u : PumpId) (j : Job) (d : BitVec 512) : State × Job :=
  let n := pieceLen d j.count
  let w := (descSrc d).toNat
  let v := (w + 2 ^ 64 * w) / 2 ^ (8 * (j.count % 8)) % 2 ^ (8 * n)
  let r := s.pumpWrite u j.iss (descDst d + BitVec.ofNat 64 j.count) n v 0
  (r.1, j.went n r.2)
/-- The sum of an f32 and its addend is stored where an atomic performs it. -/
def State.addAt (s : State) (u : PumpId) (j : Job) (x : Spot) (a : Word) (v : Nat) : State × Job :=
  if (firstPoison s.pois (s.real x.key) 4).isSome then (s, j.went 0 (some (infoOf 11 0 (a &&& ~~~7#64) 0 0)))
  else
    let t := s.pumpStores u x 4
    (t.putGood (t.real x.key) 4 (amoNew 9 4 (t.peek (t.real x.key) 4) v), j.went 4 none)
/-- A request of a job enters the machine, in a stage. -/
def State.jobSends (s : State) (u : PumpId) (j : Job) (dst : Word) (r : Req) (st : Stage) (mc0 : Bool) : State × Job :=
  (s.addOp { s.pumpOp u j.iss dst r with stage := st, mc0 := mc0 }, { j with asked := some s.nextId })
/-- One f32 added by an atomic at its destination; one in the memory of a host node is the host's to perform or to refuse (R130). -/
def State.addPiece (s : State) (u : PumpId) (j : Job) (d : BitVec 512) : State × Job :=
  let a := descDst d + BitVec.ofNat 64 j.count
  match j.asked, j.ans with
  | some _, none => (s, j)
  | some _, some (.done _ _) => (s, j.went 4 none)
  | some _, some (.fault c b _ _) => (s, j.went 0 (some (infoOf c.toNat 0 b 0 0)))
  | none, _ =>
    match s.pumpWord u j.iss (descSrc d + BitVec.ofNat 64 j.count) 4 with
    | (t, .inl i) => (t, j.went 0 (some i))
    | (t, .inr v) =>
      if a.toNat % 4 ≠ 0 then (t, j.went 0 (some (infoOf 6 0 a 0 0)))
      else
        match t.pumpSpot u j.iss a 4 2 with
        | (t2, .inl c) => (t2, j.went 0 (some (infoOf c 0 a 0 0)))
        | (t2, .inr x) =>
          if x.host then t2.jobSends u j 0 (.mem (plainAccess 2 a 4 (BitVec.ofNat 4096 v) 0 9 0)) (.away true) x.mc0
          else t2.addAt u j x a v
/-- Bytes of a record of the pool of a key. -/
def State.recBytes (s : State) (key : Word) : Nat := 4 * ((s.poolOf key).map (·.n)).getD 8
/-- Poison of the 8-byte granules of a record from that of its bytes. -/
def granulePoison (p : Nat) : BitVec 32 :=
  BitVec.ofNat 32 ((List.range 32).foldl (fun a g => if p / 2 ^ (8 * g) % 256 = 0 then a else a + 2 ^ g) 0)
/-- The key of the next request of a cistern job. -/
def jobKey (d : BitVec 512) (i : Nat) : Word := descKey d + BitVec.ofNat 64 i
/-- Put a request of the job into the machine. -/
def State.jobAsks (s : State) (u : PumpId) (j : Job) (dst : Word) (r : Req) : State × Job := s.jobSends u j dst r .flight false
/-- A cistern store: a request, then its answer; codes 5 to 7, refusals and poison are faults. -/
def State.storePiece (s : State) (u : PumpId) (j : Job) (d : BitVec 512) : State × Job :=
  let key := jobKey d j.count
  match j.asked, j.ans with
  | none, _ =>
    let n := s.recBytes key
    let a := elemAt (descSrc d) n j.count
    let r := s.pumpRead u j.iss a n
    (match r.2.fault with
     | some i => (r.1, j.went 0 (some i))
     | none => r.1.jobAsks u j a (.tst key (descTime d) (BitVec.ofNat 2048 r.2.v) (granulePoison r.2.p)))
  | some _, some (.done _ _) => (s, j.went 1 none)
  | some _, some (.fault c a _ _) => (s, j.went 0 (some (infoOf c.toNat 0 a 0 0)))
  | some _, none => (s, j)
/-- The status byte of a key. -/
def State.statusByte (s : State) (u : PumpId) (j : Job) (d : BitVec 512) (c : Nat) : State × Option Info :=
  s.pumpWrite u j.iss (descIdx d + BitVec.ofNat 64 j.count) 1 c 0
/-- A cistern load: a request, then the record, then the status byte; codes 5 to 7 are written first and end the job. -/
def State.loadPiece (s : State) (u : PumpId) (j : Job) (d : BitVec 512) : State × Job :=
  let key := jobKey d j.count
  match j.asked, j.ans with
  | none, _ => s.jobAsks u j 0 (.tld key (descTime d) 0 0 false false)
  | some _, some (.done v _) =>
    let c := v.toNat / 2 ^ 2048 % 256
    let n := 4 * (v.toNat / 2 ^ 2056 % 256)
    let a := elemAt (descDst d) n j.count
    let w := (List.range (if c ≤ 3 then n else 0)).foldl (fun (r : State × Option Info) i => match r.2 with
      | some x => (r.1, some x)
      | none => if i % 8 = 0 then r.1.pumpWrite u j.iss (a + BitVec.ofNat 64 i) (min 8 (n - i)) (v.toNat / 2 ^ (8 * i) % 2 ^ (8 * min 8 (n - i))) 0
                else r) (s, none)
    (match w.2 with
     | some i => (w.1, j.went 0 (some i))
     | none => let r := w.1.statusByte u j d c
       (r.1, j.went 1 r.2))
  | some _, some (.fault c a _ _) =>
    if c.toNat % 256 = 16 then
      (let r := s.statusByte u j d (c.toNat / 256 % 256)
       (r.1, j.went 0 (some (r.2.getD (infoOf c.toNat 0 a 0 0)))))
    else (s, j.went 0 (some (infoOf c.toNat 0 a 0 0)))
  | some _, none => (s, j)
def State.codePiece (s : State) (u : PumpId) (j : Job) (d : BitVec 512) : State × Job :=
  let n := pieceLen d j.count
  let r := s.pumpWrite u j.iss (descDst d + BitVec.ofNat 64 j.count) n (s.peek (pumpKey u (131072 + j.count)) n) 0
  (r.1, j.went n r.2)

/-! ## The events -/

/-- The job in progress of a pump, changed; and the pump without it. -/
def State.setJob (s : State) (u : PumpId) (j : Job) : State :=
  let p := s.pumpAt u
  s.putPump { p with queue := j :: p.queue.drop 1 }
def State.popJob (s : State) (u : PumpId) : State :=
  let p := s.pumpAt u
  s.putPump { p with queue := p.queue.drop 1 }
/-- Does the further wait of R193 let a release of a pump at system scope go: a `tst`, or the last store of a mailbox? -/
def State.pumpReleased (s : State) (u : PumpId) : Bool := s.pastTick (s.pumpAt u).mc0 4
/-- The job in progress of a pump is one that runs, of an op code; the `tst` of a cistern store is a release (R198). -/
def State.jobRuns (s : State) (u : PumpId) (j : Job) (op : Nat) : Bool :=
  j.outcome.isNone && !s.jobPoisoned j && !descBad (s.jobDesc j) && descOp (s.jobDesc j) == op && (j.asked.isNone || j.ans.isSome) &&
    (op != 5 || j.asked.isSome || s.pumpReleased u)
/-- One piece of the job in progress; a job that has done all of LEN has its outcome. -/
def State.pumpEvent (s : State) (u : PumpId) (op : Nat) (name : String) (piece : State → Job → BitVec 512 → State × Job) : Out :=
  match (s.pumpAt u).queue with
  | [] => .refused (.notEnabled name)
  | j :: _ =>
    if !s.jobRuns u j op then .refused (.notEnabled name)
    else
      let d := s.jobDesc j
      let r := piece s { j with desc := some d } d
      let e : Job := { r.2 with due := r.1.dueTime }
      let f := if e.outcome.isNone && e.count == descLen d then { e with outcome := some (infoOf 0 0 0 0 0) } else e
      .next (r.1.setJob u f).draw
def execPumpCopy (u : PumpId) (s : State) : Out := s.pumpEvent u 0 "PUMP_COPY" (fun s => s.copyPiece u)
def execPumpGather (u : PumpId) (s : State) : Out := s.pumpEvent u 1 "PUMP_GATHER" (fun s => s.gatherPiece u)
def execPumpScatter (u : PumpId) (s : State) : Out := s.pumpEvent u 2 "PUMP_SCATTER" (fun s => s.scatterPiece u)
def execPumpFill (u : PumpId) (s : State) : Out := s.pumpEvent u 3 "PUMP_FILL" (fun s => s.fillPiece u)
def execPumpAddReduce (u : PumpId) (s : State) : Out := s.pumpEvent u 4 "PUMP_ADD_REDUCE" (fun s => s.addPiece u)
def execPumpCisternStore (u : PumpId) (s : State) : Out := s.pumpEvent u 5 "PUMP_CISTERN_STORE" (fun s => s.storePiece u)
def execPumpCisternLoad (u : PumpId) (s : State) : Out := s.pumpEvent u 6 "PUMP_CISTERN_LOAD" (fun s => s.loadPiece u)
def execPumpMicrocodeRead (u : PumpId) (s : State) : Out := s.pumpEvent u 7 "PUMP_MICROCODE_READ" (fun s => s.codePiece u)

/-! ## Completion (R177, R182, R183) -/

/-- The outcome of a job that is over: run, malformed, or never run for a poisoned descriptor. -/
def State.jobOver (s : State) (j : Job) : Option (Info × Bool) :=
  match j.outcome with
  | some i => some (i, false)
  | none =>
    if s.jobPoisoned j then some (infoOf 11 0 j.off 0 0, true)
    else if descBad (s.jobDesc j) then some (infoOf 10 256 0 0 0, false)
    else none
/-- The channel of the kicker takes its one update, where its slice is still there. -/
def State.channelEnd (s : State) (i : Issuer) (chan : BitVec 4) (fault : Bool) : State :=
  if chan = 0 ∨ !s.issuerThere i then s
  else s.modSlice i.core i.slc (fun x => x.jobEnd (Fin.ofNat 16 chan.toNat) fault)
/-- Does a job name a mailbox that it can store to? -/
def hasBox (d : BitVec 512) : Bool := descBox d != 0 && (descBox d).toNat % 16 == 0
/-- What follows the mailbox of a job, whose store may have faulted: a fault record where R183 asks for one, then the channel's update. -/
def State.jobTold (s : State) (j : Job) (d : BitVec 512) (i : Info) (bad : Option Info) : State :=
  let fault := i.cause.toNat % 256 != 0
  let tag := BitVec.ofNat 64 (descTag d)
  let n := BitVec.ofNat 64 j.count
  let t := match bad with
    | some x => s.lateFault ⟨{ cause := BitVec.ofNat 64 (setFld x.cause.toNat 23 16 (i.cause.toNat % 256)), addr := descBox d, d0 := tag, d1 := n }, j.iss⟩
    | none => if fault && (!hasBox d || !s.issuerThere j.iss) then s.lateFault ⟨{ i with d0 := tag, d1 := n }, j.iss⟩ else s
  t.channelEnd j.iss j.chan fault
/-- Bytes 0 to 7 of the mailbox are stored, with release at system scope, and the job is over (R182). -/
def State.boxLow (s : State) (u : PumpId) (j : Job) (d : BitVec 512) (i : Info) : State :=
  let w := s.pumpWrite u j.iss (descBox d) 8 (descTag d * 2 ^ 32 + i.cause.toNat % 65536) 0
  if w.2.any (fun x => x.cause == 0) then w.1.setJob u j.stuck else (w.1.popJob u).jobTold j d i w.2
/-- The mailbox of a job that is over: bytes 8 to 15, then bytes 0 to 7, at once where the release of these has nothing to wait for (R182, R193). -/
def State.mailbox (s : State) (u : PumpId) (j : Job) (d : BitVec 512) (i : Info) : State :=
  if j.half then s.boxLow u j d i
  else
    let r := s.pumpWrite u j.iss (descBox d + 8) 8 j.count 0
    match r.2 with
    | some x => if x.cause = 0 then r.1.setJob u j.stuck else (r.1.popJob u).jobTold j d i (some x)
    | none => if r.1.pumpReleased u then r.1.boxLow u j d i else (r.1.setJob u { j with half := true, due := r.1.dueTime }).draw
/-- The job in progress ends: mailbox, channel, and a fault record where R183 asks for one. -/
def State.jobEnds (s : State) (u : PumpId) (j : Job) (i : Info) (unread : Bool) : State :=
  let d := s.jobDesc j
  if unread then ((s.popJob u).lateFault ⟨{ i with d0 := 0, d1 := 0 }, j.iss⟩).channelEnd j.iss j.chan true
  else if hasBox d then s.mailbox u j d i
  else (s.popJob u).jobTold j d i none
/-- May a job that is over go on: has it not to wait for the release of its mailbox, or for a store of it that has been lost? -/
def State.jobMayEnd (s : State) (u : PumpId) (j : Job) : Bool := j.asked.isNone && (!j.half || s.pumpReleased u)
def execPumpJobCompletion (u : PumpId) (s : State) : Out :=
  match (s.pumpAt u).queue with
  | [] => .refused (.notEnabled "PUMP_JOB_COMPLETION")
  | j :: _ =>
    match s.jobOver j with
    | none => .refused (.notEnabled "PUMP_JOB_COMPLETION")
    | some o => if s.jobMayEnd u j then .next (s.jobEnds u j o.1 o.2) else .refused (.notEnabled "PUMP_JOB_COMPLETION")
/-- The event that is next for the job in progress of a pump; none while it waits for an answer. -/
def State.pumpNext (s : State) (p : Pump) : Option Instr :=
  match p.queue with
  | [] => none
  | j :: _ =>
    if (s.jobOver j).isSome then (if s.jobMayEnd p.id j then some (.pumpJobCompletion p.id) else none)
    else if !s.jobRuns p.id j (descOp (s.jobDesc j)) then none
    else
      match descOp (s.jobDesc j) with
      | 0 => some (.pumpCopy p.id)
      | 1 => some (.pumpGather p.id)
      | 2 => some (.pumpScatter p.id)
      | 3 => some (.pumpFill p.id)
      | 4 => some (.pumpAddReduce p.id)
      | 5 => some (.pumpCisternStore p.id)
      | 6 => some (.pumpCisternLoad p.id)
      | _ => some (.pumpMicrocodeRead p.id)

end Sys2Proof.Machine
end

