-- ==== Sys2Proof/Machine/Regions.lean ====
section
/-! DEFINITION. Machine.Regions: region control blocks, placement, removal and resumption of slices, and the events of the dispatcher and of
supersteps (R84, R88-R105, R298-R301, R385, R386, R389, R393, R395). -/

namespace Sys2Proof.Machine

/-! ## The region control block (R88, R89, R389) -/

/-- The bits of a block that are no field. -/
def rcbReserved (v : Nat) : Bool :=
  let fields : List (Nat × Nat) := [(1119, 1088), (1087, 1056), (1055, 1024), (971, 960), (945, 926), (925, 922), (921, 918), (917, 914), (913, 912),
    (911, 911), (910, 910), (909, 908), (907, 896), (886, 885), (884, 883), (882, 879), (878, 866), (865, 846), (845, 832), (824, 809), (808, 802),
    (801, 793), (792, 784), (783, 776), (775, 768), (759, 736), (735, 704), (703, 688), (687, 672), (671, 640), (615, 576), (563, 544), (543, 536),
    (535, 528), (527, 512), (511, 448), (447, 384), (383, 320), (319, 256), (255, 192), (191, 128), (127, 64), (63, 0)]
  fields.foldl (fun (m : Nat) f => m - fld v f.1 f.2 * 2 ^ f.2) v != 0
/-- Effective values of the module root. -/
def rootEff : Eff :=
  { Eff.zero with cls := 3, bud := 1024, per := 1, spkb := 4, rlen := 4096, mwt := 1, xlen := 1, xgap := 1, s2f := Config.rootTable }
/-- The effective values of a region: its own groups, and its parent's for each clear OVR bit; stage 2 is the owner's choice or the tenant's. -/
def effOf (par : Eff) (v : Nat) (rcb : Word) (owner : Bool) (tenant : BitVec 40) : Eff :=
  let o (i : Nat) : Bool := v.testBit (688 + i)
  let e0 : Eff := if o 0 then { par with cls := BitVec.ofNat 2 (fld v 909 908) } else par
  let e1 := if o 1 then { e0 with disc := v.testBit 910 } else e0
  let e2 := if o 2 then { e1 with acc := v.testBit 911 } else e1
  let e3 := if o 3 then { e2 with dfp := BitVec.ofNat 2 (fld v 913 912) } else e2
  let e4 := if o 4 then { e3 with bud := BitVec.ofNat 32 (fld v 671 640), per := BitVec.ofNat 16 (fld v 687 672) } else e3
  let e5 := if o 5 then { e4 with spkb := BitVec.ofNat 9 (fld v 792 784), spill := BitVec.ofNat 9 (fld v 801 793), vcc := BitVec.ofNat 2 (fld v 884 883),
                                  hvc := BitVec.ofNat 2 (fld v 886 885) } else e4
  let e6 := if o 6 then { e5 with code := BitVec.ofNat 64 (fld v 255 192), clen := BitVec.ofNat 14 (fld v 845 832), entry := BitVec.ofNat 16 (fld v 824 809),
                                  iskb := BitVec.ofNat 7 (fld v 808 802) } else e5
  let e7 := if o 7 then { e6 with rlen := BitVec.ofNat 13 (fld v 878 866) } else e6
  let e8 := if o 8 then { e7 with mwt := BitVec.ofNat 4 (fld v 882 879) } else e7
  let e9 := if o 10 then { e8 with pasid := BitVec.ofNat 20 (fld v 563 544) } else e8
  let e10 := { e9 with s2f := if owner then (if o 11 then BitVec.ofNat 40 (fld v 615 576) else par.s2f) else tenant }
  let e11 := if o 12 then { e10 with xlen := BitVec.ofNat 8 (fld v 535 528), xgap := BitVec.ofNat 8 (fld v 543 536), routes := BitVec.ofNat 64 (fld v 511 448),
                                     nrt := BitVec.ofNat 16 (fld v 527 512) } else e10
  let e12 := if o 13 then { e11 with ovp := BitVec.ofNat 64 (fld v 447 384) } else e11
  if o 9 then { e12 with fdom := some rcb, fhmod := BitVec.ofNat 12 (fld v 971 960), fhcore := BitVec.ofNat 20 (fld v 945 926), fhslc := BitVec.ofNat 4 (fld v 925 922),
                         fqbase := BitVec.ofNat 64 (fld v 319 256), fqlog := BitVec.ofNat 4 (fld v 917 914), fpasid := e12.pasid, fs2f := e12.s2f }
  else e12
/-- Bytes of a partition that the save area, the workspaces and the spill carve-out take (R95). -/
def Eff.head (e : Eff) : Nat := (if e.acc then 4096 else 0) + wsBytes (vecCount e.vcc) + 10 * wsBytes (vecCount e.hvc)
/-- Does a region break the Meaning column, or its parts not fit (R88, R95)? -/
def rcbBad (v : Nat) (e : Eff) (rect : Bool) : Bool :=
  let rows := fld v 775 768
  let cols := fld v 783 776
  fld v 703 702 != 0 || decide (128 < rows) || decide (128 < cols) || ((rows == 0) != (cols == 0)) || fld v 383 320 % 8 != 0 || e.dfp == 3 ||
    (e.fdom.isSome && (decide (e.fqlog.toNat < 4) || decide (12 < e.fqlog.toNat) || e.fqbase.toNat % 64 != 0)) ||
    (e.disc && (e.xgap == 0 || e.xlen == 0)) ||
    (rect &&
      ((e.rlen != 0 && decide (e.rlen.toNat < 16)) || decide (4096 < e.rlen.toNat) || e.clen == 0 || decide (8192 < e.clen.toNat) ||
        e.entry.toNat % 8 != 0 || decide (8 * e.clen.toNat ≤ e.entry.toNat) || decide (e.iskb.toNat < 4) || decide (64 < e.iskb.toNat) ||
        e.iskb.toNat % 4 != 0 || decide (e.iskb.toNat * 1024 < 8 * e.clen.toNat) || decide (256 < e.spill.toNat) ||
        decide (e.spkb.toNat < 4) || decide (384 < e.spkb.toNat) || e.spkb.toNat % 4 != 0 || e.per == 0 || e.bud == 0 || e.code.toNat % 8 != 0 ||
        !isGlobal e.code || e.routes.toNat % 32 != 0 || (e.nrt != 0 && !isGlobal e.routes) || decide (e.spkb.toNat * 1024 < e.head + e.spill.toNat * 1024)))
/-- Status of a command whose access failed (R85, R395). -/
def statusOf (cause : Nat) : Nat :=
  match cause % 256 with
  | 8 => 5
  | 11 => 11
  | _ => 6

/-! ## The directory (R90, R91) -/

/-- A placed region by id, and by the address of its block. -/
def State.region (s : State) (id : BitVec 12) : Option Region := s.regions.find? (fun r => r.id == id)
def State.regionAt (s : State) (rcb : Word) : Option Region := s.regions.find? (fun r => r.rcb == rcb)
/-- Put a region back. -/
def State.putRegion (s : State) (r : Region) : State := { s with regions := s.regions.map (fun x => if x.id == r.id then r else x) }
/-- The ids of the subtree of a region: a parent stands before its children in the list. -/
def State.subtree (s : State) (id : BitVec 12) : List (BitVec 12) :=
  s.regions.foldl (fun l r => if l.contains r.parent && r.id != 0 then l ++ [r.id] else l) [id]
/-- Does a region lie in the subtree of another? -/
def State.under (s : State) (id top : BitVec 12) : Bool := (s.subtree top).contains id
/-- A region and those above it. -/
def State.chain (s : State) : Nat → BitVec 12 → List Region
  | 0, _ => []
  | fuel + 1, id =>
    match s.region id with
    | none => []
    | some r => if id = 0 then [r] else r :: s.chain fuel r.parent
/-- The slices in slice tables that belong to one of some regions: core and index. -/
def State.slicesOf (s : State) (ids : List (BitVec 12)) : List (CoreId × Fin 16) :=
  s.cores.flatMap (fun c => ((List.finRange 16).filter (fun i => c.slices[i].v && ids.contains c.slices[i].rgn)).map (fun i => (c.id, i)))
/-- The stage-2 roots that the regions of a list use. -/
def rootsIn (l : List Region) : List (BitVec 40) := ((l.filter (fun r => r.id != 0)).map (fun r => r.eff.s2f)).eraseDups
/-- Frames that the leaves of the stage-2 tables map that a subtree uses (R122). -/
def State.subtreeFrames (s : State) (top : BitVec 12) : Nat :=
  let ids := s.subtree top
  (rootsIn (s.regions.filter (fun r => ids.contains r.id))).foldl (fun n f => n + s.framesUsed f.toNat) 0
/-- The subtree that the frames of a region's tables belong to, as `frames` names it: by the placement of the topmost region above it that uses the same
tables. -/
def State.subtreeMark (s : State) (r : Region) : BitVec 64 :=
  BitVec.ofNat 64 ((((s.chain 4096 r.id).filter (fun x => x.id != 0 && x.eff.s2f == r.eff.s2f)).getLast?.getD r).uid + 1)
/-- A frame enters the tables of a subtree: it is zeroed where it was last mapped in another, or held cistern storage (R122). -/
def State.enterFrame (s : State) (mark : BitVec 64) (f : Nat) : State :=
  let old := s.frames.get f
  if old = mark then s
  else
    let t := if old = 0 then s else s.putGood (s.real (hbmKey s.modId (f * 65536))) 65536 0
    { t with frames := t.frames.set f mark }
/-- The frames enter that leaves map under the roots in use and did not map under them before. -/
def State.framesEnter (s old : State) : State :=
  (rootsIn s.regions).foldl (fun (t : State) f =>
    let before := if (rootsIn old.regions).contains f then old.mappedUnder f.toNat else []
    match s.regions.find? (fun r => r.id != 0 && r.eff.s2f == f) with
    | none => t
    | some r => ((s.mappedUnder f.toNat).filter (fun l => !before.contains l)).foldl (fun (t : State) l =>
        (List.range l.2).foldl (fun (t : State) i => t.enterFrame (s.subtreeMark r) (l.1 + i)) t) t) s
/-- The lowest region id not in use among n ids from i up. -/
def State.freeFrom (s : State) : Nat → Nat → Option (BitVec 12)
  | 0, _ => none
  | n + 1, i => if (s.region (BitVec.ofNat 12 i)).isNone then some (BitVec.ofNat 12 i) else s.freeFrom n (i + 1)
/-- The lowest region id not in use; 0 is the root's. -/
def State.freeId (s : State) : Option (BitVec 12) := s.freeFrom 4095 1

/-! ## Reading a subtree (R92) -/

/-- A block of a subtree: its address, its contents and the index of its parent in the list. -/
structure Node where
  rcb : Word
  v : Nat
  up : Option Nat
  deriving DecidableEq, Repr

/-- The blocks of a subtree in pre-order, or the status with which a LAUNCH ends. -/
def State.readTree (slab : Nat) (pasid : BitVec 20) (s2f : BitVec 40) : Nat → List (Word × Option Nat) → List Node → State → State × (Nat ⊕ List Node)
  | _, [], acc, s => (s, .inr acc)
  | 0, _ :: _, _, s => (s, .inl 4)
  | fuel + 1, (a, up) :: todo, acc, s =>
    if a.toNat % 256 ≠ 0 ∨ acc.any (fun n => n.rcb == a) = true ∨ (s.regionAt a).isSome = true then (s, .inl 4)
    else
      match s.gread slab pasid.toNat s2f.toNat a.toNat 256 with
      | .bad c => (s.ctrlMark slab pasid.toNat s2f.toNat a.toNat 0, .inl (statusOf c))
      | .ok (t, v) =>
        if rcbReserved v then (t, .inl 4)
        else
          let child := BitVec.ofNat 64 (fld v 127 64)
          let sib := BitVec.ofNat 64 (fld v 191 128)
          State.readTree slab pasid s2f fuel ((if child = 0 then [] else [(child, some acc.length)]) ++
            (if up.isNone || sib == 0 then [] else [(sib, up)]) ++ todo) (acc ++ [{ rcb := a, v := v, up := up }]) t

/-! ## Admission and fit (R93, R94) -/

/-- Idempotent-region limit in bundles. -/
def Eff.rlimit (e : Eff) : Nat := if e.rlen = 0 then 4096 else e.rlen.toNat
/-- A slice's term of X. -/
def Slice.xTerm (x : Slice) : Nat := 11 * x.eff.rlimit + (if x.acc then 2304 else 0)
/-- The product of the periods. -/
def perProduct (l : List Slice) : Nat := l.foldl (fun p x => p * x.per.toNat) 1
/-- The test of R94 for one slice of a list, the i-th, in units of one over the product of all periods. -/
def admits (l : List Slice) (i : Nat) (x : Slice) : Bool :=
  let d := perProduct l
  let same := l.foldl (fun a y => if y.cls = x.cls then a + y.bud.toNat * (d / y.per.toNat) else a) 0
  let higher := l.foldl (fun a y => if y.cls.toNat < x.cls.toNat then a + ((x.per.toNat + y.per.toNat - 1) / y.per.toNat + 1) * y.bud.toNat else a) 0
  let worst := (l.zipIdx.filter (fun p => p.2 != i)).foldl (fun m p => max m p.1.xTerm) 0
  x.cls == 3 || decide (same + (higher + worst) * (d / x.per.toNat) ≤ 512 * d)
/-- The admission test of a core's slices. -/
def admission (l : List Slice) : Bool := l.zipIdx.all (fun p => admits l p.2 p.1)
/-- The lowest base, in 4 KiB units, at which n units are free among used ranges, below a limit. -/
def lowestFit (used : List (Nat × Nat)) (n limit : Nat) : Option Nat :=
  (List.range limit).find? (fun b => decide (b + n ≤ limit) && used.all (fun u => decide (b + n ≤ u.1) || decide (u.2 ≤ b)))
/-- The slices in a core's table. -/
def Core.placed (c : Core) : List Slice := c.slices.toList.filter (fun x => x.v)
/-- What the new slice would be to the admission test. -/
def candidate (e : Eff) : Slice := { Slice.fresh with v := true, cls := e.cls, disc := e.disc, acc := e.acc, bud := e.bud, per := e.per, eff := e }
/-- Table index, partition base and instruction-store base that a slice would take on a core; none where the core does not qualify. -/
def Core.fit (c : Core) (e : Eff) : Option (Fin 16 × Nat × Nat) :=
  let l := c.placed
  if (e.disc && !l.isEmpty) || l.any (fun x => x.disc) then none
  else
    match (List.finRange 16).find? (fun i => !c.slices[i].v),
        lowestFit (l.map (fun x => (x.pb.toNat, x.pb.toNat + (x.pkb.toNat + 3) / 4))) (e.spkb.toNat / 4) 96,
        lowestFit (l.map (fun x => (x.ib.toNat, x.ib.toNat + x.eff.iskb.toNat / 4))) (e.iskb.toNat / 4) 16 with
    | some i, some p, some b => if admission (l ++ [candidate e]) then some (i, p, b) else none
    | _, _, _ => none
/-- The cores of a rectangle, in the order of their slice indices. -/
def rectCores (slab top left rows cols : Nat) : List CoreId :=
  (List.range (rows * cols)).map (fun k => BitVec.ofNat 20 (slab * 16384 + (top + k / cols) * 128 + left + k % cols))
/-- The first rectangle in which every core qualifies. -/
def State.findRect (s : State) (e : Eff) (rows cols : Nat) : Option (Nat × List CoreId) :=
  ((List.range 40).filter (fun h => s.joined.getLsbD h)).findSome? (fun h =>
    (List.range (129 - rows)).findSome? (fun top =>
      (List.range (129 - cols)).findSome? (fun left =>
        let l := rectCores h top left rows cols
        if l.all (fun co => ((s.coreAt co).fit e).isSome) then some (h, l) else none)))

/-! ## Placing a region (R90-R96, R117, R385, R386, R393) -/

/-- A core's table with an entry put ahead of all others; none where every entry is valid. -/
def tableInsert (l : List (BitVec 64)) (e : BitVec 64) : Option (List (BitVec 64)) :=
  match l.findIdx? (fun x => !x.getLsbD 63) with
  | none => none
  | some i => some (e :: l.eraseIdx i)
/-- The n words from a global address, the first lowest, with their poison: code images, which pumps copy (R95, R135). -/
def State.readCode (slab pasid s2f : Nat) : Nat → Nat → State → State × (Nat ⊕ (Nat × Nat))
  | 0, _, s => (s, .inr (0, 0))
  | n + 1, va, s =>
    match s.ctrlWalk slab pasid s2f (va % 2 ^ 57) 0 with
    | .bad c => (s.ctrlMark slab pasid s2f va 0, .inl (statusOf c))
    | .ok w =>
      let k := s.real (w.loadKey s slab)
      match State.readCode slab pasid s2f n (va + 8) (s.setAcDt w 0).draw with
      | (t, .inl c) => (t, .inl c)
      | (t, .inr (v, p)) => (t, .inr (s.peek k 8 + 2 ^ 64 * v, (poisoned s.pois (8 * (k / 8))).toNat + 2 * p))
/-- The records of a compiled route list. -/
def State.readRoutes (slab pasid s2f : Nat) : Nat → Nat → State → State × (Nat ⊕ List Nat)
  | 0, _, s => (s, .inr [])
  | n + 1, va, s =>
    match s.gread slab pasid s2f va 32 with
    | .bad c => (s.ctrlMark slab pasid s2f va 0, .inl (statusOf c))
    | .ok (t, v) =>
      match State.readRoutes slab pasid s2f n (va + 32) t with
      | (u, .inl c) => (u, .inl c)
      | (u, .inr l) => (u, .inr (v :: l))
/-- Is a route a relative one, to a slice of its own region (R385)? -/
def relRoute (v : Nat) : Bool := let e := v / 2 ^ 64; fld e 190 188 == 0 && fld e 67 62 == 63
/-- Does a record name a slice beyond n, or a path index below 64? -/
def routeBad (n v : Nat) : Bool := decide (n ≤ fld v 15 0) || decide (fld v 23 16 < 64) || (relRoute v && decide (n ≤ fld (v / 2 ^ 64) 61 48))
/-- Placement writes a route's path-table entry, which takes effect from the next cycle (R7, R36, R88, R385). -/
def State.putRoute (s : State) (cores : List CoreId) (v : Nat) : State :=
  let e := v / 2 ^ 64
  let e2 := if relRoute v then setFld (setFld e 79 68 s.modId.toNat) 67 48 (cores.getD (fld e 61 48) 0).toNat else e
  let co := cores.getD (fld v 15 0) 0
  { s with fab := { s.fab with pathNew := s.fab.pathNew ++ [(co.toNat * 256 + fld v 23 16, pathEntryOf (BitVec.ofNat 192 e2))] } }
/-- The control context as placement leaves it. -/
def firstCtx (wp pc : Nat) (prv : Bool) : Ctx :=
  { Ctx.fresh with live := true, wp := BitVec.ofNat 64 wp, pc := BitVec.ofNat 64 pc, prv := prv, entry := BitVec.ofNat 64 pc }
/-- A slab controller's start message to a core (R117). -/
def State.sendStart (s : State) (co : CoreId) (i : Fin 16) : State :=
  let slab := slabOf co
  let d := stationPos slab 0
  s.sendFrom d.1 d.2 5 { hdr := mkHdr 3 1 0 s.modId co (s.ctrlStamp slab) 0 (31 * 65536), body := BitVec.ofNat 4096 i.val, pois := 0 }
/-- The entry of a slice as placement fills it (R95, R96). -/
def placedSlice (r : Region) (rows cols k : Nat) (gang : BitVec 16) (arm : Option Nat) (prv : Bool) (lead : CoreId) (pb ib : Nat) : Slice :=
  let e := r.eff
  let base := pb * 4096
  let wp := base + (if e.acc then 4096 else 0)
  { Slice.fresh with
      v := true, st := .held, cls := e.cls, disc := e.disc, acc := e.acc, rgn := r.id, uid := r.uid, gang := gang, arm := arm, bud := e.bud, per := e.per,
      wp := BitVec.ofNat 10 (wp / 512), pb := BitVec.ofNat 7 pb, pkb := e.spkb, eff := e, rcb := r.rcb, k := k, crows := BitVec.ofNat 8 rows,
      ccols := BitVec.ofNat 8 cols, lead := lead, ib := BitVec.ofNat 4 ib, spl := BitVec.ofNat 9 (base / 1024 + e.spkb.toNat - e.spill.toNat), ovp := e.ovp,
      ctxs := (Vector.replicate 11 Ctx.fresh).set 0 (firstCtx wp (ib * 4096 + e.entry.toNat) prv) }
/-- The partitions are zeroed and their tags cleared, and the code is copied with its poison (R95). -/
def State.fillParts (s : State) (e : Eff) (co : CoreId) (pb ib : Nat) (code : Nat × Nat) : State :=
  ((((s.putGood (coreKey co (pb * 4096)) (e.spkb.toNat * 1024) 0).setTags co (pb * 4096) (e.spkb.toNat * 1024) 0).putGood
    (coreKey co (393216 + ib * 4096)) (e.iskb.toNat * 1024) 0).put (coreKey co (393216 + ib * 4096)) (8 * e.clen.toNat) code.1 code.2)
/-- The words that placement writes into the control workspace: slice index, rectangle, block, data area, pc, flags (R95). -/
def State.fillWorkspace (s : State) (r : Region) (rows cols k : Nat) (prv : Bool) (co : CoreId) (pb ib : Nat) : State :=
  let e := r.eff
  let wp := pb * 4096 + (if e.acc then 4096 else 0)
  let w (t : State) (off v : Nat) : State := t.putGood (coreKey co (wp + off)) 8 v
  w (w (w (w (w (w (w s 8 k) 16 (rows * 256 + cols)) 24 r.rcb.toNat) 32 (pb * 4096 + e.head)) 40
    (e.spkb.toNat * 1024 - e.head - e.spill.toNat * 1024)) 256 (ib * 4096 + e.entry.toNat)) 264 (if prv then 2 else 0)
/-- The core cycle of a core of the slab. -/
def State.slabCycle (s : State) (co : CoreId) : Nat :=
  match s.cores.find? (fun d => slabOf d.id == slabOf co) with
  | some d => d.cyc
  | none => 0
/-- A slice enters a core's table; a core not listed yet counts its slab's core cycles. -/
def State.enterSlice (s : State) (co : CoreId) (i : Fin 16) (x : Slice) : State :=
  let core := s.coreAt co
  let fresh := !(s.cores.any (fun d => d.id == co))
  s.putCore { core with slices := core.slices.set i x, cyc := if fresh then s.slabCycle co else core.cyc }
/-- One slice is placed on its core: entry, partition, code, registers, access entry, start message. -/
def State.placeSlice (s : State) (r : Region) (rows cols k : Nat) (gang : BitVec 16) (arm : Option Nat) (prv : Bool) (lead : CoreId) (code : Nat × Nat) (co : CoreId) :
    Option (State × (CoreId × Fin 16)) :=
  match (s.coreAt co).fit r.eff, tableInsert (s.coreTable co) (placementEntry r.id s.modId) with
  | some (i, pb, ib), some tbl =>
    some ((((((s.setCoreTable co tbl).fillParts r.eff co pb ib code).fillWorkspace r rows cols k prv co pb ib).enterSlice co i
      (placedSlice r rows cols k gang arm prv lead pb ib)).sendStart co i), (co, i))
  | _, _ => none
/-- The slices of a region in turn. -/
def State.placeAll (r : Region) (rows cols : Nat) (gang : BitVec 16) (arm : Option Nat) (prv : Bool) (lead : CoreId) (code : Nat × Nat) :
    Nat → List CoreId → State → Option (State × List (CoreId × Fin 16))
  | _, [], s => some (s, [])
  | k, co :: l, s =>
    match s.placeSlice r rows cols k gang arm prv lead code co with
    | none => none
    | some (t, p) =>
      match State.placeAll r rows cols gang arm prv lead code (k + 1) l t with
      | none => none
      | some (u, ps) => some (u, p :: ps)
/-- Would a region's slices exceed a SUBC of it or above it (R90)? -/
def State.overSubc (s : State) (r : Region) (n : Nat) : Bool :=
  (s.chain 4096 r.id).any (fun x => x.subc != 0 && decide (x.subc < (s.slicesOf (s.subtree x.id)).length + n))
/-- Would the tables that the regions of a subtree use exceed an HBMPG of a region or above it (R90, R122)? -/
def State.overHbm (s : State) (r : Region) : Bool :=
  (s.chain 4096 r.id).any (fun x => x.id != 0 && decide (x.hbmpg < s.subtreeFrames x.id))
/-- Is the slice-table entry that placement would take on one of some cores still having its B share cleared (R169)? -/
def State.clearing (s : State) (e : Eff) (l : List CoreId) : Bool :=
  l.any (fun co =>
    let c := s.coreAt co
    match c.fit e with
    | some (i, _, _) => c.shareClr.any (fun p => p.1 == i)
    | none => false)
/-- In the place of a status: the command waits for a clearing. -/
def clearingCode : Nat := 256
/-- A region's rectangle is placed: code and routes are read, then every slice. -/
def State.placeRect (s : State) (slab0 : Nat) (r : Region) (rows cols : Nat) (gang : BitVec 16) (arm : Option Nat) (prv : Bool) :
    State × (Nat ⊕ List (CoreId × Fin 16)) :=
  let e := r.eff
  let n := rows * cols
  match State.readCode slab0 e.pasid.toNat e.s2f.toNat e.clen.toNat e.code.toNat s with
  | (t, .inl c) => (t, .inl c)
  | (t, .inr code) =>
    match State.readRoutes slab0 e.pasid.toNat e.s2f.toNat e.nrt.toNat e.routes.toNat t with
    | (u, .inl c) => (u, .inl c)
    | (u, .inr routes) =>
      if routes.any (routeBad n) then (u, .inl 4)
      else if u.overSubc r n then (u, .inl 8)
      else
        match u.findRect e rows cols with
        | none => (u, .inl 8)
        | some (slab, cores) =>
          if u.clearing e cores then (u, .inl clearingCode)
          else
          match State.placeAll r rows cols gang arm prv (cores.headD 0) code 0 cores u with
          | none => (u, .inl 8)
          | some (v, ps) =>
            let x := routes.foldl (fun (v : State) q => v.putRoute cores q) v
            (x.putRegion { r with slab := BitVec.ofNat 6 slab, placed := n }, .inr ps)
/-- A word of a region's memory written by the slab controllers; an access that fails is dropped with a record in the root queue (R395). -/
def State.regionWrite (s : State) (r : Region) (va v : Nat) : State :=
  match s.gwriteTo r.hnode r.slab.toNat r.eff.pasid.toNat r.eff.s2f.toNat va 8 v with
  | .ok t => t
  | .bad c => (s.ctrlMark r.slab.toNat r.eff.pasid.toNat r.eff.s2f.toNat va 1).rootAccess c (BitVec.ofNat 64 va) r.id
/-- A field of the word of a block that holds RGN and STATE, written by the slab controllers (R88, R395). -/
def State.rcbWrite (s : State) (r : Region) (f : Nat → Nat) : State :=
  let va := r.rcb.toNat + 112
  match s.gmodify r.slab.toNat r.eff.pasid.toNat r.eff.s2f.toNat va 8 f with
  | .bad c => (s.ctrlMark r.slab.toNat r.eff.pasid.toNat r.eff.s2f.toNat va 1).rootAccess c (BitVec.ofNat 64 va) r.id
  | .ok t => t
/-- The region of a node, its parent placed already (R88-R92). -/
def State.newRegion (s : State) (hnode : Option (BitVec 12)) (owner : Bool) (tenant : BitVec 40) (up id : BitVec 12) (p : Region) (n : Node) : Region :=
  let slab := (List.range 40).map (fun i => (id.toNat + i) % 40)
  { id := id, uid := s.nextId, rcb := n.rcb, parent := up, rect := fld n.v 775 768 != 0,
    slab := BitVec.ofNat 6 ((slab.find? (fun h => s.joined.getLsbD h)).getD (id.toNat % 40)),
    eff := effOf p.eff n.v n.rcb owner tenant, subc := fld n.v 865 846, ckeys := fld n.v 759 736, hbmpg := fld n.v 735 704,
    doneBox := BitVec.ofNat 64 (fld n.v 383 320), hnode := hnode, killed := false, why := 0, placed := 0 }
/-- A region enters the directory, and its rectangle, where it has one, is placed. -/
def State.placeOne (s : State) (slab : Nat) (r : Region) (n : Node) (gang : BitVec 16) (arm : Option Nat) (prv : Bool) :
    State × (Nat ⊕ List (CoreId × Fin 16)) :=
  let t := { s with regions := s.regions ++ [r], nextId := s.nextId + 1 }
  if t.overHbm r then (t, .inl 8)
  else
    let u := t.framesEnter s
    if fld n.v 775 768 = 0 then (u, .inr []) else u.placeRect slab r (fld n.v 775 768) (fld n.v 783 776) gang arm prv
/-- The block of a placed region shows its id and STATE 1. -/
def State.markPlaced (s : State) (r : Region) : State := s.rcbWrite r (fun v => setFld (setFld v 11 0 r.id.toNat) 25 22 1)
/-- What a placement has put, and then what a second one puts, unless either fails. -/
def thenPlace (d : State × (Nat ⊕ List (CoreId × Fin 16))) (f : State → State × (Nat ⊕ List (CoreId × Fin 16))) :
    State × (Nat ⊕ List (CoreId × Fin 16)) :=
  match d with
  | (u, .inl c) => (u, .inl c)
  | (u, .inr ps) =>
    match f u with
    | (w, .inl c) => (w, .inl c)
    | (w, .inr qs) => (w, .inr (ps ++ qs))
/-- The id of a node's parent. -/
def upOf (n : Node) (parent : BitVec 12) (ids : List (BitVec 12)) : BitVec 12 :=
  match n.up with
  | none => parent
  | some i => ids.getD i 0
/-- The regions of a subtree are placed in turn; ids by the index of their block. -/
def State.placeTree (slab : Nat) (hnode : Option (BitVec 12)) (owner : Bool) (tenant : BitVec 40) (gang : BitVec 16) (arm : Option Nat) (parent : BitVec 12) :
    List Node → List (BitVec 12) → State → State × (Nat ⊕ List (CoreId × Fin 16))
  | [], _, s => (s, .inr [])
  | n :: ns, ids, s =>
    match s.freeId, s.region (upOf n parent ids) with
    | some id, some p =>
      let r := s.newRegion hnode owner tenant (upOf n parent ids) id p n
      thenPlace (s.placeOne slab r n gang arm (owner && gang == 0)) fun u => State.placeTree slab hnode owner tenant gang arm parent ns (ids ++ [id]) (u.markPlaced r)
    | _, _ => (s, .inl 8)
/-- The effective values of the blocks of a subtree, in order. -/
def treeEffs (par : Eff) (owner : Bool) (tenant : BitVec 40) (nodes : List Node) : List Eff :=
  nodes.foldl (fun l n => l ++ [effOf (match n.up with
    | none => par
    | some i => l.getD i par) n.v n.rcb owner tenant]) []
/-- Does the region of a node take stage 2 from the module root, which has none (R389)? -/
def rootStage2 (nodes : List Node) (owner : Bool) (parent trgn : BitVec 12) : Nat → Node → Bool
  | 0, _ => false
  | fuel + 1, n =>
    if !owner then trgn == 0
    else if n.v.testBit 699 then false
    else match n.up with
      | none => parent == 0
      | some i => match nodes[i]? with
        | some m => rootStage2 nodes owner parent trgn fuel m
        | none => false
/-- How a LAUNCH ends: at once with a status, held by a clearing, or placed. -/
inductive Placed where
  | status (n : Nat)
  | waits
  | slices (l : List (CoreId × Fin 16))
  deriving DecidableEq, Repr

/-- The placement of a subtree (R92): read and checked whole before anything is placed; removed whole where a part cannot be placed. DESIGN CHOICE: PARENT
of a block below the subtree root is not compared with the block it was reached from (log entry 101), and reserved bits come before status 12 and 7, the
Meaning column after them (log entry 103). -/
def State.launchTree (s : State) (slab : Nat) (hnode : Option (BitVec 12)) (root : Word) (pasid : BitVec 20) (s2f : BitVec 40) (owner : Bool) (trgn : BitVec 12) (gang : BitVec 16)
    (arm : Option Nat) : State × Placed :=
  match State.readTree slab pasid s2f 4096 [(root, none)] [] s with
  | (t, .inl c) => (t, .status c)
  | (t, .inr nodes) =>
    match nodes.head?.bind (fun n => t.regionAt (BitVec.ofNat 64 (fld n.v 63 0))) with
    | none => (t, .status 12)
    | some p =>
      let effs := treeEffs p.eff owner s2f nodes
      let rectOf (n : Node) : Bool := fld n.v 775 768 * fld n.v 783 776 != 0
      if !t.under p.id trgn then (t, .status 7)
      else if (nodes.zip effs).any (fun x => rcbBad x.1.v x.2 (rectOf x.1) || rootStage2 nodes owner p.id trgn 4096 x.1) then (t, .status 4)
      else
        match State.placeTree slab hnode owner s2f gang arm p.id nodes [] t with
        | (_, .inl c) => (t, if c = clearingCode then .waits else .status c)
        | (u, .inr l) => (u, .slices l)

/-! ## Leaving and done (R103, R155, R169) -/

/-- The DONE word of a region is stored, and STATE becomes 2; the id returns to the pool. Regions without a rectangle that stand under it stay, in the
subtrees that it stood in, and where its late faults go is remembered (R103, R215). -/
def State.regionDone (s : State) (r : Region) : State :=
  let t := s.rcbWrite r (fun v => setFld v 25 22 2)
  let w := r.id.toNat + r.why.toNat * 4096 + t.pace.toNat % 2 ^ 48 * 65536
  let u := if r.doneBox = 0 then t else t.regionWrite r r.doneBox.toNat w
  { u with regions := (u.regions.filter (fun x => x.id != r.id)).map (fun (x : Region) => if x.parent == r.id then { x with parent := r.parent } else x),
           past := { rcb := r.rcb, id := r.id, uid := r.uid, slab := r.slab, eff := r.eff } :: u.past }
/-- Is a region done? -/
def State.isDone (s : State) (r : Region) : Bool := r.id != 0 && (r.rect || r.killed) && (s.slicesOf (s.subtree r.id)).isEmpty
/-- Every region that is done ends, the deepest first. -/
def State.endRegions : Nat → State → State
  | 0, s => s
  | fuel + 1, s =>
    match s.regions.reverse.find? s.isDone with
    | none => s
    | some r => State.endRegions fuel (s.regionDone r)
/-- A slice is to leave its table, from a cause of R103: its contexts stop at their boundaries. -/
def State.startLeaving (s : State) (co : CoreId) (i : Fin 16) (why : BitVec 4) : State :=
  if (s.sliceAt co i).st = .leaving then s
  else (s.modSlice co i (fun x => { x with st := .leaving, why := why })).onCore co (fun s => (s.tellStopAll i).evaluateNow)
/-- Has a slice that is leaving come to rest: all its contexts have stopped (R298)? -/
def State.mayLeave (s : State) (co : CoreId) (i : Fin 16) : Bool :=
  let x := (s.coreAt co).slices[i]
  x.v && x.st == .leaving && x.allStopped
/-- The matrix fault recorded for a slice goes to its region's queue (R333), once no command of it is left in the matrix queue (R175, R215). -/
def State.lateMatrix (s : State) (co : CoreId) (i : Fin 16) (x : Slice) : State :=
  let k := s.coreAt co
  if k.mq.any (fun m => m.isOf i x) then s.putCore { k with gone := k.gone ++ [x] }
  else
    match x.mflt with
    | some r => s.lateFault r
    | none => s
/-- The access entry of a region goes with its last slice on a core: the one that placement has put there, not one of the policy (R393). -/
def State.dropAccess (s : State) (co : CoreId) (x : Slice) : State :=
  if (s.coreAt co).slices.toList.any (fun y => y.v && y.rgn == x.rgn) then s
  else
    match (s.coreTable co).findIdx? (samePlace (placementEntry x.rgn s.modId)) with
    | some n => s.setCoreTable co ((s.coreTable co).eraseIdx n)
    | none => s
/-- The core no longer runs the slice, nor switches it out, and the clearing of its B share begins (R97, R169). -/
def State.freeEntry (s : State) (co : CoreId) (i : Fin 16) : State :=
  let k := s.coreAt co
  s.putCore { k with running := if k.running = some i then none else k.running, evaluate := true,
                     switch := k.switch.map (fun w => { w with out := if w.out = some i then none else w.out }),
                     shareClr := if k.share = some i then some (i, k.cyc + 256) else k.shareClr }
/-- The region, and those in whose subtrees it stands, remember the cause of the departure (R103). -/
def State.markWhy (s : State) (x : Slice) : State :=
  let ids := (s.chain 4096 x.rgn).map (·.id)
  { s with regions := s.regions.map (fun (r : Region) => if ids.contains r.id then { r with why := x.why } else r) }
/-- The slice's entry is freed: cistern requests, recorded matrix fault, access entry, share, region (R103, R155, R169, R333, R393). -/
def State.removeSlice (s : State) (co : CoreId) (i : Fin 16) : State :=
  let x := s.sliceAt co i
  State.endRegions 4096
    ((((((s.cisternLeave co i).lateMatrix co i x).modSlice co i (fun _ => Slice.fresh)).dropAccess co x).freeEntry co i).markWhy x)
def execSliceLeave (co : CoreId) (i : Fin 16) (s : State) : Out :=
  if s.mayLeave co i then .next (s.removeSlice co i) else .refused (.notEnabled "SLICE_LEAVE")

/-! ## Resumption (R63, R84) -/

/-- A suspended or stopped slice becomes eligible; where it is still the running slice its contexts go on at once. -/
def State.resumeSlice (s : State) (co : CoreId) (i : Fin 16) : State :=
  let x := s.sliceAt co i
  if (x.st ≠ .suspended ∧ x.st ≠ .stopped) ∨ (x.attached && x.halted) = true then s
  else
    let y := if x.st = .stopped then { x with brem := x.bud, dead := BitVec.ofNat 48 (s.pace.toNat + x.per.toNat) }
      else { x with dead := BitVec.ofNat 48 (x.dead.toNat + (s.pace.toNat - x.suspTick.toNat)) }
    (s.modSlice co i (fun _ => { y with st := .ready, suspTick := s.pace })).onCore co (fun s =>
      let t : State := s.traceRec 6 none (some i)
      if t.core.running = some i ∧ t.core.switch.isNone then
        (let u := { t with core := { t.core with slices := t.core.slices.set i { t.core.slices[i] with st := SliceSt.running } } }
         (u.eachCtx i (fun (s : State) => if s.cx.stopped then s.resumeCtx else s.setCx { s.cx with stop := false, haltMark := false })).evaluateNow)
      else t.evaluateNow)

/-! ## Releases, exhaustion, switches (R98, R99) -/

/-- Is a slice to be released at the present tick? -/
def State.releaseDue (s : State) (x : Slice) : Bool :=
  x.v && (x.st == .idle || ((x.st == .ready || x.st == .running) && !x.disc && x.cls != 3)) && decide (x.dead.toNat ≤ s.pace.toNat % 2 ^ 48)
/-- A release takes effect now: it is due, and no switch of the core is in progress, which would hold it (R100). -/
def State.releases (s : State) (co : CoreId) (i : Fin 16) : Bool := s.releaseDue (s.sliceAt co i) && (s.coreAt co).switch.isNone
def execSliceRelease (co : CoreId) (i : Fin 16) (s : State) : Out :=
  let x := s.sliceAt co i
  if !s.releases co i then .refused (.notEnabled "SLICE_RELEASE")
  else
    let y := { x with brem := x.bud, dead := x.dead + x.per.setWidth 48, st := if x.st = .idle then .ready else x.st }
    .next ((s.modSlice co i (fun _ => y)).onCore co (fun s => (s.traceRec 2 none (some i)).evaluateNow))
/-- Has a slice used up its budget? -/
def State.exhausted (s : State) (co : CoreId) (i : Fin 16) : Bool :=
  let c := s.coreAt co
  let x := c.slices[i]
  x.v && (x.st == .ready || x.st == .running) && x.brem == 0 && x.charged && c.switch.isNone
/-- The deadline fault of a slice: its record, with D in bit 0 of the trap pc (DEDUCED from R318; log entry 94), and what the policy does (R98, R102,
R222). -/
def State.deadlineFault (s : State) (co : CoreId) (i : Fin 16) : State :=
  let x := s.sliceAt co i
  let c := x.ctxs[(0 : Fin 11)]
  let npc := if c.dly then c.outc else c.pc + 8
  let t := (s.sliceRecord x (withPpv 15 c.prv) (c.pc + (if c.dly then 1 else 0)) npc 0 (x.dead.setWidth 64) (x.bud.setWidth 64) co i.val 0).onCore co
    (fun s => s.traceRec 7 (some i) none)
  if x.eff.dfp = 2 then t.startLeaving co i 3
  else
    let st : SliceSt := if x.eff.dfp = 1 then .idle else .stopped
    (t.modSlice co i (fun y => { y with st := st, suspTick := t.pace })).onCore co (fun s => (s.tellStopAll i).evaluateNow)
def execBudgetExhaustion (co : CoreId) (i : Fin 16) (s : State) : Out :=
  if !s.exhausted co i then .refused (.notEnabled "BUDGET_EXHAUSTION")
  else
    let x := s.sliceAt co i
    let t := s.onCore co (fun s => (s.traceRec 5 (some i) none).evaluateNow)
    if x.cls = 3 ∧ x.disc = false then
      .next (t.modSlice co i (fun y => { y with brem := y.bud, dead := BitVec.ofNat 48 (t.pace.toNat + y.per.toNat) }))
    else .next (t.deadlineFault co i)
/-- The incoming slice is in: its bank is restored and its stopped contexts go on; where it does not run any more, their counters are written back (R99,
R113). -/
def State.switchIn (s : State) (w : Switch) : State :=
  let t := match w.inc with
    | none => s
    | some i =>
      let x := s.core.slices[i]
      let u := if x.acc && x.v then s.restoreBank x else s
      u.eachCtx i (if x.st = SliceSt.running then State.resumeIn else State.leaveCtrs)
  ({ t with core := { t.core with switch := none } }.traceRec 1 w.out w.inc).evaluateNow
def execSwitchComplete (co : CoreId) (s : State) : Out :=
  let c := s.coreAt co
  match c.switch with
  | none => .refused (.notEnabled "SWITCH_COMPLETE")
  | some w => if c.switchOver then .next (s.onCore co (fun s => s.switchIn w)) else .refused (.notEnabled "SWITCH_COMPLETE")

/-! ## Supersteps (R105, R299-R301) -/

/-- The index of slice k of a region on a core. -/
def State.memberAt (s : State) (co : CoreId) (rgn : BitVec 12) (k : Nat) : Option (Fin 16) :=
  let c := s.coreAt co
  (List.finRange 16).find? (fun i => c.slices[i].v && c.slices[i].rgn == rgn && c.slices[i].k == k)
/-- The combined contribution of all arrivals of a superstep, by the operation of slice 0: 0 or, 1 and, 2 unsigned maximum. -/
def combine (op : BitVec 2) (l : List Word) : Word :=
  match op.toNat with
  | 0 => l.foldl (· ||| ·) 0
  | 1 => l.foldl (· &&& ·) (BitVec.allOnes 64)
  | _ => l.foldl (fun m v => if m.toNat < v.toNat then v else m) 0
/-- Slice 0 sends every slice of its region a go message. -/
def State.sendGos (s : State) (x : Slice) (lead : CoreId) (g : Go) : State :=
  let r := lead.toNat % 16384 / 128
  let c := lead.toNat % 128
  (rectCores (slabOf lead) r c x.crows.toNat x.ccols.toNat).zipIdx.foldl (fun (s : State) p =>
    match s.memberAt p.1 x.rgn p.2 with
    | none => s
    | some i =>
      let iss : Issuer := { pc := 0, npc := 0, d := false, prv := false, core := p.1, slc := i, ctx := 0, rgn := x.rgn, gang := x.gang, uid := x.uid }
      s.addOp { id := s.nextId, kind := 0, slot := 0, dst := 0, ord := 0, scope := 4, iss := iss, smod := s.modId, host := false, req := .go g,
                stage := .flight, due := s.dueTime, foreign := false, origin := none, mc0 := false, after := none, cancel := none,
                pump := none }) s
/-- An arrival reaches slice 0; with the last one, the arrivals of the superstep are combined by the operation of slice 0's own, and the go messages
leave. -/
def State.arrives (s : State) (o : Op) (num v : Word) (op : BitVec 2) : State :=
  let t := s.dropOp o.id
  let x := t.sliceAt o.iss.core o.iss.slc
  match t.memberAt x.lead o.iss.rgn 0 with
  | none => t
  | some i =>
    let y := t.sliceAt x.lead i
    let l := y.arrivals.filter (fun a => !(a.num == num && a.k == x.k)) ++ [{ k := x.k, num := num, v := v, op := op }]
    let mine := l.filter (fun a => a.num == num)
    if mine.length < y.crows.toNat * y.ccols.toNat then t.modSlice x.lead i (fun z => { z with arrivals := l })
    else
      (t.modSlice x.lead i (fun z => { z with arrivals := l.filter (fun a => a.num != num) })).sendGos y x.lead
        { num := num, v := combine (((mine.find? (fun a => a.k == 0)).map (·.op)).getD 0) (mine.map (·.v)), w := t.pace + y.eff.xgap.setWidth 64, tick := 0 }
def execSbarArrival (k : Nat) (s : State) : Out :=
  s.onOp k "SBAR_ARRIVAL" fun o =>
    match o.req with
    | .arrival num v op => .next (s.arrives o num v op)
    | _ => .refused (.notEnabled "SBAR_ARRIVAL")
/-- The control context of a slice polls the wait of a kind it may be in. -/
def State.nudge (s : State) (co : CoreId) (i : Fin 16) (k : WaitKind) (atTick : Bool) : State :=
  s.onCore co (fun s =>
    let t := s.focus i 0
    match t.cx.wait with
    | some w => if w.kind = k ∧ t.core.running = some i then t.waitLater atTick else t
    | none => t)
/-- A go message reaches a slice, and is kept with the tick of its arrival; one that is late faults the `sbar` that waits for it. -/
def execGoMessage (k : Nat) (s : State) : Out :=
  s.onOp k "GO_MESSAGE" fun o =>
    match o.req with
    | .go g =>
      let t := s.dropOp o.id
      if !t.issuerThere o.iss then .next t
      else .next ((t.modSlice o.iss.core o.iss.slc (fun x => { x with go := some { g with tick := s.pace } })).nudge o.iss.core o.iss.slc .sbar false)
    | _ => .refused (.notEnabled "GO_MESSAGE")
/-- Is a window of a slice to open at the present tick: the tick its go message names, or, after a hush frame, the first tick after the gang has
resumed (R65)? -/
def State.opens (s : State) (x : Slice) : Bool :=
  match x.go with
  | none => false
  | some g =>
    x.v && x.disc && x.resident && x.st != .suspended && decide (g.tick.toNat < g.w.toNat) && x.window != some g.w && !s.hushFor x.gang s.pace.toNat &&
      (g.w == s.pace || (decide (g.w.toNat < s.pace.toNat) && decide (x.suspTick.toNat < s.pace.toNat)))
def execExchangeWindowOpen (co : CoreId) (i : Fin 16) (s : State) : Out :=
  let x := s.sliceAt co i
  if !s.opens x then .refused (.notEnabled "EXCHANGE_WINDOW_OPEN")
  else
    .next ((s.modSlice co i (fun y => { y with window := some s.pace, go := y.go.map (fun g => { g with w := s.pace }) })).nudge co i .sbar true)
/-- Is the present tick the closing tick of a slice's window? -/
def State.closes (s : State) (x : Slice) : Bool := x.v && x.disc && x.window.isSome && x.closing == s.pace.toNat
def execExchangeWindowClose (co : CoreId) (i : Fin 16) (s : State) : Out :=
  let x := s.sliceAt co i
  if !s.closes x then .refused (.notEnabled "EXCHANGE_WINDOW_CLOSE")
  else .next ((s.modSlice co i (fun y => { y with brem := y.bud, counting := true })).nudge co i .xend true)

end Sys2Proof.Machine
end

