-- ==== Sys2Proof/Machine/Starter.lean ====
section
/-! DEFINITION. Machine.Starter: the PTP clock, timed-launch records and gangs, and clock loss (R51-R73). -/

namespace Sys2Proof.Machine

/-! ## The clock (R51-R53, R56) -/

/-- The status word (R53). -/
def State.starterWord (s : State) : Word :=
  let x := s.starter
  BitVec.ofNat 64 (x.clk.toNat * 2 ^ 62 + min x.armed.length 127 * 2 ^ 55 + x.port.toNat * 2 ^ 53 + x.ofs.toNat)
/-- OFS for an offset in units of 0.4 ns: saturated at 32 bits. -/
def satOfs (d : Int) : BitVec 32 := BitVec.ofInt 32 (max (-2147483648) (min d 2147483647))
/-- The number of a management port. -/
def portCode (port : Bool) : BitVec 2 := if port then 1 else 0
/-- The offset as timestamps resolve it: 0.4 ns in full service, 0.8 ns in warm-up (R52). -/
def State.resolved (s : State) (delta : Int) : Int := if s.fullService then delta else 2 * (delta / 2)
/-- CLK after an offset: 8 in a row within 50 ns lock the clock; one beyond 1 µs takes the lock away, and so does the first one on a port just switched
to that is not within 50 ns (R52, R53; log entry 83). -/
def Starter.clkAfter (x : Starter) (d : Int) (good : Nat) : BitVec 2 :=
  if x.clk = 2 then 2
  else if x.clk = 0 then (if 2500 < d.natAbs ∨ (x.first = true ∧ 125 < d.natAbs) then 1 else 0)
  else if 8 ≤ good then 0 else x.clk
/-- A Sync of the configured domain on the active port, from the best master heard, gives the offset δ, in units of 0.4 ns (R51, R53). -/
def execSyncMessage (m : PtpSync) (s : State) : Out :=
  let x := s.starter
  if m.src.domain ≠ s.config.ptpDomain ∨ x.port ≠ portCode m.src.port ∨ x.master ≠ some m.rank then .next s
  else
    let d := s.resolved m.delta
    let good := if d.natAbs ≤ 125 then x.good + 1 else 0
    let clk := x.clkAfter d good
    .next { s with starter := { x with ofs := satOfs d, good := good, clk := clk, first := false, state := if clk = 0 then .slave else x.state } }
/-- An Announce of the configured domain on the active port: the clock follows the best master heard, as a slave only. Where no port is active, the one
that hears the first Announce becomes so (log entry 84). -/
def execAnnounceMessage (src : PtpSource) (rank : Nat) (s : State) : Out :=
  let x := s.starter
  if src.domain ≠ s.config.ptpDomain ∨ (x.port ≠ 2 ∧ x.port ≠ portCode src.port) then .next s
  else
    let better := match x.master with
      | none => true
      | some m => decide (rank < m)
    .next { s with starter := { x with port := portCode src.port, expired := false, master := if better then some rank else x.master,
                                       state := if better then .uncalibrated else x.state } }
/-- A Pdelay_Req of the configured domain on the active port is answered, in one step or two as the configuration block selects (R51, R52). -/
def execPdelayReq (src : PtpSource) (seq : BitVec 16) (t2 t3 : Nat) (s : State) : Out :=
  if src.domain ≠ s.config.ptpDomain ∨ s.starter.port ≠ portCode src.port then .next s
  else
  .next { s with starter := { s.starter with answers := { port := src.port, seq := seq, t2 := t2, t3 := t3, oneStep := s.config.oneStep } :: s.starter.answers } }
/-- No Announce on the active port for the receipt timeout: PTP goes to the other port, whose first offset is to be tested; once both have expired the
clock is in holdover. -/
def execAnnounceReceiptTimeout (s : State) : Out :=
  let x := s.starter
  .next { s with starter := { x with clk := if x.expired = true ∧ x.clk = 0 then 1 else x.clk, good := if x.expired then 0 else x.good, expired := true,
                                     first := true, port := if x.port = 0 then 1 else 0, master := none, state := .listening } }
/-- How far a trim may move: 0.1 ppm for each second, 2,500,000,000 fabric cycles, since it last moved, and no more at a time. -/
def State.trimRoom (s : State) : Int := min 100 (((s.time - s.starter.trimAt) * 100 / 2500000000 : Nat) : Int)
/-- By how much a trim toward a value moves: it raises the frequency where ticks begin late, δ > 0, and lowers it where they begin early. -/
def State.trimStep (s : State) (ppb : Int) : Int :=
  let d := max (-s.trimRoom) (min s.trimRoom (ppb - s.starter.trim))
  if s.starter.ofs.toInt = 0 then 0 else if 0 < s.starter.ofs.toInt then max 0 d else min 0 d
/-- The reference module steers while it is locked: within 50 ppm of nominal, so that its δ tends to zero. -/
def execFrequencyTrim (ppb : Int) (s : State) : Out :=
  let x := s.starter
  if s.modId ≠ s.config.refMod ∨ x.clk ≠ 0 then .next s
  else
    let trim := max (-50000) (min 50000 (x.trim + s.trimStep ppb))
    .next { s with starter := { x with trim := trim, trimAt := if trim = x.trim then x.trimAt else s.time } }

/-! ## Instants and ticks (R54, R58, R67) -/

/-- Seconds, nanoseconds and other fields of a record (R59). -/
def Armed.f (a : Armed) (hi lo : Nat) : Nat := fld a.recd.toNat hi lo
def Armed.coord (a : Armed) : BitVec 12 := BitVec.ofNat 12 (a.f 255 244)
def Armed.nmem (a : Armed) : Nat := a.f 243 232
def Armed.strg (a : Armed) : Nat := a.f 5 4
/-- Picoseconds from the epoch to the instant of an attempt, T + a Δ, with a further offset in ns. -/
def psFrom (c : ConfigBlock) (r : BitVec 512) (attempt extra : Nat) : Int :=
  let v := r.toNat
  ((fld v 111 64 : Int) - c.epochSec.toNat) * 1000000000000 +
    ((fld v 159 128 + attempt * fld v 223 192 + extra : Nat) - (c.epochNs.toNat : Int)) * 1000
/-- The first tick that begins at or after an attempt's instant. -/
def firstTick (c : ConfigBlock) (r : BitVec 512) (attempt : Nat) : Int := -((-(psFrom c r attempt 0)).fdiv 409600)
/-- Klast of the present attempt, moved as far as the action tick is moved. -/
def State.lastTick (s : State) (a : Armed) : Nat :=
  ((psFrom s.config a.recd a.attempt (a.f 191 160)).fdiv 409600).toNat + (s.actTick a - a.k.toNat)

/-! ## Entries, mailboxes, faults (R70, R71) -/

/-- An entry by identity, and put back. -/
def State.entryAt (s : State) (n : Nat) : Option Armed := s.starter.armed.find? (fun a => a.id == n)
def State.putEntry (s : State) (a : Armed) : State :=
  { s with starter := { s.starter with armed := s.starter.armed.map (fun x => if x.id == a.id then a else x) } }
def State.dropEntry (s : State) (n : Nat) : State :=
  { s with starter := { s.starter with armed := s.starter.armed.filter (fun x => x.id != n) } }
/-- An event about an entry; it does not occur where there is none or its time has not come. -/
def State.onEntry (s : State) (n : Nat) (name : String) (due : Armed → Bool) (f : Armed → State) : Out :=
  match s.entryAt n with
  | none => .refused (.notEnabled name)
  | some a => if due a then .next (f a) else .refused (.notEnabled name)
/-- Address space of a portal as its descriptor stands now: PASID, and the stage-2 root of its tenant region (R78; log entry 88). DESIGN CHOICE (log entry
96): where TRGN names no placed region, the module root's. -/
def State.portalSpace (s : State) (p : BitVec 6) : BitVec 20 × BitVec 40 :=
  let d := (s.portals.get p.toNat).toNat
  (BitVec.ofNat 20 (fld d 223 204), ((s.region (BitVec.ofNat 12 (fld d 235 224))).map (·.eff.s2f)).getD Config.rootTable)
/-- The slab whose controller serves a portal. -/
def portalSlab (p : BitVec 6) : Nat := p.toNat / 16
/-- The host node that a portal serves (R74, R78). -/
def State.portalNode (s : State) (p : BitVec 6) : Option (BitVec 12) := some (BitVec.ofNat 12 (fld (s.portals.get p.toNat).toNat 247 236))
/-- A store of a slab controller or Starter in a portal's space; one that fails is dropped (R395). -/
def State.portalStore (s : State) (p : BitVec 6) (va n v : Nat) : State :=
  let q := s.portalSpace p
  match s.gwriteTo (s.portalNode p) (portalSlab p) q.1.toNat q.2.toNat va n v with
  | .ok t => t
  | .bad c => (s.ctrlMark (portalSlab p) q.1.toNat q.2.toNat va 1).rootAccess c (BitVec.ofNat 64 va) 0
/-- An outcome is written to the record's mailbox: the tick, then the word. -/
def State.outcome (s : State) (a : Armed) (res : Nat) (gang ho : Bool) (tick : Nat) : State :=
  let box := a.f 383 320
  (s.portalStore a.portal (box + 8) 8 tick).portalStore a.portal box 8
    (a.gang.toNat * 2 ^ 48 + res * 2 ^ 40 + a.attempt % 256 * 2 ^ 32 + gang.toNat * 2 ^ 31 + ho.toNat * 2 ^ 30)
/-- A gang fault goes to a region's fault queue, or, where no region of the module is the record's, to that of the module root (R71; log entry 89). -/
def State.gangFault (s : State) (a : Armed) (sub : Nat) (tick : Nat) (r : Option Region) : State :=
  let acted := (a.reports.filter (fun x => x.acted)).length
  let b := faultBytes (BitVec.ofNat 64 (24 + sub * 256 + a.gang.toNat * 65536)) 0 0 (BitVec.ofNat 64 (a.f 111 64 * 2 ^ 30 + a.f 159 128))
    (BitVec.ofNat 64 tick) (BitVec.ofNat 64 (acted + a.nmem * 65536)) 0 0 ((r.map (·.id)).getD 0) s.modId 0 s.pace
  match r with
  | some g => s.faultRecord g.eff g.id g.slab.toNat b
  | none => s.rootRecord b
/-- The root region of a record on this module. -/
def State.rootOf (s : State) (a : Armed) : Option Region := s.regionAt (BitVec.ofNat 64 (a.f 319 256))
/-- Is a slice held for a record (R61)? -/
def Armed.holds (a : Armed) (x : Slice) : Bool := x.v && x.st == .held && x.arm == some a.id
/-- Slices still held for a record that will not act leave without running (R61). -/
def State.dropHeld (s : State) (a : Armed) : State :=
  (s.gangSlices a.gang).foldl (fun s p => if a.holds (s.sliceAt p.1 p.2) then s.startLeaving p.1 p.2 1 else s) s

/-! ## Notices (R68, R69) -/

/-- A notice to the Starter of another module: type 1 acted, 2 straggled, 3 undo. -/
def State.notice (s : State) (a : Armed) (to_ : BitVec 12) (type tick : Nat) : State :=
  let d := stationPos 0 0
  let b := (a.gang.toNat * 2 ^ 48 + type * 2 ^ 40 + a.attempt % 256 * 2 ^ 32) + tick % 2 ^ 64 * 2 ^ 64 + a.f 111 64 * 2 ^ 128 + a.f 159 128 * 2 ^ 192
  s.sendFrom d.1 d.2 5 { hdr := mkHdr 3 1 5 to_ 0 (s.ctrlStamp 0) 0 0, body := BitVec.ofNat 4096 b, pois := 0 }
/-- The next attempt: its tick, and nothing yet done. -/
def State.again (s : State) (a : Armed) (undone : Bool) : Armed :=
  { a with attempt := a.attempt + 1, k := BitVec.ofInt 64 (firstTick s.config a.recd (a.attempt + 1)), acted := false, straggled := false, undone := undone,
           moved := 0, undoAt := none, reports := [], collecting := a.coord == s.modId, final := none }
/-- Does the record allow a further attempt under the retry policy? Halt records have none. -/
def Armed.retries (a : Armed) : Bool := a.strg == 2 && a.act != 3 && decide (a.attempt < a.f 231 224)
/-- An undo for an entry of this module: it takes effect at the second tick from now. -/
def State.undoHere (s : State) (a : Armed) : State := s.putEntry { a with undoAt := some (s.pace + 2) }
/-- COORD ends its collection (R68): complete, or a shortfall with its policy. -/
def State.coordDecides (s : State) (a0 : Armed) : State :=
  let a := { a0 with collecting := false }
  let t := s.putEntry a
  if (a.reports.filter (fun x => x.acted)).length = a.nmem then
    (t.outcome a 8 true false t.pace.toNat).putEntry { a with final := some t.pace }
  else
    let u := t.gangFault a 2 (t.actTick a) (t.rootOf a)
    if a.strg = 1 ∨ a.act = 3 then (u.outcome a 10 true false u.pace.toNat).putEntry { a with final := some u.pace }
    else
      let v := a.reports.foldl (fun (v : State) r => if r.m = v.modId then v else v.notice a r.m 3 (v.actTick a)) u
      if a.retries then
        (if a.acted then v.undoHere a else v.putEntry (v.again a a.undone))
      else
        let w := v.outcome a 9 true false v.pace.toNat
        if a.acted then w.undoHere a else (w.dropHeld a).putEntry { a with final := some w.pace }
/-- A report reaches COORD, which decides once it has all. -/
def State.takeReport (s : State) (a : Armed) (r : Report) : State :=
  let b := if a.reports.any (fun x => x.m == r.m) then a else { a with reports := a.reports ++ [r] }
  if b.collecting && decide (a.nmem ≤ b.reports.length) then s.coordDecides b else s.putEntry b
/-- A member's report of an attempt. -/
def State.report (s : State) (a : Armed) (acted : Bool) (tick : Nat) : State :=
  if a.coord = s.modId then s.takeReport a { m := s.modId, acted := acted } else (s.putEntry a).notice a a.coord (if acted then 1 else 2) tick

/-! ## Arming and placement (R60, R61) -/

/-- Is a reserved field of a record nonzero, or ACT or STRG reserved? -/
def recordReserved (v : Nat) : Bool :=
  decide (3 < fld v 2 0) || fld v 5 4 == 3 || fld v 3 3 != 0 || fld v 15 7 != 0 || fld v 63 32 != 0 || fld v 127 112 != 0 || fld v 511 384 != 0
/-- Is the region of a record's ROOT, or for a launch the parent that the block names, under the portal's tenant? A block that cannot be read tells
nothing against the record; its placement will fail, and the failed read leaves a record in the root queue (R395). -/
def State.recordUnder (s : State) (slab : Nat) (q : BitVec 20 × BitVec 40) (trgn : BitVec 12) (v : Nat) : State × Bool :=
  let own (a : Nat) : Bool := (s.regionAt (BitVec.ofNat 64 a)).any (fun g => s.under g.id trgn)
  if fld v 2 0 = 0 then
    (match s.gread slab q.1.toNat q.2.toNat (fld v 319 256) 8 with
     | .ok (t, p) => (t, own p)
     | .bad c => ((s.ctrlMark slab q.1.toNat q.2.toNat (fld v 319 256) 0).rootAccess c (BitVec.ofNat 64 (fld v 319 256)) 0, true))
  else (s, own (fld v 319 256))
/-- Does an address translate, whatever the permissions of its page (R60)? Its bits 63-57 do not matter (log entry 88). -/
def State.translates (s : State) (q : BitVec 20 × BitVec 40) (va : Nat) : Bool :=
  match walk s q.1.toNat q.2.toNat (va % 2 ^ 57) 0 with
  | .ok _ => true
  | .bad c => c % 256 == 9 && !c.testBit 15
/-- The lowest of the reason codes 1 to 7 with which an ARM is refused. -/
def State.armCode (s : State) (r : BitVec 512) : Option Nat :=
  let v := r.toNat
  let gang := fld v 31 16
  let k := firstTick s.config r 0
  if !s.fullService || s.isolated then some 1
  else if recordReserved v then some 2
  else if 1000000000 ≤ fld v 159 128 ∨ gang = 0 ∨ fld v 243 232 = 0 ∨ (fld v 5 4 = 2 ∧ (fld v 223 192 = 0 ∨ fld v 231 224 = 0)) then some 3
  else if s.fab.present.get (fld v 255 244) ≠ 1 then some 4
  else if k < (s.pace.toNat : Int) + 4 then some 5
  else if s.starter.armed.any (fun a => a.gang.toNat == gang && (a.k.toNat : Int) == k) then some 6
  else if 64 ≤ s.starter.armed.length then some 7
  else none
/-- What the last check of an ARM finds: its reason code 8, where it applies; the state has read the block of a launch record (R60, R395). -/
def State.armUnder (s : State) (p : BitVec 6) (r : BitVec 512) : State × Option Nat :=
  let v := r.toNat
  let q := s.portalSpace p
  if s.translates q (fld v 319 256) && s.translates q (fld v 383 320) then
    (let x := s.recordUnder (portalSlab p) q (BitVec.ofNat 12 (fld (s.portals.get p.toNat).toNat 235 224)) v
     (x.1, if x.2 then none else some 8))
  else (s, some 8)
/-- The reason code with which an ARM is refused: the lowest that applies. -/
def State.armCheck (s : State) (p : BitVec 6) (r : BitVec 512) : State × Option Nat :=
  match s.armCode r with
  | some c => (s, some c)
  | none => s.armUnder p r
def State.armRefusal (s : State) (p : BitVec 6) (r : BitVec 512) : Option Nat := (s.armCheck p r).2
/-- A record is armed. -/
def State.armRecord (s : State) (p : BitVec 6) (seq : Nat) (r : BitVec 512) : State :=
  let a : Armed := { id := s.nextId, seq := seq, recd := r, portal := p, k := BitVec.ofInt 64 (firstTick s.config r 0), attempt := 0, tried := false,
                     ready := fld r.toNat 2 0 != 0, acted := false, straggled := false, undone := false, moved := 0, undoAt := none, reports := [],
                     collecting := BitVec.ofNat 12 (fld r.toNat 255 244) == s.modId, final := none, due := s.dueTime }
  { s with nextId := s.nextId + 1, starter := { s.starter with armed := s.starter.armed ++ [a] } }.draw
/-- The subtree of a launch record is placed into held entries; where that cannot be done the module does not become ready. -/
def State.placeRecord (s : State) (a : Armed) : State :=
  let q := s.portalSpace a.portal
  let d := (s.portals.get a.portal.toNat).toNat
  match s.launchTree (portalSlab a.portal) (s.portalNode a.portal) (BitVec.ofNat 64 (a.f 319 256)) q.1 q.2 (d.testBit 253)
      (BitVec.ofNat 12 (fld d 235 224)) a.gang (some a.id) with
  | (t, .status _) => t.putEntry { a with tried := true }
  | (t, .waits) => (t.putEntry { a with due := t.dueTime }).draw
  | (t, .slices _) => t.putEntry { a with tried := true, ready := true }
/-- Is a command one that is still to place a subtree, or to arm a record that will? -/
def Cmd.places (c : Cmd) : Bool :=
  c.result.isNone && (let v := c.bytes.toNat
    (fld v 7 0 == 1 && c.waits.isEmpty) || (fld v 7 0 == 2 && fld v 130 128 == 0))
/-- Is a launch record's placement still to come? -/
def Armed.places (a : Armed) : Bool := a.act == 0 && !a.tried && a.final.isNone
/-- Is a placement still to come whose command reached the slab controllers before one (R92)? -/
def State.placesBefore (s : State) (seq : Nat) : Bool :=
  s.cmds.any (fun c => c.places && decide (c.seq < seq)) || s.starter.armed.any (fun a => a.places && decide (a.seq < seq))
def execArmedRecordPlacement (n : Nat) (s : State) : Out :=
  s.onEntry n "ARMED_RECORD_PLACEMENT" (fun a => a.places && !s.placesBefore a.seq) s.placeRecord
/-- Is the module ready for a record: armed, and for a launch every slice of it placed and its code in place (R61)? -/
def State.isReady (s : State) (a : Armed) : Bool :=
  a.ready && (s.gangSlices a.gang).all (fun p => let x := s.sliceAt p.1 p.2
    !(a.holds x) || x.started)

/-! ## Actions (R63-R67, R72) -/

/-- The slices of a gang are suspended at their next boundaries (R63, R65). -/
def State.suspendGang (s : State) (g : BitVec 16) : State :=
  (s.gangSlices g).foldl (fun s p =>
    let x := s.sliceAt p.1 p.2
    if x.st == .ready || x.st == .running || x.st == .idle then
      (s.modSlice p.1 p.2 (fun y => { y with st := .suspended, suspTick := s.pace })).onCore p.1 (fun s => (s.tellStopAll p.2).evaluateNow)
    else s) s
/-- An action of an entry on its gang: 0 launch of the slices held for it, 1 pre-empt, 2 resume, 3 halt. -/
def State.gangAction (s : State) (a : Armed) (act : Nat) : State :=
  let l := s.gangSlices a.gang
  match act with
  | 0 => l.foldl (fun s p => if a.holds (s.sliceAt p.1 p.2) then s.nowReady p.1 p.2 else s) s
  | 1 => s.suspendGang a.gang
  | 2 => l.foldl (fun s p => s.resumeSlice p.1 p.2) s
  | _ => l.foldl (fun s p => s.startLeaving p.1 p.2 2) s
/-- Is an entry still to act or to be declared a straggler? -/
def Armed.open (a : Armed) : Bool := !a.acted && !a.straggled && a.final.isNone
/-- Does a record not act in holdover, which is where the module is (R72)? -/
def State.refusesHoldover (s : State) (a : Armed) : Bool := s.starter.clk == 1 && a.f 6 6 == 1
/-- Is a record's action due in the present tick: its action tick, or a later one up to Klast, on a ready module (R67); or its action tick where it is
refused in holdover (R72)? -/
def State.actionDue (s : State) (a : Armed) : Bool :=
  let k := s.actTick a
  a.open && decide (k ≤ s.pace.toNat) &&
    ((s.isReady a && (k == s.pace.toNat || decide (s.pace.toNat ≤ s.lastTick a))) || (k == s.pace.toNat && s.refusesHoldover a))
/-- What becomes of an entry whose attempt is over without an action, `res` its outcome so far (R67, R68): it reports; a member re-arms where the policy
retries, else its held slices go, and it is excluded where the gang proceeds. COORD itself waits for its own decision. -/
def State.missed (s : State) (a0 : Armed) (excluded : Bool) : State :=
  let a := { a0 with straggled := true, moved := s.actTick a0 - a0.k.toNat }
  let tick := s.lastTick a + 1
  if a.retries then
    (if a.coord = s.modId then s.report a false tick else (s.notice a a.coord 2 tick).putEntry (s.again a a.undone))
  else
    let t := if excluded && (a.strg == 1 || a.act == 3) then s.outcome a 3 false false s.pace.toNat else s
    (t.dropHeld a).report { a with final := if a.coord = s.modId then none else some s.pace } false tick
/-- A record refused in holdover straggles (R72). DESIGN CHOICE (log entry 95): where the gang proceeds its result stays 4, and does not become 3. -/
def State.refuseHoldover (s : State) (a : Armed) : State :=
  ((s.outcome a 4 false false s.pace.toNat).gangFault a 3 (s.actTick a) (s.rootOf a)).missed a false
/-- The tick from which an acted entry counts its 64 ticks: its outcome is final at once under the proceed policy and for a halt, else when COORD
can no longer undo it (log entry 24). -/
def State.actedFinal (s : State) (a : Armed) : Option Word :=
  if a.coord = s.modId then none else if a.strg = 1 ∨ a.act = 3 then some s.pace else some (BitVec.ofNat 64 (s.lastTick a + 64))
/-- The action at its tick: on the slices, in the mailbox, and the report. -/
def State.actNow (s : State) (a : Armed) : State :=
  if s.refusesHoldover a then s.refuseHoldover a
  else
    let k := s.actTick a
    let t := (s.gangAction a a.doing).outcome a (if k < s.pace.toNat then 1 else 0) false (s.starter.clk == 1) s.pace.toNat
    t.report { a with acted := true, moved := k - a.k.toNat, final := s.actedFinal a } true k
def execTimedAction (n : Nat) (s : State) : Out := s.onEntry n "TIMED_ACTION" s.actionDue s.actNow
/-- Is a record's attempt past Klast without having acted? -/
def State.straggles (s : State) (a : Armed) : Bool := a.open && decide (s.lastTick a < s.pace.toNat) && !s.actionDue a
/-- A straggler: its fault, and what the policy makes of it. -/
def State.straggle (s : State) (a : Armed) : State := (s.gangFault a 1 (s.actTick a) (s.rootOf a)).missed a true
def execStraggler (n : Nat) (s : State) : Out := s.onEntry n "STRAGGLER" s.straggles s.straggle
/-- An undo takes effect: a pre-empt for a launch or resume, a resume for a pre-empt; then the next attempt, or the end. -/
def State.undoNow (s : State) (a : Armed) : State :=
  let t := if !a.acted then s else (s.gangAction a (if a.act = 1 then 2 else 1)).outcome a 2 false false s.pace.toNat
  if a.retries then t.putEntry (t.again a (a.undone || a.acted))
  else (if a.acted then t else t.dropHeld a).putEntry { a with undoAt := none, final := some t.pace }
def execUndo (n : Nat) (s : State) : Out :=
  s.onEntry n "UNDO" (fun a => match a.undoAt with
    | none => false
    | some u => decide (u.toNat ≤ s.pace.toNat)) s.undoNow
/-- Has COORD collected to the end of its time: tick Klast + 64 (R68)? -/
def State.collectOver (s : State) (a : Armed) : Bool := a.collecting && decide (s.lastTick a + 64 ≤ s.pace.toNat)
def execCoordCollectTimeout (n : Nat) (s : State) : Out := s.onEntry n "COORD_COLLECT_TIMEOUT" s.collectOver s.coordDecides
def execArmEntryFree (n : Nat) (s : State) : Out :=
  s.onEntry n "ARM_ENTRY_FREE" (fun a => match a.final with
    | none => false
    | some f => decide (f.toNat + 64 ≤ s.pace.toNat)) (fun a => s.dropEntry a.id)
/-- A notice is for an entry of its gang, T and attempt; an undo may also find a straggler that has already gone on to the next attempt. -/
def Armed.matches (a : Armed) (b : Nat) : Bool :=
  fld b 63 48 == a.gang.toNat && fld b 175 128 == a.f 111 64 && fld b 223 192 == a.f 159 128 &&
    (fld b 39 32 == a.attempt % 256 || (fld b 47 40 == 3 && fld b 39 32 + 1 == a.attempt && !a.acted))
def execStarterNotice (k : Nat) (s : State) : Out :=
  match s.fab.flights.find? (fun x => x.id == k) with
  | none => .refused (.notEnabled "STARTER_NOTICE")
  | some x =>
    let p := x.pkt
    if p.kind ≠ 3 ∨ p.dcls ≠ 5 ∨ x.arrived ≠ some 5 then .refused (.notEnabled "STARTER_NOTICE")
    else
      let t := s.dropFlight k
      let b := p.body.toNat
      let lost := t.bump 0 7
      if t.fab.present.get p.smod.toNat ≠ 1 ∨ p.h = true then .next lost
      else
        match t.starter.armed.find? (fun a => a.matches b) with
        | none => .next lost
        | some a =>
          match fld b 47 40 with
          | 1 => if a.coord = t.modId then .next (t.takeReport a { m := p.smod, acted := true }) else .next lost
          | 2 => if a.coord = t.modId then .next (t.takeReport a { m := p.smod, acted := false }) else .next lost
          | 3 => if fld b 39 32 = a.attempt % 256 then .next (t.undoHere { a with final := none }) else .next t
          | _ => .next lost

/-! ## Cancelling (R61), clock loss (R73) -/

/-- A KILL of a gang cancels an entry whose deadline has not passed. -/
def State.cancelEntry (s : State) (a : Armed) : State := ((s.outcome a 6 false false s.pace.toNat).dropHeld a).dropEntry a.id
def State.cancellable (s : State) (a : Armed) : Bool := a.open && decide (s.pace.toNat + 1 < s.actTick a)
/-- The fault of a region at isolation: T, action tick and members of the armed entry of its gang, where there is one (R71; log entry 85). -/
def State.isolationFault (s old : State) (r : Region) : State :=
  let gang : BitVec 16 := BitVec.ofNat 16 (((s.slicesOf [r.id]).map (fun p => (s.sliceAt p.1 p.2).gang.toNat)).foldl max 0)
  match old.starter.armed.find? (fun a => gang != 0 && a.gang == gang) with
  | some a => s.gangFault a 4 (old.actTick a) (some r)
  | none => s.faultRecord r.eff r.id r.slab.toNat (faultBytes (BitVec.ofNat 64 (24 + 4 * 256 + gang.toNat * 65536)) 0 0 0 s.pace 0 0 0 r.id s.modId 0 s.pace)
/-- The module has lost its frequency: it is isolated. A slice that LAUNCH has placed and that is still held is suspended as one that has become ready. -/
def State.isolate (s : State) : State :=
  let t := s.starter.armed.foldl (fun (s : State) a => ((s.outcome a 5 false false s.pace.toNat).dropHeld a).dropEntry a.id)
    { s with isolated := true, starter := { s.starter with clk := 2, good := 0, state := .faulty } }
  let u := t.cores.foldl (fun (s : State) c => (List.finRange 16).foldl (fun (s : State) i =>
    let x := s.sliceAt c.id i
    if x.v && x.disc && x.st == .held then s.modSlice c.id i (fun y => { y.becomeReady s.pace with st := .suspended, suspTick := s.pace })
    else if x.v && x.disc && (x.st == .ready || x.st == .running || x.st == .idle) then
      (s.modSlice c.id i (fun y => { y with st := .suspended, suspTick := s.pace })).onCore c.id (fun s => (s.tellStopAll i).evaluateNow)
    else s) s) t
  (u.regions.filter (fun r => (u.slicesOf [r.id]).any (fun p => let x := u.sliceAt p.1 p.2
    x.gang != 0 || x.disc))).foldl (fun (u : State) r => u.isolationFault s r) u
def execFrequencyLoss (s : State) : Out := if s.isolated then .next s else .next s.isolate
/-- Every resident slice's deadline and tick of suspension move by a change of the pace count. -/
def State.movePace (s : State) (pace : Word) : State :=
  let move (v : Nat) : Int := (v : Int) + pace.toNat - s.pace.toNat
  { s.mapCores (fun c => { c with slices := c.slices.map (fun x =>
      if x.v then { x with dead := BitVec.ofInt 48 (move x.dead.toNat), suspTick := BitVec.ofInt 64 (move x.suspTick.toNat) } else x) }) with pace := pace }
/-- The module takes its place in the domain's tick, given in fabric cycles of the domain, two of which a cycle spans in warm-up (R22, R50); flits of the
scheduled plane keep to its even cycles (R28). -/
def State.atPlace (s : State) (pos : Nat) : State :=
  let p := if s.fullService then pos % 1024 else pos % 1024 / 2
  { s with fcyc := p, tickDone := p != 0,
           fab := { s.fab with flights := s.fab.flights.map (fun (x : Flight) => if x.sched then { x with due := x.due + (p + s.fcyc) % 2 } else x) } }
/-- The module takes the domain's count and place in the tick again, and measures anew. -/
def execRelock (pace : Word) (pos : Nat) (s : State) : Out :=
  if !s.isolated then .refused (.notEnabled "RELOCK")
  else .next { (s.movePace pace).atPlace pos with isolated := false, starter := { s.starter with clk := 3, good := 0, state := .listening } }

end Sys2Proof.Machine
end

