-- ==== Sys2Proof/Machine/Power.lean ====
section
/-! DEFINITION. Machine.Power: the power control word, compute steps, thermal trips, supply faults and the entry into full service (R10-R17,
R21-R24). -/

namespace Sys2Proof.Machine

/-! ## The power control word (R13) -/

/-- Does a slab hold a core of a pace-discipline region: a resident pace slice (R15)? -/
def State.hasPace (s : State) (h : Nat) : Bool := s.cores.any (fun c => slabOf c.id == h && c.slices.any (fun x => x.resident && x.disc))
/-- Step of a slab. -/
def Power.at (p : Power) (h : Nat) : BitVec 6 := p.steps.toList.getD h 16
/-- STEP: the lowest step in effect on a slab in service, be it one with pace-discipline slices or the slowest of the others (log entry 71). -/
def State.stepNow (s : State) : Nat :=
  (((List.range 40).filter (fun h => s.joined.getLsbD h)).map (fun h => (s.power.at h).toNat)).foldl min 32
/-- Where the step is heading. -/
def Power.goal (p : Power) : BitVec 6 := p.target.getD p.standing
/-- PEND: a change waits for a superstep boundary on some slab with a pace-discipline slice. -/
def State.stepPending (s : State) : Bool :=
  s.fullService && !s.power.forced && !s.power.override &&
    (List.finRange 40).any (fun h => s.hasPace h.val && s.power.base[h] != s.power.goal)
/-- 80 µs in fabric cycles of 0.4 ns (log entry 72). -/
def forcingTime : Nat := 200000
/-- A change has waited 80 µs for its superstep boundary. -/
def State.stepOverdue (s : State) : Bool := s.stepPending && decide (s.power.since + forcingTime ≤ s.time)
/-- The word as it is read. -/
def State.powerWord (s : State) : Word :=
  BitVec.ofNat 64 ((if s.joined = 0 then s.power.standing.toNat else s.stepNow) * 2 ^ 50 + s.power.ceil.toNat * 2 ^ 44 + s.stepPending.toNat * 2 ^ 40 +
    s.power.exc.toNat * 2 ^ 32 + s.power.cap.toNat)
/-- A step within a range. -/
def clampTo (lo hi v : Nat) : Nat := max lo (min hi v)
/-- A target that differs from the present one replaces it, with a wait of its own; while a supply fault lasts the target stays 16 (R14, R17). -/
def Power.aim (p : Power) (now t : Nat) : Power :=
  if p.supply ∨ t = p.goal.toNat then p
  else { p with target := if t = p.standing.toNat then none else some (BitVec.ofNat 6 t), since := now, forced := false, override := false }
/-- A write of the word: CEIL and CAP, taken within their limits; EXC is cleared by the write of CAP. -/
def State.writePower (s : State) (v : Word) : State :=
  let ceil := clampTo 16 32 (fld v.toNat 49 44)
  let p := { s.power with ceil := BitVec.ofNat 6 ceil, cap := BitVec.ofNat 16 (clampTo 240 450 (fld v.toNat 15 0)), exc := 0 }
  { s with power := if ceil < p.goal.toNat then p.aim s.time ceil else p }

/-! ## The controller's events (R14-R17) -/

/-- A measurement: above CAP the target is the highest step, not above CEIL, that brings power under it. -/
def execPowerMeasurement (hot : Bool) (fit : BitVec 6) (s : State) : Out :=
  if hot then .next { s with power := s.power.aim s.time (clampTo 16 s.power.ceil.toNat fit.toNat) } else .next s
/-- Power has stayed 5 % below CAP for 1 ms: the target rises by one, up to CEIL. -/
def execStepRaise (s : State) : Out := .next { s with power := s.power.aim s.time (min (s.power.goal.toNat + 1) s.power.ceil.toNat) }
/-- A change has waited 80 µs: the next tick applies it, a superstep boundary or not. -/
def execStepChangeForced (s : State) : Out :=
  if !s.stepOverdue then .refused (.notEnabled "STEP_CHANGE_FORCED")
  else .next { s with power := { s.power with forced := true } }
/-- A slab's sensor is above 105 °C: step 16 from the next tick, counted in the slab counters. -/
def execThermalTrip (slab : BitVec 6) (s : State) : Out :=
  .next ({ s with power := { s.power with tripped := s.power.tripped ||| BitVec.ofNat 40 (2 ^ slab.toNat) } }.bump slab.toNat 6)
/-- Every sensor of the slab is below 95 °C. -/
def execThermalRecovery (slab : BitVec 6) (s : State) : Out :=
  .next { s with power := { s.power with tripped := s.power.tripped &&& ~~~(BitVec.ofNat 40 (2 ^ slab.toNat)) } }
/-- Low feed or loss of flow: the target is 16 at once, whatever the supersteps. -/
def execSupplyFault (s : State) : Out :=
  .next { s with power := { s.power with target := some 16, since := if s.power.supply then s.power.since else s.time, override := true, supply := true } }
/-- 1 s in fabric cycles, of 0.4 ns in full service and 0.8 ns in warm-up (R10, R22; log entry 72). -/
def State.oneSecond (s : State) : Nat := if s.fullService then 2500000000 else 1250000000
/-- Has a supply fault lasted 1 s (R17)? -/
def State.supplyOver (s : State) : Bool := s.power.supply && !s.power.halted && decide (s.power.since + s.oneSecond ≤ s.time)
/-- The condition has lasted 1 s: every slab halts, and the management ports are told. -/
def execSupplyFaultHalt (s : State) : Out :=
  if s.supplyOver then .next { s with power := { s.power with halted := true, reported := true } } else .refused (.notEnabled "SUPPLY_FAULT_HALT")
/-- The condition has ended in time. -/
def execSupplyRecovery (s : State) : Out :=
  if s.power.supply then .next { s with power := { s.power with supply := false } } else .refused (.notEnabled "SUPPLY_RECOVERY")

/-! ## Steps change (R15, R16, R24) -/

/-- Is the present tick a superstep boundary: every pace region outside its exchange window? -/
def State.superstep (s : State) : Bool :=
  s.cores.all (fun c => c.slices.all (fun x => !(x.resident && x.disc) ||
    ((x.window.isNone || decide (x.closing ≤ s.pace.toNat)) && !s.opens x)))
/-- May the slabs with pace-discipline slices change their steps at this tick without being forced to? -/
def State.stepEdge (s : State) : Bool := s.superstep || !(List.range 40).any s.hasPace
/-- The step changes of a tick: every slab takes the target at an edge or where it is forced, else those without a pace-discipline slice; a forced
change away from an edge is counted in EXC. In warm-up every slab runs at step 16. A slab that recovers from a trip returns at this very tick to
the step it had taken (log entry 73). -/
def State.powerTick (s : State) : State :=
  let p := s.power
  if !s.fullService then { s with power := { p with steps := Vector.replicate 40 16 } }
  else
    let whole := p.forced || p.override || s.stepEdge
    let base : Vector (BitVec 6) 40 := Vector.ofFn (fun h => if whole || !s.hasPace h.val then p.goal else p.base[h])
    let exc := if p.forced && !p.override && !s.stepEdge then BitVec.ofNat 8 (min (p.exc.toNat + 1) 255) else p.exc
    { s with power := { p with base := base, steps := Vector.ofFn (fun h => if p.tripped.getLsbD h.val then 16 else base[h]), exc := exc,
                               standing := if whole then p.goal else p.standing, target := if whole then none else p.target,
                               forced := p.forced && !whole, override := p.override && !whole } }
/-- Number of off-module ports (R33). -/
def portCount : Nat := 64
/-- Do all the conditions of R24 hold at the start of this tick: joined slabs calibrated, ports trained, PTP locked, a superstep boundary? -/
def State.fullReady (s : State) : Bool :=
  !s.fullService && !s.hush && s.fcyc == 0 && !s.tickDone && s.starter.clk == 0 && s.joined &&& ~~~s.calibrated == 0 &&
    (List.range portCount).all (fun p => s.fab.lp.get p != 0) && s.superstep
/-- The tick that starts is the hush tick: no plane carries a flit during it. -/
def execFullServiceEntry (s : State) : Out :=
  if !s.fullReady then .refused (.notEnabled "FULL_SERVICE_ENTRY") else .next { s with hush := true }
/-- At the end of the hush tick both clocks step to their full-service rates: the compute step to the target that is pending, or to CEIL (log
entry 74). -/
def State.endHush (s : State) : State :=
  if !s.hush then s
  else
    let t := s.power.target.getD s.power.ceil
    { s with fullService := true, hush := false,
             power := { s.power with standing := t, target := none, forced := false, override := false, base := Vector.replicate 40 t } }

end Sys2Proof.Machine
end

