-- ==== Sys2Proof/Machine/Host.lean ====
section
/-! DEFINITION. Machine.Host: host portals: the notify page, command fetch and checks, the commands, their completion records and interrupt
messages (R74-R87, R138). -/

namespace Sys2Proof.Machine

/-! ## Portal descriptors (R74) -/

/-- A portal's descriptor and its fields. -/
def State.pd (s : State) (p : BitVec 6) : Nat := (s.portals.get p.toNat).toNat
def pdRsz (d : Nat) : Nat := fld d 251 248
def pdHnode (d : Nat) : BitVec 12 := BitVec.ofNat 12 (fld d 247 236)
def pdTrgn (d : Nat) : BitVec 12 := BitVec.ofNat 12 (fld d 235 224)
def pdPasid (d : Nat) : Nat := fld d 223 204
def pdTail (d : Nat) : Nat := fld d 63 32
def pdHead (d : Nat) : Nat := fld d 31 0
def pdFlt (d : Nat) : Bool := d.testBit 101
def pdOwn (d : Nat) : Bool := d.testBit 253
/-- Put a descriptor back. -/
def State.setPd (s : State) (p : BitVec 6) (d : Nat) : State := { s with portals := s.portals.set p.toNat (BitVec.ofNat 256 d) }
/-! ## Interrupt messages (R86) -/

/-- An interrupt entry as it is kept: its reserved bits read as zero (R7, R86). -/
def irqEntry (e : BitVec 128) : BitVec 128 := e &&& ~~~(BitVec.ofNat 128 ((2 ^ 34 - 1) * 2 ^ 32))
/-- With IEN set, DATA is stored at ADDR of the host node; the model keeps host bytes below 2^56, the physical addresses of R121, and of a store beyond
them only its packet. -/
def State.interrupt (s : State) (p : BitVec 6) : State :=
  let d := s.pd p
  if !d.testBit 252 then s
  else
    let e := (s.irqs.get p.toNat).toNat
    let addr := fld e 127 66 * 4
    let pkt : Packet := { hdr := mkHdr 1 1 4 s.modId ((pdHnode d).setWidth 20) (s.ctrlStamp (portalSlab p)) 0 0, body := BitVec.ofNat 4096 (fld e 31 0 + addr * 2 ^ 64), pois := 0 }
    let t := if addr < 2 ^ 56 then s.putGood (hostKey (pdHnode d) addr) 4 (fld e 31 0) else s
    { t with sent := pkt :: t.sent }

/-! ## The notify page (R75, R76) -/

/-- A notify write has reached edge station 0 of slab 0. -/
def Flight.isNotify (x : Flight) : Bool :=
  x.pkt.kind == 1 && x.pkt.dcls == 1 && x.rq.isNone && x.arrived == some 5 && (x.row, x.col) == stationPos 0 0
/-- The value written, and whether it has the form of a reset notify. -/
def notifyValue (p : Packet) : Nat := p.body.toNat % 2 ^ 64
def isReset (p : Packet) : Bool := notifyValue p / 2 ^ 32 == 2 ^ 31
/-- The portal a notify write names: bits 11-6 of its page offset. -/
def notifyPortal (p : Packet) : BitVec 6 := BitVec.ofNat 6 (p.opx / 64)
/-- A write that is not accepted: ERR counts it, and an interrupt message follows. -/
def State.notifyRejected (s : State) (p : BitVec 6) : State :=
  let d := s.pd p
  (s.setPd p (setFld d 203 192 (min (fld d 203 192 + 1) 4095))).interrupt p
/-- The tests that every notify write has to pass: access table, alignment, host node, EN. -/
def State.notifyAllowed (s : State) (q : Packet) : Bool :=
  let d := s.pd (notifyPortal q)
  (s.stationRefusal 0 0 q.srgn q.smod q.h 1).isNone && q.opx % 64 == 0 && q.h && q.smod == pdHnode d && d.testBit 255
def execNotifyWrite (k : Nat) (s : State) : Out :=
  s.onFlight k "NOTIFY_WRITE" fun x =>
    if !x.isNotify || isReset x.pkt then .refused (.notEnabled "NOTIFY_WRITE")
    else
      let t := s.dropFlight k
      let p := notifyPortal x.pkt
      let d := t.pd p
      let v := notifyValue x.pkt
      let size := 2 ^ pdRsz d
      if !t.valid then .next t
      else if t.notifyAllowed x.pkt && decide (v < 2 ^ 32) && !pdFlt d && decide ((v + 2 ^ 32 - pdHead d) % 2 ^ 32 ≤ size) &&
          decide ((v + 2 ^ 32 - pdTail d) % 2 ^ 32 ≤ size) then .next (t.setPd p (setFld d 63 32 v))
      else .next (t.notifyRejected p)
def execResetNotify (k : Nat) (s : State) : Out :=
  s.onFlight k "RESET_NOTIFY" fun x =>
    if !x.isNotify || !isReset x.pkt then .refused (.notEnabled "RESET_NOTIFY")
    else
      let t := s.dropFlight k
      let p := notifyPortal x.pkt
      let n := notifyValue x.pkt % 2 ^ 32
      if !t.valid then .next t
      else if t.notifyAllowed x.pkt then .next (t.setPd p (setFld (setFld (setFld (setFld (t.pd p) 63 32 n) 31 0 n) 203 192 0) 101 101 0))
      else .next (t.notifyRejected p)

/-! ## Rings (R77-R79) -/

/-- The host-memory key of n bytes of a ring, in the memory of the portal's host node, with AC and DT set where the page translates; none where it does
not, lacks the permission, is not host memory, the host refuses, or a read meets poison (R78, R79, R128). -/
def State.ringKey (s : State) (p : BitVec 6) (va n acc : Nat) : State × Option Nat :=
  let q := s.portalSpace p
  match walk s q.1.toNat q.2.toNat va acc with
  | .bad _ => (s, none)
  | .ok w0 =>
    let w := w0.onHost (s.portalNode p)
    ((s.setAcDt w acc).draw,
      if fld w.bits2.toNat 7 6 ≠ 2 ∨ s.hostSaysNo w = true ∨ (acc = 0 ∧ (firstPoison s.pois (w.key s) n).isSome = true) then none
      else some (w.key s))
/-- A ring access has failed: FLT, and an interrupt message when it is set. -/
def State.ringFails (s : State) (p : BitVec 6) : State :=
  let d := s.pd p
  if pdFlt d then s else (s.setPd p (setFld d 101 101 1)).interrupt p
/-- Is the command fetched earlier from the slot of a count still without its completion? -/
def State.slotBusy (s : State) (p : BitVec 6) (n : Nat) : Bool :=
  let size := 2 ^ pdRsz (s.pd p)
  s.cmds.any (fun c => c.p == p && c.n.toNat % size == n % size)
/-- May a portal fetch its next command? A module whose configuration block is not valid serves none (R18). -/
def State.mayFetch (s : State) (p : BitVec 6) : Bool :=
  let d := s.pd p
  s.valid && !pdFlt d && pdHead d != pdTail d && !s.slotBusy p (pdHead d)

/-! ## The checks of a fetched command (R80, R81) -/

/-- Is a field of a command that must be zero nonzero, or an operand out of range (R80)? DESIGN CHOICE (log entry 97): bits 63-57 of an address operand are
not compared with the global form of R107. -/
def operandBad (v : Nat) : Bool :=
  let nz (hi lo : Nat) : Bool := fld v hi lo != 0
  nz 31 10 || nz 63 52 ||
  (match fld v 7 0 with
   | 1 => fld v 191 128 % 256 != 0 || nz 511 192
   | 2 => false
   | 3 => decide (1 < fld v 135 128) || nz 191 136 || nz 511 256 || (fld v 135 128 == 1 && nz 255 208)
   | 4 => decide (3 < fld v 135 128) || nz 191 136 || nz 511 256 || (fld v 135 128 != 3 && nz 255 192)
   | 5 =>
     let src := fld v 184 128
     let dst := fld v 248 192
     let len := fld v 295 256
     nz 130 128 || nz 194 192 || len == 0 || len % 8 != 0 || nz 511 296 || (decide (src < dst + len) && decide (dst < src + len))
   | 6 => decide (15 < fld v 199 192) || decide (4 < fld v 205 203) || nz 207 207 || decide (16 < fld v 215 208) || nz 223 216 || nz 511 256 ||
       (fld v 255 224 != 0 && fld v 215 208 == 0)
   | 7 =>
     nz 191 144 || nz 511 448 ||
     (match fld v 135 128 with
      | 1 => nz 143 136 || nz 447 256
      | 2 => decide (63 < fld v 143 136) || nz (192 + 100) (192 + 64) || decide (fld v (192 + 251) (192 + 248) < 4)
      | 3 => decide (63 < fld v 143 136) || nz 447 192
      | 4 => decide (63 < fld v 143 136) || nz 447 320 || nz (192 + 65) (192 + 32)
      | 5 => decide (39 < fld v 143 136) || nz 447 192
      | _ => true)
   | _ => fld v 191 128 % 256 != 0 || nz 511 192)
/-- The status with which a fetched command ends at once, none where it reaches the slab controller. -/
def State.cmdRefusal (s : State) (p : BitVec 6) (v : Nat) : Option Nat :=
  let d := s.pd p
  let op := fld v 7 0
  let item := fld v 135 128
  if d.testBit 254 then some 1
  else if fld v 51 32 ≠ pdPasid d then some 3
  else if op = 0 ∨ 8 < op then some 2
  else if operandBad v then some 4
  else if op = 7 ∧ pdOwn d = false ∧ (item ≠ 4 ∨ fld v 143 136 ≠ p.toNat) then some 10
  else if op = 7 ∧ (item = 2 ∨ item = 3) ∧ pdOwn (s.pd (BitVec.ofNat 6 (fld v 143 136))) = true then some 4
  else none
def execCommandFetch (p : BitVec 6) (s : State) : Out :=
  if !s.mayFetch p then .refused (.notEnabled "COMMAND_FETCH")
  else
    let d := s.pd p
    let n := pdHead d
    match s.ringKey p (fld d 191 147 * 4096 + 64 * (n % 2 ^ pdRsz d)) 64 0 with
    | (t, none) => .next (t.ringFails p).draw
    | (t, some k) =>
      let v := t.peek k 64
      let c : Cmd := { p := p, n := BitVec.ofNat 32 n, seq := t.nextId, bytes := BitVec.ofNat 512 v,
                       result := (t.cmdRefusal p v).map (fun st => (BitVec.ofNat 8 st, 0, 0, 0)),
                       waits := [], parts := [], pos := 0, low := none, bad := 0, badSt := 0, due := t.dueTime }
      let u := t.setPd p (setFld (t.pd p) 31 0 ((n + 1) % 2 ^ 32))
      .next { u with cmds := u.cmds ++ [c], nextId := u.nextId + 1 }.draw

/-! ## Commands in progress (R83) -/

/-- A field of a command. -/
def Cmd.f (c : Cmd) (hi lo : Nat) : Nat := fld c.bytes.toNat hi lo
def Cmd.op (c : Cmd) : Nat := c.f 7 0
/-- The block a command names, and the gang. -/
def Cmd.rcb (c : Cmd) : Option Word :=
  match c.op with
  | 1 => some (BitVec.ofNat 64 (c.f 191 128))
  | 2 => some (BitVec.ofNat 64 (c.f 447 384))
  | 3 => if c.f 135 128 = 0 then some (BitVec.ofNat 64 (c.f 255 192)) else none
  | 4 => if c.f 135 128 = 3 then some (BitVec.ofNat 64 (c.f 255 192)) else none
  | 6 => some (BitVec.ofNat 64 (c.f 191 128))
  | 8 => some (BitVec.ofNat 64 (c.f 191 128))
  | _ => none
def Cmd.gang (c : Cmd) : Option Nat :=
  match c.op with
  | 2 => some (c.f 159 144)
  | 3 => if c.f 135 128 = 1 then some (c.f 207 192) else none
  | _ => none
/-- Do two blocks name the same region, or regions of which one lies in the other's subtree? -/
def State.related (s : State) (a b : Word) : Bool :=
  a == b || (match s.regionAt a, s.regionAt b with
    | some x, some y => s.under x.id y.id || s.under y.id x.id
    | _, _ => false)
/-- Is a command carried out only after another that reached the slab controllers before it? A block that is not placed may be one that the other places. -/
def State.follows (s : State) (c e : Cmd) : Bool :=
  e.result.isNone &&
    ((match c.rcb, e.rcb with
      | some a, some b => s.related a b || (e.places && (s.regionAt a).isNone)
      | _, _ => false) ||
     (match c.gang, e.gang with
      | some a, some b => a == b
      | _, _ => false))
/-- Is a command one that names a block of a launch record's subtree, or may name one, whose placement an ARM before it has brought about (R61, R382)? -/
def State.awaits (s : State) (c : Cmd) (a : Armed) : Bool :=
  a.places && decide (a.seq < c.seq) && c.op != 1 && c.op != 2 &&
    c.rcb.any (fun b => (s.regionAt b).isNone || s.related b (BitVec.ofNat 64 (a.f 319 256)))
/-- May a command be carried out: nothing before it holds it back, an armed placement among them, with FEN every earlier command of its portal has
completed, and a LAUNCH has no placement before it (R83, R92)? -/
def State.mayRun (s : State) (c : Cmd) : Bool :=
  let before := s.cmds.takeWhile (fun e => !(e.p == c.p && e.n == c.n))
  c.result.isNone && !(before.any (fun e => s.follows c e || (c.bytes.getLsbD 9 && e.p == c.p))) &&
    !(c.op == 1 && c.waits.isEmpty && s.placesBefore c.seq) && !s.starter.armed.any (s.awaits c)
/-- Put a command back, its next event due after a free time. -/
def State.putCmd (s : State) (c : Cmd) : State :=
  { s with cmds := s.cmds.map (fun (e : Cmd) => if e.p == c.p && e.n == c.n then { c with due := s.dueTime } else e) }.draw
/-- A command ends: status, detail, data words. -/
def State.endCmd (s : State) (c : Cmd) (st det : Nat) (d0 d1 : Word) : State :=
  s.putCmd { c with result := some (BitVec.ofNat 8 st, BitVec.ofNat 8 det, d0, d1) }
/-- An event that carries out a command of one kind. -/
def State.onCmd (s : State) (p : BitVec 6) (n : BitVec 32) (name : String) (is : Cmd → Bool) (f : Cmd → State) : Out :=
  match s.cmds.find? (fun (c : Cmd) => c.p == p && c.n == n) with
  | none => .refused (.notEnabled name)
  | some c => if is c && s.mayRun c then .next (f c) else .refused (.notEnabled name)
/-- The region a command names, within the portal's tenancy; the status where there is none. -/
def State.cmdRegion (s : State) (c : Cmd) (a : Word) : Nat ⊕ Region :=
  match s.regionAt a with
  | none => .inl 12
  | some r => if s.under r.id (pdTrgn (s.pd c.p)) then .inr r else .inl 7

/-! ## LAUNCH, ARM, KILL, RESUME -/

/-- The lowest core id of some slices. -/
def lowestCore (l : List (CoreId × Fin 16)) : Word :=
  match l with
  | [] => 0
  | x :: xs => BitVec.ofNat 64 (xs.foldl (fun m y => min m y.1.toNat) x.1.toNat)
/-- The subtree is placed; the command completes once every slice of it is eligible. DESIGN CHOICE (log entry 99): data word 1 is 0 where it has none. -/
def State.launchCmd (s : State) (c : Cmd) : State :=
  if c.waits.isEmpty then
    (let q := s.portalSpace c.p
     let d := s.pd c.p
     match s.launchTree (portalSlab c.p) (s.portalNode c.p) (BitVec.ofNat 64 (c.f 191 128)) q.1 q.2 (pdOwn d) (pdTrgn d) 0 none with
     | (t, .status st) => t.endCmd c st 0 0 0
     | (t, .waits) => t.putCmd c
     | (t, .slices l) => if l.isEmpty then t.endCmd c 0 0 0 0 else t.putCmd { c with waits := l })
  else if c.waits.all (fun w => (s.sliceAt w.1 w.2).st != .held) then s.endCmd c 0 0 (BitVec.ofNat 64 c.waits.length) (lowestCore c.waits)
  else s.putCmd c
def execLaunch (p : BitVec 6) (n : BitVec 32) (s : State) : Out := s.onCmd p n "LAUNCH" (fun c => c.op == 1) s.launchCmd
/-- The record is checked and armed, or refused with its reason. -/
def State.armCmd (s : State) (c : Cmd) : State :=
  let r : BitVec 512 := BitVec.ofNat 512 (c.f 511 128)
  match s.armCheck c.p r with
  | (t, some code) => t.endCmd c 9 code 0 0
  | (t, none) => (t.armRecord c.p c.seq r).endCmd c 0 0 0 0
def execArm (p : BitVec 6) (n : BitVec 32) (s : State) : Out := s.onCmd p n "ARM" (fun c => c.op == 2) s.armCmd
/-- The core whose scratchpad or instruction store an access is for. -/
def Op.coreTarget (o : Op) : Option (BitVec 12 × CoreId) :=
  match o.req with
  | .mem a => if isCoreSpace a.addr then some (spaceMod a.addr, spaceCore a.addr) else none
  | _ => none
/-- The core-space ranges of a slice's partitions, with its core: first offset, and the one after the last. -/
def Slice.ranges (x : Slice) (co : CoreId) : List (CoreId × Nat × Nat) :=
  [(co, x.base, x.top), (co, 393216 + x.ib.toNat * 4096, 393216 + x.ib.toNat * 4096 + x.eff.iskb.toNat * 1024)]
/-- Does an access touch a core-space range? -/
def accTouches (a : Access) (r : Nat × Nat) : Bool :=
  let off := fld a.addr.toNat 18 0
  decide (off < r.2) && decide (r.1 < off + a.size)
/-- Does a packet bring a request or a scheduled transfer to a range of a core? -/
def Flight.bringsTo (x : Flight) (r : CoreId × Nat × Nat) : Bool :=
  x.arrived != some 6 && x.arrived != some 9 && x.pkt.dcls == 0 && (x.pkt.mc || x.pkt.did == r.1) &&
    (if x.pkt.kind = 4 then decide (x.pkt.opx % 16384 * 32 < r.2.2) && decide (r.2.1 < x.pkt.opx % 16384 * 32 + 32 * x.pkt.len)
     else match x.rq with
       | some (.mem a) => accTouches a r.2
       | _ => false)
/-- Has every packet that is addressed to a range of a core been delivered (R66)? -/
def State.delivered (s : State) (r : CoreId × Nat × Nat) : Bool :=
  !(s.ops.any (fun o => o.stage == .flight && o.coreTarget == some (s.modId, r.1) && (match o.req with
    | .mem a => accTouches a r.2
    | _ => false))) &&
  !(s.fab.flights.any (fun x => x.pkt.dmod == s.modId && x.bringsTo r))
/-- Has a removed slice gone, with every message addressed to it delivered, and all its own operations over? -/
def State.gone (s : State) (w : CoreId × Fin 16) : Bool :=
  (s.sliceAt w.1 w.2).st != .leaving &&
    !(s.ops.any (fun o => !o.foreign && o.iss.core == w.1 && o.iss.slc == w.2 && !s.issuerThere o.iss)) &&
    !(s.fab.flights.any (fun x => x.pkt.dcls == 0 && x.pkt.dmod == s.modId && (x.pkt.mc || x.pkt.did == w.1) && x.pkt.kind == 3 && x.pkt.opx / 65536 == w.2.val))
/-- A KILL that has told its slices to leave waits until they have gone, and every packet addressed to their partitions has been delivered (R66, R83). -/
def State.killWaits (s : State) (c : Cmd) : State := if c.waits.all s.gone && c.parts.all s.delivered then s.endCmd c 0 0 0 0 else s.putCmd c
/-- What a KILL of some slices waits for. -/
def State.awaiting (s : State) (c : Cmd) (l : List (CoreId × Fin 16)) : Cmd :=
  { c with waits := l, parts := l.flatMap (fun p => (s.sliceAt p.1 p.2).ranges p.1) }
/-- Every slice of some is told to leave, from KILL. -/
def State.killSlices (s : State) (l : List (CoreId × Fin 16)) (why : BitVec 4) : State := l.foldl (fun s p => s.startLeaving p.1 p.2 why) s
/-- KILL of a subtree. -/
def State.killTree (s : State) (c : Cmd) : State :=
  if !c.waits.isEmpty then s.killWaits c
  else
    match s.cmdRegion c (BitVec.ofNat 64 (c.f 255 192)) with
    | .inl st => s.endCmd c st 0 0 0
    | .inr r =>
      if r.id = 0 then s.endCmd c 7 0 0 0
      else
        let ids := s.subtree r.id
        let l := s.slicesOf ids
        let t := ({ s with regions := s.regions.map (fun (x : Region) => if ids.contains x.id then { x with killed := true } else x) }.killSlices l 1)
        let u := State.endRegions 4096 t
        if l.isEmpty then u.endCmd c 0 0 0 0 else u.putCmd (s.awaiting c l)
def execKillSubtree (p : BitVec 6) (n : BitVec 32) (s : State) : Out :=
  s.onCmd p n "KILL_SUBTREE" (fun c => c.op == 3 && c.f 135 128 == 0) s.killTree
/-- KILL of a gang: each entry whose deadline has not passed is cancelled at once; one past it acts first; then the resident slices halt (R61, R83). -/
def State.killGang (s : State) (c : Cmd) : State :=
  let g : BitVec 16 := BitVec.ofNat 16 (c.f 207 192)
  let mine := s.starter.armed.filter (fun a => a.gang == g && a.open)
  if !c.waits.isEmpty then s.killWaits c
  else if c.pos == 0 && mine.isEmpty && (s.gangSlices g).isEmpty then s.endCmd c 12 0 0 0
  else
    let t := (mine.filter s.cancellable).foldl (fun (s : State) a => s.cancelEntry a) s
    if mine.any (fun a => !s.cancellable a) then t.putCmd { c with pos := 1 }
    else
      let l := t.gangSlices g
      let u := t.killSlices l 2
      if l.isEmpty then u.endCmd c 0 0 0 0 else u.putCmd (s.awaiting c l)
def execKillGang (p : BitVec 6) (n : BitVec 32) (s : State) : Out :=
  s.onCmd p n "KILL_GANG" (fun c => c.op == 3 && c.f 135 128 == 1) s.killGang
/-- The stopped and suspended slices of a subtree go on; data word 0 is their count. -/
def State.resumeCmd (s : State) (c : Cmd) : State :=
  match s.cmdRegion c (BitVec.ofNat 64 (c.f 191 128)) with
  | .inl st => s.endCmd c st 0 0 0
  | .inr r =>
    let l := (s.slicesOf (s.subtree r.id)).filter (fun p =>
      let x := s.sliceAt p.1 p.2
      (x.st == .suspended || x.st == .stopped) && !(x.attached && x.halted))
    (l.foldl (fun s p => s.resumeSlice p.1 p.2) s).endCmd c 0 0 (BitVec.ofNat 64 l.length) 0
def execResume (p : BitVec 6) (n : BitVec 32) (s : State) : Out := s.onCmd p n "RESUME" (fun c => c.op == 8) s.resumeCmd

/-! ## QUERY -/

def execQueryStarterStatus (p : BitVec 6) (n : BitVec 32) (s : State) : Out :=
  s.onCmd p n "QUERY_STARTER_STATUS" (fun c => c.op == 4 && c.f 135 128 == 0) fun c => s.endCmd c 0 0 s.starterWord 0
def execQueryPower (p : BitVec 6) (n : BitVec 32) (s : State) : Out :=
  s.onCmd p n "QUERY_POWER" (fun c => c.op == 4 && c.f 135 128 == 1) fun c => s.endCmd c 0 0 s.powerWord 0
def execQueryDescriptor (p : BitVec 6) (n : BitVec 32) (s : State) : Out :=
  s.onCmd p n "QUERY_DESCRIPTOR" (fun c => c.op == 4 && c.f 135 128 == 2) fun c =>
    s.endCmd c 0 0 (BitVec.ofNat 64 (s.pd p)) (BitVec.ofNat 64 (s.pd p / 2 ^ 64))
/-- Records not yet consumed in the queue of a fault domain; the root's is firmware's. A block that cannot be read gives 0 and a record (R395). -/
def State.queueFill (s : State) (slab : Nat) (e : Eff) (rgn : BitVec 12) : State × Nat :=
  match e.fdom with
  | none => (s, s.rootq.recs.length - s.rootq.head)
  | some rcb =>
    match s.gread slab e.fpasid.toNat e.fs2f.toNat (rcb.toNat + 128) 16 with
    | .ok (t, q) => (t, (q % 2 ^ 32 + 2 ^ 32 - q / 2 ^ 64 % 2 ^ 32) % 2 ^ 32)
    | .bad c => ((s.ctrlMark slab e.fpasid.toNat e.fs2f.toNat (rcb.toNat + 128) 0).rootAccess c (rcb + 128) rgn, 0)
/-- The effective values whose queue a block that is not placed would use: those it had, where it is done, else those of its parent, placed or done.
DESIGN CHOICE (log entry 100): the root's, where its parent has never been placed. -/
def State.effUnplaced (s : State) (old : Option PastRegion) (parent : Word) : Eff :=
  match old with
  | some x => x.eff
  | none => (((s.regionAt parent).map (·.eff)).or ((s.past.find? (fun x => x.rcb == parent)).map (·.eff))).getD rootEff
/-- QUERY item 3 ends with word 0 and the fill of a queue. -/
def State.fillCmd (s : State) (c : Cmd) (w : Nat) (e : Eff) (rgn : BitVec 12) : State :=
  let r := s.queueFill (portalSlab c.p) e rgn
  r.1.endCmd c 0 0 (BitVec.ofNat 64 w) (BitVec.ofNat 64 r.2)
/-- The answer of item 3 for a block that is not placed: its STATE and last id, and the fill of the queue it would use. -/
def State.queryUnplaced (s : State) (c : Cmd) (a : Word) : State :=
  let q := s.portalSpace c.p
  match s.gread (portalSlab c.p) q.1.toNat q.2.toNat a.toNat 256 with
  | .bad e => (s.ctrlMark (portalSlab c.p) q.1.toNat q.2.toNat a.toNat 0).endCmd c (statusOf e) 0 0 0
  | .ok (t, v) =>
    let old := t.past.find? (fun x => x.rcb == a)
    let w := match old with
      | some x => x.id.toNat * 2 ^ 32 + 2 * 2 ^ 44
      | none => 0
    let own := (fld v 1055 1024 + 2 ^ 32 - fld v 1119 1088) % 2 ^ 32
    let up : Word := BitVec.ofNat 64 (fld v 63 0)
    if (t.regionAt up).any (fun g => !t.under g.id (pdTrgn (t.pd c.p))) then t.endCmd c 7 0 0 0
    else if v.testBit 697 then t.endCmd c 0 0 (BitVec.ofNat 64 w) (BitVec.ofNat 64 own)
    else t.fillCmd c w (t.effUnplaced old up) ((old.map (·.id)).getD 0)
/-- QUERY item 3. -/
def State.queryRegion (s : State) (c : Cmd) : State :=
  let a : Word := BitVec.ofNat 64 (c.f 255 192)
  match s.cmdRegion c a with
  | .inl 12 => s.queryUnplaced c a
  | .inl st => s.endCmd c st 0 0 0
  | .inr r =>
    let l := s.slicesOf [r.id]
    let held := l.filter (fun p =>
      let x := s.sliceAt p.1 p.2
      x.st == .suspended || x.st == .stopped)
    s.fillCmd c (l.length + held.length * 2 ^ 16 + r.id.toNat * 2 ^ 32 + 2 ^ 44) r.eff r.id
def execQueryRegion (p : BitVec 6) (n : BitVec 32) (s : State) : Out :=
  s.onCmd p n "QUERY_REGION" (fun c => c.op == 4 && c.f 135 128 == 3) s.queryRegion

/-! ## COPY -/

/-- Translation of an address of a COPY: none with the status where it faults or is refused, lies in a peer module in warm-up, or the revocation of the
portal has completed (R82, R83). -/
def State.copyWalk (s : State) (c : Cmd) (va acc : Nat) : Nat ⊕ Walked :=
  let q := s.portalSpace c.p
  if s.revoked.getLsbD c.p.toNat then .inl 5
  else
    match s.ctrlWalk (portalSlab c.p) q.1.toNat q.2.toNat (va % 2 ^ 57) acc with
    | .bad e => .inl (if e = refusalCause 4 ∧ s.fullService = false then 13 else statusOf e)
    | .ok w => if fld w.bits2.toNat 7 6 = 1 ∧ s.fullService = false then .inl 13 else .inr (w.onHost (s.portalNode c.p))
/-- A granule that a COPY reads, from a read copy of the slab's station 0 or from its place, and whether it is poisoned (R190). -/
def State.copyRead (s : State) (slab : Nat) (w : Walked) : Nat × Bool :=
  let k := w.loadKey s slab
  match (if w.cold slab then s.fromCopies (slab, 0) k 8 else none) with
  | some v => (v, false)
  | none => (s.peek (s.real k) 8, poisoned s.pois (s.real k))
/-- A COPY access that has been translated and fails leaves AC, and DT for a write, in its leaves (R128). -/
def State.copyMark (s : State) (c : Cmd) (va acc : Nat) : State :=
  let q := s.portalSpace c.p
  if s.revoked.getLsbD c.p.toNat then s else s.ctrlMark (portalSlab c.p) q.1.toNat q.2.toNat va acc
/-- A chunk stops at its first fault; the copy goes on with the next. DESIGN CHOICE (log entry 98): the command's status is that of the first chunk that
faults. -/
def State.copyFault (s : State) (c : Cmd) (st : Nat) : State :=
  s.putCmd { c with low := some (min (c.low.getD c.pos) c.pos), bad := c.bad + 1, badSt := if c.bad = 0 then BitVec.ofNat 8 st else c.badSt,
                    pos := (c.pos / 65536 + 1) * 65536 }
/-- One granule of a COPY, with its poison, or its end. -/
def State.copyCmd (s : State) (c : Cmd) : State :=
  let len := c.f 295 256
  if len ≤ c.pos then s.endCmd c c.badSt.toNat 0 (BitVec.ofNat 64 (c.low.getD 0)) (BitVec.ofNat 64 c.bad)
  else
    match s.copyWalk c (c.f 184 128 + c.pos) 0 with
    | .inl st => (s.copyMark c (c.f 184 128 + c.pos) 0).copyFault c st
    | .inr w =>
      let t := (s.setAcDt w 0).draw
      let x := t.copyRead (portalSlab c.p) w
      match t.copyWalk c (c.f 248 192 + c.pos) 1 with
      | .inl st => (t.copyMark c (c.f 248 192 + c.pos) 1).copyFault c st
      | .inr d =>
        let v := (t.setAcDt d 1).draw
        let u := (d.keys t).foldl (fun (u : State) g => (u.put (u.real g) 8 x.1 x.2.toNat).dropCopies (portalSlab c.p) g 8)
          (if d.replicated then v.flushPage (d.key v) else v)
        u.putCmd { c with pos := c.pos + 8 }
def execCopy (p : BitVec 6) (n : BitVec 32) (s : State) : Out := s.onCmd p n "COPY" (fun c => c.op == 5) s.copyCmd

/-! ## KEYPOOL (R138, R139) -/

/-- The home slab of a region's pool. -/
def State.poolSlab (s : State) (r : Region) : BitVec 6 :=
  if r.rect then r.slab
  else BitVec.ofNat 6 ((((List.range 40).map (fun i => (r.id.toNat + i) % 40)).find? (fun h => s.joined.getLsbD h)).getD (r.id.toNat % 40))
/-- Frames that n keys of d samples of records of m elements take. -/
def poolFrames (n d m : Nat) : Nat := (n * (64 + d * 64 * ((8 * m + 16 + 63) / 64)) + 65535) / 65536
/-- Keys in the pools of a region's subtree, but for one pool. -/
def State.keysUsed (s : State) (top rgn : BitVec 12) (num : BitVec 4) : Nat :=
  let ids := s.subtree top
  (s.pools.filter (fun q => ids.contains q.rgn && !(q.rgn == rgn && q.num == num))).foldl (fun a q => a + q.nkey) 0
/-- Does a pool hold samples or waiting requests? -/
def Pool.busy (q : Pool) : Bool := q.keys.any (fun k => !k.samples.isEmpty) || !q.waiting.isEmpty
/-- Give a pool's frames back, zeroed. -/
def State.releaseFrames (s : State) (q : Pool) : State :=
  q.frames.foldl (fun (s : State) f =>
      { s.putGood (s.real (hbmKey s.modId (f.toNat * 65536))) 65536 0 with frames := s.frames.set f.toNat (BitVec.allOnes 64) })
    { s with pools := s.pools.filter (fun x => !(x.rgn == q.rgn && x.num == q.num)) }
/-- Frames in use, the first and how many: those that leaves map, with their replicas, those of table nodes, of pools, of the PASID directory and the module root's table, and
the replacements of retired frames (R138). -/
def State.occupied (s : State) : List (Nat × Nat) :=
  (s.pasidBase.toNat, 128) :: (Config.rootTable.toNat, 4) :: ((rootsIn s.regions).flatMap (fun f => s.mappedUnder f.toNat ++ s.nodesUnder f.toNat) ++
    s.pools.flatMap (fun q => q.frames.map (fun f => (f.toNat, 1))) ++ s.redirect.map (fun r => (r.2.1.toNat, 1)))
/-- The first frame not in use of a stack, in cyclic order from one of its frames. -/
def firstFree (used : List (Nat × Nat)) (slab from_ : Nat) : Nat → Option Nat
  | 0 => none
  | n + 1 =>
    let f := slab * 1048576 + (from_ + (732420 - n)) % 732421
    if used.all (fun u => decide (f < u.1) || decide (u.1 + u.2 ≤ f)) then some f else firstFree used slab from_ n
/-- n frames of a stack that firmware picks among those not in use, a free choice for each; none where there are fewer. -/
def State.pickFrames (s : State) (slab : Nat) : Nat → List (Nat × Nat) → Option (List Nat)
  | 0, _ => some []
  | n + 1, used =>
    match firstFree used slab (Config.ringFrame (s.draws + n)).toNat 732421 with
    | none => none
    | some f => (s.pickFrames slab n ((f, 1) :: used)).map (f :: ·)
/-- A pool is configured: its home slab, and frames of that slab's stack; where it has too few, all stays as it was. -/
def State.configurePool (s : State) (c : Cmd) (r : Region) : State :=
  let num : BitVec 4 := BitVec.ofNat 4 (c.f 199 192)
  let m := 8 * (c.f 202 200 + 1)
  let d := 4 * 2 ^ c.f 205 203
  let nkey := c.f 255 224
  let slab := s.poolSlab r
  let t := match s.pools.find? (fun q => q.rgn == r.id && q.num == num) with
    | some q => s.releaseFrames q
    | none => s
  let nf := poolFrames nkey d m
  match t.pickFrames slab.toNat nf t.occupied with
  | none => s.endCmd c 8 0 0 0
  | some fs =>
    let q : Pool := { rgn := r.id, num := num, n := m, d := d, lossy := c.bytes.getLsbD 206, nst := c.f 215 208, nkey := nkey, slab := slab, frames := fs.map (BitVec.ofNat 40),
                      keys := [], readers := [], waiting := [] }
    { t with pools := t.pools ++ [q], draws := t.draws + nf }.endCmd c 0 0 0 0
/-- KEYPOOL, of a configuration or a release. -/
def State.keypoolCmd (s : State) (c : Cmd) : State :=
  match s.cmdRegion c (BitVec.ofNat 64 (c.f 191 128)) with
  | .inl st => s.endCmd c st 0 0 0
  | .inr r =>
    let num : BitVec 4 := BitVec.ofNat 4 (c.f 199 192)
    let old := s.pools.find? (fun q => q.rgn == r.id && q.num == num)
    let nkey := c.f 255 224
    if old.any Pool.busy then s.endCmd c 14 0 0 0
    else if nkey = 0 then
      (match old with
       | none => s.endCmd c 12 0 0 0
       | some q => (s.releaseFrames q).endCmd c 0 0 0 0)
    else if (s.chain 4096 r.id).any (fun x => x.id != 0 && decide (x.ckeys < s.keysUsed x.id r.id num + nkey)) then s.endCmd c 8 0 0 0
    else s.configurePool c r
def execKeypool (p : BitVec 6) (n : BitVec 32) (s : State) : Out := s.onCmd p n "KEYPOOL" (fun c => c.op == 6 && c.f 255 224 != 0) s.keypoolCmd
def execKeypoolRelease (p : BitVec 6) (n : BitVec 32) (s : State) : Out :=
  s.onCmd p n "KEYPOOL_RELEASE" (fun c => c.op == 6 && c.f 255 224 == 0) s.keypoolCmd

/-! ## CONFIG (R74, R82, R86, R87) -/

def execConfigPower (p : BitVec 6) (n : BitVec 32) (s : State) : Out :=
  s.onCmd p n "CONFIG_POWER" (fun c => c.op == 7 && c.f 135 128 == 1) fun c => (s.writePower (BitVec.ofNat 64 (c.f 255 192))).endCmd c 0 0 0 0
/-- The descriptor that a CONFIG item 2 leaves: its RW fields, OWN as it was, ERR, FLT, TAIL and HEAD zero. -/
def newDescriptor (old v : Nat) : Nat := setFld (setFld (setFld (setFld v 253 253 (fld old 253 253)) 203 192 0) 101 101 0) 100 0 0
def execConfigDescriptor (p : BitVec 6) (n : BitVec 32) (s : State) : Out :=
  s.onCmd p n "CONFIG_DESCRIPTOR" (fun c => c.op == 7 && c.f 135 128 == 2) fun c =>
    let q : BitVec 6 := BitVec.ofNat 6 (c.f 143 136)
    let t := s.setPd q (newDescriptor (s.pd q) (c.f 447 192))
    (if (t.pd q).testBit 254 then t else { t with revoked := s.revoked &&& ~~~(BitVec.ofNat 64 (2 ^ q.toNat)) }).endCmd c 0 0 0 0
def execConfigRevoke (p : BitVec 6) (n : BitVec 32) (s : State) : Out :=
  s.onCmd p n "CONFIG_REVOKE" (fun c => c.op == 7 && c.f 135 128 == 3) fun c =>
    let q : BitVec 6 := BitVec.ofNat 6 (c.f 143 136)
    (s.setPd q (setFld (s.pd q) 254 254 1)).endCmd c 0 0 0 0
def execConfigInterrupt (p : BitVec 6) (n : BitVec 32) (s : State) : Out :=
  s.onCmd p n "CONFIG_INTERRUPT" (fun c => c.op == 7 && c.f 135 128 == 4) fun c =>
    { s with irqs := s.irqs.set (c.f 143 136) (irqEntry (BitVec.ofNat 128 (c.f 319 192))) }.endCmd c 0 0 0 0
def execConfigRetireStack (p : BitVec 6) (n : BitVec 32) (s : State) : Out :=
  s.onCmd p n "CONFIG_RETIRE_STACK" (fun c => c.op == 7 && c.f 135 128 == 5) fun c =>
    { s with retired := s.retired ||| BitVec.ofNat 40 (2 ^ c.f 143 136) }.endCmd c 0 0 0 0

/-! ## Completion (R79, R85, R86) -/

/-- The revocation that a command has carried out is in force for the COPYs of its portal once its completion is written (R82). -/
def State.revokes (s : State) (c : Cmd) : State :=
  if c.op = 7 ∧ c.f 135 128 = 3 ∧ c.result.any (fun r => r.1 == 0) = true then { s with revoked := s.revoked ||| BitVec.ofNat 64 (2 ^ (c.f 143 136 % 64)) }
  else s
/-- The completion record is written, bytes 8-15 after the others; an interrupt message follows where the command asks for one. -/
def State.completeCmd (s : State) (c : Cmd) (r : BitVec 8 × BitVec 8 × Word × Word) : State :=
  let d := s.pd c.p
  let t := { s with cmds := s.cmds.filter (fun (e : Cmd) => !(e.p == c.p && e.n == c.n)) }.revokes c
  match t.ringKey c.p (fld d 146 102 * 4096 + 32 * (c.n.toNat % 2 ^ pdRsz d)) 32 1 with
  | (u, none) => (u.ringFails c.p).draw
  | (u, some k) =>
    let phase := c.n.toNat / 2 ^ pdRsz d % 2
    let v := ((u.putGood k 8 (c.f 127 64)).putGood (k + 16) 8 r.2.2.1.toNat).putGood (k + 24) 8 r.2.2.2.toNat
    let w := v.putGood (k + 8) 8 (r.1.toNat + r.2.1.toNat * 2 ^ 8 + phase * 2 ^ 16 + c.n.toNat * 2 ^ 32)
    if c.bytes.getLsbD 8 then w.interrupt c.p else w
def execCommandCompletion (p : BitVec 6) (n : BitVec 32) (s : State) : Out :=
  match s.cmds.find? (fun (c : Cmd) => c.p == p && c.n == n) with
  | none => .refused (.notEnabled "COMMAND_COMPLETION")
  | some c =>
    match c.result with
    | none => .refused (.notEnabled "COMMAND_COMPLETION")
    | some r => .next (s.completeCmd c r)

end Sys2Proof.Machine
end

