-- ==== Sys2Proof/Machine/Module.lean ====
section
/-! DEFINITION. Machine.Module: power-up and firmware, slabs joining, soft errors, stack retirement, modules of the domain, table writes, and the
work of a pace tick (R18-R27, R47, R54, R55, R64, R122, R133, R392, R393). -/

namespace Sys2Proof.Machine

/-! ## Power-up (R18, R19, R21, R74, R389, R393) -/

/-- The descriptor of the owner portal as the configuration block gives it. -/
def ownerDescriptor (b : BitVec 256) : BitVec 256 :=
  BitVec.ofNat 256 (setFld (setFld (setFld (setFld (setFld b.toNat 255 255 1) 253 253 1) 203 192 0) 101 101 0) 100 0 0)
/-- The entry that firmware keeps in every station and pump. -/
def ownEntry (m : BitVec 12) : BitVec 64 := BitVec.ofNat 64 (2 ^ 63 + m.toNat * 2 ^ 27 + 4095 * 2 ^ 15 + 2 ^ 13 + 2 ^ 12 + 2 ^ 11 + 2 ^ 8)
/-- The module root. -/
def rootRegion : Region :=
  { id := 0, uid := 0, rcb := Config.rootRcb, parent := 0, rect := false, slab := 0, eff := rootEff, subc := 0, ckeys := 0, hbmpg := 0, doneBox := 0,
    hnode := none, killed := false, why := 0, placed := 0 }
/-- The pumps of the module. -/
def allPumps : List PumpId := (List.range 40).flatMap (fun h => (List.range 64).map (fun u => BitVec.ofNat 12 (h * 64 + u)))
/-- Microcode is loaded into a pump's instruction store (R178). -/
def State.loadPumps (s : State) (image : List Byte) : State :=
  if image.isEmpty then s
  else allPumps.foldl (fun (s : State) u => { s with mem := s.mem.write (pumpKey u 131072) (image.take 32768) }) s
/-- The configuration block and the image, where they are valid; reserved bits of the policy's entries are not kept (R7, R45). -/
def State.loadBlock (s : State) (b : ConfigBlock) (image : List Byte) : State :=
  if !(b.signed && b.digest) then { s with valid := false }
  else
    { s with valid := true, modId := b.modId, config := b, portals := s.portals.set 0 (ownerDescriptor b.portal0),
             irqs := s.irqs.set 0 (irqEntry b.irq0), regions := [rootRegion],
             fab := { s.fab with base := b.policy.map accessEntryOf, unitBase := ownEntry b.modId :: b.policy.map accessEntryOf, present := s.fab.present.set b.modId.toNat 1 } }.loadPumps image
/-- Slabs that self-test has found wanting. -/
def failedMask (l : List (BitVec 6)) : BitVec 40 := l.foldl (fun m h => m ||| BitVec.ofNat 40 (2 ^ h.toNat)) 0
/-- Nothing of the module's state outlasts power-up, and a device key pair is derived anew; the model's own counters go on. -/
def execPowerUp (b : ConfigBlock) (failed : List (BitVec 6)) (image : List Byte) (s : State) : Out :=
  .next ({ State.reset with draws := s.draws + 1, nextId := s.nextId, queue := s.queue, sent := s.sent, deviceKey := Config.deviceKey s.draws,
                            failed := failedMask failed }.loadBlock b image)
def execMgmtImageReload (b : ConfigBlock) (image : List Byte) (s : State) : Out :=
  if s.valid then .refused (.notEnabled "MGMT_IMAGE_RELOAD") else .next (s.loadBlock b image)
/-- A slab joins at a pace tick. -/
def execSlabJoin (slab : BitVec 6) (s : State) : Out :=
  if !s.valid || decide (40 ≤ slab.toNat) || s.failed.getLsbD slab.toNat || s.joined.getLsbD slab.toNat || s.fcyc != 0 then
    .refused (.notEnabled "SLAB_JOIN")
  else .next { s with joined := s.joined ||| BitVec.ofNat 40 (2 ^ slab.toNat) }

/-! ## Soft errors and stack retirement (R25, R26, R133) -/

/-- A corrected error in an HBM stack counts for its retirement (R26). -/
def State.stackError (s : State) (key : Nat) : State :=
  if hbmKey s.modId 0 ≤ key ∧ key < hbmKey s.modId (2 ^ 56) then
    (let h := homeSlab (s.physOf key)
     { s with stackErrs := s.stackErrs.set h (s.stackErrs.get h + 1) })
  else s
/-- A soft error: a single-bit one is corrected and counted; a double-bit one poisons the granule in which it lies. -/
def execDoubleBitError (slab : BitVec 6) (e : SoftError) (s : State) : Out :=
  if e.single then .next ((s.stackError e.addr).bump slab.toNat 0)
  else .next ({ s with pois := poisonAdd s.pois (8 * (e.addr / 8)) }.bump slab.toNat 1)
/-- Is a stack to be retired: named by CONFIG, or past the threshold of its corrected errors (log entry 75)? -/
def State.retires (s : State) (stack : BitVec 6) : Bool :=
  s.retired.getLsbD stack.toNat || decide (s.config.errMax < (s.stackErrs.get stack.toNat).toNat)
/-- A stack is retired: firmware's replacement frames for its frames in use. -/
def execStackRetirement (stack : BitVec 6) (map : List (BitVec 40 × BitVec 40)) (s : State) : Out :=
  if !s.retires stack then .refused (.notEnabled "STACK_RETIREMENT")
  else
  let mine := map.filter (fun m => m.1.toNat / 1048576 == stack.toNat && m.2.toNat / 1048576 != stack.toNat &&
    !(s.redirect.any (fun r => r.1 == m.1)))
  .next { s with retired := s.retired ||| BitVec.ofNat 40 (2 ^ stack.toNat), redirect := s.redirect ++ mine.map (fun m => (m.1, m.2, false)) }
/-- One frame is copied, with its poison; later requests for it go to its replacement. A replacement that lies in a stack retired since has one of its own. -/
def execStackFrameCopy (frame : BitVec 40) (s : State) : Out :=
  match s.redirect.find? (fun r => r.1 == frame && !r.2.2) with
  | none => .refused (.notEnabled "STACK_FRAME_COPY")
  | some r =>
    let k := s.real (hbmKey s.modId (frame.toNat * 65536))
    let t := s.put (s.real (hbmKey s.modId (r.2.1.toNat * 65536))) 65536 (s.peek k 65536) (poisonBits s.pois k 65536)
    .next { t with redirect := t.redirect.map (fun x => if x.1 == frame then (x.1, x.2.1, true) else x) }

/-! ## Modules of the domain (R27, R55) -/

def execModuleRemoval (m : BitVec 12) (s : State) : Out := .next { s with fab := { s.fab with present := s.fab.present.set m.toNat 0 } }
/-- The module takes the domain's pace count and place in the tick. -/
def execModuleJoin (pace : Word) (pos : Nat) (s : State) : Out :=
  .next { s.atPlace pos with pace := pace }

/-! ## Stage-2 tables (R122) -/

/-- Firmware writes an entry of a node, unless a budget of HBMPG would be exceeded by it; frames that it maps anew enter their subtree. -/
def State.writePageEntry (s : State) (frame : BitVec 40) (n : BitVec 15) (v : Word) : State :=
  let t := s.putGood (s.real (hbmKey s.modId (frame.toNat * 65536 + 8 * n.toNat))) 8 v.toNat
  if t.regions.any (fun r => r.id != 0 && decide (r.hbmpg < t.subtreeFrames r.id) && decide (s.subtreeFrames r.id < t.subtreeFrames r.id)) then s
  else t.framesEnter s

/-! ## Registers and tables without a row of their own (R36, R42, R45, R47, R124) -/

/-- The oldest record of the root's queue is read, and its FQHEAD advanced (R389). -/
def State.rootRead (s : State) : State := { s with rootq := { s.rootq with head := min (s.rootq.head + 1) s.rootq.recs.length } }
/-- A write of a path or group table takes effect from the next cycle: a packet injected or copied in this one uses the old entry (R36, R43). -/
def execRegisterWrite (w : TableWrite) (s : State) : Out :=
  match w with
  | .path co n v => .next { s with fab := { s.fab with pathNew := s.fab.pathNew ++ [(co.toNat * 256 + n.toNat, pathEntryOf v)] } }
  | .group co n v => .next { s with fab := { s.fab with groupNew := s.fab.groupNew ++ [(co.toNat * 256 + n.toNat, v &&& 0xBF#8)] } }
  | .coreAccess co n v => .next (s.setCoreTable co ((s.coreTable co).set n.toNat (accessEntryOf v)))
  | .unitAccess cls did n v => .next (s.setUnitTable cls.toNat did.toNat ((s.unitTable cls.toNat did.toNat).set n.toNat (accessEntryOf v)))
  | .present m on => .next { s with fab := { s.fab with present := s.fab.present.set m.toNat (if on then 1 else 0) } }
  | .moduleClass slab m v => .next { s with fab := { s.fab with classes := s.fab.classes.set (slab.toNat * 4096 + m.toNat) v } }
  | .pasidBase frame => .next { s with pasidBase := frame }
  | .pasidEntry pasid v => .next (s.putGood (s.real (hbmKey s.modId (s.pasidBase.toNat * 65536 + 8 * pasid.toNat))) 8 v.toNat)
  | .pageEntry frame n v => .next (s.writePageEntry frame n v)
  | .power v => .next (s.writePower v)
  | .calibrated slabs => .next { s with calibrated := s.calibrated ||| slabs }
  | .hostPort port node => .next { s with fab := { s.fab with hostPort := s.fab.hostPort.set port.toNat (match node with
      | none => 0
      | some n => BitVec.ofNat 13 (n.toNat + 1)) } }
  | .rootRecord => .next s.rootRead

/-! ## The pace tick (R62, R64, R67, R68, R70, R98, R104, R105, R190) -/

/-- Order of records that share an action tick: halt, pre-empt, resume, launch; then GANG. -/
def Armed.rank (a : Armed) : Nat := (3 - (if a.doing = 1 then 2 else if a.doing = 2 then 1 else a.doing)) * 65536 + a.gang.toNat
/-- Insertion by rank. -/
def rankInsert (a : Armed) : List Armed → List Armed
  | [] => [a]
  | b :: l => if a.rank ≤ b.rank then a :: b :: l else b :: rankInsert a l
def rankSort : List Armed → List Armed
  | [] => []
  | a :: l => rankInsert a (rankSort l)
/-- The slices that meet a condition: core and index. -/
def State.slicesWith (s : State) (f : Slice → Bool) : List (CoreId × Fin 16) :=
  s.cores.flatMap (fun c => ((List.finRange 16).filter (fun i => f c.slices[i])).map (fun i => (c.id, i)))
/-- The events that the present tick brings, in order. -/
def State.tickEvents (s : State) : List Instr :=
  let l := s.starter.armed
  (rankSort (l.filter s.actionDue)).map (fun a => Instr.timedAction a.id) ++
  (l.filter s.straggles).map (fun a => Instr.straggler a.id) ++
  (l.filter (fun a => match a.undoAt with
    | none => false
    | some u => decide (u.toNat ≤ s.pace.toNat))).map (fun a => Instr.undo a.id) ++
  (l.filter s.collectOver).map (fun a => Instr.coordCollectTimeout a.id) ++
  (l.filter (fun a => match a.final with
    | none => false
    | some f => decide (f.toNat + 64 ≤ s.pace.toNat))).map (fun a => Instr.armEntryFree a.id) ++
  (s.slicesWith s.closes).map (fun p => Instr.exchangeWindowClose p.1 p.2) ++
  (s.slicesWith s.opens).map (fun p => Instr.exchangeWindowOpen p.1 p.2) ++
  ((s.slicesWith s.releaseDue).filter (fun p => s.releases p.1 p.2)).map (fun p => Instr.sliceRelease p.1 p.2)
/-- The start of a tick: compute steps change, read copies are dropped, stores of the tick before last have reached every replica (R185), and the tick's
events are to happen before any bundle issues. -/
def State.tickStart (s : State) : State :=
  let t := { s.powerTick with copies := [], tickDone := true }.flushOld
  { t with queue := t.tickEvents ++ t.queue }
def execPaceTick (s : State) : Out :=
  if s.fcyc != 0 || s.tickDone then .refused (.notEnabled "PACE_TICK") else .next s.tickStart

end Sys2Proof.Machine
end

