-- ==== Sys2Proof/Machine/Debug.lean ====
section
/-! DEFINITION. Machine.Debug: expiry of bounded waits (R151, R295), and krabex (R217-R222). -/

namespace Sys2Proof.Machine

/-! ## Expiry (R151, R153, R204, R294, R295, R299, R301) -/

/-- The wait kind of R204. -/
def WaitKind.code : WaitKind → Nat
  | .cwait => 0
  | .qwait => 1
  | .hjoin => 2
  | .sbar => 3
  | .xend => 4
  | .mwait => 5
  | .plain => 6
/-- What the trap of an expired wait carries. -/
def State.expiryInfo (s : State) (w : Waiting) : Info :=
  let d0 : Word := match w.kind with
    | .hjoin => BitVec.ofNat 64 w.seen
    | .sbar => w.arg
    | .xend => BitVec.ofNat 64 s.sl.closing
    | _ => 0
  infoOf 12 (w.kind.code * 256) 0 d0 0
/-- The `tst` or blocking `tld` of the slice that a `cwait` waits for. -/
def State.cancelTarget (s : State) (w : Waiting) : Option Op :=
  s.ops.find? (fun o => !o.foreign && o.pump.isNone && o.iss.core == s.core.id && o.iss.slc == s.core.cur && o.slot == w.arg &&
    (match o.req with
     | .tst .. => true
     | .tld _ _ _ _ block _ => block
     | _ => false))
/-- The wait expires: a cancel follows a cistern request that may wait; any other wait traps. -/
def State.waitExpires (s : State) (w : Waiting) : State :=
  match (if w.kind = .cwait then s.cancelTarget w else none) with
  | some o =>
    let t := s.setCx { s.cx with wait := some { w with cancelled := true } }
    if o.cancel.isSome then t
    else { t with ops := t.ops.map (fun (p : Op) => if p.id == o.id then { o with cancel := some s.dueTime } else p) }.draw
  | none => s.trapNow (s.expiryInfo w)
/-- The wait of a context of the running slice, where it has expired. -/
def State.expiredWait (s : State) (co : CoreId) (i : Fin 16) (c : Fin 11) : Option Waiting :=
  let k := s.coreAt co
  let x := k.slices[i].ctxs[c]
  if x.live && !x.stopped && k.running == some i then
    (match x.wait with
     | none => none
     | some w => if w.expired then some w else none)
  else none
def execBoundedWaitExpiry (co : CoreId) (i : Fin 16) (c : Fin 11) (s : State) : Out :=
  match s.expiredWait co i c with
  | none => .refused (.notEnabled "BOUNDED_WAIT_EXPIRY")
  | some w => .next (s.onCore co (fun s => (s.focus i c).waitExpires w))

/-! ## krabex (R217-R222) -/

def execKrabexAttach (co : CoreId) (i : Fin 16) (s : State) : Out := .next (s.modSlice co i (fun x => { x with attached := true }))
/-- Does a breakpoint or watchpoint word name a slice? -/
def namesSlice (v : Word) (i : Fin 16) : Bool := !v.getLsbD 58 && fld v.toNat 62 59 == i.val
def execKrabexDetach (co : CoreId) (i : Fin 16) (s : State) : Out :=
  let t := s.modSlice co i (fun x => { x with attached := false })
  let c := t.coreAt co
  .next (t.putCore { c with brk := c.brk.map (fun v => if namesSlice v i then 0 else v), wpt := c.wpt.map (fun v => if namesSlice v i then 0 else v) })
/-- Reserved bits of a breakpoint and of a watchpoint read as zero. -/
def execBreakpointWrite (co : CoreId) (n : Fin 4) (v : Word) (s : State) : Out :=
  let c := s.coreAt co
  .next (s.putCore { c with brk := c.brk.set n (v &&& 0xFFFF80000000FFF8#64) })
def execWatchpointWrite (co : CoreId) (n : Fin 2) (v : Word) (s : State) : Out :=
  let c := s.coreAt co
  .next (s.putCore { c with wpt := c.wpt.set n (v &&& 0xFFF00000001FFFF8#64) })
/-- A halt request: every live context stops after its current bundle, and the slice is suspended. -/
def State.krabexHalt (s : State) (co : CoreId) (i : Fin 16) : State :=
  (s.modSlice co i (fun x => { x with halted := true, st := .suspended, suspTick := s.pace })).onCore co (fun s =>
    ((s.eachCtx i State.haltCtx).traceRec 8 (some i) none).evaluateNow)
def execKrabexHalt (co : CoreId) (i : Fin 16) (s : State) : Out :=
  let x := s.sliceAt co i
  if !x.attached || x.halted || !x.resident then .refused (.notEnabled "KRABEX_HALT") else .next (s.krabexHalt co i)
/-- A halted slice goes on: each context as by `rfe`, the deadline advanced. -/
def State.krabexResume (s : State) (co : CoreId) (i : Fin 16) : State :=
  ((s.modSlice co i (fun x => { x with halted := false })).onCore co (fun s => s.traceRec 9 none (some i))).resumeSlice co i
def execKrabexResume (co : CoreId) (i : Fin 16) (s : State) : Out :=
  let x := s.sliceAt co i
  if !x.halted || !x.resident then .refused (.notEnabled "KRABEX_RESUME") else .next (s.krabexResume co i)
def execKrabexStep (co : CoreId) (i : Fin 16) (c : Fin 11) (on : Bool) (s : State) : Out :=
  .next (s.modSlice co i (fun x => x.modCtx c (fun y => { y with stepping := on })))
def execTraceEnable (co : CoreId) (on : Bool) (s : State) : Out := .next (s.putCore { (s.coreAt co) with trace := on })
/-- An access through the slab controllers: a write takes effect; what a read answers is the state itself, which it leaves as it is. -/
def execKrabexStateAccess (a : DebugAccess) (s : State) : Out :=
  match a with
  | .readWord _ _ => .next s
  | .writeWord co off v => let k := coreKey co (off.toNat / 8 * 8)
    .next (s.putGood k 8 (keptBits co k 8 v.toNat))
  | .readSlice _ _ => .next s
  | .writeSpecial co i c n v => .next (s.onCore co (fun s =>
      let i0 := s.core.cur
      let c0 := s.core.curCtx
      ((s.focus i c).writeSr n.toNat v).focus i0 c0))
  | .readCounter _ _ => .next s
  | .rootRecord => .next s.rootRead

end Sys2Proof.Machine
end

