-- ==== Sys2Proof/Machine/Dispatch.lean ====
section
/-! DEFINITION. Dispatch: one arm per instruction, a direct call of its meaning. -/

namespace Sys2Proof.Machine

open Sys2Proof

/-- The meaning of an instruction or event in a state. -/
def exec (i : Instr) (s : State) : Host.Outcome State Fault Refusal :=
  match i with
  | .powerUp b failed image => Sys2Proof.Machine.execPowerUp b failed image s
  | .slabJoin slab => Sys2Proof.Machine.execSlabJoin slab s
  | .mgmtImageReload b image => Sys2Proof.Machine.execMgmtImageReload b image s
  | .powerMeasurement hot fit => Sys2Proof.Machine.execPowerMeasurement hot fit s
  | .stepRaise => Sys2Proof.Machine.execStepRaise s
  | .stepChangeForced => Sys2Proof.Machine.execStepChangeForced s
  | .thermalTrip slab => Sys2Proof.Machine.execThermalTrip slab s
  | .thermalRecovery slab => Sys2Proof.Machine.execThermalRecovery slab s
  | .supplyFault => Sys2Proof.Machine.execSupplyFault s
  | .supplyFaultHalt => Sys2Proof.Machine.execSupplyFaultHalt s
  | .fullServiceEntry => Sys2Proof.Machine.execFullServiceEntry s
  | .doubleBitError slab e => Sys2Proof.Machine.execDoubleBitError slab e s
  | .stackRetirement stack map => Sys2Proof.Machine.execStackRetirement stack map s
  | .stackFrameCopy frame => Sys2Proof.Machine.execStackFrameCopy frame s
  | .moduleRemoval m => Sys2Proof.Machine.execModuleRemoval m s
  | .moduleJoin pace pos => Sys2Proof.Machine.execModuleJoin pace pos s
  | .laneSparing slab => Sys2Proof.Machine.execLaneSparing slab s
  | .paceTick => Sys2Proof.Machine.execPaceTick s
  | .routerForward k => Sys2Proof.Machine.execRouterForward k s
  | .moduleIngress p port rq => Sys2Proof.Machine.execModuleIngress p port rq s
  | .flitReplay slab k => Sys2Proof.Machine.execFlitReplay slab k s
  | .linkControlFlit port credits => Sys2Proof.Machine.execLinkControlFlit port credits s
  | .scheduledDelivery k => Sys2Proof.Machine.execScheduledDelivery k s
  | .messageArrival k => Sys2Proof.Machine.execMessageArrival k s
  | .startMessage k => Sys2Proof.Machine.execStartMessage k s
  | .coreSpaceRequest k => Sys2Proof.Machine.execCoreSpaceRequest k s
  | .globalRequestTranslation k => Sys2Proof.Machine.execGlobalRequestTranslation k s
  | .homeRequest k => Sys2Proof.Machine.execHomeRequest k s
  | .replicaStore k => Sys2Proof.Machine.execReplicaStore k s
  | .splitPhaseCompletion k ext => Sys2Proof.Machine.execSplitPhaseCompletion k ext s
  | .translationInvalidation k => Sys2Proof.Machine.execTranslationInvalidation k s
  | .syncMessage m => Sys2Proof.Machine.execSyncMessage m s
  | .announceMessage src rank => Sys2Proof.Machine.execAnnounceMessage src rank s
  | .pdelayReq src seq t2 t3 => Sys2Proof.Machine.execPdelayReq src seq t2 t3 s
  | .announceReceiptTimeout => Sys2Proof.Machine.execAnnounceReceiptTimeout s
  | .frequencyTrim ppb => Sys2Proof.Machine.execFrequencyTrim ppb s
  | .frequencyLoss => Sys2Proof.Machine.execFrequencyLoss s
  | .relock pace pos => Sys2Proof.Machine.execRelock pace pos s
  | .timedAction n => Sys2Proof.Machine.execTimedAction n s
  | .straggler n => Sys2Proof.Machine.execStraggler n s
  | .starterNotice k => Sys2Proof.Machine.execStarterNotice k s
  | .coordCollectTimeout n => Sys2Proof.Machine.execCoordCollectTimeout n s
  | .undo n => Sys2Proof.Machine.execUndo n s
  | .armEntryFree n => Sys2Proof.Machine.execArmEntryFree n s
  | .notifyWrite k => Sys2Proof.Machine.execNotifyWrite k s
  | .resetNotify k => Sys2Proof.Machine.execResetNotify k s
  | .commandFetch p => Sys2Proof.Machine.execCommandFetch p s
  | .launch p n => Sys2Proof.Machine.execLaunch p n s
  | .arm p n => Sys2Proof.Machine.execArm p n s
  | .killSubtree p n => Sys2Proof.Machine.execKillSubtree p n s
  | .killGang p n => Sys2Proof.Machine.execKillGang p n s
  | .queryStarterStatus p n => Sys2Proof.Machine.execQueryStarterStatus p n s
  | .queryPower p n => Sys2Proof.Machine.execQueryPower p n s
  | .queryDescriptor p n => Sys2Proof.Machine.execQueryDescriptor p n s
  | .queryRegion p n => Sys2Proof.Machine.execQueryRegion p n s
  | .copy p n => Sys2Proof.Machine.execCopy p n s
  | .keypool p n => Sys2Proof.Machine.execKeypool p n s
  | .keypoolRelease p n => Sys2Proof.Machine.execKeypoolRelease p n s
  | .configPower p n => Sys2Proof.Machine.execConfigPower p n s
  | .configDescriptor p n => Sys2Proof.Machine.execConfigDescriptor p n s
  | .configRevoke p n => Sys2Proof.Machine.execConfigRevoke p n s
  | .configInterrupt p n => Sys2Proof.Machine.execConfigInterrupt p n s
  | .configRetireStack p n => Sys2Proof.Machine.execConfigRetireStack p n s
  | .resume p n => Sys2Proof.Machine.execResume p n s
  | .commandCompletion p n => Sys2Proof.Machine.execCommandCompletion p n s
  | .sliceRelease co ix => Sys2Proof.Machine.execSliceRelease co ix s
  | .budgetExhaustion co ix => Sys2Proof.Machine.execBudgetExhaustion co ix s
  | .switchComplete co => Sys2Proof.Machine.execSwitchComplete co s
  | .sliceLeave co ix => Sys2Proof.Machine.execSliceLeave co ix s
  | .bShareClear co => Sys2Proof.Machine.execBShareClear co s
  | .sbarArrival k => Sys2Proof.Machine.execSbarArrival k s
  | .goMessage k => Sys2Proof.Machine.execGoMessage k s
  | .exchangeWindowOpen co ix => Sys2Proof.Machine.execExchangeWindowOpen co ix s
  | .exchangeWindowClose co ix => Sys2Proof.Machine.execExchangeWindowClose co ix s
  | .xsendDeparture co => Sys2Proof.Machine.execXsendDeparture co s
  | .cisternTstRequest k => Sys2Proof.Machine.execCisternTstRequest k s
  | .cisternTadvRequest k => Sys2Proof.Machine.execCisternTadvRequest k s
  | .cisternTldRequest k => Sys2Proof.Machine.execCisternTldRequest k s
  | .cisternTlowRequest k => Sys2Proof.Machine.execCisternTlowRequest k s
  | .cisternCancel k => Sys2Proof.Machine.execCisternCancel k s
  | .mmaExecution co => Sys2Proof.Machine.execMmaExecution co s
  | .mldbExecution co => Sys2Proof.Machine.execMldbExecution co s
  | .mzeroExecution co => Sys2Proof.Machine.execMzeroExecution co s
  | .mdrainExecution co => Sys2Proof.Machine.execMdrainExecution co s
  | .kickWordStore k => Sys2Proof.Machine.execKickWordStore k s
  | .pumpCopy u => Sys2Proof.Machine.execPumpCopy u s
  | .pumpGather u => Sys2Proof.Machine.execPumpGather u s
  | .pumpScatter u => Sys2Proof.Machine.execPumpScatter u s
  | .pumpFill u => Sys2Proof.Machine.execPumpFill u s
  | .pumpAddReduce u => Sys2Proof.Machine.execPumpAddReduce u s
  | .pumpCisternStore u => Sys2Proof.Machine.execPumpCisternStore u s
  | .pumpCisternLoad u => Sys2Proof.Machine.execPumpCisternLoad u s
  | .pumpMicrocodeRead u => Sys2Proof.Machine.execPumpMicrocodeRead u s
  | .pumpJobCompletion u => Sys2Proof.Machine.execPumpJobCompletion u s
  | .boundedWaitExpiry co ix c => Sys2Proof.Machine.execBoundedWaitExpiry co ix c s
  | .krabexAttach co ix => Sys2Proof.Machine.execKrabexAttach co ix s
  | .krabexDetach co ix => Sys2Proof.Machine.execKrabexDetach co ix s
  | .breakpointWrite co n v => Sys2Proof.Machine.execBreakpointWrite co n v s
  | .watchpointWrite co n v => Sys2Proof.Machine.execWatchpointWrite co n v s
  | .krabexHalt co ix => Sys2Proof.Machine.execKrabexHalt co ix s
  | .krabexResume co ix => Sys2Proof.Machine.execKrabexResume co ix s
  | .krabexStep co ix c on => Sys2Proof.Machine.execKrabexStep co ix c on s
  | .traceEnable co on => Sys2Proof.Machine.execTraceEnable co on s
  | .krabexStateAccess a => Sys2Proof.Machine.execKrabexStateAccess a s
  | .registerWrite w => Sys2Proof.Machine.execRegisterWrite w s
  | .supplyRecovery => Sys2Proof.Machine.execSupplyRecovery s
  | .cisternCompletion k ext => Sys2Proof.Machine.execCisternCompletion k ext s
  | .armedRecordPlacement n => Sys2Proof.Machine.execArmedRecordPlacement n s
  | .offModulePortTraining port lp => Sys2Proof.Machine.execOffModulePortTraining port lp s
  | .nopC => Sys2Proof.Machine.execNopC s
  | .hintC v => Sys2Proof.Machine.execHintC v s
  | .br d => Sys2Proof.Machine.execBr d s
  | .call d => Sys2Proof.Machine.execCall d s
  | .bt r b d => Sys2Proof.Machine.execBt r b d s
  | .bf r b d => Sys2Proof.Machine.execBf r b d s
  | .bnz r d => Sys2Proof.Machine.execBnz r d s
  | .bz r d => Sys2Proof.Machine.execBz r d s
  | .bse b d => Sys2Proof.Machine.execBse b d s
  | .bsc b d => Sys2Proof.Machine.execBsc b d s
  | .guard r b => Sys2Proof.Machine.execGuard r b s
  | .guardn r b => Sys2Proof.Machine.execGuardn r b s
  | .rept n c k => Sys2Proof.Machine.execRept n c k s
  | .li rd v => Sys2Proof.Machine.execLi rd v s
  | .lih rd x => Sys2Proof.Machine.execLih rd x s
  | .start h d => Sys2Proof.Machine.execStart h d s
  | .cwait rd ra rb => Sys2Proof.Machine.execCwait rd ra rb s
  | .qwait rd rb => Sys2Proof.Machine.execQwait rd rb s
  | .hjoin ra rb => Sys2Proof.Machine.execHjoin ra rb s
  | .xend rb => Sys2Proof.Machine.execXend rb s
  | .mwait rb => Sys2Proof.Machine.execMwait rb s
  | .sbarOr rd ra rb => Sys2Proof.Machine.execSbarOr rd ra rb s
  | .sbarAnd rd ra rb => Sys2Proof.Machine.execSbarAnd rd ra rb s
  | .sbarMax rd ra rb => Sys2Proof.Machine.execSbarMax rd ra rb s
  | .callr ra => Sys2Proof.Machine.execCallr ra s
  | .jr ra => Sys2Proof.Machine.execJr ra s
  | .ret => Sys2Proof.Machine.execRet s
  | .hend => Sys2Proof.Machine.execHend s
  | .yield => Sys2Proof.Machine.execYield s
  | .sexit => Sys2Proof.Machine.execSexit s
  | .vote rd => Sys2Proof.Machine.execVote rd s
  | .rfe => Sys2Proof.Machine.execRfe s
  | .swp rd ra => Sys2Proof.Machine.execSwp rd ra s
  | .brk => Sys2Proof.Machine.execBrk s
  | .halt => Sys2Proof.Machine.execHalt s
  | .trap k => Sys2Proof.Machine.execTrap k s
  | .mark x => Sys2Proof.Machine.execMark x s
  | .getsr rd n => Sys2Proof.Machine.execGetsr rd n s
  | .setsr ra n => Sys2Proof.Machine.execSetsr ra n s
  | .wait n => Sys2Proof.Machine.execWait n s
  | .ldI8 rd ra o sc off => Sys2Proof.Machine.execLdI8 rd ra o sc off s
  | .ldN8 rd ra o sc off => Sys2Proof.Machine.execLdN8 rd ra o sc off s
  | .ldI16 rd ra o sc off => Sys2Proof.Machine.execLdI16 rd ra o sc off s
  | .ldN16 rd ra o sc off => Sys2Proof.Machine.execLdN16 rd ra o sc off s
  | .ldI32 rd ra o sc off => Sys2Proof.Machine.execLdI32 rd ra o sc off s
  | .ldN32 rd ra o sc off => Sys2Proof.Machine.execLdN32 rd ra o sc off s
  | .ldD rd ra o sc off => Sys2Proof.Machine.execLdD rd ra o sc off s
  | .stB rs ra o sc off => Sys2Proof.Machine.execStB rs ra o sc off s
  | .stH rs ra o sc off => Sys2Proof.Machine.execStH rs ra o sc off s
  | .stW rs ra o sc off => Sys2Proof.Machine.execStW rs ra o sc off s
  | .stD rs ra o sc off => Sys2Proof.Machine.execStD rs ra o sc off s
  | .ldxI8 rd ra rb o => Sys2Proof.Machine.execLdxI8 rd ra rb o s
  | .ldxN8 rd ra rb o => Sys2Proof.Machine.execLdxN8 rd ra rb o s
  | .ldxI16 rd ra rb o => Sys2Proof.Machine.execLdxI16 rd ra rb o s
  | .ldxN16 rd ra rb o => Sys2Proof.Machine.execLdxN16 rd ra rb o s
  | .ldxI32 rd ra rb o => Sys2Proof.Machine.execLdxI32 rd ra rb o s
  | .ldxN32 rd ra rb o => Sys2Proof.Machine.execLdxN32 rd ra rb o s
  | .ldxD rd ra rb o => Sys2Proof.Machine.execLdxD rd ra rb o s
  | .stxB rs ra rb o => Sys2Proof.Machine.execStxB rs ra rb o s
  | .stxH rs ra rb o => Sys2Proof.Machine.execStxH rs ra rb o s
  | .stxW rs ra rb o => Sys2Proof.Machine.execStxW rs ra rb o s
  | .stxD rs ra rb o => Sys2Proof.Machine.execStxD rs ra rb o s
  | .vld vd ra o sc off => Sys2Proof.Machine.execVld vd ra o sc off s
  | .vst vs ra o sc off => Sys2Proof.Machine.execVst vs ra o sc off s
  | .vldm vd ra vm o sc off => Sys2Proof.Machine.execVldm vd ra vm o sc off s
  | .vstm vs ra vm o sc off => Sys2Proof.Machine.execVstm vs ra vm o sc off s
  | .vldt vd ra gt o sc off => Sys2Proof.Machine.execVldt vd ra gt o sc off s
  | .vstt vs ra gt o sc off => Sys2Proof.Machine.execVstt vs ra gt o sc off s
  | .vgather vd ra vi o sc el off => Sys2Proof.Machine.execVgather vd ra vi o sc el off s
  | .vscatter vs ra vi o sc el off => Sys2Proof.Machine.execVscatter vs ra vi o sc el off s
  | .amoAdd rd ra rb o dw => Sys2Proof.Machine.execAmoAdd rd ra rb o dw s
  | .amoAnd rd ra rb o dw => Sys2Proof.Machine.execAmoAnd rd ra rb o dw s
  | .amoOr rd ra rb o dw => Sys2Proof.Machine.execAmoOr rd ra rb o dw s
  | .amoXor rd ra rb o dw => Sys2Proof.Machine.execAmoXor rd ra rb o dw s
  | .amoMin rd ra rb o dw => Sys2Proof.Machine.execAmoMin rd ra rb o dw s
  | .amoMax rd ra rb o dw => Sys2Proof.Machine.execAmoMax rd ra rb o dw s
  | .amoMinn rd ra rb o dw => Sys2Proof.Machine.execAmoMinn rd ra rb o dw s
  | .amoMaxn rd ra rb o dw => Sys2Proof.Machine.execAmoMaxn rd ra rb o dw s
  | .amoSwap rd ra rb o dw => Sys2Proof.Machine.execAmoSwap rd ra rb o dw s
  | .amoFadd rd ra rb o dw => Sys2Proof.Machine.execAmoFadd rd ra rb o dw s
  | .cas rd ra rb o dw => Sys2Proof.Machine.execCas rd ra rb o dw s
  | .fence sc => Sys2Proof.Machine.execFence sc s
  | .fenceSc sc => Sys2Proof.Machine.execFenceSc sc s
  | .xld ra rc o sc sz => Sys2Proof.Machine.execXld ra rc o sc sz s
  | .xst rv ra rc o sc sz => Sys2Proof.Machine.execXst rv ra rc o sc sz s
  | .xvld rv ra rc o sc => Sys2Proof.Machine.execXvld rv ra rc o sc s
  | .xvst rv ra rc o sc => Sys2Proof.Machine.execXvst rv ra rc o sc s
  | .xamoAdd rv ra rc o sc dw => Sys2Proof.Machine.execXamoAdd rv ra rc o sc dw s
  | .xamoAnd rv ra rc o sc dw => Sys2Proof.Machine.execXamoAnd rv ra rc o sc dw s
  | .xamoOr rv ra rc o sc dw => Sys2Proof.Machine.execXamoOr rv ra rc o sc dw s
  | .xamoXor rv ra rc o sc dw => Sys2Proof.Machine.execXamoXor rv ra rc o sc dw s
  | .xamoMin rv ra rc o sc dw => Sys2Proof.Machine.execXamoMin rv ra rc o sc dw s
  | .xamoMax rv ra rc o sc dw => Sys2Proof.Machine.execXamoMax rv ra rc o sc dw s
  | .xamoMinn rv ra rc o sc dw => Sys2Proof.Machine.execXamoMinn rv ra rc o sc dw s
  | .xamoMaxn rv ra rc o sc dw => Sys2Proof.Machine.execXamoMaxn rv ra rc o sc dw s
  | .xamoSwap rv ra rc o sc dw => Sys2Proof.Machine.execXamoSwap rv ra rc o sc dw s
  | .xamoFadd rv ra rc o sc dw => Sys2Proof.Machine.execXamoFadd rv ra rc o sc dw s
  | .xcas rv ra rc o sc dw => Sys2Proof.Machine.execXcas rv ra rc o sc dw s
  | .post e => Sys2Proof.Machine.execPost e s
  | .qnext rd => Sys2Proof.Machine.execQnext rd s
  | .xsend r1 r2 r3 p n tag => Sys2Proof.Machine.execXsend r1 r2 r3 p n tag s
  | .mmaE4m3E4m3 ra rb rs kb ba bb ap => Sys2Proof.Machine.execMmaE4m3E4m3 ra rb rs kb ba bb ap s
  | .mmaE4m3E5m2 ra rb rs kb ba bb ap => Sys2Proof.Machine.execMmaE4m3E5m2 ra rb rs kb ba bb ap s
  | .mmaE5m2E4m3 ra rb rs kb ba bb ap => Sys2Proof.Machine.execMmaE5m2E4m3 ra rb rs kb ba bb ap s
  | .mmaE5m2E5m2 ra rb rs kb ba bb ap => Sys2Proof.Machine.execMmaE5m2E5m2 ra rb rs kb ba bb ap s
  | .mmaBf16Bf16 ra rb rs kb ba bb ap => Sys2Proof.Machine.execMmaBf16Bf16 ra rb rs kb ba bb ap s
  | .mmaF16F16 ra rb rs kb ba bb ap => Sys2Proof.Machine.execMmaF16F16 ra rb rs kb ba bb ap s
  | .mmaI8I8 ra rb rs kb ba bb ap => Sys2Proof.Machine.execMmaI8I8 ra rb rs kb ba bb ap s
  | .mmaI8T2 ra rb rs kb ba bb ap => Sys2Proof.Machine.execMmaI8T2 ra rb rs kb ba bb ap s
  | .mmaE8oI8 ra rb rs kb ba bb ap => Sys2Proof.Machine.execMmaE8oI8 ra rb rs kb ba bb ap s
  | .mmaE8oE4m3 ra rb rs kb ba bb ap => Sys2Proof.Machine.execMmaE8oE4m3 ra rb rs kb ba bb ap s
  | .mmaE8oBf16 ra rb rs kb ba bb ap => Sys2Proof.Machine.execMmaE8oBf16 ra rb rs kb ba bb ap s
  | .mldb r1 r2 r3 => Sys2Proof.Machine.execMldb r1 r2 r3 s
  | .mzero => Sys2Proof.Machine.execMzero s
  | .mdrain r1 r2 r3 r4 ty act => Sys2Proof.Machine.execMdrain r1 r2 r3 r4 ty act s
  | .tst r1 r2 r3 r4 => Sys2Proof.Machine.execTst r1 r2 r3 r4 s
  | .tadv r1 r2 r3 => Sys2Proof.Machine.execTadv r1 r2 r3 s
  | .tlow r1 r2 r3 => Sys2Proof.Machine.execTlow r1 r2 r3 s
  | .tld r1 r2 r3 r4 gc wm ik => Sys2Proof.Machine.execTld r1 r2 r3 r4 gc wm ik s
  | .nopA => Sys2Proof.Machine.execNopA s
  | .hintA v => Sys2Proof.Machine.execHintA v s
  | .add rd ra rb w32 => Sys2Proof.Machine.execAdd rd ra rb w32 s
  | .sub rd ra rb w32 => Sys2Proof.Machine.execSub rd ra rb w32 s
  | .and rd ra rb => Sys2Proof.Machine.execAnd rd ra rb s
  | .or rd ra rb => Sys2Proof.Machine.execOr rd ra rb s
  | .xor rd ra rb => Sys2Proof.Machine.execXor rd ra rb s
  | .andn rd ra rb => Sys2Proof.Machine.execAndn rd ra rb s
  | .orn rd ra rb => Sys2Proof.Machine.execOrn rd ra rb s
  | .shl rd ra rb w32 => Sys2Proof.Machine.execShl rd ra rb w32 s
  | .shr rd ra rb w32 => Sys2Proof.Machine.execShr rd ra rb w32 s
  | .sar rd ra rb w32 => Sys2Proof.Machine.execSar rd ra rb w32 s
  | .rol rd ra rb w32 => Sys2Proof.Machine.execRol rd ra rb w32 s
  | .min rd ra rb => Sys2Proof.Machine.execMin rd ra rb s
  | .max rd ra rb => Sys2Proof.Machine.execMax rd ra rb s
  | .minn rd ra rb => Sys2Proof.Machine.execMinn rd ra rb s
  | .maxn rd ra rb => Sys2Proof.Machine.execMaxn rd ra rb s
  | .seq rd ra rb => Sys2Proof.Machine.execSeq rd ra rb s
  | .sne rd ra rb => Sys2Proof.Machine.execSne rd ra rb s
  | .slt rd ra rb => Sys2Proof.Machine.execSlt rd ra rb s
  | .sltn rd ra rb => Sys2Proof.Machine.execSltn rd ra rb s
  | .sle rd ra rb => Sys2Proof.Machine.execSle rd ra rb s
  | .slen rd ra rb => Sys2Proof.Machine.execSlen rd ra rb s
  | .bget rd ra rb => Sys2Proof.Machine.execBget rd ra rb s
  | .bset rd ra rb => Sys2Proof.Machine.execBset rd ra rb s
  | .bclr rd ra rb => Sys2Proof.Machine.execBclr rd ra rb s
  | .bflip rd ra rb => Sys2Proof.Machine.execBflip rd ra rb s
  | .popc rd ra => Sys2Proof.Machine.execPopc rd ra s
  | .clz rd ra => Sys2Proof.Machine.execClz rd ra s
  | .ctz rd ra => Sys2Proof.Machine.execCtz rd ra s
  | .rev rd ra => Sys2Proof.Machine.execRev rd ra s
  | .mov rd ra => Sys2Proof.Machine.execMov rd ra s
  | .cmov rd ra rb => Sys2Proof.Machine.execCmov rd ra rb s
  | .sext rd ra wc => Sys2Proof.Machine.execSext rd ra wc s
  | .zext rd ra wc => Sys2Proof.Machine.execZext rd ra wc s
  | .mul rd ra rb w32 => Sys2Proof.Machine.execMul rd ra rb w32 s
  | .mulh rd ra rb w32 => Sys2Proof.Machine.execMulh rd ra rb w32 s
  | .mulhn rd ra rb w32 => Sys2Proof.Machine.execMulhn rd ra rb w32 s
  | .div rd ra rb w32 => Sys2Proof.Machine.execDiv rd ra rb w32 s
  | .divn rd ra rb w32 => Sys2Proof.Machine.execDivn rd ra rb w32 s
  | .rem rd ra rb w32 => Sys2Proof.Machine.execRem rd ra rb w32 s
  | .remn rd ra rb w32 => Sys2Proof.Machine.execRemn rd ra rb w32 s
  | .addi rd ra imm => Sys2Proof.Machine.execAddi rd ra imm s
  | .andi rd ra imm => Sys2Proof.Machine.execAndi rd ra imm s
  | .ori rd ra imm => Sys2Proof.Machine.execOri rd ra imm s
  | .xori rd ra imm => Sys2Proof.Machine.execXori rd ra imm s
  | .slti rd ra imm => Sys2Proof.Machine.execSlti rd ra imm s
  | .movi rd imm => Sys2Proof.Machine.execMovi rd imm s
  | .bext rd ra pos wd => Sys2Proof.Machine.execBext rd ra pos wd s
  | .bins rd ra pos wd => Sys2Proof.Machine.execBins rd ra pos wd s
  | .movhi rd ra imm => Sys2Proof.Machine.execMovhi rd ra imm s
  | .shli rd ra w32 amt => Sys2Proof.Machine.execShli rd ra w32 amt s
  | .shri rd ra w32 amt => Sys2Proof.Machine.execShri rd ra w32 amt s
  | .sari rd ra w32 amt => Sys2Proof.Machine.execSari rd ra w32 amt s
  | .fadd rd ra rb t rm => Sys2Proof.Machine.execFadd rd ra rb t rm s
  | .fsub rd ra rb t rm => Sys2Proof.Machine.execFsub rd ra rb t rm s
  | .fmul rd ra rb t rm => Sys2Proof.Machine.execFmul rd ra rb t rm s
  | .fma rd ra rb t rm => Sys2Proof.Machine.execFma rd ra rb t rm s
  | .fms rd ra rb t rm => Sys2Proof.Machine.execFms rd ra rb t rm s
  | .fnma rd ra rb t rm => Sys2Proof.Machine.execFnma rd ra rb t rm s
  | .fdiv rd ra rb t rm => Sys2Proof.Machine.execFdiv rd ra rb t rm s
  | .fsqrt rd ra t rm => Sys2Proof.Machine.execFsqrt rd ra t rm s
  | .frcp rd ra t => Sys2Proof.Machine.execFrcp rd ra t s
  | .frsq rd ra t => Sys2Proof.Machine.execFrsq rd ra t s
  | .fmin rd ra rb t => Sys2Proof.Machine.execFmin rd ra rb t s
  | .fmax rd ra rb t => Sys2Proof.Machine.execFmax rd ra rb t s
  | .fabs rd ra t => Sys2Proof.Machine.execFabs rd ra t s
  | .fneg rd ra t => Sys2Proof.Machine.execFneg rd ra t s
  | .fcpsgn rd ra rb t => Sys2Proof.Machine.execFcpsgn rd ra rb t s
  | .fclass rd ra t => Sys2Proof.Machine.execFclass rd ra t s
  | .feq rd ra rb t => Sys2Proof.Machine.execFeq rd ra rb t s
  | .flt rd ra rb t => Sys2Proof.Machine.execFlt rd ra rb t s
  | .fle rd ra rb t => Sys2Proof.Machine.execFle rd ra rb t s
  | .fcvt rd ra t rm ax => Sys2Proof.Machine.execFcvt rd ra t rm ax s
  | .fcvti rd ra t rm ax => Sys2Proof.Machine.execFcvti rd ra t rm ax s
  | .fcvtf rd ra t rm ax => Sys2Proof.Machine.execFcvtf rd ra t rm ax s
  | .fexp rd ra t => Sys2Proof.Machine.execFexp rd ra t s
  | .fscl rd ra rb t rm => Sys2Proof.Machine.execFscl rd ra rb t rm s
  | .vadd vd va vb ty => Sys2Proof.Machine.execVadd vd va vb ty s
  | .vsub vd va vb ty => Sys2Proof.Machine.execVsub vd va vb ty s
  | .vmul vd va vb ty => Sys2Proof.Machine.execVmul vd va vb ty s
  | .vmulh vd va vb ty => Sys2Proof.Machine.execVmulh vd va vb ty s
  | .vfma vd va vb ty => Sys2Proof.Machine.execVfma vd va vb ty s
  | .vfms vd va vb ty => Sys2Proof.Machine.execVfms vd va vb ty s
  | .vmin vd va vb ty => Sys2Proof.Machine.execVmin vd va vb ty s
  | .vmax vd va vb ty => Sys2Proof.Machine.execVmax vd va vb ty s
  | .vabs vd va ty => Sys2Proof.Machine.execVabs vd va ty s
  | .vneg vd va ty => Sys2Proof.Machine.execVneg vd va ty s
  | .vand vd va vb ty => Sys2Proof.Machine.execVand vd va vb ty s
  | .vor vd va vb ty => Sys2Proof.Machine.execVor vd va vb ty s
  | .vxor vd va vb ty => Sys2Proof.Machine.execVxor vd va vb ty s
  | .vandn vd va vb ty => Sys2Proof.Machine.execVandn vd va vb ty s
  | .vshl vd va vb ty => Sys2Proof.Machine.execVshl vd va vb ty s
  | .vshr vd va vb ty => Sys2Proof.Machine.execVshr vd va vb ty s
  | .vsar vd va vb ty => Sys2Proof.Machine.execVsar vd va vb ty s
  | .vcmp vd va vb ty cc => Sys2Proof.Machine.execVcmp vd va vb ty cc s
  | .vsel vd va vb ty vm => Sys2Proof.Machine.execVsel vd va vb ty vm s
  | .vmand vd va vb ty => Sys2Proof.Machine.execVmand vd va vb ty s
  | .vmor vd va vb ty => Sys2Proof.Machine.execVmor vd va vb ty s
  | .vmnot vd va ty => Sys2Proof.Machine.execVmnot vd va ty s
  | .vcvt vd va ty src => Sys2Proof.Machine.execVcvt vd va ty src s
  | .vperm vd va vb ty => Sys2Proof.Machine.execVperm vd va vb ty s
  | .vrot vd va vb ty => Sys2Proof.Machine.execVrot vd va vb ty s
  | .vsum vd va ty => Sys2Proof.Machine.execVsum vd va ty s
  | .vmaxr vd va ty => Sys2Proof.Machine.execVmaxr vd va ty s
  | .vminr vd va ty => Sys2Proof.Machine.execVminr vd va ty s
  | .vdot vd va vb ty => Sys2Proof.Machine.execVdot vd va vb ty s
  | .vlerp vd va vb ty => Sys2Proof.Machine.execVlerp vd va vb ty s
  | .vclamp vd va vb ty => Sys2Proof.Machine.execVclamp vd va vb ty s
  | .vrcp vd va ty => Sys2Proof.Machine.execVrcp vd va ty s
  | .vrsq vd va ty => Sys2Proof.Machine.execVrsq vd va ty s
  | .vexp2 vd va ty => Sys2Proof.Machine.execVexp2 vd va ty s
  | .vlog2 vd va ty => Sys2Proof.Machine.execVlog2 vd va ty s
  | .vsinpi vd va ty => Sys2Proof.Machine.execVsinpi vd va ty s
  | .vcospi vd va ty => Sys2Proof.Machine.execVcospi vd va ty s
  | .vbcast vd gb ty => Sys2Proof.Machine.execVbcast vd gb ty s
  | .vins vd gi gb ty => Sys2Proof.Machine.execVins vd gi gb ty s
  | .vext vd gi gb ty => Sys2Proof.Machine.execVext vd gi gb ty s
  | .vmpop gb va ty => Sys2Proof.Machine.execVmpop gb va ty s
  | .vscl vd va gb ty => Sys2Proof.Machine.execVscl vd va gb ty s
  | .vqe8 vd va gb ty => Sys2Proof.Machine.execVqe8 vd va gb ty s
  | .vde8 vd va gb ty => Sys2Proof.Machine.execVde8 vd va gb ty s
  | .vfix vd va gb ty => Sys2Proof.Machine.execVfix vd va gb ty s
  | .vunfix vd va gb ty => Sys2Proof.Machine.execVunfix vd va gb ty s
  | .vmaxe gb va ty => Sys2Proof.Machine.execVmaxe gb va ty s
  | .vex vd va vb gd gs ty => Sys2Proof.Machine.execVex vd va vb gd gs ty s

end Sys2Proof.Machine
end

