-- ==== Sys2Proof/Machine/Issue.lean ====
section
/-! DEFINITION. Machine.Issue: fetching a bundle, the traps at issue (R205), structural blocks (R164, R170, R321), issue and the rotation of
contexts (R158), bundles that are held (R188, R206), and a core cycle. -/

namespace Sys2Proof.Machine

/-! ## Fetch (R117, R118, R165, R248) -/

/-- Where the bundle at the pc of the context stands in memory. -/
def State.fetchKey (s : State) : Nat := coreKey s.core.id (393216 + s.cx.pc.toNat)
/-- The bundle at the pc; in a repetition body the register fields of its A instruction are those of the present pass, which the encoding may not
admit. -/
noncomputable def State.fetched (s : State) : Fetched :=
  let f := decodeBytes (s.mem.bytes s.fetchKey 8)
  if s.cx.rpa then
    { f with a := match f.a with
        | .instr i =>
          let j := advanceA (s.cx.rpc.toNat * s.cx.rep.k) i
          if j.wf then .instr j else .bad .operand
        | .bad e => .bad e }
  else f
/-- The causes of the fetch itself: a pc outside the partition, a poisoned bundle. Later passes of a body are not fetched. -/
def State.fetchTraps (s : State) : List Trap :=
  if !s.sl.inCode s.cx.pc.toNat then [outOfRange s.cx.pc]
  else if s.cx.rpa && s.cx.rpc != 0 then []
  else
    match firstPoison s.pois s.fetchKey 8 with
    | none => []
    | some _ => [accessTrap 11 0 s.cx.pc 0 0]

/-! ## The traps of a bundle at issue (R205) -/

/-- Does a guard let the A instruction of a bundle execute? -/
def State.aRuns (s : State) (f : Fetched) : Bool :=
  match f.c with
  | .instr i => s.partnerRuns i
  | .bad _ => true
/-- Does an instruction breakpoint match the context's next bundle (R218)? -/
def State.breaks (s : State) (w : Word) : Bool :=
  let v := w.toNat
  w.getLsbD 63 && (w.getLsbD 58 || fld v 62 59 == s.core.cur.val) && v.testBit (47 + s.core.curCtx.val) &&
    fld v 15 3 * 8 == s.cx.pc.toNat
/-- 0x14 subcode 1, with the number of the first breakpoint that matches. -/
def State.breakTraps (s : State) : List Trap :=
  if !s.sl.attached then []
  else
    match (List.finRange 4).find? (fun n => s.breaks s.core.brk[n]) with
    | none => []
    | some n => [{ rank := 0, info := infoOf 20 (256 + n.val * 65536) s.cx.pc 0 0 }]
/-- 0x16: the bundle would make the count of its region exceed RLEN (R213). -/
def State.regionTraps (s : State) : List Trap :=
  let r := s.sl.eff.rlimit
  when_ (decide (r < s.cx.count + 1)) { rank := 1, info := infoOf 22 0 0 (BitVec.ofNat 64 r) 0 }
/-- Is a result for the register still pending? -/
def Ctx.owes (c : Ctx) (r : RegName) : Bool :=
  c.pend.any (fun p => match p.res, r with
    | .g a _, .g b => a == b
    | .v a _, .v b => a == b
    | _, _ => false)
/-- The register's number, and whether it is a vector register, in cause bits 13-8. -/
def RegName.bits : RegName → Nat
  | .g r => r.toNat * 256
  | .v r => 8192 + r.toNat * 256
/-- 0x04: with CHK, a register is read at a distance below its producer's latency (R162). -/
def State.shortTraps (s : State) (rs : List RegName) : List Trap :=
  if !s.sl.chk then []
  else
    match rs.find? s.cx.owes with
    | none => []
    | some r => [{ rank := 6, info := infoOf 4 r.bits 0 0 0 }]
/-- The causes of what a slot holds. -/
def State.slotCauses (s : State) (sl : SlotId) (x : Slot) : List Trap :=
  match x with
  | .bad _ => [illegal sl]
  | .instr i => (match sl with
    | .c => checksC i s
    | .a => checksA i s)
/-- The registers a slot reads. -/
def State.slotReads (s : State) (x : Slot) : List RegName :=
  match x with
  | .bad _ => []
  | .instr i => readsOf i s
/-- Every at-issue cause that applies to a bundle, C before A. An A instruction whose guard fails is checked for its encoding alone. -/
def State.bundleTraps (s : State) (f : Fetched) : List Trap :=
  let own := s.breakTraps ++ s.regionTraps
  match s.fetchTraps with
  | t :: _ => own ++ [t]
  | [] =>
    if s.aRuns f then
      own ++ s.slotCauses .c f.c ++ s.slotCauses .a f.a ++ s.shortTraps (s.slotReads f.c ++ s.slotReads f.a)
    else own ++ s.slotCauses .c f.c ++ (if f.a.isBad then [illegal .a] else []) ++ s.shortTraps (s.slotReads f.c)

/-! ## Structural blocks -/

/-- The C and A instructions of a bundle that count: those it holds and lets execute. -/
def bundleInstrs (f : Fetched) (runs : Bool) : List Instr :=
  (match f.c with
   | .instr i => [i]
   | .bad _ => []) ++
  (match f.a with
   | .instr i => if runs then [i] else []
   | .bad _ => [])
/-- The beats of a bundle's C instruction. -/
def bundleBeats (f : Fetched) : Nat :=
  match f.c with
  | .instr i => beatsC i
  | .bad _ => 0
/-- Does an instruction need a place in the scheduled injector? -/
def isXsend : Instr → Bool
  | .xsend .. => true
  | _ => false
/-- Is the bundle blocked: the vector datapath busy, the matrix queue, the outstanding operations or the scheduled injector full? -/
def State.blocks (s : State) (f : Fetched) : Bool :=
  let is := bundleInstrs f (s.aRuns f)
  (is.any (fun i => isVecA i || 0 < beatsC i) && decide (s.core.cyc < s.core.vecFree)) ||
    (is.any isMatrix && decide (8 ≤ s.core.mq.length)) || (is.any isSplit && decide (64 ≤ s.outstanding)) ||
    (is.any isXsend && decide (64 ≤ s.core.inj.length))
/-- Is the next bundle of a context of the running slice blocked? -/
noncomputable def State.blocked (s : State) (c : Fin 11) : Bool :=
  let t := (s.focus s.core.cur c).landDue
  t.blocks t.fetched

/-! ## Execution of a bundle -/

/-- The state that an instruction's meaning leaves; a refusal changes nothing. -/
def State.run (s : State) (i : Instr) : State :=
  match exec i s with
  | .next t => t
  | _ => s
/-- The A instruction executes where its guard allows it. -/
def State.runA (s : State) (f : Fetched) : State :=
  match f.a with
  | .instr i => if s.aRuns f then s.run i else s
  | .bad _ => s
/-- The C instruction executes. -/
def State.runC (s : State) (f : Fetched) : State :=
  match f.c with
  | .instr i => s.run i
  | .bad _ => s
/-- The cycles after issue in which the flags of the A instruction are known, where an enabled flag makes the bundle wait for them (R206). -/
def State.fpWait (s : State) (f : Fetched) : Option Nat :=
  match f.a with
  | .bad _ => none
  | .instr i =>
    if s.cx.fpc.toNat / 256 % 32 = 0 ∨ s.aRuns f = false then none
    else
      match flagLat i s with
      | none => none
      | some l => if 1 < l then some l else none
/-- Is the bundle over: no trap taken, and the context neither gone nor waiting for it to complete? -/
def State.isOver (s : State) : Bool :=
  let c := s.cx
  !s.core.took && c.live && !c.stopped && c.wait.isNone && c.fence.isNone && c.held.isNone && c.spill.isNone && c.settle.isNone
/-- The bundle ends, where it is over. -/
def State.finish (s : State) (ready : Nat) : State := if s.isOver then s.advance s.core.stall 0 ready else s
/-- What the bundle being issued brings with it: its stall count, its lone bit, the beats of its C instruction. -/
def State.take (s : State) (f : Fetched) : State :=
  { s with core := { s.core with stall := f.stall.toNat, lone := f.lone, cBeats := bundleBeats f, took := false } }
/-- A bundle that is held keeps the registers as it has read them when it issued, in `t` (R113). -/
def State.keeps (s t : State) : State := if s.cx.held.isSome && s.cx.cap.isNone then s.setCx { s.cx with cap := t.capture.cx.cap } else s
/-- A bundle that issues without a trap: both instructions execute, C later where it waits for the flags of A. -/
def State.execute (s : State) (f : Fetched) : State :=
  let t := (s.setCx { s.cx with count := s.cx.count + 1, atEntry := false, relHeld := false }).tally 1 1
  let u := t.runA f
  match t.fpWait f with
  | some l => (u.setCx { u.cx with held := some (u.core.cyc + l - 1), ready := max u.cx.ready (u.core.cyc + max l (1 + u.waitOut u.core.stall)) }).keeps t
  | none => ((u.runC f).finish (u.core.cyc + 1 + u.waitOut u.core.stall)).keeps t
/-- The access of a bundle to global memory through a stack window, if it makes one, in a machine where nothing holds it (R116). -/
def State.overAsked (s : State) (f : Fetched) : Option Access :=
  let t := { s with ops := [] }
  match ((t.setCx { t.cx with locFree := 0, mc0 := none, spill := none }).runC f).ops with
  | [o] => (match o.req with
    | .mem a => if o.kind = 0 then some a else none
    | _ => none)
  | _ => none
/-- The fault that such an access would bring: of its edge station's table and translation, and of a page of this module's HBM that of its home station
and of poison (R127, R129, R136). -/
def State.overFate (s : State) (a : Access) : Option Answer :=
  let st := coreStation s.core.id
  let va := a.addr.toNat % 2 ^ 57
  let e := s.effFor s.issuer
  match s.stationRefusal st.1 st.2 s.sl.rgn s.modId false a.kind.toNat with
  | some sub => some (faultAns (refusalCause sub) a.addr)
  | none =>
    if atWindow va then some (faultAns (walkCause 9 0 0 0 (accOf a) none) a.addr)
    else
      match walk s e.pasid.toNat e.s2f.toNat va (accOf a) with
      | .bad c => some (faultAns c a.addr)
      | .ok w =>
        if fld w.bits2.toNat 7 6 ≠ 0 then none
        else
          let key := w.loadKey s st.1
          match s.stationRefusal (homeSlab (s.physOf key)) (homeStation (s.physOf key)) s.sl.rgn s.modId false a.kind.toNat with
          | some sub => some (faultAns (refusalCause sub) a.addr)
          | none => some (s.perform (s.real key) a).2
/-- The trap of a bundle: where 0x15 is the first that its slots name, a fault of its stack-window access to global memory comes before it, and the
access itself is not made (R205). -/
def State.firstTrap (s : State) (f : Fetched) : Option Trap :=
  match pickTrap (s.bundleTraps f) with
  | none => none
  | some x =>
    if x.rank < 18 then some x
    else
      match (s.overAsked f).bind s.overFate with
      | some (.fault c ad d0 d1) => some { x with info := { cause := c, addr := ad, d0 := d0, d1 := d1 } }
      | _ => some x
/-- The context issues a bundle: the trap of R205, or its execution. -/
def State.issueBundle (s : State) (f : Fetched) : State :=
  let t := s.take f
  match t.firstTrap f with
  | some x => t.trapAt x
  | none => t.execute f
/-- The vector registers that a bundle reads. -/
def State.vecReads (s : State) (f : Fetched) : List VReg :=
  (s.slotReads f.c ++ s.slotReads f.a).filterMap (fun r => match r with
    | .v x => some x
    | .g _ => none)
/-- The context issues its next bundle, which reads what has come due by its distance (R160, R364). -/
noncomputable def State.issue (s : State) : State :=
  let t := s.landDue
  let f := t.fetched
  (t.landRead (t.vecReads f)).issueBundle f
/-- Does a bundle set by itself, with its stall count, when its context goes on? -/
def ownReady (f : Fetched) : Bool :=
  match f.c with
  | .instr (.swp ..) => true
  | .instr .rfe => true
  | _ => false
/-- A held bundle tries its C instruction again, once the vector datapath is free for it (R164). -/
noncomputable def State.retry (s : State) : State :=
  let f := s.fetched
  if 0 < bundleBeats f ∧ s.core.cyc < s.core.vecFree then s.setCx { s.cx with held := some (s.core.cyc + 1) }
  else
    let t := s.take f
    let u := t.setCx { t.cx with held := none }
    (u.runC f).finish (u.core.cyc + 1 + (if (u.fpWait f).isSome || ownReady f then 0 else u.waitOut u.core.stall))

/-! ## A core cycle (R99, R158, R295) -/

/-- May a context issue, but for a structural block? -/
def State.eligible (s : State) (c : Fin 11) : Bool :=
  let x := s.sl.ctxs[c]
  x.live && !x.stopped && x.wait.isNone && x.fence.isNone && x.held.isNone && x.spill.isNone && x.settle.isNone && decide (x.ready ≤ s.core.cyc)
/-- Is a context waiting out a stall count? -/
def State.stalled (s : State) (c : Fin 11) : Bool :=
  let x := s.sl.ctxs[c]
  x.live && !x.stopped && x.wait.isNone && x.fence.isNone && x.held.isNone && x.settle.isNone && decide (s.core.cyc < x.ready)
/-- The contexts in the order of the search: cyclically after the one that issued last. -/
def Core.rotation (c : Core) : List (Fin 11) := (List.range 11).map (fun d => Fin.ofNat 11 (c.lastCtx.val + 1 + d))
/-- Has the context a held bundle whose cycle has come? -/
def State.heldDue (s : State) : Bool := s.cx.held.any (fun k => decide (k ≤ s.core.cyc))
/-- Does the held bundle begin a vector access, which changes nothing that another context sees in this cycle? -/
noncomputable def State.heldBeats (s : State) : Bool := decide (0 < bundleBeats s.fetched) && !(bundleInstrs s.fetched true).any isSplit
/-- One context's waits, fence or landing results in a cycle. -/
noncomputable def State.ctxTurn (s : State) (c : Fin 11) : State :=
  let t := ((s.focus s.core.cur c).begun).landEarly.ctxCycle
  if t.cx.settle.isSome then t.settleTurn else t.heed
/-- A held bundle whose cycle has come tries again: one that begins a vector access before the issue of the cycle, any other after it, so that the waits
see what it does from the next cycle (R319, R392). -/
noncomputable def State.heldTurn (s : State) (beats : Bool) (c : Fin 11) : State :=
  let t := (s.focus s.core.cur c).begun
  if t.heldDue && t.heldBeats == beats then t.retry else t
/-- The held bundles of the running slice. -/
noncomputable def State.helds (s : State) (beats : Bool) : State := (List.finRange 11).foldl (fun u c => u.heldTurn beats c) s
/-- Count an event of a context. -/
def State.tallyOf (s : State) (c : Fin 11) (e : Nat) : State := (s.focus s.core.cur c).tally e 1
/-- The search and the issue of a cycle, with the counters of the contexts that do not issue: those that are eligible, and those that wait out a
stall count. -/
noncomputable def State.search (s : State) (waits : List (Fin 11)) : State :=
  let el := s.core.rotation.filter s.eligible
  let free := el.filter (fun c => !s.blocked c)
  let t := (el.filter s.blocked).foldl (fun t c => t.tallyOf c 11) s
  let u := waits.foldl (fun t c => t.tallyOf c 4) t
  match free with
  | [] => u
  | c :: cs =>
    let v := cs.foldl (fun t c => t.tallyOf c 3) u
    ({ v with core := { v.core with lastCtx := c } }.focus v.core.cur c).issue
/-- Do the contexts of the running slice run: no switch has gone past their stopping points? -/
def Core.isOpen (c : Core) : Bool :=
  match c.switch with
  | none => true
  | some w => w.phase == .stopping
/-- The work of the running slice's contexts in a cycle: what they wait for, the held bundles, and the issue. -/
noncomputable def State.contexts (s : State) : State :=
  match s.core.running with
  | none => s
  | some i =>
    let r := s.focus i 0
    let t := (((List.finRange 11).foldl (fun t c => t.ctxTurn c) r).focus i 0).helds true
    let u := if t.core.isOpen && t.core.running == some i then (t.focus i 0).search ((List.finRange 11).filter r.stalled) else t
    (u.focus i 0).helds false
/-- A core cycle: dispatcher, switch, charge, contexts, the vector access in its beats, and the start of the cluster's next matrix command. -/
noncomputable def State.coreCycle (s : State) : State :=
  let r := s.dispatch.switchCycle
  let t := (r.unitStart.contexts.beatTurn).charge r.charged
  { t with core := { t.core with ran := true, took := false } }
/-- What comes at the end of a core cycle, one event after the other: a matrix command, waits that expire, a switch that is over, and then the events
that it has held, a spent budget before a release (R100; log entry 82), a slice that leaves, a share cleared. -/
def State.cycleEvent (s : State) : Option Instr :=
  let co := s.core.id
  match s.unitDue with
  | some i => some i
  | none =>
    match s.core.running.bind (fun i => ((List.finRange 11).find? (fun c => (s.expiredWait co i c).isSome)).map (fun c => (i, c))) with
    | some p => some (.boundedWaitExpiry co p.1 p.2)
    | none =>
      if s.core.switchOver then some (.switchComplete co)
      else
        match (List.finRange 16).find? (fun i => s.exhausted co i), (List.finRange 16).find? (fun i => s.releases co i) with
        | some i, _ => some (.budgetExhaustion co i)
        | none, some i => some (.sliceRelease co i)
        | none, none =>
          match (List.finRange 16).find? (fun i => s.mayLeave co i) with
          | some i => some (.sliceLeave co i)
          | none =>
            match s.core.shareClr with
            | some p => if p.2 ≤ s.core.cyc then some (.bShareClear co) else none
            | none => none
/-- The event of the front core that is due in this fabric cycle: a departure of its injector, or what its core cycle brings. -/
def State.coreEvent (s : State) : Option Instr :=
  if s.core.inj.any s.departs then some (.xsendDeparture s.core.id)
  else if s.core.ran then s.cycleEvent else none
/-- The front core's turn is over, and the next core's begins. -/
def State.passTurn (s : State) : State :=
  let c := { s.core with ran := false, cyc := if s.core.ran then s.core.cyc + 1 else s.core.cyc }
  match s.rest with
  | [] => { s with core := c, todo := s.todo - 1 }
  | d :: ds => { s with core := d, rest := ds ++ [c], todo := s.todo - 1 }
/-- One piece of the front core's turn: its core cycle, one of its events, or the end of the turn. -/
noncomputable def State.turn (s : State) : State :=
  if !s.core.ran && s.begins (slabOf s.core.id) then s.coreCycle
  else
    match s.coreEvent with
    | some i => s.run i
    | none => s.passTurn

end Sys2Proof.Machine
end

