-- ==== Sys2Proof/Machine/Turn.lean ====
section
/-! DEFINITION. Machine.Turn: which event of the module is due, the orders of R189, R191, R193 and R343 among operations, and the next fabric
cycle (R10, R391, R392, R394). -/

namespace Sys2Proof.Machine

/-! ## The order of a context's operations (R189) -/

/-- Is an operation of the module's own cores still to be performed? -/
def Op.unperformed (o : Op) : Bool :=
  !o.foreign && o.pump.isNone && (match o.stage with
    | .held => true
    | .flight => true
    | .home .. => true
    | .replicas .. => true
    | _ => false)
/-- The key of an HBM byte, the same for every replica. -/
def State.commonKey (s : State) (key : Nat) (rp : Bool) : Nat := if rp then hbmKey s.modId (s.physOf key % 68719476736) else key
/-- The key of the first byte an access is for; none where it is for no byte of this module. -/
def State.aims (s : State) (o : Op) : Option (Nat × Nat) :=
  match o.req with
  | .mem a =>
    if isCoreSpace a.addr then
      (if spaceMod a.addr = s.modId then some (coreKey (spaceCore a.addr) (fld a.addr.toNat 18 0), a.size) else none)
    else
      (match o.stage with
       | .home key _ rp _ _ => some (s.commonKey key rp, a.size)
       | .replicas key _ _ _ => some (s.commonKey key true, a.size)
       | _ =>
         match walk s (s.effFor o.iss).pasid.toNat (s.effFor o.iss).s2f.toNat (a.addr.toNat % 2 ^ 57) (accOf a) with
         | .bad _ => none
         | .ok w =>
           if fld w.bits2.toNat 7 6 = 0 then some (s.commonKey (hbmKey s.modId w.phys) (w.bits2.getLsbD 9), a.size) else none)
  | _ => none
/-- Do two accesses touch a common byte, or have one core as their target? -/
def State.conflict (s : State) (p o : Op) : Bool :=
  (o.coreTarget.isSome && p.coreTarget == o.coreTarget) ||
  (match s.aims p, s.aims o with
   | some x, some y => decide (x.1 < y.1 + y.2) && decide (y.1 < x.1 + x.2)
   | _, _ => false)
/-- Is an access to be performed behind an earlier one of its context? -/
def State.mustFollow (s : State) (o : Op) : Bool :=
  o.unperformed && s.ops.any (fun p => decide (p.id < o.id) && p.unperformed && p.issuedBy o.iss.core o.iss.slc o.iss.ctx && s.conflict p o)
/-- Is it a cistern request? -/
def Op.isCistern (o : Op) : Bool := o.writes || o.isTld || o.isTlow
/-- Do two requests come from one slice, or from one pump? -/
def Op.sameSender (p o : Op) : Bool :=
  p.smod == o.smod && p.host == o.host && p.iss.core == o.iss.core && p.iss.slc == o.iss.slc && p.pump == o.pump
/-- Is a cistern request to be served behind one of its sender to its key that has left before it (R154)? `ops` lists requests in the order in which they
have left, or come in. -/
def State.inLine (s : State) (o : Op) : Bool :=
  (s.ops.takeWhile (fun p => p.id != o.id)).any (fun p => p.stage == .flight && p.isCistern && p.sameSender o && p.keyOf == o.keyOf)
/-- Is a store to the replica that it comes to next to wait for an earlier one to its page, which has still to come there (R131, R185)? -/
def State.outOfTurn (s : State) (o : Op) (key left seq : Nat) : Bool :=
  let h := (otherSlabs o.id (homeSlab (s.physOf key))).getD (left - 1) 0
  s.ops.any (fun p => match p.stage with
    | .replicas key2 left2 seq2 _ =>
      decide (seq2 < seq) && s.pageOf key2 == s.pageOf key && ((otherSlabs p.id (homeSlab (s.physOf key2))).take left2).contains h
    | _ => false)

/-! ## Releases (R191, R193, R198, R343) -/

/-- The effective scope of an operation: core for the issuer's own scratchpad (R193). -/
def State.effScope (s : State) (o : Op) : BitVec 3 :=
  match o.req with
  | .kick .. => 0
  | _ => if o.coreTarget = some (s.modId, o.iss.core) then 0 else o.scope
/-- Do the conditions hold on which a held operation leaves the injector: its data collected, cistern requests in order, and those of a release (R191,
R193, R321, R343)? -/
def State.mayLeaveCore (s : State) (o : Op) : Bool :=
  let c := s.coreAt o.iss.core
  let x := c.slices[o.iss.slc].ctxs[o.iss.ctx]
  !(o.isCistern && s.ops.any (fun (p : Op) => decide (p.id < o.id) && p.stage == .held && p.isCistern &&
      p.issuedBy o.iss.core o.iss.slc o.iss.ctx)) &&
  !c.beats.any (fun b => b.op == some o.id) &&
  (!isRelease o.ord || (decide (x.locFree ≤ c.cyc) && s.quietBefore o.iss.core o.iss.slc o.iss.ctx o.id && s.pastTick o.after (s.effScope o)))
/-- The packet of a message as it is injected: route and destination of the path-table entry that it names, else of a route to its destination; the
subcode of the refusal where it has none, or its module is absent (R35, R36, R47). -/
def State.injected (s : State) (co : CoreId) (p : Packet) (px : Option (BitVec 8)) : Packet ⊕ Nat :=
  match px with
  | some n =>
    let e := s.pathEntry co n.toNat
    if !entryValid e then .inr 6 else if s.reachable (p.routeDest e).dmod then .inl (p.routeDest e) else .inr 4
  | none => if s.reachable p.dmod then s.routeFrom (corePos co).1 (corePos co).2 p else .inr 4
/-- The subcode with which a request is refused as it leaves its core. -/
def State.leaveRefusal (s : State) (o : Op) : Option Nat :=
  match o.req with
  | .mem a => s.injectRefusalAt o.iss.core a.addr
  | _ => if o.isCistern then s.globalRefusalAt o.iss.core else none
/-- The address that such a refusal names. -/
def Op.target (o : Op) : Word :=
  match o.req with
  | .mem a => a.addr
  | _ => o.keyOf
/-- A request that is on its way stands behind all that have left before it. -/
def State.toEnd (s : State) (o : Op) : State :=
  { s with ops := s.ops.filter (fun (p : Op) => p.id != o.id) ++ [{ o with stage := .flight, due := s.dueTime }] }.draw
/-- A held operation leaves: a message enters the fabric, and is over when it is delivered; a request is on its way. -/
def State.leaveCore (s : State) (o : Op) : State :=
  match o.req with
  | .post p px =>
    (match s.injected o.iss.core p px with
     | .inr sub => (s.dropOp o.id).refuseMessage p sub (some o.iss)
     | .inl q =>
       let pos := corePos o.iss.core
       let t := (s.toStage o .flight).launchFlight pos.1 pos.2 4 q none s.dueTime none (some o.iss)
       { t with fab := { t.fab with flights := t.fab.flights.map (fun (z : Flight) => if z.id == s.nextId then { z with src := some o.id } else z) } }.draw)
  | _ =>
    match s.leaveRefusal o with
    | some sub => s.toStage o (.reply (faultAns (refusalCause sub) o.target))
    | none => (s.toEnd o).onItsWay o
/-- Every held operation that may leave does, in issue order; a request to a core of another module goes there, behind those of its context before it. -/
def State.releaseHeld (s : State) : State :=
  s.ops.foldl (fun t o =>
    if o.stage == .held then (if t.mayLeaveCore o then t.leaveCore o else t)
    else
      match o.stage, o.coreTarget with
      | .flight, some x => if x.1 ≠ t.modId ∧ o.due ≤ t.time ∧ t.mustFollow o = false then t.toStage o (.away false) else t
      | _, _ => t) s

/-! ## Due events -/

/-- The event that an operation on its way to its target brings. -/
def State.flightEvent (s : State) (o : Op) : Option Instr :=
  match o.req with
  | .mem a =>
    if s.mustFollow o then none
    else if a.addr = stationWord ∧ o.kind = 2 ∧ a.size = 8 then some (.translationInvalidation o.id)
    else if isGlobal a.addr then some (.globalRequestTranslation o.id)
    else if isCoreSpace a.addr && spaceMod a.addr == s.modId then some (.coreSpaceRequest o.id)
    else none
  | .tst .. => if s.inLine o then none else some (.cisternTstRequest o.id)
  | .tadv .. => if s.inLine o then none else some (.cisternTadvRequest o.id)
  | .tld .. => if s.inLine o then none else some (.cisternTldRequest o.id)
  | .tlow .. => if s.inLine o then none else some (.cisternTlowRequest o.id)
  | .arrival .. => some (.sbarArrival o.id)
  | .go _ => some (.goMessage o.id)
  | .kick .. => some (.kickWordStore o.id)
  | .post .. => none
/-- Is a cancel at the place where it is judged? -/
def Op.cancelDue (o : Op) (now : Nat) : Bool :=
  (match o.cancel with
   | none => false
   | some t => decide (t ≤ now)) &&
  (match o.stage with
   | .reply _ => true
   | .away _ => true
   | .queued => true
   | .lost => true
   | _ => false)
/-- Is a request a store? -/
def Op.stores (o : Op) : Bool :=
  match o.req with
  | .mem a => storeKind (accOf a)
  | _ => false
/-- The event of an operation that is due; an answer from outside the module is due when the outside gives it. -/
def State.opEvent (s : State) (o : Op) : Option Instr :=
  if o.cancelDue s.time then some (.cisternCancel o.id)
  else if s.time < o.due then none
  else
    match o.stage with
    | .flight => s.flightEvent o
    | .home _ _ rp _ _ => if s.mustFollow o then none else if rp && o.stores then some (.replicaStore o.id) else some (.homeRequest o.id)
    | .replicas key left seq _ => if s.outOfTurn o key left seq then none else some (.replicaStore o.id)
    | .reply _ => if o.isCistern then some (.cisternCompletion o.id (.done 0 0)) else some (.splitPhaseCompletion o.id (.done 0 0))
    | _ => none
/-- The event of a packet that is due: one on its way may go on, one that has arrived is whole. -/
def State.packetEvent (s : State) (x : Flight) : Option Instr :=
  if s.time < x.due ∨ s.behind x = true ∨ (x.arrived.isSome = true ∧ x.whole = false) then none
  else
    match x.arrived with
    | none => if s.mayMove x then some (.routerForward x.id) else none
    | some 6 => none
    | some 7 => none
    | some 9 => none
    | some 4 =>
      if x.pkt.kind = 4 then some (.scheduledDelivery x.id)
      else if x.pkt.kind = 3 then (if x.pkt.opx / 1048576 % 2 = 1 then some (.startMessage x.id) else some (.messageArrival x.id))
      else none
    | some _ =>
      if x.isNotify then (if isReset x.pkt then some (.resetNotify x.id) else some (.notifyWrite x.id))
      else if x.pkt.kind = 3 ∧ x.pkt.dcls = 5 then some (.starterNotice x.id)
      else none
/-- The subcode with which a unit that is no core refuses a message (R46). -/
def State.unitRefusal (s : State) (p : Packet) : Option Nat :=
  if p.kind = 3 ∧ 1 ≤ p.dcls ∧ p.dcls ≤ 3 then refusal (s.unitTable p.dcls p.did.toNat) p.srgn p.smod p.h (accBit 3) else none
/-- A packet that none of the module's events takes at a unit is discarded there; a message is first held against the unit's access table (R36, R46). -/
def State.strayEnds (s : State) (x : Flight) : State :=
  match s.unitRefusal x.pkt with
  | some sub => (s.dropFlight x.id).refuseMessage x.pkt sub x.iss
  | none => s.dropFlight x.id
/-- A packet leaves by its off-module port; the `post` that it comes from is over when the outside says so. -/
def State.leavesPort (s : State) (x : Flight) : State :=
  { s.dropFlight x.id with
    sent := x.pkt.shifted :: s.sent,
    ops := s.ops.map (fun (o : Op) => if x.src == some o.id then { o with stage := .away false } else o) }
/-- The end of a packet in the fabric, where it has come: it leaves the module, the flits behind one that has been discarded have passed, a request becomes
an operation of its target, or no event takes it. -/
def State.endsAt (s : State) (x : Flight) : State :=
  if s.time < x.due ∨ x.whole = false ∨ s.behind x = true then s
  else
    match x.arrived with
    | none => s
    | some 6 => s.leavesPort x
    | some 7 => s
    | some 9 => s.dropFlight x.id
    | some port =>
      if (s.packetEvent x).isSome then s
      else
        match x.rq with
        | some a => s.foreignOp x a (port == 4)
        | none => s.strayEnds x
/-- Is an operation a `post` whose message is in the fabric no more? -/
def State.landed (s : State) (o : Op) : Bool :=
  match o.req, o.stage with
  | .post .., .flight => !s.fab.flights.any (fun x => x.src == some o.id)
  | _, _ => false
/-- The event that carries out a command. -/
def cmdInstr (c : Cmd) : Option Instr :=
  let it := c.f 135 128
  match c.op with
  | 1 => some (.launch c.p c.n)
  | 2 => some (.arm c.p c.n)
  | 3 => if it = 0 then some (.killSubtree c.p c.n) else some (.killGang c.p c.n)
  | 4 =>
    (match it with
     | 0 => some (.queryStarterStatus c.p c.n)
     | 1 => some (.queryPower c.p c.n)
     | 2 => some (.queryDescriptor c.p c.n)
     | _ => some (.queryRegion c.p c.n))
  | 5 => some (.copy c.p c.n)
  | 6 => if c.f 255 224 = 0 then some (.keypoolRelease c.p c.n) else some (.keypool c.p c.n)
  | 7 =>
    (match it with
     | 1 => some (.configPower c.p c.n)
     | 2 => some (.configDescriptor c.p c.n)
     | 3 => some (.configRevoke c.p c.n)
     | 4 => some (.configInterrupt c.p c.n)
     | _ => some (.configRetireStack c.p c.n))
  | 8 => some (.resume c.p c.n)
  | _ => none
/-- The event of a command that is due. -/
def State.cmdEvent (s : State) (c : Cmd) : Option Instr :=
  if s.time < c.due then none
  else if c.result.isSome then some (.commandCompletion c.p c.n)
  else if s.mayRun c then cmdInstr c
  else none
/-- The pumps whose job in progress is due. -/
def State.pumpDue (s : State) (p : Pump) : Option Instr :=
  match p.queue with
  | [] => none
  | j :: _ => if s.time < j.due then none else s.pumpNext p
/-- The placement of an armed launch that is due. -/
def State.armedDue (s : State) (a : Armed) : Option Instr :=
  if a.places = true ∧ s.placesBefore a.seq = false ∧ a.due ≤ s.time then some (.armedRecordPlacement a.id) else none
/-- The fetch of a portal. -/
def State.fetchDue (s : State) (p : Nat) : Option Instr :=
  let q := BitVec.ofNat 6 p
  if s.mayFetch q && Config.fetchNow (64 * s.time + p) then some (.commandFetch q) else none
/-- The first of some optional events. -/
def firstOf {α : Type} (l : List α) (f : α → Option Instr) : Option Instr := l.findSome? f
/-- An event of the module that is due in the present fabric cycle; none in a hush tick, when no plane carries a flit (R24). -/
def State.moduleEvent (s : State) : Option Instr :=
  if s.hush then none else
  (firstOf s.fab.flights s.packetEvent).or <| (firstOf s.ops s.opEvent).or <| (firstOf s.pumps s.pumpDue).or <|
    (firstOf s.cmds s.cmdEvent).or <| (firstOf s.starter.armed s.armedDue).or (firstOf (List.range 64) s.fetchDue)

/-! ## The next fabric cycle -/

/-- The end of a fabric cycle in the fabric: held operations leave, the flits of the open plane move, and packets end. -/
def State.fabricEnds (s : State) : State :=
  let t := s.releaseHeld.openCycle
  let u := t.fab.flights.foldl (fun (u : State) x => u.endsAt x) t
  { u with ops := u.ops.filter (fun o => !u.landed o) }
/-- Entries written in the present cycle take effect, and every output may carry a flit again (R36, R41, R43). -/
def Fabric.newCycle (f : Fabric) : Fabric :=
  { f with path := f.pathNew.foldl (fun t p => t.set p.1 p.2) f.path, group := f.groupNew.foldl (fun t p => t.set p.1 p.2) f.group,
           pathNew := [], groupNew := [], used := [] }
/-- Time goes on by a fabric cycle, and a pace tick ends with its last; every core has its turn. -/
def State.nextCycle (s : State) : State :=
  let t := if s.hush then s else s.fabricEnds
  let u := { t with fab := t.fab.newCycle, time := t.time + 1, todo := 1 + t.rest.length }
  if t.fcyc + 1 < t.ticksN then { u with fcyc := t.fcyc + 1 }
  else { u.endHush with fcyc := 0, pace := t.pace + 1, tickDone := false }
/-- What comes at the start of a tick: a halt, where a supply fault has lasted 1 s, the entry into full service where its conditions hold, a step change that
has waited too long, then the tick's own work. -/
def State.tickInstr (s : State) : Instr :=
  if s.supplyOver then .supplyFaultHalt else if s.fullReady then .fullServiceEntry else if s.stepOverdue then .stepChangeForced else .paceTick
/-- One piece of the module's work: the start of a tick, a core's turn, an event that is due, or the next fabric cycle. -/
noncomputable def State.work (s : State) : State :=
  if s.fcyc = 0 ∧ s.tickDone = false then s.run s.tickInstr
  else if s.todo ≠ 0 then s.turn
  else
    match s.moduleEvent with
    | some i => s.run i
    | none => s.nextCycle
/-- The next event of the queue; one that does not occur is passed over. -/
def State.takeQueued (s : State) (i : Instr) (q : List Instr) : Host.Outcome State Fault Refusal :=
  let t := { s with queue := q }
  match exec i t with
  | .refused (.notEnabled _) => .next t
  | x => x
/-- Is an event one that a halted module still takes: one of its management ports, PTP's among them, or power-up (R17, R51)? -/
def isManagement : Instr → Bool
  | .powerUp .. => true
  | .registerWrite (.power _) => true
  | .registerWrite .rootRecord => true
  | .syncMessage _ => true
  | .announceMessage .. => true
  | .pdelayReq .. => true
  | .announceReceiptTimeout => true
  | _ => false

/-! ## Laying an instruction where step takes the next -/

/-- The slice that `withFetchWord` runs: slice 0 of the front core, its workspace behind the save area at 4096, its code at 0. -/
def bench : Slice :=
  { Slice.fresh with
      v := true, st := .running, cls := 0, acc := true, pkb := 384, bud := 1000000, brem := 1000000,
      eff := { Eff.zero with acc := true, vcc := 3, hvc := 3, iskb := 64, spkb := 384, bud := 1000000 },
      started := true, ctxs := (Vector.replicate 11 Ctx.fresh).set 0 { Ctx.fresh with live := true, wp := 4096, prv := true } }
/-- The words of a bundle stored at the pc of the bench, nothing waiting before its issue. -/
noncomputable def State.withBundle (s : State) (cw aw : Nat) : State :=
  let c := { s.core with slices := s.core.slices.set 0 bench, running := some 0, switch := none, evaluate := false, ran := false, cur := 0,
                         curCtx := 0, lastCtx := 10, vecFree := 0, beats := none, mq := [], gone := [], inj := [] }
  let t := { s with core := c, todo := 1, fcyc := 0, tickDone := true, hush := false, queue := [], power := { s.power with halted := false } }
  t.putGood (coreKey c.id 393216) 8 (cw % 4294967296 + aw % 4294967296 * 4294967296)

end Sys2Proof.Machine
end

