-- ==== Sys2Proof/Machine/Step.lean ====
section
/-! DEFINITION. Step: one step of the machine. -/

namespace Sys2Proof.Machine

/-- One step: the next event of the queue, or a piece of the module's own work. In a module that a supply fault has halted every slab stands still, and
only its management ports are served (R17). -/
noncomputable def step (s : State) : Host.Outcome State Fault Refusal :=
  match s.queue with
  | i :: q => if s.power.halted && !isManagement i then .next { s with queue := q } else s.takeQueued i q
  | [] => if s.power.halted then .next { s with time := s.time + 1 } else .next s.work

/-- The next step runs the instruction of an opcode-table word, in the slot that `decodeTableWord` reads it from. -/
noncomputable def State.withFetchWord (s : State) (nbits w : Nat) : State :=
  s.withBundle (tableWords nbits w).1 (tableWords nbits w).2

end Sys2Proof.Machine
end

