-- ==== Sys2Proof/Safety.lean ====
section
/-! DEFINITION. Safety: what a safe run of the machine is, and the terms in which the statements speak: integers of n bits, results on their
way, what an instruction may leave unchanged. -/

namespace Sys2Proof

/-- A step that goes on: neither a fault nor a refusal. -/
def Safe (s : Machine.State) : Prop := ∃ t, Machine.step s = .next t

open Machine

/-! ## Integers of n bits (R225) -/

/-- The width of an operation: 32 with `.w`, else 64. -/
def opBits (w32 : Bool) : Nat := if w32 then 32 else 64
/-- The low n bits of a register, unsigned. -/
def natN (n : Nat) (a : Word) : Nat := a.toNat % 2 ^ n
/-- The low n bits of a register, two's complement. -/
def intN (n : Nat) (a : Word) : Int := Int.bmod a.toNat (2 ^ n)
/-- The low n bits of an integer, sign-extended to a register. -/
def sxN (n : Nat) (x : Int) : Word := BitVec.ofInt 64 (Int.bmod x (2 ^ n))

/-! ## What an instruction answers -/

/-- The instruction completes, with one result for a general register on its way, and changes nothing else. -/
def Gives (s : State) (i : Instr) (sl : SlotId) (rd : GReg) (v : Word) (l : Nat) : Prop :=
  exec i s = .next (s.pendG sl rd v l)

/-- The front core's slice i runs with context c alone, which is ready to issue and waits for nothing, and which neither a halt nor a stop at its entry
keeps from it: the next piece of the module's work is this core's cycle, in which no switch, matrix command or event of another unit falls. -/
structure Alone (s : State) (i : Fin 16) (c : Fin 11) : Prop where
  queue : s.queue = []
  halted : s.power.halted = false
  tick : s.fcyc ≠ 0 ∨ s.tickDone = true
  todo : s.todo ≠ 0
  ran : s.core.ran = false
  begins : s.begins (slabOf s.core.id) = true
  running : s.core.running = some i
  evaluate : s.core.evaluate = false
  switch : s.core.switch = none
  unit : s.unitStart = s
  others : ∀ d, d ≠ c → s.core.slices[i].ctxs[d].live = false ∧ s.core.slices[i].ctxs[d].pend = [] ∧
    s.core.slices[i].ctxs[d].held = none ∧ s.core.slices[i].ctxs[d].settle = none
  live : s.core.slices[i].ctxs[c].live = true
  going : s.core.slices[i].ctxs[c].stopped = false
  halt : s.core.slices[i].ctxs[c].haltMark = false
  stop : s.core.slices[i].ctxs[c].stop = true → s.core.slices[i].ctxs[c].atEntry = true → s.core.slices[i].ctxs[c].dly = true
  wait : s.core.slices[i].ctxs[c].wait = none
  fence : s.core.slices[i].ctxs[c].fence = none
  held : s.core.slices[i].ctxs[c].held = none
  spill : s.core.slices[i].ctxs[c].spill = none
  settle : s.core.slices[i].ctxs[c].settle = none
  ready : s.core.slices[i].ctxs[c].ready ≤ s.core.cyc
  pend : s.core.slices[i].ctxs[c].pend = []
/-- The state in which the bundle of that context issues: it is in front, and the cycle has been counted (EVT 2, R223). -/
def atIssue (s : State) (i : Fin 16) (c : Fin 11) : State :=
  let t := ((s.focus i c).begun).tally 2 1
  { t with core := { t.core with lastCtx := c } }
/-- What stands around the two instructions of a bundle: the bundle's stall count and beats are noted, and the bundle is counted in its region
and by EVT 1. -/
def bundleStart (s : State) (f : Fetched) : State :=
  let t := s.take f
  (t.setCx { t.cx with count := t.cx.count + 1, atEntry := false, relHeld := false }).tally 1 1
/-- The end of a core cycle of slice i: the held bundles that come after the issue (R319, R392), the vector access in its beats, the cycle charged to a
slice; and the core has had its turn. -/
noncomputable def cycleEnd (s : State) (i : Fin 16) (charged : Option (Fin 16)) : State :=
  let t := ((s.focus i 0).helds false).beatTurn.charge charged
  { t with core := { t.core with ran := true, took := false } }

/-! ## Floating point (R226-R231, R351-R360) -/

/-- The flags of f that the trap enables of the context select. -/
def fpEnabled (s : State) (f : FFlags) : Nat := f.toNat % 32 &&& (s.cx.fpc.toNat / 256 % 32)
/-- A floating-point instruction with result v and flags f, of latency l: it completes with both on their way where no enabled flag is raised,
and takes 0x15 with the enabled flags in its information bits where one is (R206). -/
def FpGives (s : State) (i : Instr) (rd : GReg) (v : Word) (f : FFlags) (l : Nat) : Prop :=
  (fpEnabled s f = 0 → exec i s = .next ((s.pendG .a rd v l).pendF .a f l)) ∧
  (fpEnabled s f ≠ 0 → exec i s = .next (s.trapAt { rank := 18, info := infoOf 21 (fpEnabled s f * 256) 0 0 0, late := l - 1 }))
/-- The number a value stands for; 0 for a NaN or an infinity. -/
def numFV : FV → Rat
  | .fin n m e => (if n then -1 else 1) * (m : Rat) * (2 : Rat) ^ e
  | .nan _ => 0
  | .inf _ => 0
/-- The number of a code of a format. -/
def numOf (f : Fmt) (c : Nat) : Rat := numFV (decodeF f c)
/-- A code of a finite number. -/
def IsNum (f : Fmt) (c : Nat) : Prop := c < 2 ^ f.width ∧ ∃ n m e, decodeF f c = .fin n m e
/-- A finite code c is what an exact number rounds to by a mode, among the finite numbers of a format: the nearest with ties to the even code,
the one toward zero, the greatest not above, the least not below (R228). -/
def RoundedTo (f : Fmt) (rm : Nat) (x : Rat) (c : Nat) : Prop :=
  match rm with
  | 0 => ∀ d, IsNum f d → (x - numOf f c).abs ≤ (x - numOf f d).abs ∧
      ((x - numOf f c).abs = (x - numOf f d).abs → numOf f d ≠ numOf f c → c % 2 = 0)
  | 1 => (numOf f c).abs ≤ x.abs ∧ 0 ≤ numOf f c * x ∧
      ∀ d, IsNum f d → (numOf f d).abs ≤ x.abs → 0 ≤ numOf f d * x → (numOf f d).abs ≤ (numOf f c).abs
  | 2 => numOf f c ≤ x ∧ ∀ d, IsNum f d → numOf f d ≤ x → numOf f d ≤ numOf f c
  | _ => x ≤ numOf f c ∧ ∀ d, IsNum f d → x ≤ numOf f d → numOf f c ≤ numOf f d
/-- A result is the one rounding of an exact number, where it is finite: rounded by the mode, and inexact exactly where it differs. -/
def RoundedOnce (f : Fmt) (rm : Nat) (x : Rat) (r : Nat × FFlags) : Prop :=
  IsNum f r.1 → RoundedTo f rm x r.1 ∧ ((r.2 &&& fNX ≠ 0) ↔ numOf f r.1 ≠ x)
/-- A number rounded to an integer by a mode (R228, R359). -/
def roundInt (rm : Nat) (x : Rat) : Int :=
  match rm with
  | 0 => if x - x.floor < 1 / 2 ∨ (x - x.floor = 1 / 2 ∧ x.floor % 2 = 0) then x.floor else x.floor + 1
  | 1 => if 0 ≤ x then x.floor else -((-x).floor)
  | 2 => x.floor
  | _ => -((-x).floor)
/-- Fields of a code of a scalar format: the sign, whether it is a NaN, and a signalling one. -/
def fSign (f : Fmt) (c : Nat) : Bool := c.testBit (f.eb + f.mb)
def fNaN (f : Fmt) (c : Nat) : Bool := c / 2 ^ f.mb % 2 ^ f.eb == 2 ^ f.eb - 1 && c % 2 ^ f.mb != 0
def fSig (f : Fmt) (c : Nat) : Bool := fNaN f c && !c.testBit (f.mb - 1)
/-- The place of a number in the order of R356, in which -0 is just below +0. -/
def fKey (f : Fmt) (c : Nat) : Int :=
  if fSign f c then -((c % 2 ^ (f.eb + f.mb) : Nat) : Int) - 1 else (c % 2 ^ (f.eb + f.mb) : Nat)
/-- The place of a number in the order of IEEE 754, in which the zeros are equal. -/
def fOrd (f : Fmt) (c : Nat) : Int :=
  if fSign f c then -((c % 2 ^ (f.eb + f.mb) : Nat) : Int) else (c % 2 ^ (f.eb + f.mb) : Nat)
/-- Code of an infinity, of a zero. -/
def fInf (f : Fmt) (neg : Bool) : Nat := f.sign neg + f.infCode
def fZero (f : Fmt) (neg : Bool) : Nat := f.sign neg

/-! ## Vectors (R361-R379) -/

/-- A vector instruction with registers rs and one result v for vd, of latency l and b beats: 0x01 where a register is not declared; both the
result and the flags on their way, after the beats of the bundle's C instruction (R363), where no enabled flag is raised; 0x15 where one is. -/
def VecGives (s : State) (i : Instr) (rs : List Nat) (vd : VReg) (v : VWord) (f : FFlags) (l b : Nat) : Prop :=
  (s.vregs rs = false → exec i s = .next (s.trapAt (illegal .a))) ∧
  (s.vregs rs = true → fpEnabled s f = 0 →
    exec i s = .next (((s.beats b).pendV .a vd v (l + s.core.cBeats)).pendF .a f (l + s.core.cBeats))) ∧
  (s.vregs rs = true → fpEnabled s f ≠ 0 →
    exec i s = .next (s.trapAt { rank := 18, info := infoOf 21 (fpEnabled s f * 256) 0 0 0, late := l - 1 }))
/-- The same with a result v for the general register gb and no flag. -/
def VecGivesG (s : State) (i : Instr) (rs : List Nat) (gb : GReg) (v : Word) (l : Nat) : Prop :=
  (s.vregs rs = false → exec i s = .next (s.trapAt (illegal .a))) ∧
  (s.vregs rs = true → exec i s = .next ((s.beats 8).pendG .a gb v (l + s.core.cBeats)))
/-- Element k of a register of a type, unsigned; and an element as the type reads it, of an integer type. -/
def elNat (ty : BitVec 4) (v : VWord) (k : Nat) : Nat := v.toNat / 2 ^ (elemBits ty * k) % 2 ^ elemBits ty
def elInt (ty : BitVec 4) (x : Nat) : Int := if ty.toNat % 2 = 0 ∧ ty.toNat < 8 then Int.bmod x (2 ^ elemBits ty) else x
/-- The elements of a register are the low bits of c. -/
def Lanes (ty : BitVec 4) (v : VWord) (c : Nat → Int) : Prop :=
  ∀ k < elemCount ty, (elNat ty v k : Int) = c k % (2 ^ elemBits ty : Nat)
/-- The bits of a register are those of p. -/
def Bits (v : VWord) (p : Nat → Bool) : Prop := ∀ j < 4096, v.getLsbD j = p j
/-- The flags of f are those raised by one of n lanes. -/
def OrOf (n : Nat) (fl : Nat → FFlags) (f : FFlags) : Prop := ∀ b < 6, f.getLsbD b = true ↔ ∃ k < n, (fl k).getLsbD b = true
/-- A float vector instruction whose element k and its flags are related to k by `lane`. -/
def VecFp (s : State) (i : Instr) (rs : List Nat) (vd : VReg) (ty : BitVec 4) (l : Nat) (lane : Nat → Nat × FFlags → Prop) : Prop :=
  ∃ (v : VWord) (f : FFlags) (r : Nat → Nat × FFlags), VecGives s i rs vd v f l 8 ∧ OrOf (elemCount ty) (fun k => (r k).2) f ∧
    ∀ k < elemCount ty, elNat ty v k = (r k).1 ∧ lane k (r k)
/-- The type code of the scalar operations (R258) of an element type (R254): f64, f32, f16, bf16. -/
def scalarTy (ty : BitVec 4) : BitVec 2 := if ty = 13 then 0 else if ty = 12 then 1 else if ty = 11 then 2 else 3
/-- What the scalar operation `i g3, g1, g2` gives for codes x, y and z of g1, g2 and g3: a code and its flags. -/
def ScalarOp (t : BitVec 2) (i : Instr) (l x y z : Nat) (r : Nat × FFlags) : Prop :=
  r.1 < 2 ^ (scalarFmt t).width ∧
  ∀ u : State, u.codeF t 1 = x → u.codeF t 2 = y → u.codeF t 3 = z → FpGives u i 3 (BitVec.ofNat 64 r.1) r.2 l
/-- The pairwise tree of R370: level 0 holds the elements, entry i of the next level is the operation of entries 2i and 2i + 1. -/
def intTree (op : Nat → Nat → Int) (w : Nat) (x : Nat → Nat) : Nat → Nat → Nat
  | 0, i => x i
  | n + 1, i => (op (intTree op w x n (2 * i)) (intTree op w x n (2 * i + 1)) % (2 ^ w : Nat)).toNat

/-- An element of an integer type, i4 among them, as an integer. -/
def elSigned (ty : BitVec 4) (x : Nat) : Int := if ty = 14 then Int.bmod x 16 else elInt ty x
/-- Coordinate i of an octet, doubled (R236): twice the two's complement field in coset 0, 2m - 3 in coset 1; the low bit of the last field is
the parity of the others. -/
def octField (code i : Nat) : Nat :=
  if i < 7 then code / 2 ^ (13 - 2 * i) % 4
  else 2 * (code % 2) + (List.range 7).foldl (fun p j => (p + code / 2 ^ (13 - 2 * j)) % 2) 0
def octTwice (code i : Nat) : Int := if code / 2 ^ 15 % 2 = 0 then 2 * Int.bmod (octField code i) 4 else 2 * octField code i - 3

/-! ## Frames -/

/-- The registers that an instruction of word A writes (R253, R346-R379). -/
def destsA : Instr → List RegName
  | .add rd _ _ _ | .sub rd _ _ _ | .shl rd _ _ _ | .shr rd _ _ _ | .sar rd _ _ _ | .rol rd _ _ _ | .mul rd _ _ _
  | .mulh rd _ _ _ | .mulhn rd _ _ _ | .div rd _ _ _ | .divn rd _ _ _ | .rem rd _ _ _ | .remn rd _ _ _ | .bext rd _ _ _
  | .bins rd _ _ _ | .shli rd _ _ _ | .shri rd _ _ _ | .sari rd _ _ _ | .fsqrt rd _ _ _ | .fmin rd _ _ _
  | .fmax rd _ _ _ | .fcpsgn rd _ _ _ | .feq rd _ _ _ | .flt rd _ _ _ | .fle rd _ _ _ => [.g rd]
  | .and rd _ _ | .or rd _ _ | .xor rd _ _ | .andn rd _ _ | .orn rd _ _ | .min rd _ _ | .max rd _ _ | .minn rd _ _
  | .maxn rd _ _ | .seq rd _ _ | .sne rd _ _ | .slt rd _ _ | .sltn rd _ _ | .sle rd _ _ | .slen rd _ _ | .bget rd _ _
  | .bset rd _ _ | .bclr rd _ _ | .bflip rd _ _ | .cmov rd _ _ | .sext rd _ _ | .zext rd _ _ | .addi rd _ _
  | .andi rd _ _ | .ori rd _ _ | .xori rd _ _ | .slti rd _ _ | .movhi rd _ _ | .frcp rd _ _ | .frsq rd _ _
  | .fabs rd _ _ | .fneg rd _ _ | .fclass rd _ _ | .fexp rd _ _ => [.g rd]
  | .popc rd _ | .clz rd _ | .ctz rd _ | .rev rd _ | .mov rd _ | .movi rd _ => [.g rd]
  | .fadd rd _ _ _ _ | .fsub rd _ _ _ _ | .fmul rd _ _ _ _ | .fma rd _ _ _ _ | .fms rd _ _ _ _ | .fnma rd _ _ _ _
  | .fdiv rd _ _ _ _ | .fcvt rd _ _ _ _ | .fcvti rd _ _ _ _ | .fcvtf rd _ _ _ _ | .fscl rd _ _ _ _ => [.g rd]
  | .vadd vd _ _ _ | .vsub vd _ _ _ | .vmul vd _ _ _ | .vmulh vd _ _ _ | .vfma vd _ _ _ | .vfms vd _ _ _
  | .vmin vd _ _ _ | .vmax vd _ _ _ | .vand vd _ _ _ | .vor vd _ _ _ | .vxor vd _ _ _ | .vandn vd _ _ _
  | .vshl vd _ _ _ | .vshr vd _ _ _ | .vsar vd _ _ _ | .vmand vd _ _ _ | .vmor vd _ _ _ | .vperm vd _ _ _
  | .vrot vd _ _ _ | .vdot vd _ _ _ | .vlerp vd _ _ _ | .vclamp vd _ _ _ | .vins vd _ _ _ | .vscl vd _ _ _
  | .vde8 vd _ _ _ | .vunfix vd _ _ _ => [.v vd]
  | .vabs vd _ _ | .vneg vd _ _ | .vmnot vd _ _ | .vsum vd _ _ | .vmaxr vd _ _ | .vminr vd _ _ | .vrcp vd _ _
  | .vrsq vd _ _ | .vexp2 vd _ _ | .vlog2 vd _ _ | .vsinpi vd _ _ | .vcospi vd _ _ | .vbcast vd _ _ => [.v vd]
  | .vcmp vd _ _ _ _ | .vsel vd _ _ _ _ => [.v vd]
  | .vext _ _ gb _ => [.g gb]
  | .vmpop gb _ _ | .vmaxe gb _ _ => [.g gb]
  | .vex vd _ _ _ _ _ => [.v vd]
  | .vqe8 vd _ gb _ => [.v vd, .g gb]
  | .vcvt vd _ ty src => (List.range (2 ^ (lgBits ty - lgBits src))).map (fun q => .v (BitVec.ofNat 4 (vd.toNat + q)))
  | .vfix vd _ _ _ => [.v vd, .v (vd + 1)]
  | _ => []
/-- A bundle of the context that is over and brings nothing else with it: no delay bundle is due, no boundary, no trap, no stop, no halt, and no
context of the slice is stepped. -/
structure PlainEnd (s : State) : Prop where
  over_ : s.isOver = true
  xfer : s.cx.xfer = none
  after : s.cx.after = none
  bnd : s.cx.bnd = false
  stop : s.cx.stop = false
  halt : s.cx.haltMark = false
  stepping : s.sl.ctxs.any (fun x => x.stepping) = false
/-- Bits of a special register that `setsr` writes (R261, R291): 0 for a read-only one. -/
def srMask (n : Nat) : Word :=
  match n with
  | 10 => 0x6666666666666666
  | 11 => 0x9F03
  | 12 => 0x3F
  | 13 => 0xFFFF
  | 14 => 1
  | 15 => 0x1FFFE0
  | 16 => 0x1FFFFF
  | 17 => 0xFFFFFFFF
  | 19 => 0x7FC00
  | 20 => 0xFFFFFFFFFFFFFFFF
  | 21 => 0xFFF8
  | _ => 0

/-! ## Local accesses (R107-R116, R188-R191, R307-R317) -/

/-- The bundle is held and tries again in the next cycle (R188). One that is held for a release of its own is recorded by the halt that marks its
context, and discarded with the progress of its region where the context has been told to stop (R203, R220). -/
def heldOver (s : State) (rel : Bool) : State :=
  let t := s.setCx { s.cx with held := some (s.core.cyc + 1), relHeld := rel }
  if rel = true ∧ s.cx.haltMark = true then t.haltMarked else if rel = true ∧ s.cx.stop = true then t.dropProgress else t
/-- Nothing holds back a local access of n bytes at a key: no earlier access of the context, and for a release its conditions. -/
def Unheld (s : State) (o : BitVec 2) (key n : Nat) : Prop :=
  s.localBusy = false ∧ s.crosses key n = false ∧ (o.getLsbD 1 = true → s.released 0 = true)
/-- A stack-window access in global memory (R116): refused before it is injected; or held; or issued, the context stalling, and on its way unless the
default route of its core leads nowhere (R32). -/
def Over (s : State) (i : Instr) (o : BitVec 2) (sc : BitVec 3) (kind : BitVec 2) (va : Word) (n : Nat) : Prop :=
  (∀ x, s.globalRefusal = some x → exec i s = .next (s.trapAt (accessTrap 10 (x * 256) va 0 0))) ∧
  (s.globalRefusal = none →
    let free := s.localBusy = false ∧ (o.getLsbD 1 = true → s.released (if sc = 0 then 3 else sc) = true)
    (¬ free → exec i s = .next (heldOver s (o.getLsbD 1))) ∧
    (free → ∃ t op a, exec i s = .next t ∧ t.cx.held = some (s.core.cyc + 1) ∧ t.cx.spill.map (·.op) = some s.nextId ∧
      t.cx.spill.map (·.answer) = some none ∧ t.mem = s.mem ∧ op ∈ t.ops ∧ op.id = s.nextId ∧
      op.stage = (if (s.strayAt s.core.id (.mem a)).isNone then .flight else .lost) ∧
      ((∀ q ∈ s.ops, q.id ≠ s.nextId) → t.ops = s.ops ++ [op]) ∧
      op.iss.pc = s.cx.pc ∧ op.req = .mem a ∧ a.kind = kind ∧ a.addr = va ∧ a.size = n))
/-- A bundle whose stack-window access is in progress (R116): it waits for the answer, then traps at this very bundle, or ends with the effect `fin` of
the answer; no check is made again. -/
def Answered (s : State) (i : Instr) (fin : BitVec 4096 → State → State) : Prop :=
  let sp : State := s.setCx { s.cx with spill := none }
  ∀ p, s.cx.spill = some p →
    (p.answer = none → exec i s = .next (heldOver s false)) ∧
    (∀ d b, p.answer = some (.done d b) → exec i s = .next (fin d sp)) ∧
    (∀ c ad d0 d1, p.answer = some (.fault c ad d0 d1) →
      exec i s = .next (sp.trapAt { rank := 8, info := { cause := c, addr := ad, d0 := d0, d1 := d1 } }))
/-- The offset of an immediate of format CM for accesses of n bytes, of format CV. -/
def offM (n : Nat) (d : Imm 7) : Word :=
  match d with
  | .short v => BitVec.ofInt 64 (v.toInt * n)
  | .ext x => BitVec.ofInt 64 x.toInt
def offV (d : Option (BitVec 32)) : Word :=
  match d with
  | none => 0
  | some x => BitVec.ofInt 64 x.toInt
/-- Byte j of a value. -/
def byteOf (v j : Nat) : Nat := v / 256 ^ j % 256

/-! ## What an event leaves -/

/-- Counter n of a slab counts one more, saturating; the other slab counters stay (R224). -/
def Counted (s t : State) (slab n : Nat) : Prop :=
  (let c := s.counters.get (11 * slab + n)
   t.counters.get (11 * slab + n) = if c = BitVec.allOnes 64 then c else c + 1) ∧
  ∀ k, k ≠ 11 * slab + n → t.counters.get k = s.counters.get k
/-- The n bytes at a key become those of a value; every other byte of memory stays. -/
def Wrote (s t : State) (k n v : Nat) : Prop :=
  (∀ j < n, (t.mem.byte (k + j)).toNat = byteOf v j) ∧ ∀ a, a < k ∨ k + n ≤ a → t.mem.byte a = s.mem.byte a
/-- The operation with an identity moves to a stage, and stays where it stands among the others, which stay as they are. -/
def Staged (s t : State) (k : Nat) (st : Stage) : Prop :=
  t.ops.map (fun p => (p.id, p.stage)) = s.ops.map (fun p => (p.id, if p.id = k then st else p.stage))
/-- A store writes its bytes at a key, a vector line only those of its mask; every other byte of memory stays. -/
def Stored (s t : State) (key : Nat) (a : Access) : Prop :=
  (∀ j < a.size, (t.mem.byte (key + j)).toNat =
    if a.size = 512 ∧ a.mask.getLsbD j = false then (s.mem.byte (key + j)).toNat else byteOf a.data.toNat j) ∧
  ∀ b, b < key ∨ key + a.size ≤ b → t.mem.byte b = s.mem.byte b
/-- The first poisoned granule that an access would read: a store reads none, a vector line only the bytes of its mask (R120). -/
def readsPoison (s : State) (key : Nat) (a : Access) : Option Nat :=
  if a.kind = 1 then none
  else if a.kind = 0 ∧ a.size = 512 then maskPoison s.pois a.mask.toNat key else firstPoison s.pois key a.size
/-- An access performs at a key, with its answer: a load reads, a store writes, an atomic answers the old value and writes what its operation makes
of it; compare and swap only where the old value is the one expected (R120, R194). -/
def Performs (s t : State) (key : Nat) (a : Access) (ans : Answer) : Prop :=
  let old := s.mem.rd key a.size
  if a.kind = 0 then t.mem = s.mem ∧ ans = .done (BitVec.ofNat 4096 old) 0
  else if a.kind = 1 then Stored s t key a ∧ ans = .done 0 0
  else ans = .done (BitVec.ofNat 4096 old) 0 ∧
    (if a.aop = 10 then (if old = a.cmp.toNat % 2 ^ (8 * a.size) then Wrote s t key a.size a.data.toNat else t.mem = s.mem)
     else Wrote s t key a.size (amoNew a.aop.toNat a.size old a.data.toNat))
/-- n bytes, byte i being f i, are written by a pump at a spot that it found in the state v: on a replicated page in every replica; every other byte of
memory stays as it was in v (R131, R181). -/
def PumpWrote (v t : State) (x : Spot) (n : Nat) (f : Nat → Nat) : Prop :=
  (∀ g ∈ v.spotKeys x, ∀ i < n, (t.mem.byte (v.real g + i)).toNat = f i) ∧
  ∀ a, (∀ g ∈ v.spotKeys x, a < v.real g ∨ v.real g + n ≤ a) → t.mem.byte a = (if x.rp then v.flushPage x.key else v).mem.byte a
/-- The answer of n bytes to a request of another module or a host node leaves by the route from the router at which the request came (R29, R30, R35). -/
def Responds (s t : State) (o : Op) (n : Nat) (x : Answer) : Prop :=
  ∀ g, o.origin = some g →
    let b := answerBody n x
    let unit : Stamp := { smod := s.modId, score := g.unit, srgn := 0, sslc := 0, gang := 0 }
    let p : Packet :=
      { hdr := if o.host then mkHdr 5 b.2.1 4 s.modId (o.smod.setWidth 20) unit g.tag.toNat b.2.2
          else mkHdr 5 b.2.1 0 o.smod o.iss.core unit g.tag.toNat b.2.2,
        body := b.1, pois := match x with
          | .done _ p => p
          | _ => 0 }
    ∀ q, s.reachable p.dmod = true → s.routeFrom g.row g.col p = .inl q →
      ∃ f l, t.fab.flights = s.fab.flights ++ f :: l ∧ f.pkt = q ∧ (f.row, f.col, f.inp) = (g.row, g.col, g.inp)
/-- The present tick is a superstep boundary: every resident pace slice is outside its exchange window, and none opens (R15). -/
def Superstep (s : State) : Prop :=
  ∀ c ∈ s.core :: s.rest, ∀ x ∈ c.slices.toList, x.resident = true → x.disc = true →
    (x.window = none ∨ x.closing ≤ s.pace.toNat) ∧ s.opens x = false
/-- The command of a portal with a count has its result: status, detail, data words. -/
def Ended (t : State) (p : BitVec 6) (n : BitVec 32) (st det : Nat) (d0 d1 : Word) : Prop :=
  ∃ e ∈ t.cmds, e.p = p ∧ e.n = n ∧ e.result = some (BitVec.ofNat 8 st, BitVec.ofNat 8 det, d0, d1)

end Sys2Proof
end

