-- ==== Sys2Proof/Certificates/Slice0/Obligations.lean ====
section
/-! DEFINITION. The statements for the provers: what the numbered rules of the spec say the machine does, in the terms of
Sys2Proof/Safety.lean. -/

open Sys2Proof Sys2Proof.Machine


/-! ## Encodings, the step, memory and registers -/

/-- Words written out from the encoding tables decode to the instructions they stand for. -/
def Obligations.Words_decode : Prop :=
  -- A: divn g3, g4, g5; addi g4, g4, -8; shri.w g5, g6, 3; bext g2, g3, 40, 8; fmul.f32 g4, g2, g2
  decodeA 0x04642825 = .instr (.divn 3 4 5 false) ∧ decodeA 0x0884FFF8 = .instr (.addi 4 4 (-8)) ∧
  decodeA 0x2CA66003 = .instr (.shri 5 6 true 3) ∧ decodeA 0x2043A070 = .instr (.bext 2 3 40 7) ∧
  decodeA 0x30821090 = .instr (.fmul 4 2 2 1 0) ∧
  -- C: nop; trap 0xFFB0; the majors and functions with no instruction; the lone-only instructions without X
  decodeC 0x00000000 0 = .instr .nopC ∧ decodeC 0x0340FFB0 0 = .instr (.trap 0xFFB0) ∧
  (decodeC 0x0F400000 0).isBad = true ∧ (decodeA 0x34000000).isBad = true ∧ decodeC 0x02400000 0 = .bad .needsX

/-- Decoding what the encoder gives for a well-formed bundle gives it back: the stall count, the lone bit and both instructions, with every
operand at every value its encoding admits. -/
def Obligations.Decode_of_encode : Prop :=
  ∀ b : Bundle, b.wf = true → decodeBytes (encode b) = { stall := b.stall, lone := b.lone, c := .instr b.c, a := .instr b.a }

/-- The words of the opcode table that R260 leaves without an instruction are illegal: the unassigned majors of word A and of word C; `.w` on
an integer operation that has no such form, operation codes 40 to 1,023, and `sext` or `zext` with a width code of 3 to 31 (R346); floating
codes 24 to 31 (R351); and the operation 3 of the immediate shifts. -/
def Obligations.Unassigned_words_are_illegal : Prop :=
  ∀ w x : Nat, w < 2 ^ 32 →
    ((fld w 31 26 ∈ [13, 14, 15] ∨ 19 ≤ fld w 31 26 ∧ fld w 31 26 ≤ 59) → (decodeA w).isBad = true) ∧
    ((fld w 27 22 = 61 ∨ fld w 27 22 = 63) → (decodeC w x).isBad = true) ∧
    (fld w 31 26 = 1 → 40 ≤ fld w 9 0 → (decodeA w).isBad = true) ∧
    (fld w 31 26 = 1 → fld w 10 10 = 1 → fld w 9 0 ∉ [0, 1, 7, 8, 9, 10, 33, 34, 35, 36, 37, 38, 39] → (decodeA w).isBad = true) ∧
    (fld w 31 26 = 1 → fld w 9 0 = 31 ∨ fld w 9 0 = 32 → 3 ≤ fld w 15 11 → (decodeA w).isBad = true) ∧
    (fld w 31 26 = 12 → 24 ≤ fld w 10 6 → (decodeA w).isBad = true) ∧
    (fld w 31 26 = 11 → fld w 15 14 = 3 → (decodeA w).isBad = true)

/-- A step of a machine whose next work is the cycle of a core with one context to run: the bundle at its pc issues. Where both slots decode, no
at-issue cause applies, no datapath it needs is busy and no flag is waited for, the A instruction runs, then the C instruction, each by `exec`,
and the bundle ends; one that is held keeps what it has read (R113, R158, R159, R205, R248).
It rests on choices of the model: log 18. -/
def Obligations.Step_runs_the_decoded_bundle : Prop :=
  ∀ (s : State) (i : Fin 16) (c : Fin 11) (st : BitVec 3) (lone : Bool) (ic ia : Instr) (u v : State),
    Alone s i c →
    let t := atIssue s i c
    let f : Fetched := { stall := st, lone := lone, c := .instr ic, a := .instr ia }
    t.cx.rpa = false →
    decodeBytes (t.mem.bytes (coreKey t.core.id (393216 + t.cx.pc.toNat)) 8) = f →
    t.blocks f = false → (t.take f).bundleTraps f = [] → (bundleStart t f).fpWait f = none →
    (bundleStart t f).partnerRuns ic = true →
    exec ia (bundleStart t f) = .next u → exec ic u = .next v →
    step s = .next (cycleEnd ((v.finish (u.core.cyc + 1 + u.waitOut u.core.stall)).keeps (bundleStart t f)) i s.charged)

/-- R205, R281, R345: a bundle to which an at-issue cause applies takes the trap of the first cause in the order of R205, and neither instruction
has an effect; before a floating-point trap, which is last in that order, comes a fault that its stack-window access to global memory would bring.
An instruction to which one of its own at-issue causes applies takes the first of them, and does nothing else, unless it goes on with such an access.
It rests on choices of the model: log 26. -/
def Obligations.First_cause_is_taken : Prop :=
  (∀ (s : State) (f : Fetched) (x : Trap),
     x ∈ (s.take f).bundleTraps f →
     ∃ y, y ∈ (s.take f).bundleTraps f ∧ (∀ z ∈ (s.take f).bundleTraps f, y.rank ≤ z.rank) ∧
       (y.rank < 18 → s.issueBundle f = (s.take f).trapAt y) ∧
       (18 ≤ y.rank →
         (∀ c ad d0 d1, ((s.take f).overAsked f).bind (s.take f).overFate = some (.fault c ad d0 d1) →
           s.issueBundle f = (s.take f).trapAt { y with info := { cause := c, addr := ad, d0 := d0, d1 := d1 } }) ∧
         ((∀ c ad d0 d1, ((s.take f).overAsked f).bind (s.take f).overFate ≠ some (.fault c ad d0 d1)) →
           s.issueBundle f = (s.take f).trapAt y)) ∧
       (s.cx.pend.all (fun p => decide (p.seq < 2 * s.cx.seq)) = true → y.rank < 18 → y.late = 0 →
         s.issueBundle f = (s.take f).trapNow y.info)) ∧
  (∀ (s : State) (i : Instr) (x : Trap), s.cx.spill = none →
     (i.isC = true → pickTrap (checksC i s) = some x → exec i s = .next (s.trapAt x)) ∧
     (i.isA = true → pickTrap (checksA i s) = some x → exec i s = .next (s.trapAt x)))

/-- Every step keeps the memory canonical: keys rising, no zero byte listed.
It rests on choices of the model: log 5. -/
def Obligations.Steps_keep_memory_canonical : Prop :=
  ∀ s t : State, s.mem.wf = true → step s = .next t → t.mem.wf = true

/-- At reset the memory, the poison and the tags have their canonical forms.
It rests on choices of the model: log 5. -/
def Obligations.Reset_stores_canonical : Prop := State.reset.memWf = true

/-- R13, R19, R21, R22, R23, R53, R74: what the spec gives at reset: every byte reads 0 and nothing is poisoned, tags are 0; warm-up service with
no slab joined; the power control word's fields; compute step 16; portal 0 enabled with the owner's rights and no other; no core has a slice.
It rests on choices of the model: log 5. -/
def Obligations.Reset_values : Prop :=
  let s := State.reset
  (∀ k, s.mem.byte k = 0) ∧ s.pois = [] ∧ (∀ co off, s.tag co off = 0) ∧
  s.fullService = false ∧ s.joined = 0 ∧ s.power.standing = 16 ∧ s.power.ceil = 32 ∧ s.power.exc = 0 ∧ s.power.cap = 450 ∧
  (∀ k : Nat, k < 40 → s.slabStep k = 16) ∧ s.ticksN = 512 ∧ s.starter.clk = 3 ∧ s.starter.port = 2 ∧ s.starter.armed = [] ∧
  (∀ p : Nat, (s.portals.get p).getLsbD 255 = decide (p = 0) ∧ (s.portals.get p).getLsbD 253 = decide (p = 0)) ∧
  (∀ (co : CoreId) (i : Fin 16), (s.sliceAt co i).v = false ∧ (s.sliceAt co i).st = .free)

/-- R160, R345: a result of latency L is read by a bundle at distance D or more only if D ≥ L; before, the register reads as it stood. g0 reads
as zero, and a result for it is discarded. -/
def Obligations.Result_is_read_from_its_distance_on : Prop :=
  (∀ (s : State) (sl : SlotId) (r : GReg) (v : Word) (l d : Nat), r ≠ 0 →
    (∀ p ∈ s.cx.pend, ∀ w, p.res ≠ .g r w) →
    let t := s.pendG sl r v l
    let u := t.setCx { t.cx with dist := t.cx.dist + d, cap := none }
    u.landDue.readG r = if l ≤ d then v else s.wordG r) ∧
  (∀ (s : State) (sl : SlotId) (v : Word) (l : Nat), s.readG 0 = 0 ∧ s.writeG 0 v = s ∧ s.pendG sl 0 v l = s)

/-- R161: of the results due for a register, the one with the latest landing distance prevails, and of those with equal landing distances the
later issued one, A after C within a bundle; a register for which no result is due keeps its value. A result for a vector register that has not been
written early waits for a bundle that reads the register (R364). -/
def Obligations.Later_landing_prevails : Prop :=
  ∀ (s : State) (r : GReg), r ≠ 0 →
    (∀ (p : Pending) (v : Word), p ∈ s.cx.pend → p.res = .g r v → p.was = none → p.land ≤ s.cx.dist →
      (∀ q ∈ s.cx.pend, (∃ w, q.res = .g r w) → q.land ≤ s.cx.dist → q = p ∨ q.land < p.land ∨ q.land = p.land ∧ q.seq < p.seq) →
      s.landDue.wordG r = v) ∧
    ((∀ q ∈ s.cx.pend, ∀ w, q.res = .g r w → s.cx.dist < q.land) → s.landDue.wordG r = s.wordG r) ∧
    s.landDue.cx.pend = s.cx.pend.filter (fun q => decide (s.cx.dist < q.land) || (q.vec.isSome && q.was.isNone))

/-- R207, R204, R208: taking a trap, in a slice with a handler that is not at its vector. The entry, with nothing to wait for: the record words with
PPV, the flags word with PRV = 1 and D, the pc, the entry pc, the live-in mask and each counter in the status block; the pc becomes the vector and the
privilege supervisor, the first handler bundle issues 4 cycles later, nothing is pending, and no byte outside the status block changes after the
pending results have landed. A trap at issue is counted and enters so in its own cycle, with the bundle's pc and the one that would follow; where
results have still to land, or the trap is known only later, the context settles first: it waits while they land, each in its own cycle, and enters
then. -/
def Obligations.Trap_entry : Prop :=
  (∀ (s : State) (i : Info) (prv : Bool) (pc npc : Word) (d : Bool),
    s.sl.trv ≠ 0 → (pc ≠ BitVec.ofNat 64 (s.sl.trv.toNat * 8) ∨ prv = false) →
    let t := s.enterTrap i prv pc npc d
    let w (off : Nat) : Word := t.word (s.wsKey off)
    w 0x110 = withPpv i.cause prv ∧ w 0x118 = pc ∧ w 0x120 = npc ∧ w 0x128 = i.addr ∧ w 0x130 = i.d0 ∧ w 0x138 = i.d1 ∧
    w 0x108 = BitVec.ofNat 64 (flagsWord s.cx.rpa s.cx.rpc true d) ∧
    w 0x100 = BitVec.ofNat 64 (s.sl.trv.toNat * 8) ∧ w 0x140 = s.cx.entry ∧ w 0x148 = s.cx.liveIn.setWidth 64 ∧
    (∀ k : Fin 8, w (0x150 + 8 * k.val) = s.cx.ctr[k]) ∧
    t.cx.pc = BitVec.ofNat 64 (s.sl.trv.toNat * 8) ∧ t.cx.prv = true ∧ t.cx.dly = false ∧ t.cx.rpa = false ∧ t.cx.pend = [] ∧
    t.cx.settle = none ∧ t.cx.wp = s.cx.wp ∧ t.cx.ctr = s.cx.ctr ∧ t.sl.st = s.sl.st ∧ t.core.took = true ∧
    t.cx.ready = s.core.cyc + 4 ∧
    (∀ k, k < s.wsKey 0x100 ∨ s.wsKey 0x190 ≤ k → t.mem.byte k = s.landAll.mem.byte k)) ∧
  (∀ (s : State) (i : Info) (late : Nat), (s.sl.attached = false ∨ i.cause.toNat % 256 ≠ 20) →
    let npc := if s.cx.dly then s.cx.outc else s.cx.pc + 8
    let u := s.tally 13 1
    (s.cx.owing s.core.cyc = false →
      s.trapNow i = (u.setCx { u.cx with after := none }).enterTrap i s.cx.prv s.cx.pc npc s.cx.dly) ∧
    (s.cx.owing s.core.cyc = true ∨ late ≠ 0 →
      let t := s.trapIn late i
      t.cx.settle = some (.trap (s.core.cyc + late) i s.cx.prv s.cx.pc npc s.cx.dly) ∧ t.cx.pend = s.cx.pend ∧ t.mem = s.mem ∧
      t.cx.ctr = u.cx.ctr ∧ t.cx.pc = s.cx.pc ∧ t.sl.st = s.sl.st ∧ t.core.took = true)) ∧
  (∀ (s : State) (due : Nat) (i : Info) (prv : Bool) (pc npc : Word) (d : Bool), s.cx.settle = some (.trap due i prv pc npc d) →
    let t := s.landCycle
    s.settleTurn = if t.cx.pend ≠ [] ∨ s.core.cyc < due then t else (t.setCx { t.cx with settle := none }).enterTrap i prv pc npc d)

/-- R216: a trap in a slice whose `s.trv` is 0 is not vectored: the context stops, and the slice becomes stopped. With its other contexts not live, the
record words, the flags word, the pc, the entry pc, the live-in mask and the counters stand in the context's workspace, and the record goes to the
queue of the slice's fault domain, here that of the module root. -/
def Obligations.Trap_without_a_handler_stops_the_slice : Prop :=
  ∀ (s : State) (i : Info),
    s.sl.trv = 0 → (s.sl.attached = false ∨ i.cause.toNat % 256 ≠ 20) → s.cx.live = true → s.cx.owing s.core.cyc = false →
    let t := s.trapNow i
    let w (off : Nat) : Word := t.word (s.wsKey off)
    let npc := if s.cx.dly then s.cx.outc else s.cx.pc + 8
    t.sl.st = .stopped ∧ t.cx.stopped = true ∧ t.cx.unvec = true ∧ t.core.took = true ∧
    ((∀ c, c ≠ s.core.curCtx → s.sl.ctxs[c].live = false) → s.sl.eff.fdom = none →
      w 0x110 = withPpv i.cause s.cx.prv ∧ w 0x118 = s.cx.pc ∧ w 0x120 = npc ∧ w 0x128 = i.addr ∧ w 0x130 = i.d0 ∧ w 0x138 = i.d1 ∧
      w 0x108 = BitVec.ofNat 64 (flagsWord s.cx.rpa s.cx.rpc true s.cx.dly) ∧ w 0x100 = s.cx.pc ∧ w 0x140 = s.cx.entry ∧
      w 0x148 = s.cx.liveIn.setWidth 64 ∧ (∀ k : Fin 8, w (0x150 + 8 * k.val) = (s.tally 13 1).cx.ctr[k]) ∧
      t.rootq.recs = s.rootq.recs ++ [faultBytes (withPpv i.cause s.cx.prv) s.cx.pc npc i.addr i.d0 i.d1 s.core.id s.core.cur.val s.sl.rgn
        s.modId s.core.curCtx.val s.pace])

/-- R209, R306: `rfe` at supervisor privilege, outside delay bundles and bodies. It is held while results of earlier bundles land, each in its own cycle.
Then, in a context with no after trap, halt or single step to follow: PRV from PPV, D as recorded, the trap pc and next-pc, RPA and RPC, the entry pc,
the live-in mask and the counters from the record at `s.wp`; memory is as the landing of the pending results leaves it; the bundle that follows issues 4
cycles later, or once the stall count of the bundle has run out (R158). -/
def Obligations.Rfe_returns : Prop :=
  ∀ s : State, s.cx.prv = true → s.cx.dly = false → s.cx.rpa = false →
    (s.cx.owing s.core.cyc = true →
      let v := s.landCycle
      exec .rfe s = .next (v.setCx { v.cx with held := some (s.core.cyc + 1) })) ∧
    (s.cx.owing s.core.cyc = false → s.cx.after = none → s.cx.haltMark = false → (s.cx.stepping && s.sl.attached) = false →
      let u := s.landAll
      let w (off : Nat) : Word := u.word (s.wsKey off)
      ∃ t, exec .rfe s = .next t ∧
        t.cx.pc = w 0x118 &&& ~~~7#64 ∧ t.cx.outc = w 0x120 &&& ~~~7#64 ∧ t.cx.dly = (w 0x108).getLsbD 0 ∧
        t.cx.prv = (w 0x110).getLsbD 63 ∧ t.cx.rpa = (w 0x108).getLsbD 20 ∧ t.cx.rpc = (w 0x108).extractLsb' 12 8 ∧
        t.cx.entry = w 0x140 &&& ~~~7#64 ∧ t.cx.liveIn = (w 0x148).setWidth 32 ∧ (∀ k : Fin 8, t.cx.ctr[k] = w (0x150 + 8 * k.val)) ∧
        t.cx.wp = s.cx.wp ∧ t.cx.pend = [] ∧ t.cx.cap = none ∧
        (∀ k, t.mem.byte k = u.mem.byte k) ∧
        t.cx.ready = max (s.core.cyc + 4) (s.issueCyc + 1 + s.waitOut s.core.stall))

/-- What a trap saves, the return from it restores: `rfe` right after the entry resumes the trapped bundle, with its delay state, privilege,
repetition state, entry pc and live-in mask. -/
def Obligations.Trap_then_return_restores : Prop :=
  ∀ (s : State) (i : Info),
    s.sl.trv ≠ 0 → (s.sl.attached = false ∨ i.cause.toNat % 256 ≠ 20) → i.cause.getLsbD 63 = false →
    (s.cx.pc ≠ BitVec.ofNat 64 (s.sl.trv.toNat * 8) ∨ s.cx.prv = false) →
    s.cx.pc.toNat % 8 = 0 → s.cx.outc.toNat % 8 = 0 → s.cx.entry.toNat % 8 = 0 →
    s.cx.owing s.core.cyc = false → s.cx.haltMark = false → (s.cx.stepping && s.sl.attached) = false →
    ∃ t, exec .rfe (s.trapNow i) = .next t ∧
      t.cx.pc = s.cx.pc ∧ t.cx.prv = s.cx.prv ∧ t.cx.dly = s.cx.dly ∧ (s.cx.dly = true → t.cx.outc = s.cx.outc) ∧
      t.cx.rpa = s.cx.rpa ∧ t.cx.rpc = s.cx.rpc ∧ t.cx.rep = s.cx.rep ∧ t.cx.entry = s.cx.entry ∧ t.cx.liveIn = s.cx.liveIn ∧
      (∀ r : GReg, r ≠ 0 → t.readG r = s.landAll.wordG r)

/-! ## Scalar integers (R345-R350) -/

/-- R346 without the products and quotients: each register form completes with the value of the table, computed on integers, one distance
unit later; the `.w` forms compute on 32 bits and sign-extend. -/
def Obligations.Integer_register_results : Prop :=
  ∀ (s : State) (rd ra rb : GReg) (w : Bool),
    let a := s.readG ra
    let b := s.readG rb
    let n := opBits w
    let k := b.toNat % n
    let j := b.toNat % 64
    Gives s (.add rd ra rb w) .a rd (sxN n (a.toNat + b.toNat)) 1 ∧
    Gives s (.sub rd ra rb w) .a rd (sxN n ((a.toNat : Int) - b.toNat)) 1 ∧
    Gives s (.shl rd ra rb w) .a rd (sxN n (natN n a * 2 ^ k : Nat)) 1 ∧
    Gives s (.shr rd ra rb w) .a rd (sxN n (natN n a / 2 ^ k : Nat)) 1 ∧
    Gives s (.sar rd ra rb w) .a rd (sxN n (intN n a / 2 ^ k)) 1 ∧
    Gives s (.rol rd ra rb w) .a rd (sxN n (natN n a * 2 ^ k % 2 ^ n + natN n a * 2 ^ k / 2 ^ n : Nat)) 1 ∧
    (∃ v, Gives s (.and rd ra rb) .a rd v 1 ∧ ∀ i < 64, v.getLsbD i = (a.getLsbD i && b.getLsbD i)) ∧
    (∃ v, Gives s (.or rd ra rb) .a rd v 1 ∧ ∀ i < 64, v.getLsbD i = (a.getLsbD i || b.getLsbD i)) ∧
    (∃ v, Gives s (.xor rd ra rb) .a rd v 1 ∧ ∀ i < 64, v.getLsbD i = (a.getLsbD i != b.getLsbD i)) ∧
    (∃ v, Gives s (.andn rd ra rb) .a rd v 1 ∧ ∀ i < 64, v.getLsbD i = (a.getLsbD i && !b.getLsbD i)) ∧
    (∃ v, Gives s (.orn rd ra rb) .a rd v 1 ∧ ∀ i < 64, v.getLsbD i = (a.getLsbD i || !b.getLsbD i)) ∧
    Gives s (.min rd ra rb) .a rd (if a.toInt ≤ b.toInt then a else b) 1 ∧
    Gives s (.max rd ra rb) .a rd (if a.toInt ≤ b.toInt then b else a) 1 ∧
    Gives s (.minn rd ra rb) .a rd (if a.toNat ≤ b.toNat then a else b) 1 ∧
    Gives s (.maxn rd ra rb) .a rd (if a.toNat ≤ b.toNat then b else a) 1 ∧
    Gives s (.seq rd ra rb) .a rd (if a = b then 1 else 0) 1 ∧
    Gives s (.sne rd ra rb) .a rd (if a = b then 0 else 1) 1 ∧
    Gives s (.slt rd ra rb) .a rd (if a.toInt < b.toInt then 1 else 0) 1 ∧
    Gives s (.sltn rd ra rb) .a rd (if a.toNat < b.toNat then 1 else 0) 1 ∧
    Gives s (.sle rd ra rb) .a rd (if a.toInt ≤ b.toInt then 1 else 0) 1 ∧
    Gives s (.slen rd ra rb) .a rd (if a.toNat ≤ b.toNat then 1 else 0) 1 ∧
    Gives s (.bget rd ra rb) .a rd (BitVec.ofNat 64 (a.toNat / 2 ^ j % 2)) 1 ∧
    (∃ v, Gives s (.bset rd ra rb) .a rd v 1 ∧ ∀ i < 64, v.getLsbD i = (if i = j then true else a.getLsbD i)) ∧
    (∃ v, Gives s (.bclr rd ra rb) .a rd v 1 ∧ ∀ i < 64, v.getLsbD i = (if i = j then false else a.getLsbD i)) ∧
    (∃ v, Gives s (.bflip rd ra rb) .a rd v 1 ∧ ∀ i < 64, v.getLsbD i = (if i = j then !a.getLsbD i else a.getLsbD i)) ∧
    Gives s (.popc rd ra) .a rd (BitVec.ofNat 64 ((List.range 64).filter (fun i => a.getLsbD i)).length) 1 ∧
    (∃ z, Gives s (.clz rd ra) .a rd (BitVec.ofNat 64 z) 1 ∧ z ≤ 64 ∧ (∀ i < 64, 64 ≤ i + z → a.getLsbD i = false) ∧
      (z < 64 → a.getLsbD (63 - z) = true)) ∧
    (∃ z, Gives s (.ctz rd ra) .a rd (BitVec.ofNat 64 z) 1 ∧ z ≤ 64 ∧ (∀ i < z, a.getLsbD i = false) ∧
      (z < 64 → a.getLsbD z = true)) ∧
    (∃ v, Gives s (.rev rd ra) .a rd v 1 ∧ ∀ i < 64, v.getLsbD i = a.getLsbD (63 - i)) ∧
    Gives s (.mov rd ra) .a rd a 1 ∧
    exec (.cmov rd ra rb) s = (if b = 0 then .next s else .next (s.pendG .a rd a 1)) ∧
    (∀ wc : BitVec 2, wc.toNat ≤ 2 → Gives s (.sext rd ra wc) .a rd (sxN (8 * 2 ^ wc.toNat) a.toNat) 1 ∧
      Gives s (.zext rd ra wc) .a rd (BitVec.ofNat 64 (natN (8 * 2 ^ wc.toNat) a)) 1) ∧
    exec .nopA s = .next s ∧ (∀ v, exec (.hintA v) s = .next s)

/-- R346's products: the low half, and the high halves of the signed and the unsigned product, of 64-bit or 32-bit operands; three
distance units later. -/
def Obligations.Product_results : Prop :=
  ∀ (s : State) (rd ra rb : GReg) (w : Bool),
    let n := opBits w
    let a := s.readG ra
    let b := s.readG rb
    Gives s (.mul rd ra rb w) .a rd (sxN n (intN n a * intN n b)) 3 ∧
    Gives s (.mulh rd ra rb w) .a rd (sxN n (intN n a * intN n b / 2 ^ n)) 3 ∧
    Gives s (.mulhn rd ra rb w) .a rd (sxN n (natN n a * natN n b / 2 ^ n : Nat)) 3

/-- R347: division never traps; its edge cases; for every other case ga = gb × quotient + remainder with |remainder| < |gb|, truncated toward
zero. The example word of `divn`. -/
def Obligations.Division_never_traps : Prop :=
  (∀ (s : State) (rd ra rb : GReg) (w : Bool),
    let n := opBits w
    let a := intN n (s.readG ra)
    let b := intN n (s.readG rb)
    let an := natN n (s.readG ra)
    let bn := natN n (s.readG rb)
    let l := if w then 12 else 20
    ∃ q r : Int, ∃ qn rn : Nat,
      Gives s (.div rd ra rb w) .a rd (sxN n q) l ∧ Gives s (.rem rd ra rb w) .a rd (sxN n r) l ∧
      Gives s (.divn rd ra rb w) .a rd (sxN n qn) l ∧ Gives s (.remn rd ra rb w) .a rd (sxN n rn) l ∧
      (b = 0 → q = -1 ∧ r = a) ∧ (bn = 0 → qn = 2 ^ n - 1 ∧ rn = an) ∧
      (a = -2 ^ (n - 1) ∧ b = -1 → sxN n q = sxN n (-2 ^ (n - 1)) ∧ r = 0) ∧
      (b ≠ 0 → a = b * q + r ∧ r.natAbs < b.natAbs ∧ (r = 0 ∨ (r < 0 ↔ a < 0))) ∧
      (bn ≠ 0 → an = bn * qn + rn ∧ rn < bn)) ∧
  decodeA 0x04642825 = .instr (.divn 3 4 5 false)

/-- R348 and R349: the immediate forms and the immediate shifts complete with the value of the table one distance unit later; the shifts have
the effect of the register forms with the amount in place of gb. -/
def Obligations.Immediate_results : Prop :=
  (∀ (s : State) (rd ra : GReg) (imm : BitVec 16),
    let a := s.readG ra
    Gives s (.addi rd ra imm) .a rd (sxN 64 (a.toNat + imm.toInt)) 1 ∧
    (∃ v, Gives s (.andi rd ra imm) .a rd v 1 ∧ ∀ i < 64, v.getLsbD i = (a.getLsbD i && imm.getLsbD (min i 15))) ∧
    (∃ v, Gives s (.ori rd ra imm) .a rd v 1 ∧ ∀ i < 64, v.getLsbD i = (a.getLsbD i || imm.getLsbD (min i 15))) ∧
    (∃ v, Gives s (.xori rd ra imm) .a rd v 1 ∧ ∀ i < 64, v.getLsbD i = (a.getLsbD i != imm.getLsbD (min i 15))) ∧
    Gives s (.slti rd ra imm) .a rd (if a.toInt < imm.toInt then 1 else 0) 1 ∧
    Gives s (.movi rd imm) .a rd (BitVec.ofInt 64 imm.toInt) 1 ∧
    Gives s (.movhi rd ra imm) .a rd (sxN 32 (imm.toNat * 65536 + a.toNat % 65536)) 1) ∧
  (∀ (s : State) (rd ra : GReg) (w : Bool) (amt : BitVec 6), amt.toNat < opBits w →
    let n := opBits w
    let a := s.readG ra
    Gives s (.shli rd ra w amt) .a rd (sxN n (natN n a * 2 ^ amt.toNat : Nat)) 1 ∧
    Gives s (.shri rd ra w amt) .a rd (sxN n (natN n a / 2 ^ amt.toNat : Nat)) 1 ∧
    Gives s (.sari rd ra w amt) .a rd (sxN n (intN n a / 2 ^ amt.toNat)) 1) ∧
  decodeA 0x0884FFF8 = .instr (.addi 4 4 (-8)) ∧ decodeA 0x2CA66003 = .instr (.shri 5 6 true 3)

/-- R350: the fields of `bext` and `bins`, pos in imm16 bits 15–10 and width − 1 in bits 9–4, with pos + width > 64 illegal; the field of ga
zero-extended; gd with a field replaced by the low bits of ga; the example word and its result, byte 5 of g3. -/
def Obligations.Bit_fields : Prop :=
  (∀ w : Nat, w < 2 ^ 32 → (fld w 31 26 = 8 ∨ fld w 31 26 = 9) →
    (64 < fld w 15 10 + (fld w 9 4 + 1) → (decodeA w).isBad = true) ∧
    (fld w 15 10 + (fld w 9 4 + 1) ≤ 64 →
      decodeA w = .instr (if fld w 31 26 = 8 then .bext (bv 5 w 21) (bv 5 w 16) (bv 6 w 10) (bv 6 w 4)
                          else .bins (bv 5 w 21) (bv 5 w 16) (bv 6 w 10) (bv 6 w 4)))) ∧
  (∀ (s : State) (rd ra : GReg) (pos wd : BitVec 6), pos.toNat + (wd.toNat + 1) ≤ 64 →
    (∃ v, Gives s (.bext rd ra pos wd) .a rd v 1 ∧
      ∀ i < 64, v.getLsbD i = (decide (i ≤ wd.toNat) && (s.readG ra).getLsbD (pos.toNat + i))) ∧
    (∃ v, Gives s (.bins rd ra pos wd) .a rd v 1 ∧
      ∀ i < 64, v.getLsbD i = (if pos.toNat ≤ i ∧ i ≤ pos.toNat + wd.toNat then (s.readG ra).getLsbD (i - pos.toNat)
                               else (s.readG rd).getLsbD i))) ∧
  decodeA 0x2043A070 = .instr (.bext 2 3 40 7) ∧
  (∀ s : State, Gives s (.bext 2 3 40 7) .a 2 (BitVec.ofNat 64 ((s.readG 3).toNat / 256 ^ 5 % 256)) 1)

/-! ## Scalar floating point (R351-R360) -/

/-- R354, R352: each arithmetic operation completes with its one result, 4 distance units later (22 or 14 for a divide or a root), or takes
0x15 where an enabled flag is raised. The result is the default NaN for a NaN operand and for the invalid operations of the table, with NV for a
signalling NaN or an invalid operation; infinities and the division by zero as the table gives; the sign of an exact zero as R352 gives. -/
def Obligations.Float_arithmetic_special_results : Prop :=
  ∀ (s : State) (rd ra rb : GReg) (t rm : BitVec 2),
    let f := scalarFmt t
    let a := s.codeF t ra
    let b := s.codeF t rb
    let d := s.codeF t rd
    let lr := if t = 0 then 22 else 14
    let anyNaN := fNaN f a || fNaN f b
    let sg (x y : Nat) : Bool := fSign f x != fSign f y
    ∃ add sub mul fma fms fnma dv sq : Nat × FFlags,
      FpGives s (.fadd rd ra rb t rm) rd (BitVec.ofNat 64 add.1) add.2 4 ∧
      FpGives s (.fsub rd ra rb t rm) rd (BitVec.ofNat 64 sub.1) sub.2 4 ∧
      FpGives s (.fmul rd ra rb t rm) rd (BitVec.ofNat 64 mul.1) mul.2 4 ∧
      FpGives s (.fma rd ra rb t rm) rd (BitVec.ofNat 64 fma.1) fma.2 4 ∧
      FpGives s (.fms rd ra rb t rm) rd (BitVec.ofNat 64 fms.1) fms.2 4 ∧
      FpGives s (.fnma rd ra rb t rm) rd (BitVec.ofNat 64 fnma.1) fnma.2 4 ∧
      FpGives s (.fdiv rd ra rb t rm) rd (BitVec.ofNat 64 dv.1) dv.2 lr ∧
      FpGives s (.fsqrt rd ra t rm) rd (BitVec.ofNat 64 sq.1) sq.2 lr ∧
      -- results fit the type
      add.1 < 2 ^ f.width ∧ sub.1 < 2 ^ f.width ∧ mul.1 < 2 ^ f.width ∧ fma.1 < 2 ^ f.width ∧ fms.1 < 2 ^ f.width ∧
      fnma.1 < 2 ^ f.width ∧ dv.1 < 2 ^ f.width ∧ sq.1 < 2 ^ f.width ∧
      -- a NaN operand
      (anyNaN → add = (f.nan, flagIf (fSig f a || fSig f b) fNV) ∧ sub = add ∧ mul = add ∧ dv = add) ∧
      (fNaN f a → sq = (f.nan, flagIf (fSig f a) fNV)) ∧
      (anyNaN || fNaN f d → fma.1 = f.nan ∧ fms.1 = f.nan ∧ fnma.1 = f.nan) ∧
      -- infinities and invalid operations
      (∀ x y, a = fInf f x → b = fInf f y → add = (if x = y then (fInf f x, 0) else (f.nan, fNV)) ∧
        sub = (if x = y then (f.nan, fNV) else (fInf f x, 0)) ∧ mul = (fInf f (x != y), 0) ∧ dv = (f.nan, fNV)) ∧
      (∀ x, a = fInf f x → IsNum f b → add = (fInf f x, 0) ∧ sub = (fInf f x, 0) ∧ dv = (fInf f (sg a b), 0) ∧
        mul = (if numOf f b = 0 then (f.nan, fNV) else (fInf f (sg a b), 0))) ∧
      (∀ y, IsNum f a → b = fInf f y → add = (fInf f y, 0) ∧ sub = (fInf f (!y), 0) ∧ dv = (fZero f (sg a b), 0) ∧
        mul = (if numOf f a = 0 then (f.nan, fNV) else (fInf f (sg a b), 0))) ∧
      (IsNum f a → IsNum f b → numOf f b = 0 →
        dv = (if numOf f a = 0 then (f.nan, fNV) else (fInf f (sg a b), fDZ))) ∧
      (a = fInf f false → sq = (fInf f false, 0)) ∧ (a = fInf f true → sq = (f.nan, fNV)) ∧
      (IsNum f a → numOf f a < 0 → sq = (f.nan, fNV)) ∧
      ((∃ x, a = fInf f x ∧ IsNum f b ∧ numOf f b = 0) ∨ (∃ y, b = fInf f y ∧ IsNum f a ∧ numOf f a = 0) →
        fma = (f.nan, fNV) ∧ fms = (f.nan, fNV) ∧ fnma = (f.nan, fNV)) ∧
      -- the sign of an exact zero
      (IsNum f a → IsNum f b → numOf f a + numOf f b = 0 →
        add = (fZero f (if fSign f a = fSign f b then fSign f a else rm == 2), 0)) ∧
      (IsNum f a → IsNum f b → numOf f a * numOf f b = 0 → mul = (fZero f (sg a b), 0)) ∧
      (∀ n, a = fZero f n → sq = (fZero f n, 0))

/-- R354, R228: the finite results of the arithmetic operations on finite operands are correctly rounded by rm, with one rounding, and NX says
that the result is not the exact one; so are `fscl` (R360), the conversion between types (R358) and the conversion from an integer (R359). -/
def Obligations.Float_results_correctly_rounded : Prop :=
  ∀ (s : State) (rd ra rb : GReg) (t rm ax : BitVec 2),
    let f := scalarFmt t
    let g := scalarFmt ax
    let x := numOf f (s.codeF t ra)
    let y := numOf f (s.codeF t rb)
    let z := numOf f (s.codeF t rd)
    let m := rm.toNat
    let numA := IsNum f (s.codeF t ra)
    let numB := IsNum f (s.codeF t rb)
    let numD := IsNum f (s.codeF t rd)
    let once (i : Instr) (l : Nat) (e : Rat) : Prop :=
      ∃ r : Nat × FFlags, FpGives s i rd (BitVec.ofNat 64 r.1) r.2 l ∧ RoundedOnce f m e r
    (numA → numB → once (.fadd rd ra rb t rm) 4 (x + y) ∧ once (.fsub rd ra rb t rm) 4 (x - y) ∧
      once (.fmul rd ra rb t rm) 4 (x * y)) ∧
    (numA → numB → numD → once (.fma rd ra rb t rm) 4 (x * y + z) ∧ once (.fms rd ra rb t rm) 4 (x * y - z) ∧
      once (.fnma rd ra rb t rm) 4 (-(x * y) + z)) ∧
    (numA → numB → y ≠ 0 → once (.fdiv rd ra rb t rm) (if t = 0 then 22 else 14) (x / y)) ∧
    (numA → once (.fscl rd ra rb t rm) 3 (x * (2 : Rat) ^ (s.readG rb).toInt)) ∧
    (IsNum g (s.codeF ax ra) → once (.fcvt rd ra t rm ax) 3 (numOf g (s.codeF ax ra))) ∧
    once (.fcvtf rd ra t rm ax) 3 (kindOf ax (s.readG ra))

/-- R228, R354: the root is the correct rounding of the exact root: squared, it is on the side of the operand that the mode gives, and no finite
number is nearer; to nearest, the operand is on its side of the square of every midpoint. -/
def Obligations.Square_root_correctly_rounded : Prop :=
  ∀ (s : State) (rd ra : GReg) (t rm : BitVec 2),
    let f := scalarFmt t
    let x := numOf f (s.codeF t ra)
    IsNum f (s.codeF t ra) → 0 ≤ x →
      ∃ r : Nat × FFlags, FpGives s (.fsqrt rd ra t rm) rd (BitVec.ofNat 64 r.1) r.2 (if t = 0 then 22 else 14) ∧
        IsNum f r.1 ∧ 0 ≤ numOf f r.1 ∧ ((r.2 &&& fNX ≠ 0) ↔ numOf f r.1 * numOf f r.1 ≠ x) ∧
        ∀ d, IsNum f d → 0 ≤ numOf f d →
          let y := numOf f r.1
          let v := numOf f d
          (rm = 1 ∨ rm = 2 → y * y ≤ x ∧ (v * v ≤ x → v ≤ y)) ∧
          (rm = 3 → x ≤ y * y ∧ (x ≤ v * v → y ≤ v)) ∧
          (rm = 0 → (y < v → 4 * x ≤ (y + v) * (y + v)) ∧ (v < y → (y + v) * (y + v) ≤ 4 * x))

/-- R356: `fmin` and `fmax` in the order in which −0 is below +0, a number beating a NaN, two NaNs giving the default NaN, NV for a signalling
NaN; `fabs`, `fneg` and `fcpsgn` clear, invert or copy the sign bit,
keep payloads and raise no flag; latency 1; codes 10 to 14, with the reserved fields ignored. -/
def Obligations.Float_minimum_maximum_and_sign : Prop :=
  (∀ w : Nat, w < 2 ^ 32 → fld w 31 26 = 12 →
    (fld w 10 6 = 10 → decodeA w = .instr (.fmin (bv 5 w 21) (bv 5 w 16) (bv 5 w 11) (bv 2 w 4))) ∧
    (fld w 10 6 = 11 → decodeA w = .instr (.fmax (bv 5 w 21) (bv 5 w 16) (bv 5 w 11) (bv 2 w 4))) ∧
    (fld w 10 6 = 12 → decodeA w = .instr (.fabs (bv 5 w 21) (bv 5 w 16) (bv 2 w 4))) ∧
    (fld w 10 6 = 13 → decodeA w = .instr (.fneg (bv 5 w 21) (bv 5 w 16) (bv 2 w 4))) ∧
    (fld w 10 6 = 14 → decodeA w = .instr (.fcpsgn (bv 5 w 21) (bv 5 w 16) (bv 5 w 11) (bv 2 w 4)))) ∧
  (∀ (s : State) (rd ra rb : GReg) (t : BitVec 2),
    let f := scalarFmt t
    let a := s.codeF t ra
    let b := s.codeF t rb
    let nv := flagIf (fSig f a || fSig f b) fNV
    let pick (p : Prop) [Decidable p] : Nat :=
      if fNaN f a then (if fNaN f b then f.nan else b) else if fNaN f b then a else if p then a else b
    FpGives s (.fmin rd ra rb t) rd (BitVec.ofNat 64 (pick (fKey f a ≤ fKey f b))) nv 1 ∧
    FpGives s (.fmax rd ra rb t) rd (BitVec.ofNat 64 (pick (fKey f b ≤ fKey f a))) nv 1 ∧
    (∃ v, Gives s (.fabs rd ra t) .a rd v 1 ∧ ∀ i < 64, v.getLsbD i = (decide (i < f.width - 1) && (s.readG ra).getLsbD i)) ∧
    (∃ v, Gives s (.fneg rd ra t) .a rd v 1 ∧ ∀ i < 64, v.getLsbD i =
      (if i = f.width - 1 then !(s.readG ra).getLsbD i else decide (i < f.width) && (s.readG ra).getLsbD i)) ∧
    (∃ v, Gives s (.fcpsgn rd ra rb t) .a rd v 1 ∧ ∀ i < 64, v.getLsbD i =
      (if i = f.width - 1 then (s.readG rb).getLsbD i else decide (i < f.width) && (s.readG ra).getLsbD i)))

/-- R357: `fclass` sets exactly the bit of its operand's class and raises no flag; `feq`, `flt` and `fle` compare in IEEE 754 order with the
zeros equal, give 0 for any NaN, and raise NV for a signalling NaN (`feq`) or any NaN (`flt`, `fle`). -/
def Obligations.Float_class_and_compare : Prop :=
  (∀ w : Nat, w < 2 ^ 32 → fld w 31 26 = 12 →
    (fld w 10 6 = 15 → decodeA w = .instr (.fclass (bv 5 w 21) (bv 5 w 16) (bv 2 w 4))) ∧
    (fld w 10 6 = 16 → decodeA w = .instr (.feq (bv 5 w 21) (bv 5 w 16) (bv 5 w 11) (bv 2 w 4))) ∧
    (fld w 10 6 = 17 → decodeA w = .instr (.flt (bv 5 w 21) (bv 5 w 16) (bv 5 w 11) (bv 2 w 4))) ∧
    (fld w 10 6 = 18 → decodeA w = .instr (.fle (bv 5 w 21) (bv 5 w 16) (bv 5 w 11) (bv 2 w 4)))) ∧
  (∀ (s : State) (rd ra rb : GReg) (t : BitVec 2),
    let f := scalarFmt t
    let a := s.codeF t ra
    let b := s.codeF t rb
    let ex := a / 2 ^ f.mb % 2 ^ f.eb
    let fr := a % 2 ^ f.mb
    let cls : Nat :=
      if ex = 2 ^ f.eb - 1 then (if fr = 0 then (if fSign f a then 0 else 7) else if a.testBit (f.mb - 1) then 9 else 8)
      else if ex ≠ 0 then (if fSign f a then 1 else 6)
      else if fr ≠ 0 then (if fSign f a then 2 else 5) else (if fSign f a then 3 else 4)
    let nan := fNaN f a || fNaN f b
    let no (p : Prop) [Decidable p] : Word := if nan = false ∧ p then 1 else 0
    Gives s (.fclass rd ra t) .a rd (BitVec.ofNat 64 (2 ^ cls)) 1 ∧
    FpGives s (.feq rd ra rb t) rd (no (fOrd f a = fOrd f b)) (flagIf (fSig f a || fSig f b) fNV) 2 ∧
    FpGives s (.flt rd ra rb t) rd (no (fOrd f a < fOrd f b)) (flagIf nan fNV) 2 ∧
    FpGives s (.fle rd ra rb t) rd (no (fOrd f a ≤ fOrd f b)) (flagIf nan fNV) 2)

/-- R358, R359, R360: the conversions and the exponent operations complete, 3 distance units later. A NaN source of `fcvt` gives the default NaN of
the target, with NV if it was signalling; `fcvti` rounds by rm, saturates with NV and not NX, and gives 0 with NV for a NaN; `fexp` is
floor(log2 |ga|), or its special values with NV; `fscl` keeps zeros and infinities; 0 converts to +0. -/
def Obligations.Float_conversions : Prop :=
  ∀ (s : State) (rd ra rb : GReg) (t rm ax : BitVec 2),
    let f := scalarFmt t
    let g := scalarFmt ax
    let a := s.codeF t ra
    let c := s.codeF ax ra
    let x := numOf f a
    let n := roundInt rm.toNat x
    let lo : Int := if ax = 0 then -2 ^ 63 else if ax = 2 then -2 ^ 31 else 0
    let hi : Int := if ax = 0 then 2 ^ 63 - 1 else if ax = 1 then 2 ^ 64 - 1 else if ax = 2 then 2 ^ 31 - 1 else 2 ^ 32 - 1
    ∃ (cvt cvtf scl : Nat × FFlags) (cvti fe : Int) (fi fx : FFlags),
      FpGives s (.fcvt rd ra t rm ax) rd (BitVec.ofNat 64 cvt.1) cvt.2 3 ∧
      FpGives s (.fcvti rd ra t rm ax) rd (BitVec.ofInt 64 cvti) fi 3 ∧
      FpGives s (.fcvtf rd ra t rm ax) rd (BitVec.ofNat 64 cvtf.1) cvtf.2 3 ∧
      FpGives s (.fexp rd ra t) rd (BitVec.ofInt 64 fe) fx 3 ∧
      FpGives s (.fscl rd ra rb t rm) rd (BitVec.ofNat 64 scl.1) scl.2 3 ∧
      (fNaN g c → cvt = (f.nan, flagIf (fSig g c) fNV)) ∧ (∀ m, c = fInf g m → cvt = (fInf f m, 0)) ∧
      (t = ax → IsNum f c → cvt = (c, 0)) ∧
      (fNaN f a → cvti = 0 ∧ fi = fNV) ∧ (a = fInf f false → cvti = hi ∧ fi = fNV) ∧ (a = fInf f true → cvti = lo ∧ fi = fNV) ∧
      (IsNum f a → (n < lo → cvti = lo ∧ fi = fNV) ∧ (hi < n → cvti = hi ∧ fi = fNV) ∧
        (lo ≤ n → n ≤ hi → cvti = n ∧ fi = flagIf (decide ((n : Rat) ≠ x)) fNX)) ∧
      (kindOf ax (s.readG ra) = 0 → cvtf = (0, 0)) ∧
      (IsNum f a → x ≠ 0 → (2 : Rat) ^ fe ≤ x.abs ∧ x.abs < 2 ^ (fe + 1) ∧ fx = 0) ∧
      (IsNum f a → x = 0 → fe = -2 ^ 63 ∧ fx = fNV) ∧
      (¬ IsNum f a → fe = 2 ^ 63 - 1 ∧ fx = fNV) ∧
      (∀ m, a = fZero f m ∨ a = fInf f m → scl = (a, 0)) ∧ (fNaN f a → scl = (f.nan, flagIf (fSig f a) fNV))

/-- R355, R246: the reciprocal estimates complete, 6 distance units later. For f32 and f64 a normal result is within 2^-14 of the exact
reciprocal, or reciprocal root; the special values of the table. -/
def Obligations.Float_estimates : Prop :=
  (∀ (s : State) (rd ra : GReg) (t : BitVec 2),
    let f := scalarFmt t
    let a := s.codeF t ra
    let x := numOf f a
    ∃ rcp rsq : Nat × FFlags,
      FpGives s (.frcp rd ra t) rd (BitVec.ofNat 64 rcp.1) rcp.2 6 ∧
      FpGives s (.frsq rd ra t) rd (BitVec.ofNat 64 rsq.1) rsq.2 6 ∧
      (t = 0 ∨ t = 1 → IsNum f a → x ≠ 0 → IsNum f rcp.1 → (2 : Rat) ^ f.emin ≤ (numOf f rcp.1).abs →
        (numOf f rcp.1 * x - 1).abs ≤ 1 / 2 ^ 14) ∧
      (t = 0 ∨ t = 1 → IsNum f a → 0 < x → IsNum f rsq.1 ∧
        (1 - 1 / 2 ^ 14) * (1 - 1 / 2 ^ 14) ≤ numOf f rsq.1 * numOf f rsq.1 * x ∧
        numOf f rsq.1 * numOf f rsq.1 * x ≤ (1 + 1 / 2 ^ 14) * (1 + 1 / 2 ^ 14)) ∧
      (∀ m, a = fZero f m → rcp = (fInf f m, fDZ) ∧ rsq = (fInf f m, fDZ)) ∧
      (∀ m, a = fInf f m → rcp = (fZero f m, 0)) ∧ (a = fInf f false → rsq = (fZero f false, 0)) ∧
      (fNaN f a → rcp = (f.nan, flagIf (fSig f a) fNV) ∧ rsq = rcp) ∧
      (IsNum f a → x < 0 → rsq = (f.nan, fNV)) ∧ (a = fInf f true → rsq = (f.nan, fNV))) ∧
  (∀ (s : State) (rd ra : GReg),
    let row (c v : Nat) (fl : FFlags) : Prop := s.codeF 1 ra = c → FpGives s (.frcp rd ra 1) rd (BitVec.ofNat 64 v) fl 6
    row 0x80000000 0xFF800000 fDZ ∧ row 0x00000001 0x7F800000 fOF ∧ row 0x7F000000 0x00400000 fUF ∧
    row 0xFF800000 0x80000000 0 ∧ row 0x7FA00000 0x7FC00000 fNV) ∧
  decodeA 0x30430210 = .instr (.frcp 2 3 1)
/-! ## Vectors (R361-R379) -/

/-- R365, R366, R370 for the integer types: each operation completes with the table's value in every element, low bits kept; `vcmp` gives the
mask of the elements for which the condition holds; the reductions give the value of the pairwise tree in element 0 and zeros elsewhere. -/
def Obligations.Vector_integer_results : Prop :=
  ∀ (s : State) (vd va vb : VReg) (ty : BitVec 4), ty.toNat < 8 →
    let a := elNat ty (s.readV va)
    let b := elNat ty (s.readV vb)
    let w := elemBits ty
    let sg := elInt ty
    let sgd (x : Nat) : Int := Int.bmod x (2 ^ w)
    let r1 := [vd.toNat, va.toNat]
    let r2 := [vd.toNat, va.toNat, vb.toNat]
    let gives (i : Instr) (rs : List Nat) (l : Nat) (c : Nat → Int) : Prop := ∃ v, VecGives s i rs vd v 0 l 8 ∧ Lanes ty v c
    let tree (op : Nat → Nat → Int) (x : Nat → Nat) (k : Nat) : Int := if k = 0 then intTree op w x (12 - lgBits ty) 0 else 0
    gives (.vadd vd va vb ty) r2 9 (fun k => a k + b k) ∧
    gives (.vsub vd va vb ty) r2 9 (fun k => (a k : Int) - b k) ∧
    gives (.vmul vd va vb ty) r2 11 (fun k => a k * b k) ∧
    gives (.vmulh vd va vb ty) r2 11 (fun k => sg (a k) * sg (b k) / (2 ^ w : Nat)) ∧
    gives (.vmin vd va vb ty) r2 9 (fun k => min (sg (a k)) (sg (b k))) ∧
    gives (.vmax vd va vb ty) r2 9 (fun k => max (sg (a k)) (sg (b k))) ∧
    gives (.vabs vd va ty) r1 9 (fun k => (sg (a k)).natAbs) ∧
    gives (.vneg vd va ty) r1 9 (fun k => -(a k : Int)) ∧
    gives (.vshl vd va vb ty) r2 9 (fun k => (a k * 2 ^ (b k % w) : Nat)) ∧
    gives (.vshr vd va vb ty) r2 9 (fun k => (a k / 2 ^ (b k % w) : Nat)) ∧
    gives (.vsar vd va vb ty) r2 9 (fun k => sgd (a k) / (2 ^ (b k % w) : Nat)) ∧
    gives (.vsum vd va ty) r1 20 (tree (fun x y => x + y) a) ∧
    gives (.vmaxr vd va ty) r1 20 (tree (fun x y => max (sg x) (sg y)) a) ∧
    gives (.vminr vd va ty) r1 20 (tree (fun x y => min (sg x) (sg y)) a) ∧
    gives (.vdot vd va vb ty) r2 20 (tree (fun x y => x + y) (fun k => a k * b k % 2 ^ w)) ∧
    (∀ cc : BitVec 3, cc.toNat ≤ 5 → ∃ v, VecGives s (.vcmp vd va vb ty cc) r2 vd v 0 9 8 ∧
      Bits v (fun j => decide (j < elemCount ty) && (match cc.toNat with
        | 0 => decide (a j = b j)
        | 1 => decide (a j ≠ b j)
        | 2 => decide (sg (a j) < sg (b j))
        | 3 => decide (sg (a j) ≤ sg (b j))
        | 4 => decide (a j < b j)
        | _ => decide (a j ≤ b j))))

/-- R362, R365, R367, R369, R371: the bitwise operations, the masks, the selection, the permutation, the rotation, the broadcast, the insertion,
the extraction and the mask count complete, for every type they accept, and move bits as the tables say, without a flag. -/
def Obligations.Vector_moves_and_masks : Prop :=
  ∀ (s : State) (vd va vb vm : VReg) (ty gi : BitVec 4) (gb : GReg),
    let a := s.readV va
    let b := s.readV vb
    let w := elemBits ty
    let n := elemCount ty
    let r1 := [vd.toNat, va.toNat]
    let r2 := [vd.toNat, va.toNat, vb.toNat]
    let g := (s.readG gb).toNat % 2 ^ w
    let ix := (s.readG (gi.setWidth 5)).toNat % n
    let rot := b.toNat % 65536 % n
    let bits (i : Instr) (rs : List Nat) (p : Nat → Bool) : Prop := ∃ v, VecGives s i rs vd v 0 9 8 ∧ Bits v p
    let lanes (i : Instr) (rs : List Nat) (l : Nat) (c : Nat → Nat) : Prop :=
      ∃ v, VecGives s i rs vd v 0 l 8 ∧ ∀ k < n, elNat ty v k = c k
    w = [8, 8, 16, 16, 32, 32, 64, 64, 8, 8, 16, 16, 32, 64, 4, 16].getD ty.toNat 0 ∧ n * w = 4096 ∧
    bits (.vand vd va vb ty) r2 (fun j => a.getLsbD j && b.getLsbD j) ∧
    bits (.vor vd va vb ty) r2 (fun j => a.getLsbD j || b.getLsbD j) ∧
    bits (.vxor vd va vb ty) r2 (fun j => a.getLsbD j != b.getLsbD j) ∧
    bits (.vandn vd va vb ty) r2 (fun j => a.getLsbD j && !b.getLsbD j) ∧
    bits (.vmand vd va vb ty) r2 (fun j => decide (j < n) && (a.getLsbD j && b.getLsbD j)) ∧
    bits (.vmor vd va vb ty) r2 (fun j => decide (j < n) && (a.getLsbD j || b.getLsbD j)) ∧
    bits (.vmnot vd va ty) r1 (fun j => decide (j < n) && !a.getLsbD j) ∧
    lanes (.vsel vd va vb ty vm) [vd.toNat, va.toNat, vb.toNat, vm.toNat] 9
      (fun k => elNat ty (if (s.readV vm).getLsbD k then a else b) k) ∧
    (ty ≠ 14 → lanes (.vperm vd va vb ty) r2 12
      (fun k => elNat ty a (if w = 8 then 256 * (k / 256) + elNat ty b k else elNat ty b k % n))) ∧
    lanes (.vrot vd va vb ty) r2 12 (fun k => elNat ty a ((k + rot) % n)) ∧
    lanes (.vbcast vd gb ty) [vd.toNat] 9 (fun _ => g) ∧
    lanes (.vins vd gi gb ty) [vd.toNat] 9 (fun k => if k = ix then g else elNat ty (s.readV vd) k) ∧
    VecGivesG s (.vext vd gi gb ty) [vd.toNat] gb
      (if ty.toNat < 8 ∧ ty.toNat % 2 = 0 ∨ ty = 14 then sxN w (elNat ty (s.readV vd) ix)
       else BitVec.ofNat 64 (elNat ty (s.readV vd) ix)) 9 ∧
    VecGivesG s (.vmpop gb va ty) [va.toNat] gb (BitVec.ofNat 64 ((List.range n).filter (fun j => a.getLsbD j)).length) 9

/-- R365, R366, R370, R371 for the float types: every element of `vadd`, `vsub`, `vmul`, `vfma`, `vfms`, `vmin`, `vmax` and `vscl` is what the
scalar operation of the same type gives for the elements, rounded by RM of `s.fpc`; `vlerp` is the difference, then one fused operation; `vclamp`
the maximum, then the minimum; `vabs` and `vneg` clear or invert the sign bit; a compare sets a mask; a reduction is the tree of scalar
operations. The flags are those of the elements together. -/
def Obligations.Vector_float_results : Prop :=
  ∀ (s : State) (vd va vb : VReg) (ty : BitVec 4) (gb : GReg), 10 ≤ ty.toNat ∧ ty.toNat ≤ 13 →
    let a := elNat ty (s.readV va)
    let b := elNat ty (s.readV vb)
    let d := elNat ty (s.readV vd)
    let w := elemBits ty
    let n := elemCount ty
    let t := scalarTy ty
    let rm : BitVec 2 := s.cx.fpc.setWidth 2
    let r1 := [vd.toNat, va.toNat]
    let r2 := [vd.toNat, va.toNat, vb.toNat]
    let sub : Instr := .fsub 3 1 2 t rm
    let fma : Instr := .fma 3 1 2 t rm
    let fmx : Instr := .fmax 3 1 2 t
    let fmn : Instr := .fmin 3 1 2 t
    -- a tree of one scalar operation, over given leaves
    let tree (i : Instr) (rs : List Nat) (op : Instr) (l : Nat) (leaf : Nat → Nat × FFlags → Prop) : Prop :=
      ∃ (v : VWord) (f : FFlags) (y : Nat → Nat → Nat × FFlags), VecGives s i rs vd v f 20 8 ∧
        (∀ k < n, leaf k (y 0 k)) ∧
        (∀ m k, m < 12 - lgBits ty → k < n / 2 ^ (m + 1) → ScalarOp t op l (y m (2 * k)).1 (y m (2 * k + 1)).1 0 (y (m + 1) k)) ∧
        (∀ k < n, elNat ty v k = if k = 0 then (y (12 - lgBits ty) 0).1 else 0) ∧
        (∀ c < 6, f.getLsbD c = true ↔ ∃ m k, m ≤ 12 - lgBits ty ∧ k < n / 2 ^ m ∧ (y m k).2.getLsbD c = true)
    VecFp s (.vadd vd va vb ty) r2 vd ty 12 (fun k => ScalarOp t (.fadd 3 1 2 t rm) 4 (a k) (b k) 0) ∧
    VecFp s (.vsub vd va vb ty) r2 vd ty 12 (fun k => ScalarOp t sub 4 (a k) (b k) 0) ∧
    VecFp s (.vmul vd va vb ty) r2 vd ty 12 (fun k => ScalarOp t (.fmul 3 1 2 t rm) 4 (a k) (b k) 0) ∧
    VecFp s (.vfma vd va vb ty) r2 vd ty 12 (fun k => ScalarOp t fma 4 (a k) (b k) (d k)) ∧
    VecFp s (.vfms vd va vb ty) r2 vd ty 12 (fun k => ScalarOp t (.fms 3 1 2 t rm) 4 (a k) (b k) (d k)) ∧
    VecFp s (.vmin vd va vb ty) r2 vd ty 9 (fun k => ScalarOp t fmn 1 (a k) (b k) 0) ∧
    VecFp s (.vmax vd va vb ty) r2 vd ty 9 (fun k => ScalarOp t fmx 1 (a k) (b k) 0) ∧
    VecFp s (.vlerp vd va vb ty) r2 vd ty 12 (fun k r => ∃ e g, ScalarOp t sub 4 (b k) (a k) 0 e ∧
      ScalarOp t fma 4 (d k) e.1 (a k) g ∧ r = (g.1, e.2 ||| g.2)) ∧
    VecFp s (.vclamp vd va vb ty) r2 vd ty 12 (fun k r => ∃ e g, ScalarOp t fmx 1 (d k) (a k) 0 e ∧
      ScalarOp t fmn 1 e.1 (b k) 0 g ∧ r = (g.1, e.2 ||| g.2)) ∧
    VecFp s (.vscl vd va gb ty) r1 vd ty 12 (fun k r => r.1 < 2 ^ w ∧ ∀ u : State, u.codeF t 1 = a k → u.readG 2 = s.readG gb →
      FpGives u (.fscl 3 1 2 t rm) 3 (BitVec.ofNat 64 r.1) r.2 3) ∧
    VecFp s (.vabs vd va ty) r1 vd ty 9 (fun k r => r = (a k % 2 ^ (w - 1), 0)) ∧
    VecFp s (.vneg vd va ty) r1 vd ty 9 (fun k r => r = ((a k + 2 ^ (w - 1)) % 2 ^ w, 0)) ∧
    tree (.vsum vd va ty) r1 (.fadd 3 1 2 t rm) 4 (fun k r => r = (a k, 0)) ∧
    tree (.vmaxr vd va ty) r1 fmx 1 (fun k r => r = (a k, 0)) ∧
    tree (.vminr vd va ty) r1 fmn 1 (fun k r => r = (a k, 0)) ∧
    tree (.vdot vd va vb ty) r2 (.fadd 3 1 2 t rm) 4 (fun k => ScalarOp t (.fmul 3 1 2 t rm) 4 (a k) (b k) 0) ∧
    (∀ cc : BitVec 3, cc.toNat ≤ 3 → ∃ v f, VecGives s (.vcmp vd va vb ty cc) r2 vd v f 9 8 ∧
      ∃ r : Nat → Bool × FFlags, OrOf n (fun k => (r k).2) f ∧ Bits v (fun j => decide (j < n) && (r j).1) ∧
        ∀ k < n, ScalarOp t (if cc = 2 then .flt 3 1 2 t else if cc = 3 then .fle 3 1 2 t else .feq 3 1 2 t) 2 (a k) (b k) 0
          (((r k).1 != decide (cc = 1)).toNat, (r k).2))

/-- R246, R365: the six estimates complete, 14 distance units later. `vrcp` and `vrsq` give the values of the scalar estimates of the type, element by
element, with the flags of R246's table alone: a signalling NaN, a zero, a negative number, a reciprocal above the largest finite f32 value or on the
subnormal grid; none is inexact. For f32 the exact and special values of the others.
It rests on choices of the model: log 9 and 10. -/
def Obligations.Vector_estimates : Prop :=
  ∀ (s : State) (vd va : VReg) (ty : BitVec 4), 10 ≤ ty.toNat ∧ ty.toNat ≤ 12 →
    let a := elNat ty (s.readV va)
    let t := scalarTy ty
    let rs := [vd.toNat, va.toNat]
    let f := Fmt.f32
    let num (k : Nat) : Prop := ty = 12 ∧ IsNum f (a k)
    let x (k : Nat) : Rat := numOf f (a k)
    let nan (k : Nat) (r : Nat × FFlags) : Prop := ty = 12 → fNaN f (a k) = true → r = (f.nan, flagIf (fSig f (a k)) fNV)
    let g := elemFmt ty
    let y (k : Nat) : Rat := numOf g (a k)
    VecFp s (.vrcp vd va ty) rs vd ty 14 (fun k r => (∃ q, ScalarOp t (.frcp 3 1 t) 6 (a k) 0 0 (r.1, q)) ∧
      (fNaN g (a k) = true → r.2 = flagIf (fSig g (a k)) fNV) ∧ (∀ m, a k = fInf g m → r.2 = 0) ∧
      (IsNum g (a k) → r.2 = if y k = 0 then fDZ else if (y k).abs ≤ (2 : Rat) ^ (-128 : Int) then fOF
        else if (2 : Rat) ^ (126 : Int) < (y k).abs then fUF else 0)) ∧
    VecFp s (.vrsq vd va ty) rs vd ty 14 (fun k r => (∃ q, ScalarOp t (.frsq 3 1 t) 6 (a k) 0 0 (r.1, q)) ∧
      (fNaN g (a k) = true → r.2 = flagIf (fSig g (a k)) fNV) ∧ (∀ m, a k = fInf g m → r.2 = flagIf m fNV) ∧
      (IsNum g (a k) → r.2 = if y k = 0 then fDZ else if y k < 0 then fNV else 0)) ∧
    VecFp s (.vexp2 vd va ty) rs vd ty 14 (fun k r => nan k r ∧
      (num k → 128 ≤ x k → r = (fInf f false, fOF)) ∧ (num k → x k < -150 → r = (fZero f false, fUF)) ∧
      (ty = 12 → a k = fInf f false → r = (fInf f false, 0)) ∧ (ty = 12 → a k = fInf f true → r = (fZero f false, 0)) ∧
      (∀ e : Int, num k → x k = e → -126 ≤ e → e < 128 → numOf f r.1 = (2 : Rat) ^ e ∧ r.2 = 0)) ∧
    VecFp s (.vlog2 vd va ty) rs vd ty 14 (fun k r => nan k r ∧
      (num k → x k = 0 → r = (fInf f true, fDZ)) ∧ (num k → x k < 0 → r = (f.nan, fNV)) ∧
      (ty = 12 → a k = fInf f false → r = (fInf f false, 0)) ∧ (ty = 12 → a k = fInf f true → r = (f.nan, fNV)) ∧
      (∀ e : Int, num k → x k = (2 : Rat) ^ e → numOf f r.1 = e ∧ r.2 = 0 ∧ (e = 0 → r.1 = 0))) ∧
    VecFp s (.vsinpi vd va ty) rs vd ty 14 (fun k r => nan k r ∧
      (ty = 12 → a k = fInf f false ∨ a k = fInf f true → r = (f.nan, fNV)) ∧
      (∀ z, ty = 12 → a k = fZero f z → r = (fZero f z, 0)) ∧
      (∀ e : Int, num k → x k = e → e ≠ 0 → r = (fZero f false, 0)) ∧
      (∀ e : Int, num k → x k = e + 1 / 2 → numOf f r.1 = (if e % 2 = 0 then 1 else -1) ∧ r.2 = 0)) ∧
    VecFp s (.vcospi vd va ty) rs vd ty 14 (fun k r => nan k r ∧
      (ty = 12 → a k = fInf f false ∨ a k = fInf f true → r = (f.nan, fNV)) ∧
      (∀ e : Int, num k → x k = e → numOf f r.1 = (if e % 2 = 0 then 1 else -1) ∧ r.2 = 0) ∧
      (∀ e : Int, num k → x k = e + 1 / 2 → r = (fZero f false, 0)))
/-- R368, R247: `vcvt` completes with one result for each register it writes, in 8 beats for each register of the wider side, 3 distance units
more, and places the elements in the interleave order. Integers extend or saturate; floats round once by RM, as `fcvt`; a float becomes the nearest
integer of the range by RM, or a bound, or 0, with NV; an integer rounds by RM. -/
def Obligations.Vector_conversions : Prop :=
  ∀ (s : State) (vd va : VReg) (ty src : BitVec 4), cvtForm ty src vd va = true →
    let up := 2 ^ (lgBits ty - lgBits src)
    let dn := 2 ^ (lgBits src - lgBits ty)
    let l := 8 * up * dn + 3 + s.core.cBeats
    let isI (t : BitVec 4) : Bool := decide (t.toNat < 8) || t == 14
    let sig : Bool := decide (ty.toNat % 2 = 0)
    let lo : Int := if sig then -2 ^ (elemBits ty - 1) else 0
    let hi : Int := if sig then 2 ^ (elemBits ty - 1) - 1 else 2 ^ elemBits ty - 1
    let rm := s.cx.fpc.toNat % 4
    let f := elemFmt ty
    let g := elemFmt src
    let cvt (x : Nat) (r : Nat × FFlags) : Prop :=
      let v := elSigned src x
      let n := roundInt rm (numOf g x)
      (isI src = true → isI ty = true → r.2 = 0 ∧
        (r.1 : Int) = (if lgBits src < lgBits ty then v else max lo (min hi v)) % (2 ^ elemBits ty : Nat)) ∧
      (isI src = true → isI ty = false → (ty = 8 → v.natAbs ≤ 448) → RoundedOnce f rm v r) ∧
      (isI src = false → isI ty = true →
        ((decodeF g x).isNan = true → r = (0, fNV)) ∧
        (∀ m, decodeF g x = .inf m → (r.1 : Int) = (if m then lo else hi) % (2 ^ elemBits ty : Nat) ∧ r.2 = fNV) ∧
        (IsNum g x → (r.1 : Int) = max lo (min hi n) % (2 ^ elemBits ty : Nat) ∧
          r.2 = (if n < lo ∨ hi < n then fNV else flagIf (decide ((n : Rat) ≠ numOf g x)) fNX))) ∧
      (isI src = false → isI ty = false →
        ((decodeF g x).isNan = true → r = (f.nan, flagIf (decodeF g x).isSig fNV)) ∧
        (IsNum g x → (ty = 8 → (numOf g x).abs ≤ 448) → RoundedOnce f rm (numOf g x) r) ∧
        (ty = src → IsNum g x → r = (x, 0)) ∧
        (10 ≤ ty.toNat → 10 ≤ src.toNat → ∀ u : State, u.codeF (scalarTy src) 1 = x →
          FpGives u (.fcvt 3 1 (scalarTy ty) (BitVec.ofNat 2 rm) (scalarTy src)) 3 (BitVec.ofNat 64 r.1) r.2 3))
    ∃ (v : Nat → VWord) (fl : FFlags) (r : Nat → Nat × FFlags),
      (s.vregs ((List.range up).map (vd.toNat + ·) ++ (List.range dn).map (va.toNat + ·)) = true → fpEnabled s fl = 0 →
        exec (.vcvt vd va ty src) s =
          .next (((s.beats (8 * up * dn)).pendVs l ((List.range up).map (fun q => (vd.toNat + q, v q)))).pendF .a fl l)) ∧
      OrOf (up * elemCount ty) (fun j => (r j).2) fl ∧
      ∀ j < up * elemCount ty, elNat ty (v (j % up)) (j / up) = (r j).1 ∧
        cvt (elNat src (s.readV (BitVec.ofNat 4 (va.toNat + j % dn))) (j / dn)) (r j)

/-- R372, R373, R237, R238: `vqe8` and `vde8` complete, 16 distance units later. `vde8` decodes each coordinate exactly, y × 2^s, but for −2 at scale
127 (−∞ with OF) and scale −128 (the default NaN). `vqe8` writes N octets from slot OFS on and leaves the others; at scale −128, and where all eight
are pads, it writes 0; eight numbers that are a lattice point of the scale give that point's code and no overflow; gb gets the number of overflows,
which `s.e8ov` counts too; NV, the only flag, is raised exactly where, at a scale other than −128, an element that no mask replaces is a NaN.
With no trap enabled, and for `vqe8` without such a NaN, both complete whatever their operands; `vqe8` takes 0x15 where NV is raised and enabled. -/
def Obligations.Octet_quantising_and_decoding : Prop :=
  ∀ (s : State) (vd va : VReg) (gb : GReg) (ty : BitVec 4),
    let g := (s.readG gb).toNat
    let sc : Int := Int.bmod g 256
    let f := elemFmt ty
    (ty = 10 ∨ ty = 12 → s.vregs [vd.toNat, va.toNat] = true → s.cx.fpc.toNat / 256 % 32 = 0 →
      ∃ (v : VWord) (fl : FFlags),
        exec (.vde8 vd va gb ty) s = .next (((s.beats 8).pendV .a vd v (16 + s.core.cBeats)).pendF .a fl (16 + s.core.cBeats))) ∧
    (ty = 10 ∨ ty = 12 →
      VecFp s (.vde8 vd va gb ty) [vd.toNat, va.toNat] vd ty 16 (fun k r =>
        let y := octTwice (elNat 15 (s.readV va) ((g / 256 % 256 + k / 8) % 256)) (k % 8)
        if sc = -128 then r = (f.nan, 0)
        else if y = -4 ∧ sc = 127 then r = (fInf f true, fOF)
        else IsNum f r.1 ∧ numOf f r.1 = (y : Rat) * (2 : Rat) ^ (sc - 1) ∧ r.2 = 0)) ∧
    (ty = 10 ∨ ty = 11 ∨ ty = 12 →
      let n := elemCount ty / 8
      let cnt := g / 2 ^ 8 % 512
      let ofs := g / 2 ^ 17 % 256
      let masked := (s.readG gb).getLsbD 25
      let vm := g / 2 ^ 26 % 16
      let x (m i : Nat) : Nat := elNat ty (s.readV va) (8 * m + i)
      let l := 16 + s.core.cBeats
      let regs := [vd.toNat, va.toNat] ++ (if masked then [vm] else [])
      let aNaN : Prop := sc ≠ -128 ∧ ∃ m < n, ∃ i < 8, fNaN f (x m i) = true ∧
        (masked = true → (s.readV (BitVec.ofNat 4 vm)).getLsbD (8 * m + i) = true)
      ∃ (v : VWord) (fl : FFlags) (o : Nat → Nat) (ovf : Nat → Bool),
        let done : State := ((((s.beats 8).pendV .a vd v l).pendG .a gb (BitVec.ofNat 64 ((List.range n).filter ovf).length) l).pendR .a
          (.e8ov ((List.range n).filter ovf).length) l).pendF .a fl l
        (s.vregs regs = true → s.cx.fpc.toNat / 256 % 32 = 0 ∨ ¬ aNaN → exec (.vqe8 vd va gb ty) s = .next done) ∧
        (s.vregs regs = true → fpEnabled s fl = 0 → exec (.vqe8 vd va gb ty) s = .next done) ∧
        (s.vregs regs = true → fpEnabled s fl ≠ 0 → exec (.vqe8 vd va gb ty) s =
          .next (s.trapAt { rank := 18, info := infoOf 21 (fpEnabled s fl * 256) 0 0 0, late := 15 })) ∧
        (s.vregs regs = false → exec (.vqe8 vd va gb ty) s = .next (s.trapAt (illegal .a))) ∧
        (aNaN → fl = fNV) ∧ (¬ aNaN → fl = 0) ∧
        (∀ q < 256, elNat 15 v q =
          if (q + 256 - ofs) % 256 < n then o ((q + 256 - ofs) % 256) else elNat 15 (s.readV vd) q) ∧
        ∀ m < n,
          (sc = -128 ∨ cnt ≤ 8 * m → o m = 0) ∧ (sc = -128 → ovf m = false) ∧
          (masked = false → sc ≠ -128 → 8 * m + 7 < cnt → ∀ code < 65536,
            (∀ i < 8, IsNum f (x m i) ∧ numOf f (x m i) = (octTwice code i : Rat) * (2 : Rat) ^ (sc - 1)) →
            o m = code ∧ ovf m = false))

/-- R374 to R376, R245: `vmaxe` gives the largest biased exponent; `vfix` converts f32 elements to integers of weight 2^(e − 40), truncated and
saturated, in the interleave order; `vunfix` converts them back with one rounding to nearest. -/
def Obligations.Reproducible_sums : Prop :=
  ∀ (s : State) (vd va : VReg) (gb : GReg) (ty : BitVec 4),
    let e : Int := ((s.readG gb).toNat % 256 : Nat) - 127
    let f := elemFmt ty
    (ty = 10 ∨ ty = 11 ∨ ty = 12 →
      let x (k : Nat) : Nat := elNat ty (s.readV va) k
      let n := elemCount ty
      ∃ m : Nat, VecGivesG s (.vmaxe gb va ty) [va.toNat] gb (BitVec.ofNat 64 m) 11 ∧
        ((∃ k < n, ¬ IsNum f (x k)) → m = 255) ∧
        ((∀ k < n, IsNum f (x k) ∧ numOf f (x k) = 0) → m = 0) ∧
        ((∀ k < n, IsNum f (x k)) → (∃ k < n, numOf f (x k) ≠ 0) → 1 ≤ m ∧ m ≤ 254 ∧
          (∀ k < n, (numOf f (x k)).abs < (2 : Rat) ^ ((m : Int) - 126)) ∧
          (∃ k < n, (2 : Rat) ^ ((m : Int) - 127) ≤ (numOf f (x k)).abs ∨ m = 1))) ∧
    (vd.toNat % 2 = 0 →
      let big : Int := 2 ^ 62 - 1
      ∃ (v : Nat → VWord) (fl : FFlags) (r : Nat → Int × FFlags),
        (s.vregs [vd.toNat, vd.toNat + 1, va.toNat] = true → fpEnabled s fl = 0 →
          exec (.vfix vd va gb 12) s = .next (((s.beats 16).pendVs (19 + s.core.cBeats)
            [(vd.toNat, v 0), (vd.toNat + 1, v 1)]).pendF .a fl (19 + s.core.cBeats))) ∧
        OrOf 128 (fun j => (r j).2) fl ∧
        ∀ j < 128, elInt 6 (elNat 6 (v (j % 2)) (j / 2)) = (r j).1 ∧
          let x := elNat 12 (s.readV va) j
          let t := roundInt 1 (numOf Fmt.f32 x * (2 : Rat) ^ (40 - e))
          (fNaN Fmt.f32 x = true → r j = (0, fNV)) ∧ (∀ m, x = fInf Fmt.f32 m → r j = (if m then -big else big, fFXS)) ∧
          (IsNum Fmt.f32 x → r j = (max (-big) (min big t), flagIf (decide (big < t.natAbs)) fFXS))) ∧
    (ty = 10 ∨ ty = 12 → va.toNat % 2 = 0 →
      ∃ (v : VWord) (fl : FFlags) (r : Nat → Nat × FFlags),
        VecGives s (.vunfix vd va gb ty) [vd.toNat, va.toNat, va.toNat + 1] vd v fl 19 16 ∧
        OrOf 128 (fun j => (r j).2) fl ∧
        (∀ k < elemCount ty, 128 ≤ k → elNat ty v k = 0) ∧
        ∀ j < 128, elNat ty v j = (r j).1 ∧
          RoundedOnce f 0 ((elInt 6 (elNat 6 (s.readV (BitVec.ofNat 4 (va.toNat + j % 2))) (j / 2)) : Rat) * (2 : Rat) ^ (e - 40)) (r j))

/-- R378, R379: a descriptor with a violation takes 0x12 with the index of the first one in cause bits 15–8; a well-formed one with m operators
completes in 8m beats, 8m + 4 distance units later, and evaluates its tokens on each element: pushes, then operators, each as its scalar operation in
f32 to nearest, with every flag raised, relu among them, which raises NV for a signalling NaN (R227); for f16 and bf16 the inputs are widened and the
result is rounded to nearest.
It rests on choices of the model: log 9 and 10. -/
def Obligations.Postfix_expressions : Prop :=
  ∀ (s : State) (vd va vb : VReg) (gd gs : GReg) (ty : BitVec 4), 10 ≤ ty.toNat ∧ ty.toNat ≤ 12 →
    let d := (s.readG gd).toNat
    let cnt := d % 16
    let tok (i : Nat) : Nat := d / 2 ^ (5 * i + 4) % 32
    let pops (t : Nat) : Nat := if t < 6 then 0 else if t = 9 then 3 else if t = 6 ∨ t = 7 ∨ t = 8 ∨ t = 10 ∨ t = 11 then 2 else 1
    let ops (i : Nat) : Nat := ((List.range i).filter (fun j => decide (6 ≤ tok j))).length
    let i := Instr.vex vd va vb gd gs ty
    let rs := [vd.toNat, va.toNat, vb.toNat]
    -- depth of the stack before token k
    ∃ depth : Nat → Int, depth 0 = 0 ∧ (∀ k, depth (k + 1) = depth k + 1 - pops (tok k)) ∧
      let bad (k : Nat) : Prop := 19 < tok k ∨ depth k < pops (tok k) ∨ 4 < depth (k + 1) ∨ 7 < ops (k + 1)
      let none_ : Prop := ∀ k < cnt, ¬ bad k
      let fails (x : Nat) : Prop := s.vregs rs = true →
        exec i s = .next (s.trapAt { rank := 7, info := infoOf 18 (x * 256) 0 0 0 })
      (cnt = 0 ∨ 11 < cnt → fails 255) ∧
      (∀ k, 1 ≤ cnt → cnt ≤ 11 → k < cnt → bad k → (∀ j < k, ¬ bad j) → fails k) ∧
      (1 ≤ cnt → cnt ≤ 11 → none_ → ops cnt = 0 ∨ depth cnt ≠ 1 → fails cnt) ∧
      (1 ≤ cnt → cnt ≤ 11 → none_ → ops cnt ≠ 0 → depth cnt = 1 →
        let m := ops cnt
        let t := scalarTy ty
        let el (v : VReg) (k : Nat) : Nat := elNat ty (s.readV v) k
        ∃ (v : VWord) (f : FFlags) (r : Nat → Nat × FFlags),
          VecGives s i rs vd v f (8 * m + 4) (8 * m) ∧ OrOf (elemCount ty) (fun k => (r k).2) f ∧
          ∀ k < elemCount ty, elNat ty v k = (r k).1 ∧
            ∃ (st : Nat → List Nat) (fl : Nat → FFlags) (x : Nat),
              st 0 = [] ∧ st cnt = [x] ∧
              (∀ j < cnt,
                let one (o : Instr) (l : Nat) : Prop :=
                  ∃ a q c, st j = a :: q ∧ ScalarOp 1 o l a 0 0 (c, fl j) ∧ st (j + 1) = c :: q
                let two (o : Instr) (l : Nat) : Prop :=
                  ∃ a b q c, st j = b :: a :: q ∧ ScalarOp 1 o l a b 0 (c, fl j) ∧ st (j + 1) = c :: q
                match tok j with
                | 6 => two (.fadd 3 1 2 1 0) 4
                | 7 => two (.fsub 3 1 2 1 0) 4
                | 8 => two (.fmul 3 1 2 1 0) 4
                | 9 => ∃ a b c q y, st j = c :: b :: a :: q ∧ ScalarOp 1 (.fma 3 1 2 1 0) 4 a b c (y, fl j) ∧ st (j + 1) = y :: q
                | 10 => two (.fmin 3 1 2 1) 1
                | 11 => two (.fmax 3 1 2 1) 1
                | 12 => ∃ a q, st j = a :: q ∧ st (j + 1) = a % 2 ^ 31 :: q ∧ fl j = 0
                | 13 => ∃ a q, st j = a :: q ∧ st (j + 1) = (a + 2 ^ 31) % 2 ^ 32 :: q ∧ fl j = 0
                | 14 => one (.frcp 3 1 1) 6
                | 15 => one (.fsqrt 3 1 1 0) 14
                | 16 => ∃ a q, st j = a :: q ∧ st (j + 1) = (exp2E (decodeF Fmt.f32 a)).1 :: q ∧ fl j = (exp2E (decodeF Fmt.f32 a)).2
                | 17 => ∃ a q, st j = a :: q ∧ st (j + 1) = (log2E (decodeF Fmt.f32 a)).1 :: q ∧ fl j = (log2E (decodeF Fmt.f32 a)).2
                | 18 => ∃ a q, st j = a :: q ∧ fl j = flagIf (fSig Fmt.f32 a) fNV ∧
                    st (j + 1) = (if fNaN Fmt.f32 a then Fmt.f32.nan else if fSign Fmt.f32 a then 0 else a) :: q
                | 19 => ∃ a q y z, st j = a :: q ∧ ScalarOp 1 (.fmax 3 1 2 1) 1 a 0 0 y ∧
                    ScalarOp 1 (.fmin 3 1 2 1) 1 y.1 0x3F800000 0 z ∧ st (j + 1) = z.1 :: q ∧ fl j = y.2 ||| z.2
                | t => fl j = 0 ∧ ∃ c, st (j + 1) = c :: st j ∧
                    let y := if t = 0 then el vd k else if t = 1 then el va k else if t = 2 then el vb k
                      else (s.readG gs).toNat % 2 ^ elemBits ty
                    if t = 4 then c = 0 else if t = 5 then c = 0x3F800000
                    else (ty = 12 → c = y) ∧ (IsNum (elemFmt ty) y → IsNum Fmt.f32 c ∧ numOf Fmt.f32 c = numOf (elemFmt ty) y) ∧
                      (∀ z, y = fInf (elemFmt ty) z → c = fInf Fmt.f32 z) ∧
                      (fNaN (elemFmt ty) y = true → fNaN Fmt.f32 c = true ∧ fSig Fmt.f32 c = fSig (elemFmt ty) y)) ∧
              (if ty = 12 then r k = (x, (r k).2) ∧ ∀ c < 6, (r k).2.getLsbD c = true ↔ ∃ j < cnt, (fl j).getLsbD c = true
               else ∃ y : Nat × FFlags, (r k).1 = y.1 ∧
                (∀ u : State, u.codeF 1 1 = x → FpGives u (.fcvt 3 1 t 0 1) 3 (BitVec.ofNat 64 y.1) y.2 3) ∧
                ∀ c < 6, (r k).2.getLsbD c = true ↔ y.2.getLsbD c = true ∨ ∃ j < cnt, (fl j).getLsbD c = true))

/-! ## Frames and control (R281-R306) -/

/-- The frame of word A: an instruction of word A without an at-issue cause that completes changes no byte and no poison, no register as it now
reads, no special register, neither pc nor privilege; it only adds results on their way, for its own destinations, and flags only where it is one
that can raise flags. The landing of a result then changes its register alone: every other register keeps its words, and every byte outside the
register's words stays; flags are added to `s.fps`, and an overflow count to `s.e8ov`, which saturates. -/
def Obligations.Frame_of_word_A : Prop :=
  (∀ (s t : State) (i : Instr), i.isA = true → i.wf = true → pickTrap (checksA i s) = none → exec i s = .next t →
     (∀ k, t.mem.byte k = s.mem.byte k) ∧ t.pois = s.pois ∧ t.tags = s.tags ∧
     (∀ r : GReg, t.readG r = s.readG r ∧ t.wordG r = s.wordG r) ∧ (∀ r : VReg, t.readV r = s.readV r ∧ t.wordsV r = s.wordsV r) ∧
     (∀ n < 22, t.readSr n = s.readSr n) ∧
     t.cx.pc = s.cx.pc ∧ t.cx.prv = s.cx.prv ∧ t.cx.dly = s.cx.dly ∧ t.cx.xfer = s.cx.xfer ∧ t.cx.after = s.cx.after ∧
     t.cx.liveIn = s.cx.liveIn ∧ t.cx.entry = s.cx.entry ∧ t.ops = s.ops ∧
     ∃ l, t.cx.pend = s.cx.pend ++ l ∧ ∀ p ∈ l, p.was = none ∧ s.cx.dist < p.land ∧
       (match p.res with
        | .g r _ => RegName.g r ∈ destsA i
        | .v r _ => RegName.v r ∈ destsA i
        | .fps _ => (flagLat i s).isSome = true
        | .e8ov _ => ∃ vd va gb ty, i = .vqe8 vd va gb ty)) ∧
  (∀ s : State,
     (∀ (r : GReg) (v : Word), let t := s.landOne (.g r v)
       (∀ q, t.wordG q = if q = r ∧ r ≠ 0 then v else s.wordG q) ∧ (∀ q, t.wordsV q = s.wordsV q) ∧
       (∀ k, k < s.wsKey (8 * r.toNat) ∨ s.wsKey (8 * r.toNat) + 8 ≤ k → t.mem.byte k = s.mem.byte k) ∧ t.cx = s.cx) ∧
     (∀ (r : VReg) (v : VWord), let t := s.landOne (.v r v)
       (∀ q, t.wordsV q = if q = r then v else s.wordsV q) ∧ (∀ q, t.wordG q = s.wordG q) ∧
       (∀ k, k < s.wsKey (512 + 512 * r.toNat) ∨ s.wsKey (512 + 512 * r.toNat) + 512 ≤ k → t.mem.byte k = s.mem.byte k) ∧ t.cx = s.cx) ∧
     (∀ f, s.landOne (.fps f) = s.setCx { s.cx with fps := s.cx.fps ||| f }) ∧
     (∀ n, s.landOne (.e8ov n) = s.setCx { s.cx with e8ov := BitVec.ofNat 16 (min (s.cx.e8ov.toNat + n) 0xFFFF) }))

/-- R282: where the control and system instructions may stand, and the cause each takes elsewhere. -/
def Obligations.Instructions_stand_where_allowed : Prop :=
  ∀ (s : State) (d : BitVec 22) (e : Imm 10) (f : Imm 17) (rd ra rb : GReg) (b : BitVec 6) (n : BitVec 3) (c : BitVec 8) (h : BitVec 5)
    (x : BitVec 32) (k : BitVec 16),
    let ill (i : Instr) : Prop := exec i s = .next (s.trapAt (illegal .c))
    let control := s.core.curCtx = 0
    (∀ i ∈ ([.br d, .call d, .bt ra b e, .bf ra b e, .bnz ra e, .bz ra e, .bse b e, .bsc b e, .callr ra, .jr ra, .ret] : List Instr),
      (s.cx.dly = true → exec i s = .next (s.trapAt delayTransfer)) ∧ (s.cx.dly = false → s.cx.rpa = true → ill i)) ∧
    (∀ i ∈ ([.rept n c h, .mark x] : List Instr), s.cx.dly = true ∨ s.cx.rpa = true → ill i) ∧
    (∀ i ∈ ([.start h f, .hjoin ra rb, .sexit] : List Instr), ¬ control ∨ s.cx.rpa = true → ill i) ∧
    (control ∨ s.cx.rpa = true → ill .hend) ∧
    (¬ control ∨ s.cx.rpa = true ∨ s.sl.disc = true → ill .yield) ∧
    (∀ i ∈ ([.sbarOr rd ra rb, .sbarAnd rd ra rb, .sbarMax rd ra rb, .xend rb] : List Instr),
      ¬ control ∨ s.cx.rpa = true ∨ s.sl.disc = false → ill i) ∧
    (s.sl.disc = false → ill (.vote rd)) ∧
    (∀ i ∈ ([.trap k, .brk, .cwait rd ra rb, .qwait rd rb, .mwait rb] : List Instr), s.cx.rpa = true → ill i) ∧
    (∀ i ∈ ([.halt, .swp rd ra] : List Instr), (s.cx.rpa = true → ill i) ∧
      (s.cx.rpa = false → s.cx.prv = false → exec i s = .next (s.trapAt (privileged 0)))) ∧
    (s.cx.rpa = true ∨ s.cx.dly = true → ill .rfe) ∧
    (s.cx.rpa = false → s.cx.dly = false → s.cx.prv = false → exec .rfe s = .next (s.trapAt (privileged 0)))

/-- R283, R284, R210: a transfer outside delay bundles and bodies sets its outcome, the target where it is taken and else P + 16; `call` and `callr`
also give g31 ← P + 16, one distance unit later; a register target that is no multiple of 8 takes 0x06; `bse` and `bsc` test `s.engst` as it stood when
their bundle issued (R177). The bundle that follows is the delay bundle,
and after it control is at the outcome; after any other bundle outside a body it is at the next bundle. Each bundle adds 1 + S to the distances. -/
def Obligations.Transfers : Prop :=
  (∀ s : State, s.cx.dly = false → s.cx.rpa = false →
    let pc := s.cx.pc
    let goes (t : State) (taken : Bool) (target : Word) : State := t.setCx { t.cx with xfer := some (if taken then target else pc + 16) }
    let linked := s.pendG .c 31 (pc + 16) 1
    let at_ (d : Int) : Word := BitVec.ofInt 64 (pc.toNat + 8 * d)
    let dsp : Imm 10 → Int := fun d => match d with
      | .short v => v.toInt
      | .ext x => x.toInt
    (∀ d : BitVec 22, exec (.br d) s = .next (goes s true (at_ d.toInt)) ∧ exec (.call d) s = .next (goes linked true (at_ d.toInt))) ∧
    (∀ (r : GReg) (b : BitVec 6) (d : Imm 10),
      exec (.bt r b d) s = .next (goes s ((s.readG r).getLsbD b.toNat) (at_ (dsp d))) ∧
      exec (.bf r b d) s = .next (goes s (!(s.readG r).getLsbD b.toNat) (at_ (dsp d))) ∧
      exec (.bnz r d) s = .next (goes s (decide (s.readG r ≠ 0)) (at_ (dsp d))) ∧
      exec (.bz r d) s = .next (goes s (decide (s.readG r = 0)) (at_ (dsp d))) ∧
      exec (.bse b d) s = .next (goes s ((s.issueSr 10).getLsbD b.toNat) (at_ (dsp d))) ∧
      exec (.bsc b d) s = .next (goes s (!(s.issueSr 10).getLsbD b.toNat) (at_ (dsp d)))) ∧
    (∀ r : GReg, ((s.readG r).toNat % 8 = 0 → exec (.callr r) s = .next (goes linked true (s.readG r)) ∧
        exec (.jr r) s = .next (goes s true (s.readG r)) ∧ (r = 31 → exec .ret s = .next (goes s true (s.readG 31)))) ∧
      ((s.readG r).toNat % 8 ≠ 0 → ∀ i ∈ ([.callr r, .jr r] ++ (if r = 31 then [.ret] else []) : List Instr),
        exec i s = .next (s.trapAt (misaligned (s.readG r)))))) ∧
  (∀ (s : State) (r : Nat), PlainEnd s → s.cx.rpa = false →
    let t := s.finish r
    t.cx.pc = (if s.cx.dly then s.cx.outc else s.cx.pc + 8) ∧ t.cx.dly = false ∧ t.cx.dist = s.cx.dist + 1 + s.core.stall ∧
    t.cx.pend = s.cx.pend ∧ t.mem = s.mem ∧ t.cx.ready = max s.cx.ready r) ∧
  (∀ (s : State) (r : Nat) (o : Word), PlainEnd (s.setCx { s.cx with xfer := none }) → s.cx.xfer = some o →
    let t := s.finish r
    t.cx.pc = s.cx.pc + 8 ∧ t.cx.dly = true ∧ t.cx.outc = o ∧ t.cx.xfer = none ∧ t.cx.dist = s.cx.dist + 1 + s.core.stall ∧
    t.mem = s.mem)

/-- R285 to R289: `nop`, `hint` and the guards have no effect of their own; a guard lets its partner execute where the bit equals its sense; `li`,
`lih` and `wait`; and `rept`, after whose bundle the next n bundles issue c times, with the pass number in RPC, before control goes on behind them.
It rests on choices of the model: log 29. -/
def Obligations.Constants_guards_and_repetition : Prop :=
  (∀ (s : State) (v : BitVec 22) (r rd : GReg) (b : BitVec 6) (m : Imm 17) (x : BitVec 32),
    exec .nopC s = .next s ∧ exec (.hintC v) s = .next s ∧ exec (.guard r b) s = .next s ∧ exec (.guardn r b) s = .next s ∧
    s.partnerRuns (.guard r b) = (s.readG r).getLsbD b.toNat ∧ s.partnerRuns (.guardn r b) = !(s.readG r).getLsbD b.toNat ∧
    (∀ i : Instr, (∀ q c, i ≠ .guard q c ∧ i ≠ .guardn q c) → s.partnerRuns i = true) ∧
    Gives s (.li rd m) .c rd (BitVec.ofInt 64 (match m with
      | .short k => k.toInt
      | .ext k => k.toInt)) 1 ∧
    Gives s (.lih rd x) .c rd (BitVec.ofNat 64 (x.toNat * 2 ^ 32 + (s.readG rd).toNat % 2 ^ 32)) 1) ∧
  -- wait n: the context waits n cycles more, and its distances grow by n
  (∀ (s : State) (n : BitVec 12), ∃ t, exec (.wait n) s = .next t ∧ (n = 0 → t = s) ∧
    (n ≠ 0 → s.cx.haltMark = true → t = s.haltNow 0x414 none 0) ∧
    (n ≠ 0 → s.cx.haltMark = false → s.cx.stop = true → ∃ w : Waiting, t = s.setCx { s.cx with wait := some w } ∧ w.kind = .plain ∧ w.limit = 0) ∧
    (n ≠ 0 → s.cx.haltMark = false → s.cx.stop = false → ∃ w : Waiting, t = s.setCx { s.cx with wait := some w } ∧ w.kind = .plain ∧ w.count = 0 ∧
      ∀ u : State, u.cx.live = true → u.cx.stopped = false → u.cx.wait = some { w with count := n.toNat - 1 } → u.cx.xfer = none →
        u.cx.rpa = false → u.cx.after = none → u.cx.bnd = false → u.cx.stop = false → u.cx.haltMark = false →
        u.sl.ctxs.any (fun x => x.stepping) = false →
        u.ctxCycle.cx.wait = none ∧ u.ctxCycle.cx.dist = u.cx.dist + 1 + s.core.stall + n.toNat ∧
        u.ctxCycle.cx.ready = max u.cx.ready (u.core.cyc + s.core.stall + 1))) ∧
  (∀ (s : State) (n : BitVec 3) (c : BitVec 8) (k : BitVec 5), s.cx.dly = false → s.cx.rpa = false →
    ∃ t, exec (.rept n c k) s = .next t ∧ t.mem = s.mem ∧ (∀ r, t.readG r = s.readG r) ∧ t.cx.rep.k = k.toNat ∧
      (s.cx.xfer = none → ∀ j ≤ (n.toNat + 1) * (c.toNat + 1),
        let x := (Nat.repeat Ctx.moved (j + 1) t.cx)
        if j < (n.toNat + 1) * (c.toNat + 1) then
          x.rpa = true ∧ x.rpc = BitVec.ofNat 8 (j / (n.toNat + 1)) ∧ x.pc = s.cx.pc + 8 + BitVec.ofNat 64 (8 * (j % (n.toNat + 1)))
        else x.rpa = false ∧ x.pc = s.cx.pc + 8 + BitVec.ofNat 64 (8 * (n.toNat + 1)))) ∧
  -- the register fields of a body's A instruction advance, a field that names g0 stays
  (∀ (p : Nat) (rd ra rb : GReg) (vd va vb : VReg) (w : Bool) (ty gi : BitVec 4) (gb : GReg),
    let g (r : GReg) : GReg := if r = 0 then 0 else BitVec.ofNat 5 (r.toNat + p)
    let v (r : VReg) : VReg := BitVec.ofNat 4 (r.toNat + p)
    advanceA p (.add rd ra rb w) = .add (g rd) (g ra) (g rb) w ∧ advanceA p (.vadd vd va vb ty) = .vadd (v vd) (v va) (v vb) ty ∧
    advanceA p (.vsel vd va vb ty vd) = .vsel (v vd) (v va) (v vb) ty (v vd) ∧
    advanceA p (.vext vd gi gb ty) = .vext (v vd) (if gi = 0 then 0 else v gi) (g gb) ty ∧
    advanceA p (.vex vd va vb ra rb ty) = .vex (v vd) (v va) (v vb) (g ra) (g rb) ty)

/-- R261, R290, R291: `getsr` gives the register as it stands when its bundle issues, two distance units later, also where the bundle is held (R206);
`setsr` writes its writable bits, leaves every other special
register (but that a write of the receive queue's base or size clears its counts), every register and every byte; a number above 21 takes 0x01, and
an RS register at user privilege 0x03.
It rests on choices of the model: log 76. -/
def Obligations.Special_registers : Prop :=
  ∀ (s : State) (r : GReg) (n : BitVec 12),
    let sup := n.toNat ∈ [15, 16, 19, 21]
    (22 ≤ n.toNat → exec (.getsr r n) s = .next (s.trapAt (illegal .c)) ∧ exec (.setsr r n) s = .next (s.trapAt (illegal .c))) ∧
    (sup → s.cx.prv = false → exec (.getsr r n) s = .next (s.trapAt (privileged n.toNat)) ∧
      exec (.setsr r n) s = .next (s.trapAt (privileged n.toNat))) ∧
    (n.toNat < 22 → (sup → s.cx.prv = true) →
      Gives s (.getsr r n) .c r (s.issueSr n.toNat) 2 ∧ (s.cx.cap = none → s.issueSr n.toNat = s.readSr n.toNat) ∧
      (∀ u : State, u.cx.cap = s.capture.cx.cap → u.issueSr n.toNat = s.readSr n.toNat) ∧
      ∃ t, exec (.setsr r n) s = .next t ∧
        t.readSr n.toNat = (if srMask n.toNat = 0 then s.readSr n.toNat
          else s.readG r &&& srMask n.toNat ||| (if n = 10 then s.readSr 10 &&& 0x1111111111111111 else 0)) ∧
        (∀ m < 22, m ≠ n.toNat → t.readSr m = if (n = 15 ∨ n = 16) ∧ (m = 17 ∨ m = 18) then 0 else s.readSr m) ∧
        (∀ q, t.readG q = s.readG q) ∧ (∀ q, t.readV q = s.readV q) ∧ t.mem = s.mem ∧ t.pois = s.pois ∧ t.cx.pc = s.cx.pc ∧
        t.cx.prv = s.cx.prv ∧ t.cx.pend = s.cx.pend) ∧
    s.readSr 0 = s.cx.wp ∧ s.readSr 1 = BitVec.ofNat 64 s.core.curCtx.val ∧ s.readSr 2 = BitVec.ofNat 64 s.core.id.toNat ∧
    s.readSr 3 = BitVec.ofNat 64 s.modId.toNat ∧ s.readSr 6 = BitVec.ofNat 64 (s.pace.toNat % 2 ^ 48) ∧
    s.readSr 7 = BitVec.ofNat 64 s.core.cyc ∧ s.readSr 9 = BitVec.ofNat 64 s.sl.brem.toNat ∧
    (∀ i : Fin 16, (s.readSr 10).getLsbD (4 * i.val) = decide (s.sl.jobs[i] ≠ 0) ∧
      (s.readSr 10).getLsbD (4 * i.val + 1) = s.sl.done.getLsbD i.val ∧ (s.readSr 10).getLsbD (4 * i.val + 2) = s.sl.flt.getLsbD i.val)

/-- R292, R293, R296, R297, R298: `start` makes a helper live at its pc with a cleared status block; `hend` ends one; `mark` sets the live-in mask;
`yield` makes a slice in service idle, or renews the quantum of class 3; `sexit` makes it leave and stops its helpers. Those that end a region are held
while the pending results land, each in its own cycle. -/
def Obligations.Helpers_and_regions : Prop :=
  ∀ s : State, s.cx.rpa = false →
    let control := s.core.curCtx = 0
    let landed := ∀ p ∈ s.cx.pend, p.cyc ≤ s.core.cyc
    let u := s.landAll
    (∀ (h : Fin 11) (d : Imm 17), control → h ≠ 0 → s.sl.ctxs[h].live = false →
      let wp := s.sl.base + (if s.sl.acc then 4096 else 0) + wsBytes (vecCount s.sl.eff.vcc) + (h.val - 1) * wsBytes (vecCount s.sl.eff.hvc)
      ∃ t, exec (.start (BitVec.ofNat 5 h.val) d) s = .next t ∧
        let c := t.sl.ctxs[h]
        c.live = true ∧ c.stopped = false ∧ c.wp = BitVec.ofNat 64 wp ∧ c.prv = s.cx.prv ∧ c.fpc = s.cx.fpc ∧ c.fps = 0 ∧ c.e8ov = 0 ∧
        c.pc = s.cx.pc + 8 * (match d with
          | .short v => BitVec.ofInt 64 v.toInt
          | .ext x => BitVec.ofInt 64 x.toInt) ∧
        c.entry = c.pc ∧ c.count = 0 ∧ c.ready = s.core.cyc + 1 ∧ c.pend = [] ∧
        -- what the slice has been told reaches the helper too (R214, R220), and its earlier stores still count (R193)
        c.stop = s.cx.stop ∧ c.haltMark = s.cx.haltMark ∧ c.mc0 = s.sl.ctxs[h].mc0 ∧
        (∀ k, coreKey s.core.id (wp + 0x108) ≤ k → k < coreKey s.core.id (wp + 0x190) → t.mem.byte k = 0) ∧
        (∀ k, k < coreKey s.core.id (wp + 0x108) ∨ coreKey s.core.id (wp + 0x190) ≤ k → t.mem.byte k = s.mem.byte k) ∧
        t.cx = { s.cx with bnd := true } ∧ ∀ g, g ≠ 0 → g ≠ h → t.sl.ctxs[g] = s.sl.ctxs[g]) ∧
    (∀ (h : Fin 11) (d : Imm 17), control → s.sl.ctxs[h].live = true →
      exec (.start (BitVec.ofNat 5 h.val) d) s = .next (s.trapAt (illegal .c))) ∧
    (¬ control → landed → ∃ t, exec .hend s = .next t ∧ t.cx.live = false ∧ t.cx.pend = [] ∧
      (∀ i : Fin 8, t.word (s.wsKey (0x150 + 8 * i.val)) = s.cx.ctr[i]) ∧ (∀ r, t.wordG r = u.wordG r) ∧ t.core.took = true) ∧
    (¬ landed → ∀ x : BitVec 32, ∀ i ∈ ((if control then [.sexit] ++ (if s.sl.disc then [] else [.yield]) else [.hend]) ++
        (if s.cx.dly then [] else [.mark x]) : List Instr),
      let v := s.landCycle
      exec i s = .next (v.setCx { v.cx with held := some (s.core.cyc + 1) })) ∧
    (∀ x : BitVec 32, s.cx.dly = false → landed →
      exec (.mark x) s = .next (u.setCx { u.cx with liveIn := x &&& 0xFFFFFFFE, bnd := true })) ∧
    (control → landed → s.sl.disc = false → ∃ t, exec .yield s = .next t ∧
      let serves := s.sl.st = .running ∨ s.sl.st = .ready
      (¬ serves → t.sl.st = s.sl.st ∧ t.sl.brem = s.sl.brem ∧ t.sl.dead = s.sl.dead) ∧
      (serves → s.sl.cls ≠ 3 → t.sl.st = .idle ∧ t.sl.brem = s.sl.brem ∧ t.sl.dead = s.sl.dead) ∧
      (serves → s.sl.cls = 3 → t.sl.st = s.sl.st ∧ t.sl.brem = s.sl.bud ∧ t.sl.dead = BitVec.ofNat 48 (s.pace.toNat + s.sl.per.toNat)) ∧
      t.core.evaluate = true ∧ t.cx.bnd = true ∧ t.cx.pend = [] ∧ (∀ k, t.mem.byte k = u.mem.byte k)) ∧
    (control → landed → ∃ t, exec .sexit s = .next t ∧ t.sl.st = .leaving ∧ t.cx.stopped = true ∧ t.core.evaluate = true ∧
      t.core.took = true ∧ ∀ c : Fin 11, t.sl.ctxs[c].live = true →
        t.sl.ctxs[c].stopped = true ∨ t.sl.ctxs[c].stop = true ∨ t.sl.ctxs[c].settle = some .entry ∨
          ∃ x y z, t.sl.ctxs[c].settle = some (.halt x y z))

/-- R295, R319, R327, R294, R301, R341, R299, R300: each bounded wait completes in its issue cycle where its condition holds already, takes the trap
that it finds recorded, and else leaves the context waiting, with the limit of its register, or, where it has been told to stop, discards its
progress, and where a halt marks it, is recorded there (R100, R220); `sbar` sends one arrival for its superstep number and
stops the charge; `vote` gives the last result. -/
def Obligations.Bounded_waits : Prop :=
  ∀ (s : State) (rd ra rb : GReg), s.cx.rpa = false →
    let a := s.readG ra
    let k := coreKey s.core.id a.toNat
    let control := s.core.curCtx = 0
    let wt (t : State) (kd : WaitKind) (r : GReg) (arg : Word) : State :=
      if s.cx.haltMark then t.haltNow 0x414 none 0
      else if s.cx.stop then t.dropProgress
      else t.setCx { t.cx with
        wait := some { kind := kd, rd := r, arg := arg, limit := s.readG rb, count := 0, stall := s.core.stall,
                          seen := if kd = .hjoin then t.sl.liveMask arg else 0, cancelled := false } }
    (a.toNat % 64 = 0 → s.sl.inPart a.toNat 64 = true → a.toNat < 393216 →
      let st := s.mem.rd k 8 % 4
      (st = 2 → Gives s (.cwait rd ra rb) .c rd (s.word (k + 8)) 3) ∧
      (st = 3 → exec (.cwait rd ra rb) s = .next (s.takeTrap
        { cause := s.word (k + 8), addr := s.word (k + 32), d0 := s.word (k + 40), d1 := s.word (k + 48) }
        ((s.word (k + 8)).getLsbD 63) (s.word (k + 16) &&& ~~~7#64) (s.word (k + 24)) ((s.word (k + 16)).getLsbD 0))) ∧
      (st < 2 → exec (.cwait rd ra rb) s = .next (wt s .cwait rd a))) ∧
    (a.toNat % 64 ≠ 0 → exec (.cwait rd ra rb) s = .next (s.trapAt (misaligned a))) ∧
    (s.sl.rqTail ≠ s.sl.rqHead → Gives s (.qwait rd rb) .c rd (BitVec.ofNat 64 (s.sl.rqBase.toNat * 32 +
      32 * (min s.sl.rqMax.toNat 16 + 1) * (s.sl.rqHead.toNat % s.sl.rqSlots.toNat))) 2) ∧
    (s.sl.rqTail = s.sl.rqHead → exec (.qwait rd rb) s = .next (wt s .qwait rd 0)) ∧
    (control →
      let named := ∃ h : Fin 11, h ≠ 0 ∧ a.getLsbD h.val = true ∧ s.sl.ctxs[h].live = true
      (¬ named → exec (.hjoin ra rb) s = .next s) ∧ (named → exec (.hjoin ra rb) s = .next (wt s .hjoin 0 a))) ∧
    (s.sl.acc = true →
      (s.sl.jobs[(0 : Fin 16)] = 0 → s.sl.mflt = none → exec (.mwait rb) s = .next s) ∧
      (∀ r, s.sl.jobs[(0 : Fin 16)] = 0 → s.sl.mflt = some r →
        exec (.mwait rb) s = .next ((s.setSl { s.sl with mflt := none }).takeTrap r.info r.iss.prv r.iss.pc r.iss.npc r.iss.d)) ∧
      (s.sl.jobs[(0 : Fin 16)] ≠ 0 → exec (.mwait rb) s = .next (wt s .mwait 0 0))) ∧
    (s.sl.acc = false → exec (.mwait rb) s = .next (s.trapAt (accessTrap 17 256 s.cx.pc 0 0))) ∧
    (control → s.sl.disc = true →
      let close := (s.sl.window.getD 0).toNat + s.sl.eff.xlen.toNat
      (s.sl.opened = false → exec (.xend rb) s = .next s) ∧
      (s.sl.opened = true → close ≤ s.pace.toNat → exec (.xend rb) s = .next (s.setSl { s.sl with opened := false })) ∧
      (s.sl.opened = true → s.pace.toNat < close → exec (.xend rb) s = .next (wt s .xend 0 0)) ∧
      (∀ p ∈ ([(.sbarOr rd ra rb, 0), (.sbarAnd rd ra rb, 1), (.sbarMax rd ra rb, 2)] : List (Instr × BitVec 2)),
        let n := s.readG rd
        ∃ t u : State, exec p.1 s = .next t ∧ u.sl.counting = false ∧ u.sl.lastArr = some n ∧ u.sl.go = s.sl.go ∧
          u.mem = s.mem ∧ u.pace = s.pace ∧
          (s.sl.lastArr = some n → u.ops = s.ops) ∧
          (s.sl.lastArr ≠ some n → ∃ o, u.ops = s.ops ++ [o] ∧ o.req = .arrival n a p.2 ∧ o.stage = .flight) ∧
          ((∀ g, s.sl.go = some g → g.num ≠ n) → t = wt u .sbar 0 n) ∧
          (∀ g, s.sl.go = some g → g.num = n →
            (g.w.toNat ≤ g.tick.toNat → t = u.trapNow (infoOf 14 1024 0 g.w g.tick)) ∧
            (g.tick.toNat < g.w.toNat → s.sl.window = some g.w → t = u.setSl { u.sl with vote := g.v, opened := true }) ∧
            (g.tick.toNat < g.w.toNat → s.sl.window ≠ some g.w → t = wt u .sbar 0 n)))) ∧
    (s.sl.disc = true → Gives s (.vote rd) .c rd s.sl.vote 2)

/-- R302, R303, R304, R207: `trap`, `brk` and `halt` are taken after their bundle, here where no result has still to land: the record holds the pc of the next bundle, and the bundle's own
pc as the trap address; `halt` without krabex stops the slice (its record is said here for a slice of one live context whose fault domain is the
root). -/
def Obligations.Software_traps_follow_their_bundle : Prop :=
  ∀ (s : State) (r : Nat), PlainEnd s → s.cx.rpa = false → s.cx.dly = false → s.cx.owing s.core.cyc = false →
    let fits (u : State) (c : Nat) : Prop :=
      let w (off : Nat) : Word := u.word (s.wsKey off)
      w 0x110 = withPpv (BitVec.ofNat 64 c) s.cx.prv ∧ w 0x118 = s.cx.pc + 8 ∧ w 0x120 = s.cx.pc + 16 ∧ w 0x128 = s.cx.pc ∧
      u.cx.prv = true ∧ u.cx.pend = [] ∧ u.cx.dly = false
    let vec : Word := BitVec.ofNat 64 (s.sl.trv.toNat * 8)
    (s.sl.trv ≠ 0 → s.cx.pc + 8 ≠ vec ∨ s.cx.prv = false →
      (∀ k : BitVec 16, ∃ t, exec (.trap k) s = .next t ∧ fits (t.finish r) (0x13 + k.toNat * 256) ∧ (t.finish r).cx.pc = vec) ∧
      (s.sl.attached = false → ∃ t, exec .brk s = .next t ∧ fits (t.finish r) 0x14 ∧ (t.finish r).cx.pc = vec)) ∧
    (s.cx.prv = true → s.cx.live = true → s.sl.attached = false →
      ∃ t, exec .halt s = .next t ∧ (t.finish r).sl.st = .stopped ∧ (t.finish r).cx.stopped = true ∧
        (s.sl.eff.fdom = none → (∀ c, c ≠ s.core.curCtx → s.sl.ctxs[c].live = false) → fits (t.finish r) 0x414))

/-- R305: `swp` at supervisor privilege moves the context to an aligned workspace of the partition: registers read there from the next bundle on,
the counters go to the old one and come from the new one, and rd gets the old pointer; the bundle that follows issues 4 cycles after its stall count has
run out. It is held while results of earlier bundles land, each in its own cycle, in the old workspace.
It rests on choices of the model: log 16. -/
def Obligations.Workspace_swap : Prop :=
  ∀ (s : State) (rd ra : GReg),
    let a := s.readG ra
    let n := wsBytes (s.sl.declared s.core.curCtx)
    s.cx.prv = true → s.cx.rpa = false → a.toNat % 512 = 0 → s.sl.inPart a.toNat n = true → a.toNat < 393216 →
    (s.owesBefore = true →
      let v := s.landBefore
      exec (.swp rd ra) s = .next (v.setCx { v.cx with held := some (s.core.cyc + 1) })) ∧
    (s.cx.pend = [] → a.toNat + n ≤ s.cx.wp.toNat ∨ s.cx.wp.toNat + 512 ≤ a.toNat →
     ∃ t, exec (.swp rd ra) s = .next t ∧ t.cx.wp = a ∧ t.cx.ready = max (s.issueCyc + 4 + s.waitOut s.core.stall) (s.core.cyc + 4) ∧
      (∀ r : GReg, r ≠ 0 → t.wordG r = s.word (coreKey s.core.id (a.toNat + 8 * r.toNat))) ∧
      (∀ i : Fin 8, t.word (s.wsKey (0x150 + 8 * i.val)) = s.cx.ctr[i] ∧
        t.cx.ctr[i] = s.word (coreKey s.core.id (a.toNat + 0x150 + 8 * i.val))) ∧
      (∀ k, k < s.wsKey 0x150 ∨ s.wsKey 0x190 ≤ k → t.mem.byte k = s.mem.byte k) ∧
      (rd ≠ 0 → ∃ p, t.cx.pend = [p] ∧ p.res = .g rd s.cx.wp ∧ p.land = s.cx.dist + 1) ∧ (rd = 0 → t.cx.pend = []) ∧
      (s.core.curCtx = 0 → t.sl.wp = BitVec.ofNat 10 (a.toNat / 512)))

/-! ## Local memory (R107-R116, R307-R317) -/

/-- R107 to R109, R114, R115, R179, R309: where a local access of n bytes falls. The own scratchpad inside the partition; the injection entries, for
scalar loads and stores alone; the kick words, for an 8-byte store; the stack window, split by its depth between scratchpad, overflow area and 0x17;
every other address is out of range.
It rests on choices of the model: log 33. -/
def Obligations.Local_address_map : Prop :=
  ∀ (s : State) (k : LKind) (a : Word) (n align : Nat), 1 ≤ n → n ≤ 512 → n = align ∨ n = 512 →
    let x := a.toNat
    let al := x % align = 0
    let own (off : Nat) : Located := .found (.own (coreKey s.core.id off))
    let top := s.sl.base + s.sl.pkb.toNat * 1024
    let spl := s.sl.spl.toNat * 1024
    let l := top - spl
    let d := 0x200000 - x
    let osz := s.sl.ovp.toNat % 65536 * 65536
    let va : Word := BitVec.ofNat 64 (s.sl.ovp.toNat / 65536 * 65536) - BitVec.ofNat 64 (d - l)
    (x < 0x60000 → s.locate k a n align =
      if ¬ (s.sl.base ≤ x ∧ x + n ≤ top) then .bad (outOfRange a) else if ¬ al then .bad (misaligned a) else own x) ∧
    (0x70000 ≤ x → x + n ≤ 0x70400 → s.locate k a n align =
      if k = .atomic then .bad (outOfRange a) else if ¬ al then .bad (misaligned a)
      else if k = .load ∨ k = .store then own x else .bad (outOfRange a)) ∧
    (0x71000 ≤ x → x < 0x71400 → k = .store → n = 8 → align = 8 →
      s.locate k a n align = if ¬ al then .bad (misaligned a) else if x % 16 = 0 then
        .found (.kick (BitVec.ofNat 12 (slabOf s.core.id * 64 + (x - 0x71000) / 16))) else .bad (outOfRange a)) ∧
    (0x71000 ≤ x → x < 0x71400 → k = .load ∨ k = .vload ∨ k = .vstore ∨ k = .vplain ∨ k = .atomic → (k ≠ .atomic → al) →
      s.locate k a n align = .bad (outOfRange a)) ∧
    (0x100000 ≤ x → x < 0x200000 →
      (k = .atomic ∨ k = .vplain ∧ al → s.locate k a n align = .bad (outOfRange a)) ∧
      (k ≠ .atomic → ¬ al → s.locate k a n align = .bad (misaligned a)) ∧
      (k = .load ∨ k = .store ∨ k = .vload ∨ k = .vstore → al → x + n ≤ 0x200000 →
        (spl < s.sl.dataBase ∨ top < spl → s.locate k a n align = .bad (outOfRange a)) ∧
        (s.sl.dataBase ≤ spl → spl ≤ top →
          (d ≤ l → s.locate k a n align = own (top - d)) ∧
          (l + n ≤ d → d ≤ l + osz → s.locate k a n align =
            if va.toNat / 2 ^ 57 = 64 then .found (.glob va) else .bad (outOfRange a)) ∧
          (l + osz + n ≤ d → s.locate k a n align = .bad (accessTrap 0x17 0 a 0 0)) ∧
          (l < d ∧ d < l + n ∨ l + osz < d ∧ d < l + osz + n → s.locate k a n align = .bad (misaligned a))))) ∧
    ((0x60000 ≤ x ∧ x < 0x70000) ∨ (0x70400 ≤ x ∧ x < 0x71000) ∨ (0x71400 ≤ x ∧ x < 0x100000) ∨ 0x200000 ≤ x →
      s.locate k a n align = .bad (outOfRange a))

/-- R307 to R310, R136, R188, R116: each local load. A forbidden ordering takes 0x02, a bad place its cause, a poisoned granule 0x0B; else the load waits
for what holds it and then completes with the little-endian value, extended, 3 distance units later (or 1, once the answer of the overflow area is
there, which no check precedes any more), changing no byte. A load of a counter word of a live context reads the counter itself (R223).
It rests on choices of the model: log 14. -/
def Obligations.Local_loads : Prop :=
  (∀ (s : State) (rd ra rb : GReg) (o : BitVec 2) (sc : BitVec 3) (off : Imm 7),
     let g := s.readG ra
     let x := s.readG ra + s.readG rb
     ∀ p ∈ ([(.ldI8 rd ra o sc off, g + offM 1 off, 1, true, sc), (.ldN8 rd ra o sc off, g + offM 1 off, 1, false, sc),
             (.ldI16 rd ra o sc off, g + offM 2 off, 2, true, sc), (.ldN16 rd ra o sc off, g + offM 2 off, 2, false, sc),
             (.ldI32 rd ra o sc off, g + offM 4 off, 4, true, sc), (.ldN32 rd ra o sc off, g + offM 4 off, 4, false, sc),
             (.ldD rd ra o sc off, g + offM 8 off, 8, true, sc),
             (.ldxI8 rd ra rb o, x, 1, true, 0), (.ldxN8 rd ra rb o, x, 1, false, 0), (.ldxI16 rd ra rb o, x, 2, true, 0),
             (.ldxN16 rd ra rb o, x, 2, false, 0), (.ldxI32 rd ra rb o, x, 4, true, 0), (.ldxN32 rd ra rb o, x, 4, false, 0),
             (.ldxD rd ra rb o, x, 8, true, 0)] : List (Instr × Word × Nat × Bool × BitVec 3)),
       let i := p.1
       let a := p.2.1
       let n := p.2.2.1
       let ext (v : Nat) : Word := if p.2.2.2.1 then sxN (8 * n) v else BitVec.ofNat 64 (v % 256 ^ n)
       Answered s i (fun d u => ((u.watch a.toNat n false).tally 6 1).pendG .c rd (ext d.toNat) 1) ∧
       (s.cx.spill = none → o.getLsbD 1 = true → exec i s = .next (s.trapAt badOrder)) ∧
       (s.cx.spill = none → o.getLsbD 1 = false →
         (∀ t, s.locate .load a n n = .bad t → exec i s = .next (s.trapAt t)) ∧
         (∀ key, s.locate .load a n n = .found (.own key) →
           (∀ q, firstPoison s.pois key n = some q →
             exec i s = .next (s.trapAt (accessTrap 0x0B 0 (a + BitVec.ofNat 64 q - BitVec.ofNat 64 key) 0 0))) ∧
           (firstPoison s.pois key n = none →
             (¬ Unheld s o key n → exec i s = .next (heldOver s (o.getLsbD 1))) ∧
             (Unheld s o key n → ∃ v : Nat, exec i s = .next (((s.watch a.toNat n false).tally 6 1).pendG .c rd (ext v) 3) ∧
               ((∀ c : Fin 11, s.sl.ctxs[c].live = true → key + n ≤ coreKey s.core.id (s.sl.ctxs[c].wp.toNat + 0x150) ∨
                   coreKey s.core.id (s.sl.ctxs[c].wp.toNat + 0x190) ≤ key) →
                 v < 256 ^ n ∧ ∀ j < n, byteOf v j = (s.mem.byte (key + j)).toNat)))) ∧
         (∀ va, s.locate .load a n n = .found (.glob va) →
           Over s i o p.2.2.2.2 0 va n))) ∧
  (∀ (s : State) (rd ra : GReg) (c : Fin 11) (j : Fin 8),
     let a := s.readG ra
     a.toNat = s.sl.ctxs[c].wp.toNat + 0x150 + 8 * j.val → a.toNat % 8 = 0 → s.sl.inPart a.toNat 8 = true → a.toNat < 0x60000 →
     s.sl.ctxs[c].live = true → s.sl.ctxs[c].stopped = false →
     (∀ d : Fin 11, d ≠ c → s.sl.ctxs[d].live = true → s.sl.ctxs[d].wp.toNat + 512 ≤ s.sl.ctxs[c].wp.toNat ∨
       s.sl.ctxs[c].wp.toNat + 512 ≤ s.sl.ctxs[d].wp.toNat) →
     s.cx.spill = none → firstPoison s.pois (coreKey s.core.id a.toNat) 8 = none → Unheld s 0 (coreKey s.core.id a.toNat) 8 →
     exec (.ldD rd ra 0 0 (.short 0)) s = .next (((s.watch a.toNat 8 false).tally 6 1).pendG .c rd s.sl.ctxs[c].ctr[j] 3))

/-- R307 to R310, R179, R188, R116: each local store. It completes with the low bytes of the register at its bytes and every other byte unchanged, no
pending result, pc or special register touched; a store to a kick word must be a release of a well-formed value, waits while the pump's queue or the
channel is full, and then sends the job and counts it in its channel; a store to the overflow area waits for its answer.
It rests on choices of the model: log 14 and 15. -/
def Obligations.Local_stores : Prop :=
  ∀ (s : State) (rs ra rb : GReg) (o : BitVec 2) (sc : BitVec 3) (off : Imm 7),
    let g := s.readG ra
    let x := s.readG ra + s.readG rb
    let v := s.readG rs
    ∀ p ∈ ([(.stB rs ra o sc off, g + offM 1 off, 1, sc), (.stH rs ra o sc off, g + offM 2 off, 2, sc),
            (.stW rs ra o sc off, g + offM 4 off, 4, sc), (.stD rs ra o sc off, g + offM 8 off, 8, sc),
            (.stxB rs ra rb o, x, 1, 0), (.stxH rs ra rb o, x, 2, 0), (.stxW rs ra rb o, x, 4, 0), (.stxD rs ra rb o, x, 8, 0)] :
              List (Instr × Word × Nat × BitVec 3)),
      let i := p.1
      let a := p.2.1
      let n := p.2.2.1
      Answered s i (fun _ u => (u.watch a.toNat n true).tally 7 1) ∧
      (s.cx.spill = none → o.getLsbD 0 = true → exec i s = .next (s.trapAt badOrder)) ∧
      (s.cx.spill = none → o.getLsbD 0 = false →
        (∀ t, s.locate .store a n n = .bad t → exec i s = .next (s.trapAt
          (if 0x71000 ≤ a.toNat ∧ a.toNat < 0x71400 ∧ a.toNat % 16 < 8 ∧ o ≠ 2 then badOrder else t))) ∧
        (∀ key, s.locate .store a n n = .found (.own key) →
          (¬ Unheld s o key n → exec i s = .next (heldOver s (o.getLsbD 1))) ∧
          (Unheld s o key n → ∃ t w, exec i s = .next t ∧ t = (((s.putGood key n w).watch a.toNat n true).tally 7 1) ∧ w < 256 ^ n ∧
            (∀ j < n, (t.mem.byte (key + j)).toNat = byteOf w j) ∧
            (key < coreKey s.core.id 0x70000 → ∀ j < n, byteOf w j = byteOf v.toNat j) ∧
            (coreKey s.core.id 0x70000 ≤ key → ∀ j < 8 * n,
              let q := 8 * ((key - coreKey s.core.id 0x70000) % 64) + j
              w.testBit j = (v.toNat.testBit j && decide ((11 ≤ q ∧ q ≤ 63) ∨ (128 ≤ q ∧ q ≤ 148) ∨ (160 ≤ q ∧ q ≤ 185)))) ∧
            (∀ k, k < key ∨ key + n ≤ k → t.mem.byte k = s.mem.byte k) ∧
            (∀ r : GReg, (key + n ≤ s.wsKey (8 * r.toNat) ∨ s.wsKey (8 * r.toNat) + 8 ≤ key) → t.wordG r = s.wordG r) ∧
            (∀ m < 22, t.readSr m = s.readSr m) ∧ t.cx.pc = s.cx.pc ∧ t.cx.prv = s.cx.prv ∧ t.cx.pend = s.cx.pend ∧ t.tags = s.tags)) ∧
        (∀ u, s.locate .store a n n = .found (.kick u) →
          let w := v.toNat
          let good := w < 2 ^ 28 ∧ w / 2 ^ 21 % 8 = 0 ∧ w % 2 ^ 21 % 64 = 0 ∧ s.sl.inPart (w % 2 ^ 21) 64 = true
          let ch : Fin 16 := Fin.ofNat 16 (w / 2 ^ 24)
          let queued := ((s.pumps.find? (fun q => q.id == u)).map (·.queue.length)).getD 0 +
            (s.ops.filter (fun q => match q.req with
              | .kick z _ => z == u
              | _ => false)).length
          (s.cx.rpa = true → exec i s = .next (s.trapAt (illegal .c))) ∧
          (s.cx.rpa = false → o ≠ 2 → exec i s = .next (s.trapAt badOrder)) ∧
          (s.cx.rpa = false → o = 2 → ¬ good → exec i s = .next (s.trapAt (outOfRange a))) ∧
          (s.cx.rpa = false → o = 2 → good → ¬ Unheld s o 0 0 → exec i s = .next (heldOver s true)) ∧
          (s.cx.rpa = false → o = 2 → good → Unheld s o 0 0 →
            (8 ≤ queued ∨ ch ≠ 0 ∧ 255 ≤ s.sl.jobs[ch] → exec i s = .next (heldOver s true)) ∧
            (queued < 8 → ch = 0 ∨ s.sl.jobs[ch] < 255 → ∃ t op, exec i s = .next t ∧ t.ops = s.ops ++ [op] ∧ op.req = .kick u v ∧
              op.stage = .flight ∧ t.sl.jobs[ch] = (if ch = 0 then s.sl.jobs[ch] else s.sl.jobs[ch] + 1) ∧ t.cx.bnd = true ∧
              t.mem = s.mem ∧ ∀ r, t.wordG r = s.wordG r))) ∧
        (∀ va, s.locate .store a n n = .found (.glob va) →
          Over s i o p.2.2.2 1 va n))

/-- R311 to R314, R111, R119, R188: the vector accesses. At issue each begins its beats, which occupy the datapath and the context's local accesses, with
one piece for each granule that holds a selected byte, or for each element of a gather or scatter at its own address; a load has the register's own
value on its way, into which its pieces go. In each cycle of its beats some of the pieces are performed, in the last one all that are left: a load takes
the bytes of memory as they then stand, a store writes its bytes and leaves every other byte, the highest index of a scatter prevailing. `vldt` takes 0x0D
on a tag that differs; `vstt` writes the tag after its last piece.
It rests on choices of the model: log 14 and 67. -/
def Obligations.Vector_accesses : Prop :=
  (∀ (s : State) (v : VReg) (ra gt : GReg) (vm : VReg) (o : BitVec 2) (sc : BitVec 3) (el : BitVec 2) (off : Option (BitVec 32)),
    let a := s.readG ra + offV off
    let full := 2 ^ 512 - 1
    let mask := (s.readV vm).toNat % 2 ^ 512
    let want : BitVec 16 := (s.readG gt).setWidth 16
    let tag := s.tag s.core.id a.toNat
    let old := (s.readV v).toNat
    let kickHead (x : Word) : Prop := 0x71000 ≤ x.toNat ∧ x.toNat < 0x71400 ∧ x.toNat % 16 < 8
    -- the pieces of a mask of 512 bytes at a key
    let split (key m : Nat) (l : List Piece) : Prop := (∀ p ∈ l, p.key = key + p.off ∧ p.n = 8 ∧ p.off % 8 = 0 ∧ p.off < 512) ∧
      l.Pairwise (fun p q => p.off + 8 ≤ q.off) ∧
      ∀ j < 512, m.testBit j = true ↔ ∃ p ∈ l, p.off ≤ j ∧ j < p.off + 8 ∧ p.mask.testBit (j - p.off) = true
    -- what the issue of an access with n beats leaves
    let began (t : State) (load : Bool) (d : VWord) (n : Nat) (tg : Option (Nat × BitVec 16)) (l : List Piece) : Prop :=
      t.core.beats = some { slc := s.core.cur, ctx := s.core.curCtx, load := load, seq := if load then 2 * s.cx.seq else 0, data := d, pieces := l,
                            last := s.core.cyc + n - 1, tag := tg, op := none } ∧
      t.cx.locFree = s.core.cyc + n ∧ t.core.vecFree = max s.core.vecFree (s.core.cyc + n) ∧ t.mem = s.mem ∧ t.pois = s.pois ∧ t.tags = s.tags ∧
      (∀ q < 22, t.readSr q = s.readSr q) ∧ t.cx.pc = s.cx.pc
    let awaits (t : State) (w : VWord) (lat : Nat) : Prop := ∃ q, t.cx.pend = s.cx.pend ++ [q] ∧ q.res = .v v w ∧ q.seq = 2 * s.cx.seq ∧
      q.was = none ∧ q.land = s.cx.dist + lat
    -- the loads: instruction, kind, alignment, mask, the registers named
    (∀ p ∈ ([(.vld v ra o sc off, .vload, 64, full, [v.toNat]), (.vldm v ra vm o sc off, .vload, 64, mask, [v.toNat, vm.toNat]),
             (.vldt v ra gt o sc off, .vplain, 512, full, [v.toNat])] : List (Instr × LKind × Nat × Nat × List Nat)),
      let i := p.1
      let m := p.2.2.2.1
      let isT := p.2.1 = .vplain
      Answered s i (fun d u => (((u.watchMask a.toNat m false).tally 6 1).vbeats 8).pendV .c v
        (BitVec.ofNat 4096 (mixBytes m d.toNat old 512)) 1) ∧
      (s.cx.spill = none → s.vregs p.2.2.2.2 = false → exec i s = .next (s.trapAt (illegal .c))) ∧
      (s.cx.spill = none → s.vregs p.2.2.2.2 = true → o.getLsbD 1 = true → exec i s = .next (s.trapAt badOrder)) ∧
      (s.cx.spill = none → s.vregs p.2.2.2.2 = true → o.getLsbD 1 = false →
        (∀ t, s.locate p.2.1 a 512 p.2.2.1 = .bad t → exec i s = .next (s.trapAt t)) ∧
        (∀ key, s.locate p.2.1 a 512 p.2.2.1 = .found (.own key) →
          (∀ j < 512, m.testBit j = true → poisoned s.pois ((key + j) / 8 * 8) = true →
            (∀ l < j, m.testBit l = true → poisoned s.pois ((key + l) / 8 * 8) = false) →
            exec i s = .next (s.trapAt (accessTrap 0x0B 0 (a + BitVec.ofNat 64 ((key + j) / 8 * 8) - BitVec.ofNat 64 key) 0 0))) ∧
          ((∀ j < 512, m.testBit j = true → poisoned s.pois ((key + j) / 8 * 8) = false) →
            (isT → tag ≠ want → exec i s = .next (s.trapAt (accessTrap 0x0D 0 a (want.setWidth 64) (tag.setWidth 64)))) ∧
            ((isT → tag = want) → ¬ Unheld s o key 512 → exec i s = .next (heldOver s (o.getLsbD 1))) ∧
            ((isT → tag = want) → Unheld s o key 512 → ∃ t l, exec i s = .next t ∧ split key m l ∧ began t true 0 8 none l ∧
              awaits t (s.readV v) 11))) ∧
        (∀ va, s.locate p.2.1 a 512 p.2.2.1 = .found (.glob va) → Over s i o sc 0 va 512))) ∧
    -- the stores
    (∀ p ∈ ([(.vst v ra o sc off, .vstore, 64, full, [v.toNat]), (.vstm v ra vm o sc off, .vstore, 64, mask, [v.toNat, vm.toNat]),
             (.vstt v ra gt o sc off, .vplain, 512, full, [v.toNat])] : List (Instr × LKind × Nat × Nat × List Nat)),
      let i := p.1
      let m := p.2.2.2.1
      Answered s i (fun _ u => ((u.watchMask a.toNat m true).tally 7 1).vbeats 8) ∧
      (s.cx.spill = none → s.vregs p.2.2.2.2 = false → exec i s = .next (s.trapAt (illegal .c))) ∧
      (s.cx.spill = none → s.vregs p.2.2.2.2 = true → o.getLsbD 0 = true → exec i s = .next (s.trapAt badOrder)) ∧
      (s.cx.spill = none → s.vregs p.2.2.2.2 = true → o.getLsbD 0 = false →
        (∀ t, s.locate p.2.1 a 512 p.2.2.1 = .bad t →
          (kickHead a ∧ o ≠ 2 → exec i s = .next (s.trapAt badOrder)) ∧ (¬ (kickHead a ∧ o ≠ 2) → exec i s = .next (s.trapAt t))) ∧
        (∀ key, s.locate p.2.1 a 512 p.2.2.1 = .found (.own key) →
          (¬ Unheld s o key 512 → exec i s = .next (heldOver s (o.getLsbD 1))) ∧
          (Unheld s o key 512 → ∃ t l, exec i s = .next t ∧ split key m l ∧
            began t false (s.readV v) 8 (if p.2.1 = .vplain then some (a.toNat, want) else none) l ∧ t.cx.pend = s.cx.pend)) ∧
        (∀ va, s.locate p.2.1 a 512 p.2.2.1 = .found (.glob va) → Over s i o sc 1 va 512))) ∧
    -- gather and scatter
    (let es := 2 ^ el.toNat
     let e := min (512 / es) 256
     let at_ (j : Nat) : Word := a + BitVec.ofNat 64 (es * ((s.readV vm).toNat / 2 ^ (16 * j) % 65536))
     let key (j : Nat) : Nat := coreKey s.core.id (at_ j).toNat
     let elems_ : List Piece := (List.range e).map (fun j => { key := key j, off := es * j, n := es, mask := 2 ^ es - 1 })
     let fits (j : Nat) : Prop := s.locate .vplain (at_ j) es es = .found (.own (key j))
     let free (f : Nat → Prop) : Prop := s.localBusy = false ∧ (o.getLsbD 1 = true → s.released 0 = true) ∧
       ∀ j < e, s.crosses (key j) es = false ∧ f j
     s.vregs [v.toNat, vm.toNat] = true →
      (∀ j < e, ∀ t, s.locate .vplain (at_ j) es es = .bad t →
        (∀ l < j, fits l ∧ firstPoison s.pois (key l) es = none) →
        (o.getLsbD 1 = false → exec (.vgather v ra vm o sc el off) s = .next (s.trapAt t)) ∧
        (o.getLsbD 0 = false → ¬ (kickHead (at_ j) ∧ o ≠ 2) → exec (.vscatter v ra vm o sc el off) s = .next (s.trapAt t)) ∧
        (o.getLsbD 0 = false → kickHead (at_ j) ∧ o ≠ 2 → exec (.vscatter v ra vm o sc el off) s = .next (s.trapAt badOrder))) ∧
      (o.getLsbD 1 = false → (∀ j < e, fits j) → free (fun j => firstPoison s.pois (key j) es = none) →
        ∃ t, exec (.vgather v ra vm o sc el off) s = .next t ∧ began t true 0 ((e + 7) / 8) none elems_ ∧ awaits t 0 ((e + 7) / 8 + 3)) ∧
      (o.getLsbD 0 = false → (∀ j < e, fits j) → free (fun _ => True) →
        ∃ t, exec (.vscatter v ra vm o sc el off) s = .next t ∧ began t false (s.readV v) ((e + 7) / 8) none elems_ ∧ t.cx.pend = s.cx.pend))) ∧
  -- a cycle of the beats
  (∀ (s : State) (b : Beats), s.core.beats = some b →
    let t := s.beatTurn
    let left := (t.core.beats.map (·.pieces)).getD []
    let done (p : Piece) : Prop := p ∈ b.pieces ∧ p ∉ left
    let apart (p q : Piece) : Prop := p.key + p.n ≤ q.key ∨ q.key + q.n ≤ p.key
    let cxOf (u : State) : Ctx := u.core.slices[b.slc].ctxs[b.ctx]
    let plain (p : Piece) : Prop := ∀ c : Fin 11, s.core.slices[b.slc].ctxs[c].live = true →
      p.key + p.n ≤ coreKey s.core.id (s.core.slices[b.slc].ctxs[c].wp.toNat + 0x150) ∨
        coreKey s.core.id (s.core.slices[b.slc].ctxs[c].wp.toNat + 0x190) ≤ p.key
    (∀ p ∈ left, p ∈ b.pieces) ∧ (b.last ≤ s.core.cyc → left = []) ∧ (left = [] ↔ t.core.beats = none) ∧
    (b.load = false → t.ops = s.ops ∧ (cxOf t).pend = (cxOf s).pend ∧
      (∀ k, (∀ p ∈ b.pieces, k < p.key ∨ p.key + p.n ≤ k) → t.mem.byte k = s.mem.byte k) ∧
      (b.pieces.Pairwise apart → ∀ p ∈ b.pieces, ∀ j < p.n, (done p → p.mask.testBit j = true →
          (t.mem.byte (p.key + j)).toNat = byteOf b.data.toNat (p.off + j)) ∧
        (p ∈ left ∨ p.mask.testBit j = false → t.mem.byte (p.key + j) = s.mem.byte (p.key + j))) ∧
      (left = [] → ∀ (i : Nat) (p : Piece), b.pieces[i]? = some p → (∀ (j : Nat) (q : Piece), i < j → b.pieces[j]? = some q → apart p q) → ∀ j < p.n, p.mask.testBit j = true →
        (t.mem.byte (p.key + j)).toNat = byteOf b.data.toNat (p.off + j))) ∧
    (b.load = true → t.mem = s.mem ∧ t.pois = s.pois ∧ ∃ place : VWord → VWord,
      (b.op = none → t.ops = s.ops ∧ (cxOf t).pend = (cxOf s).pend.map (fun (q : Pending) => match q.res with
        | .v r w => if q.seq = b.seq then { q with res := .v r (place w) } else q
        | _ => q)) ∧
      (∀ id, b.op = some id → (cxOf t).pend = (cxOf s).pend ∧ ∀ o ∈ s.ops, o.id = id → ∀ a, o.req = .mem a →
        ∃ bad, { o with req := .mem { a with data := place a.data, pois := bad } } ∈ t.ops ∧
          ((∀ p ∈ b.pieces, p.off < 512) → ∀ g < 64, bad.getLsbD g = true ↔ a.pois.getLsbD g = true ∨
            ∃ p, done p ∧ p.off / 8 = g ∧ poisoned s.pois (p.key / 8 * 8) = true)) ∧
      (b.pieces.Pairwise (fun p q => p.off + p.n ≤ q.off) → (∀ p ∈ b.pieces, 0 < p.n ∧ p.off + p.n ≤ 512 ∧ plain p) → ∀ w,
        (∀ p, done p → ∀ j < p.n, p.mask.testBit j = true → byteOf (place w).toNat (p.off + j) = (s.mem.byte (p.key + j)).toNat) ∧
        (∀ j < 512, (∀ p, done p → j < p.off ∨ p.off + p.n ≤ j ∨ p.mask.testBit (j - p.off) = false) →
          byteOf (place w).toNat j = byteOf w.toNat j))) ∧
    (∀ g, b.tag = some g → g.1 < 524288 → ∀ co k, k < 524288 →
      t.tag co k = if left = [] ∧ co = s.core.id ∧ k / 512 = g.1 / 512 then g.2 else s.tag co k) ∧
    (b.tag = none → t.tags = s.tags))

/-- R315 to R317, R200, R202, R316: the local atomics read and write their bytes in one step, and give the old value, 4 distance units later; `cas`
writes only where the old value is the expected one; the place and alignment causes, and 0x0B. A fence ends at once where the earlier accesses of its
scope are complete, and else is waited for; an sc fence always waits, for the tick that follows.
It rests on choices of the model: log 33. -/
def Obligations.Local_atomics_and_fences : Prop :=
  (∀ (s : State) (rd ra rb : GReg) (o : BitVec 2) (dw : Bool),
    let a := s.readG ra
    let n := if dw then 8 else 4
    let w := 8 * n
    let key := coreKey s.core.id a.toNat
    let y := natN w (s.readG rb)
    let sg (z : Nat) : Int := Int.bmod z (2 ^ w)
    let bitw (f : Bool → Bool → Bool) (x z : Nat) : Prop := z < 2 ^ w ∧ ∀ j < w, z.testBit j = f (x.testBit j) (y.testBit j)
    -- instruction, the relation of the old value to what is written (none: nothing), and whether the old value is sign-extended
    ∀ p ∈ ([(.amoAdd rd ra rb o dw, fun x z => z = some ((x + y) % 2 ^ w), true),
            (.amoAnd rd ra rb o dw, fun x z => ∃ v, z = some v ∧ bitw (· && ·) x v, true),
            (.amoOr rd ra rb o dw, fun x z => ∃ v, z = some v ∧ bitw (· || ·) x v, true),
            (.amoXor rd ra rb o dw, fun x z => ∃ v, z = some v ∧ bitw (· != ·) x v, true),
            (.amoMin rd ra rb o dw, fun x z => z = some (if sg x ≤ sg y then x else y), true),
            (.amoMax rd ra rb o dw, fun x z => z = some (if sg x ≤ sg y then y else x), true),
            (.amoMinn rd ra rb o dw, fun x z => z = some (min x y), true),
            (.amoMaxn rd ra rb o dw, fun x z => z = some (max x y), true),
            (.amoSwap rd ra rb o dw, fun _ z => z = some y, true),
            (.amoFadd rd ra rb o dw, fun x z => ∃ r : Nat × FFlags, z = some r.1 ∧
              ScalarOp (if dw then 0 else 1) (.fadd 3 1 2 (if dw then 0 else 1) 0) 4 x y 0 r, false),
            (.cas rd ra rb o dw, fun x z => z = if x = natN w (s.readG rd) then some y else none, true)] :
              List (Instr × (Nat → Option Nat → Prop) × Bool)),
      let i := p.1
      (∀ t, s.locate .atomic a n n = .bad t → exec i s = .next (s.trapAt t)) ∧
      (s.locate .atomic a n n = .found (.own key) →
        (∀ q, firstPoison s.pois key n = some q →
          exec i s = .next (s.trapAt (accessTrap 0x0B 0 (a + BitVec.ofNat 64 q - BitVec.ofNat 64 key) 0 0))) ∧
        (firstPoison s.pois key n = none → ¬ Unheld s o key n → exec i s = .next (heldOver s (o.getLsbD 1))) ∧
        (firstPoison s.pois key n = none → Unheld s o key n → ∃ (x : Nat) (z : Option Nat) (t : State),
          p.2.1 x z ∧ x < 2 ^ w ∧
          exec i s = .next (t.pendG .c rd (if p.2.2 then sxN w x else BitVec.ofNat 64 x) 4) ∧
          (∀ v, z = some v → t.mem.rd key n = v) ∧ (z = none → t.mem = s.mem) ∧
          (∀ k, k < key ∨ key + n ≤ k → t.mem.byte k = s.mem.byte k) ∧ t.cx.pend = s.cx.pend ∧ (∀ m < 22, t.readSr m = s.readSr m) ∧
          ((∀ c : Fin 11, s.sl.ctxs[c].live = true → key + n ≤ coreKey s.core.id (s.sl.ctxs[c].wp.toNat + 0x150) ∨
              coreKey s.core.id (s.sl.ctxs[c].wp.toNat + 0x190) ≤ key) → x = s.mem.rd key n)))) ∧
  (∀ (s : State) (sc : BitVec 3),
    let waits (t : State) (strong : Bool) (k : Option Word) : Prop := t.mem = s.mem ∧ (∀ r, t.wordG r = s.wordG r) ∧
      ∃ f, t.cx.fence = some f ∧ f.scope = sc ∧ f.sc = strong ∧ f.stall = s.core.stall ∧ f.tick = k
    (s.released sc = true → exec (.fence sc) s = .next s) ∧
    (s.cx.haltMark = true → (s.released sc = false → exec (.fence sc) s = .next (s.haltNow 0x414 none 0)) ∧
      exec (.fenceSc sc) s = .next (s.haltNow 0x414 none 0)) ∧
    (s.cx.haltMark = false → s.cx.stop = true → (s.released sc = false → exec (.fence sc) s = .next s.dropProgress) ∧
      exec (.fenceSc sc) s = .next s.dropProgress) ∧
    (s.cx.haltMark = false → s.cx.stop = false → s.released sc = false → ∃ t, exec (.fence sc) s = .next t ∧ waits t false none) ∧
    (s.cx.haltMark = false → s.cx.stop = false → ∃ t, exec (.fenceSc sc) s = .next t ∧ waits t true (if s.released sc then
      some (BitVec.ofNat 64 (if sc.toNat < 4 then s.pace.toNat + 1
        else (s.pace.toNat / (s.config.mPace.toNat + 1) + 1) * (s.config.mPace.toNat + 1))) else none)))

/-! ## Operations in the background (R318-R343) -/

/-- R320 to R322: each split-phase access, once its address, ordering, completion slot and operands pass, enters the injector: one operation with its
kind, slot, access and operands, held if it is a release, and lost where the default route of its core leads nowhere (R32); its slot reads ST = 1 with
its KIND, every other byte stays, and a boundary follows. The slot's state word is written in program order, so that the bundle is held while an earlier
local access is still to perform (R188, R189). `xvst` reads its source in 8 beats of the datapath, and its request is held until it has. In a body it takes 0x01; a forbidden ordering 0x02; a misaligned address 0x06; one of no global or core-space form 0x07; a refused one 0x0A; the
invalidation word at user privilege 0x03. A core with 64 of them outstanding holds the bundle. -/
def Obligations.Split_phase_accesses_begin : Prop :=
  ∀ (s : State) (rv ra rc : GReg) (o : BitVec 2) (sc : BitVec 3) (sz : BitVec 2) (dw : Bool),
    let a := s.readG ra
    let v := s.readG rv
    let gc := s.readG rc
    let n := 2 ^ sz.toNat
    let m := if dw then 8 else 4
    let okL := o.getLsbD 1 = false
    let okS := o.getLsbD 0 = false
    let inOwn (x : Word) (len al : Nat) : Prop := x.toNat % al = 0 ∧ x.toNat < 0x60000 ∧ s.sl.inPart x.toNat len = true
    let slot := coreKey s.core.id gc.toNat
    -- instruction, is the ordering legal, size, KIND of the slot, access kind, value sent, operation, expected value, the local operand's bytes
    ∀ p ∈ ([(.xld ra rc o sc sz, okL, n, 1, 0, 0, 0, 0, False), (.xst rv ra rc o sc sz, okS, n, 2, 1, v.toNat, 0, 0, False),
            (.xvld rv ra rc o sc, okL, 512, 3, 0, 0, 0, 0, True), (.xvst rv ra rc o sc, okS, 512, 4, 1, 0, 0, 0, True),
            (.xamoAdd rv ra rc o sc dw, True, m, 5, 2, v.toNat, 0, 0, False), (.xamoAnd rv ra rc o sc dw, True, m, 5, 2, v.toNat, 1, 0, False),
            (.xamoOr rv ra rc o sc dw, True, m, 5, 2, v.toNat, 2, 0, False), (.xamoXor rv ra rc o sc dw, True, m, 5, 2, v.toNat, 3, 0, False),
            (.xamoMin rv ra rc o sc dw, True, m, 5, 2, v.toNat, 4, 0, False), (.xamoMax rv ra rc o sc dw, True, m, 5, 2, v.toNat, 5, 0, False),
            (.xamoMinn rv ra rc o sc dw, True, m, 5, 2, v.toNat, 6, 0, False), (.xamoMaxn rv ra rc o sc dw, True, m, 5, 2, v.toNat, 7, 0, False),
            (.xamoSwap rv ra rc o sc dw, True, m, 5, 2, v.toNat, 8, 0, False), (.xamoFadd rv ra rc o sc dw, True, m, 5, 2, v.toNat, 9, 0, False),
            (.xcas rv ra rc o sc dw, True, m, 6, 2, (s.readG (rv + 1)).toNat, 10, v, False)] :
              List (Instr × Prop × Nat × BitVec 8 × BitVec 2 × Nat × BitVec 4 × Word × Prop)),
      let i := p.1
      let ok := p.2.1
      let len := p.2.2.1
      let kind := p.2.2.2.1
      let local_ := p.2.2.2.2.2.2.2.2
      let isCas := kind = 6
      let station := kind = 2 ∧ a = 0x81F0000000000000 ∧ sz = 3
      let form := isCoreSpace a = true ∨ isGlobal a = true
      (s.cx.rpa = true → exec i s = .next (s.trapAt (illegal .c))) ∧
      (isCas → rv = 31 → exec i s = .next (s.trapAt (illegal .c))) ∧
      (s.cx.rpa = false → station → s.cx.prv = false → exec i s = .next (s.trapAt (privileged 0))) ∧
      (s.cx.rpa = false → ¬ (station ∧ s.cx.prv = false) → ¬ (isCas ∧ rv = 31) →
        (¬ ok → exec i s = .next (s.trapAt badOrder)) ∧
        (ok → a.toNat % len ≠ 0 → exec i s = .next (s.trapAt (misaligned a))) ∧
        (ok → a.toNat % len = 0 → local_ → v.toNat % 64 ≠ 0 → exec i s = .next (s.trapAt (misaligned v))) ∧
        (ok → a.toNat % len = 0 → (local_ → v.toNat % 64 = 0) → gc.toNat % 64 ≠ 0 → exec i s = .next (s.trapAt (misaligned gc))) ∧
        (ok → a.toNat % len = 0 → (local_ → v.toNat % 64 = 0) → gc.toNat % 64 = 0 →
          (¬ form → exec i s = .next (s.trapAt (outOfRange a))) ∧
          (form → local_ → ¬ inOwn v 512 64 → exec i s = .next (s.trapAt (outOfRange v))) ∧
          (form → (local_ → inOwn v 512 64) → ¬ inOwn gc 64 64 → exec i s = .next (s.trapAt (outOfRange gc))) ∧
          (form → (local_ → inOwn v 512 64) → inOwn gc 64 64 →
            (∀ x, s.injectRefusal a = some x → exec i s = .next (s.trapAt (accessTrap 0x0A (x * 256) a 0 0))) ∧
            (s.injectRefusal a = none → 64 ≤ s.outstanding → exec i s = .next (heldOver s false)) ∧
            let free := Unheld s 0 slot 8 ∧ (kind = 4 → s.crosses (coreKey s.core.id v.toNat) 512 = false)
            (s.injectRefusal a = none → s.outstanding < 64 → ¬ free → exec i s = .next (heldOver s false)) ∧
            (s.injectRefusal a = none → s.outstanding < 64 → free →
              ∃ t op acc, exec i s = .next t ∧ op ∈ t.ops ∧ ((∀ q ∈ s.ops, q.id ≠ s.nextId) → t.ops = s.ops ++ [op]) ∧ op.id = s.nextId ∧
                op.kind = kind ∧ op.slot = gc ∧ op.ord = o ∧ op.scope = sc ∧
                op.stage = (if o.getLsbD 1 = true ∨ kind = 4 then .held else if (s.strayAt s.core.id (.mem acc)).isNone then .flight else .lost) ∧
                op.req = .mem acc ∧ acc.kind = p.2.2.2.2.1 ∧
                acc.addr = a ∧ acc.size = len ∧ acc.aop = p.2.2.2.2.2.2.1 ∧ acc.cmp = p.2.2.2.2.2.2.2.1 ∧
                op.iss.pc = s.cx.pc ∧ op.iss.prv = s.cx.prv ∧ op.iss.rgn = s.sl.rgn ∧
                (kind = 3 → op.dst = v) ∧ acc.data.toNat = p.2.2.2.2.2.1 ∧ acc.pois = 0 ∧
                (kind ≠ 4 → t.core.beats = s.core.beats) ∧
                (kind = 4 → t.cx.locFree = s.core.cyc + 8 ∧ t.core.vecFree = max s.core.vecFree (s.core.cyc + 8) ∧
                  ∃ b, t.core.beats = some b ∧ b.load = true ∧ b.op = some op.id ∧ b.tag = none ∧ b.last = s.core.cyc + 7 ∧
                    b.slc = s.core.cur ∧ b.ctx = s.core.curCtx ∧
                    b.pieces = (List.range 64).map (fun g => { key := coreKey s.core.id v.toNat + 8 * g, off := 8 * g, n := 8, mask := 255 })) ∧
                t.mem.rd slot 8 = kind.toNat * 256 + 1 ∧ (∀ k, k < slot ∨ slot + 8 ≤ k → t.mem.byte k = s.mem.byte k) ∧
                t.cx.bnd = true ∧ t.cx.pc = s.cx.pc ∧ t.cx.pend = s.cx.pend ∧ (∀ q < 22, t.readSr q = s.readSr q)))))

/-- R323 to R329: `post` forms one message of KIND 3 from its injection entry, with the payload of the scratchpad, held until its release conditions
hold; `qnext` steps past the head record and gives the address of the next, or 0; `xsend` puts one transfer into the injector. -/
def Obligations.Messages_and_transfers_begin : Prop :=
  ∀ (s : State) (rd r1 r2 r3 : GReg) (e : BitVec 4) (p : BitVec 8) (n : BitVec 5) (tag : BitVec 16),
    let own (x : Word) (len al : Nat) : Prop := x.toNat % al = 0 ∧ x.toNat < 0x60000 ∧ s.sl.inPart x.toNat len = true
    (s.cx.rpa = true → ∀ i ∈ ([.post e, .qnext rd, .xsend r1 r2 r3 p n tag] : List Instr), exec i s = .next (s.trapAt (illegal .c))) ∧
    (s.cx.rpa = false →
      let w := s.mem.rd (coreKey s.core.id (0x70000 + 64 * e.toNat)) 64
      let len := w / 2 ^ 24 % 32
      let adr : Word := BitVec.ofNat 64 (w / 2 ^ 128 % 2 ^ 21)
      (adr.toNat % 32 ≠ 0 → exec (.post e) s = .next (s.trapAt (misaligned adr))) ∧
      (adr.toNat % 32 = 0 → len ≠ 0 → ¬ own adr (32 * len) 32 → exec (.post e) s = .next (s.trapAt (outOfRange adr))) ∧
      (adr.toNat % 32 = 0 → (len = 0 ∨ own adr (32 * len) 32) →
        (∀ x, s.postRefusal w = some x → ∃ d, exec (.post e) s = .next (s.trapAt (accessTrap 0x0A (x * 256) d 0 0))) ∧
        (s.postRefusal w = none → ¬ Unheld s 0 (coreKey s.core.id adr.toNat) (32 * len) → exec (.post e) s = .next (heldOver s false)) ∧
        (s.postRefusal w = none → Unheld s 0 (coreKey s.core.id adr.toNat) (32 * len) →
          ∃ t op q, exec (.post e) s = .next t ∧ t.ops = s.ops ++ [op] ∧ op.stage = .held ∧ op.ord = 2 ∧
            op.req = .post q (if w.testBit 23 then some (BitVec.ofNat 8 (w / 2 ^ 15)) else none) ∧
            q.kind = 3 ∧ q.len = len ∧ q.smod = s.modId ∧ q.score = s.core.id ∧ q.srgn = s.sl.rgn ∧
            ((∀ c : Fin 11, s.sl.ctxs[c].live = false ∨ adr.toNat + 32 * len ≤ s.sl.ctxs[c].wp.toNat + 0x150 ∨
                s.sl.ctxs[c].wp.toNat + 0x190 ≤ adr.toNat) → ∀ j < 32 * len,
              byteOf q.body.toNat j = (s.mem.byte (coreKey s.core.id adr.toNat + j)).toNat) ∧
            t.cx.bnd = true ∧ t.mem = s.mem ∧ t.cx.pend = s.cx.pend)) ∧
      (let head := if s.sl.rqTail = s.sl.rqHead then s.sl.rqHead else s.sl.rqHead + 1
       let at_ := s.sl.rqBase.toNat * 32 + 32 * (min s.sl.rqMax.toNat 16 + 1) * (head.toNat % s.sl.rqSlots.toNat)
       ∃ t, exec (.qnext rd) s = .next t ∧ t.sl.rqHead = head ∧ t.sl.rqTail = s.sl.rqTail ∧ t.cx.bnd = true ∧ t.mem = s.mem ∧
         (rd = 0 → t.cx.pend = s.cx.pend) ∧
         (rd ≠ 0 → ∃ x, t.cx.pend = s.cx.pend ++ [x] ∧ x.land = s.cx.dist + 2 ∧
           x.res = .g rd (if s.sl.rqTail = head then 0 else BitVec.ofNat 64 at_))) ∧
      (let gs := s.readG r1
       let gc := s.readG r2
       let go := s.readG r3
       let len := n.toNat + 1
       let pe := s.pathEntry s.core.id p.toNat
       64 ≤ p.toNat → len ≤ 16 → own gs (32 * len) 32 → go.toNat % 32 = 0 → go.toNat + 32 * len ≤ 0x60000 →
       entryValid pe = true → pe.toNat / 2 ^ 188 % 8 = 0 →
         (s.sl.opened = false ∨ gc.toNat % 2 = 1 ∨ s.sl.eff.xlen.toNat * s.ticksN ≤ gc.toNat →
           ∃ d, exec (.xsend r1 r2 r3 p n tag) s = .next (s.trapAt (accessTrap 0x0E 512 gs gc d))) ∧
         (s.sl.opened = true → gc.toNat % 2 = 0 → gc.toNat < s.sl.eff.xlen.toNat * s.ticksN →
           let now := (s.pace.toNat - (s.sl.window.getD 0).toNat) * s.ticksN + s.fcyc
           (gc.toNat < now + 4 → exec (.xsend r1 r2 r3 p n tag) s = .next (s.trapAt (accessTrap 0x0E 256 gs gc (BitVec.ofNat 64 now)))) ∧
           (now + 4 ≤ gc.toNat → s.hushFor s.sl.gang ((s.sl.window.getD 0).toNat + gc.toNat / s.ticksN) = false →
             (64 ≤ s.core.inj.length → exec (.xsend r1 r2 r3 p n tag) s = .next (heldOver s false)) ∧
             (s.core.inj.length < 64 → ∃ t x, exec (.xsend r1 r2 r3 p n tag) s = .next t ∧ t.core.inj = s.core.inj ++ [x] ∧ x.src = gs ∧
               x.depart = gc.toNat ∧ x.n = len ∧ x.path = p ∧ x.tag = tag ∧ x.dst = go ∧ t.mem = s.mem ∧ t.cx.bnd = true ∧
               t.cx.pend = s.cx.pend)))))

/-- R331, R334, R336 to R340, R168 to R170: a matrix command of a slice with a bank whose operands pass enters the matrix queue with the registers it
captures, and channel 0 counts it; a full queue holds the bundle, and so does an earlier local access that is still to perform where a completion slot is
to be written (R188, R318); without a bank it takes 0x11 subcode 1; in warm-up the pairs that need full service
take subcode 2; a B or share offset out of place takes 16 or 17.
It rests on choices of the model: log 36. -/
def Obligations.Matrix_commands_are_queued : Prop :=
  ∀ (s : State) (ra rb rs r4 : GReg) (kb ba bb : BitVec 2) (ap : Bool) (ty act : BitVec 4),
    let own (x : Word) (len al : Nat) : Prop := x.toNat % al = 0 ∧ x.toNat < 0x60000 ∧ s.sl.inPart x.toNat len = true
    let a := s.readG ra
    let b := s.readG rb
    let g := s.readG rs
    let c := s.readG r4
    let k := 16 * 2 ^ kb.toNat
    let queued (i : Instr) (w : MKind) (slot : Option Word) : Prop :=
      let free := ∀ x, slot = some x → Unheld s 0 (coreKey s.core.id x.toNat) 8
      (8 ≤ s.core.mq.length ∨ ¬ free → exec i s = .next (heldOver s false)) ∧
      (s.core.mq.length < 8 → free → ∃ t m, exec i s = .next t ∧ t.core.mq = s.core.mq ++ [m] ∧ m.what = w ∧ m.iss.pc = s.cx.pc ∧
        t.sl.jobs[(0 : Fin 16)] = s.sl.jobs[(0 : Fin 16)] + 1 ∧ t.cx.bnd = true ∧ t.cx.pend = s.cx.pend ∧
        (∀ x, slot = some x → t.mem.rd (coreKey s.core.id x.toNat) 8 = 11 * 256 + 1) ∧
        (∀ j, (∀ x, slot = some x → j < coreKey s.core.id x.toNat ∨ coreKey s.core.id x.toNat + 8 ≤ j) → t.mem.byte j = s.mem.byte j))
    -- pair: instruction, number, bytes of an A row, bytes of a B column, does warm-up allow it
    let pairs : List (Instr × Fin 11 × Nat × Nat × Bool) :=
      [(.mmaE4m3E4m3 ra rb rs kb ba bb ap, 0, k, k, false), (.mmaE4m3E5m2 ra rb rs kb ba bb ap, 1, k, k, false),
       (.mmaE5m2E4m3 ra rb rs kb ba bb ap, 2, k, k, false), (.mmaE5m2E5m2 ra rb rs kb ba bb ap, 3, k, k, false),
       (.mmaBf16Bf16 ra rb rs kb ba bb ap, 4, 2 * k, 2 * k, true), (.mmaF16F16 ra rb rs kb ba bb ap, 5, 2 * k, 2 * k, true),
       (.mmaI8I8 ra rb rs kb ba bb ap, 6, k, k, true), (.mmaI8T2 ra rb rs kb ba bb ap, 7, k, k / 4, false),
       (.mmaE8oI8 ra rb rs kb ba bb ap, 8, k, k / 4, false), (.mmaE8oE4m3 ra rb rs kb ba bb ap, 9, k, k / 4, false),
       (.mmaE8oBf16 ra rb rs kb ba bb ap, 10, 2 * k, k / 4, false)]
    (s.cx.rpa = true → ∀ i ∈ pairs.map (·.1) ++ ([.mldb ra rb rs, .mzero, .mdrain ra rb rs r4 ty act] : List Instr),
      exec i s = .next (s.trapAt (illegal .c))) ∧
    (s.cx.rpa = false → s.sl.acc = false → exec .mzero s = .next (s.trapAt (accessTrap 0x11 256 s.cx.pc 0 0))) ∧
    (s.cx.rpa = false → s.sl.acc = true →
      queued .mzero .mzero none ∧
      (∀ p ∈ pairs,
        let table := rs ≠ 0 ∧ p.2.1 ≠ 6
        (kb.toNat < ba.toNat ∨ kb.toNat < bb.toNat → exec p.1 s = .next (s.trapAt (illegal .c))) ∧
        (ba.toNat ≤ kb.toNat → bb.toNat ≤ kb.toNat →
          (own a (32 * p.2.2.1) 64 → (table → own g (32 * (k / (16 * 2 ^ ba.toNat) + k / (16 * 2 ^ bb.toNat))) 64) →
            s.fullService = false → p.2.2.2.2 = false → exec p.1 s = .next (s.trapAt (accessTrap 0x11 512 s.cx.pc 0 0))) ∧
          (s.fullService = true ∨ p.2.2.2.2 = true →
            (own a (32 * p.2.2.1) 64 → (table → own g (32 * (k / (16 * 2 ^ ba.toNat) + k / (16 * 2 ^ bb.toNat))) 64) → (b.toNat % 8 ≠ 0 ∨ 1024 < b.toNat + p.2.2.2.1) →
              exec p.1 s = .next (s.trapAt (accessTrap 0x11 0x1000 b 0 0))) ∧
            (own a (32 * p.2.2.1) 64 → b.toNat % 8 = 0 → b.toNat + p.2.2.2.1 ≤ 1024 →
              (table → own g (32 * (k / (16 * 2 ^ ba.toNat) + k / (16 * 2 ^ bb.toNat))) 64) →
              queued p.1 (.mma p.2.1 a b g (decide table) k (16 * 2 ^ ba.toNat) (16 * 2 ^ bb.toNat) ap) none)))) ∧
      (own a (32 * g.toNat) 64 → g.toNat % 8 ≠ 0 ∨ g.toNat < 8 ∨ 1024 < g.toNat →
        exec (.mldb ra rb rs) s = .next (s.trapAt (accessTrap 0x11 0x1100 g 0 0))) ∧
      (own a (32 * g.toNat) 64 → g.toNat % 8 = 0 → 8 ≤ g.toNat → g.toNat ≤ 1024 →
        (b.toNat % 8 ≠ 0 ∨ 1024 < b.toNat + g.toNat → exec (.mldb ra rb rs) s = .next (s.trapAt (accessTrap 0x11 0x1000 b 0 0))) ∧
        (b.toNat % 8 = 0 → b.toNat + g.toNat ≤ 1024 →
          queued (.mldb ra rb rs) (.mldb a b.toNat g.toNat) none)) ∧
      (let bytes := if ty = 12 then 4096 else if ty = 10 ∨ ty = 11 then 2048 else if ty = 15 then 256 else 1024
       (ty ≠ 15 ∧ (ty.toNat < 8 ∨ 12 < ty.toNat) ∨ 4 ≤ act.toNat → exec (.mdrain ra rb rs r4 ty act) s = .next (s.trapAt (illegal .c))) ∧
       (ty = 15 ∨ 8 ≤ ty.toNat ∧ ty.toNat ≤ 12 → act.toNat < 4 →
         (b.toNat % 256 = 128 → own a bytes 512 → own c 64 64 → exec (.mdrain ra rb rs r4 ty act) s = .next (s.trapAt (accessTrap 0x11 0x1200 b 0 0))) ∧
         (b.toNat % 256 ≠ 128 → own a bytes 512 → own c 64 64 →
           queued (.mdrain ra rb rs r4 ty act) (.mdrain a (BitVec.ofNat 8 b.toNat) (BitVec.ofNat 8 (b.toNat / 256)) (BitVec.ofNat 16 g.toNat) c ty
             act (s.cx.fpc.getLsbD 15)) (some c)))))

/-- R342, R343: `tst`, `tadv`, `tlow` and `tld`, once the record's place and the completion slot pass and the own station can be reached, enter the
injector behind the context's earlier cistern requests: one operation with its KIND, key word and operands; `tst` sends the record's 256 bytes, as they
stand once the slot's state word is written. The bundle is held while an earlier local access is still to perform (R188, R189, R318).
It rests on choices of the model: log 58. -/
def Obligations.Cistern_requests_begin : Prop :=
  ∀ (s : State) (r1 r2 r3 r4 rc : GReg) (wm ik : Bool),
    let own (x : Word) (len al : Nat) : Prop := x.toNat % al = 0 ∧ x.toNat < 0x60000 ∧ s.sl.inPart x.toNat len = true
    let key := s.readG r1
    let x2 := s.readG r2
    let x3 := s.readG r3
    let x4 := s.readG r4
    -- instruction, KIND, slot, record address, request but for the record
    ∀ p ∈ ([(.tst r1 r2 r3 r4, 7, x4, some x3), (.tadv r1 r2 r3, 9, x3, none), (.tlow r1 r2 r3, 10, x3, none),
            (.tld r1 r2 r3 r4 rc wm ik, 8, s.readG rc, some x4)] : List (Instr × BitVec 8 × Word × Option Word)),
      let i := p.1
      let gc := p.2.2.1
      let slot := coreKey s.core.id gc.toNat
      let place := ∀ r, p.2.2.2 = some r → own r 256 32
      (s.cx.rpa = true → exec i s = .next (s.trapAt (illegal .c))) ∧
      (s.cx.rpa = false →
        (gc.toNat % 64 ≠ 0 → exec i s = .next (s.trapAt (misaligned gc))) ∧
        (∀ r, p.2.2.2 = some r → gc.toNat % 64 = 0 → r.toNat % 32 ≠ 0 → exec i s = .next (s.trapAt (misaligned r))) ∧
        ((∀ r, p.2.2.2 = some r → r.toNat % 32 = 0) → gc.toNat % 64 = 0 → ¬ own gc 64 64 → exec i s = .next (s.trapAt (outOfRange gc))) ∧
        (∀ r, p.2.2.2 = some r → r.toNat % 32 = 0 → own gc 64 64 → ¬ own r 256 32 → exec i s = .next (s.trapAt (outOfRange r))) ∧
        (place → own gc 64 64 →
          (∀ x, s.globalRefusal = some x → exec i s = .next (s.trapAt (accessTrap 0x0A (x * 256) key 0 0))) ∧
          (s.globalRefusal = none → 64 ≤ s.outstanding → exec i s = .next (heldOver s false)) ∧
          let free := Unheld s 0 slot 8 ∧ (p.2.1 = 7 → s.crosses (coreKey s.core.id x3.toNat) 256 = false)
          (s.globalRefusal = none → s.outstanding < 64 → ¬ free → exec i s = .next (heldOver s false)) ∧
          (s.globalRefusal = none → s.outstanding < 64 → free →
            ∃ t op, exec i s = .next t ∧ t.ops = s.ops ++ [op] ∧ op.kind = p.2.1 ∧ op.slot = gc ∧ op.stage = .held ∧ op.iss.pc = s.cx.pc ∧
              (p.2.1 = 7 → ∃ rec_ bad, op.req = .tst key x2 rec_ bad ∧ op.ord = 2 ∧ ((∀ c : Fin 11, s.sl.ctxs[c].live = false ∨
                  x3.toNat + 256 ≤ s.sl.ctxs[c].wp.toNat + 0x150 ∨ s.sl.ctxs[c].wp.toNat + 0x190 ≤ x3.toNat) → ∀ j < 256, byteOf rec_.toNat j = (t.mem.byte (coreKey s.core.id x3.toNat + j)).toNat)) ∧
              (p.2.1 = 9 → op.req = .tadv key x2 ∧ op.ord = 2) ∧ (p.2.1 = 10 → op.req = .tlow key x2) ∧
              (p.2.1 = 8 → op.req = .tld key x2 x3 x4 wm ik ∧ op.dst = x4 ∧ op.ord = 1) ∧
              t.mem.rd slot 8 = p.2.1.toNat * 256 + 1 ∧ (∀ k, k < slot ∨ slot + 8 ≤ k → t.mem.byte k = s.mem.byte k) ∧
              t.cx.bnd = true ∧ t.cx.pend = s.cx.pend)))

/-! ## Events: power and the tick (R10-R17, R22, R24) -/

/-- R13 to R17 and R24, R392: the power controller's events. A measurement above CAP aims at the highest step, not above CEIL, that fits, and a
raise at one step more, up to CEIL; a new target replaces a pending one, with a wait of its own, and a supply fault holds it at 16. A change that has
waited 80 µs for its superstep boundary is forced, and counted by the tick that applies it away from one. A trip marks its slab and is counted; a
supply fault aims every slab at 16 at once, and once it has lasted 1 s, not before, halts the module and is reported: time goes on, and only its
management ports, those of PTP among them, and a power-up are served. Where every condition of R24 holds at the start of a tick, that tick is the hush
tick, after which the clocks run at their full-service rates. A pace tick gives each slab its step, drops the read copies, brings the replicated
stores of the tick before last to every replica, and the tick's releases and windows before anything else.
It rests on choices of the model: log 18, 48, 72, 73 and 74. -/
def Obligations.Power_events : Prop :=
  ∀ (s : State) (hot : Bool) (fit slab : BitVec 6),
    let p := s.power
    let aimed (v : Nat) : State :=
      if p.supply = true ∨ v = (p.target.getD p.standing).toNat then s
      else { s with power := { p with target := if v = p.standing.toNat then none else some (BitVec.ofNat 6 v), since := s.time, forced := false,
                                      override := false } }
    let goal := p.target.getD p.standing
    let hasPace (h : Nat) : Prop := ∃ c ∈ s.core :: s.rest, slabOf c.id = h ∧ ∃ x ∈ c.slices.toList, x.resident = true ∧ x.disc = true
    exec (.powerMeasurement hot fit) s = .next (if hot then aimed (max 16 (min p.ceil.toNat fit.toNat)) else s) ∧
    exec .stepRaise s = .next (aimed (min ((p.target.getD p.standing).toNat + 1) p.ceil.toNat)) ∧
    (s.fullService = true → p.forced = false → p.override = false → (∃ h : Fin 40, hasPace h.val ∧ p.base[h] ≠ goal) → p.since + 200000 ≤ s.time →
      exec .stepChangeForced s = .next { s with power := { p with forced := true } }) ∧
    (∃ t, exec (.thermalTrip slab) s = .next t ∧ Counted s t slab.toNat 6 ∧
      (∀ h < 40, t.power.tripped.getLsbD h = (p.tripped.getLsbD h || h == slab.toNat)) ∧
      { t with counters := s.counters, power := { t.power with tripped := p.tripped } } = s) ∧
    (∃ t, exec (.thermalRecovery slab) s = .next t ∧ (∀ h < 40, t.power.tripped.getLsbD h = (p.tripped.getLsbD h && h != slab.toNat)) ∧
      { t with power := { t.power with tripped := p.tripped } } = s) ∧
    exec .supplyFault s =
      .next { s with power := { p with target := some 16, since := if p.supply then p.since else s.time, override := true, supply := true } } ∧
    (let lapsed := p.supply = true ∧ p.halted = false ∧ p.since + (if s.fullService then 2500000000 else 1250000000) ≤ s.time
     (lapsed → exec .supplyFaultHalt s = .next { s with power := { p with halted := true, reported := true } } ∧
       (s.queue = [] → s.fcyc = 0 → s.tickDone = false → step s = exec .supplyFaultHalt s)) ∧
     (¬ lapsed → exec .supplyFaultHalt s = .refused (.notEnabled "SUPPLY_FAULT_HALT"))) ∧
    (p.supply = true → exec .supplyRecovery s = .next { s with power := { p with supply := false } }) ∧
    (p.halted = true → (s.queue = [] → step s = .next { s with time := s.time + 1 }) ∧
      (∀ i q, s.queue = i :: q →
        let served := (∃ b f im, i = .powerUp b f im) ∨ (∃ v, i = .registerWrite (.power v)) ∨ i = .registerWrite .rootRecord ∨
          (∃ x, i = .syncMessage x) ∨ (∃ x y, i = .announceMessage x y) ∨ (∃ x n y z, i = .pdelayReq x n y z) ∨ i = .announceReceiptTimeout
        (¬ served → step s = .next { s with queue := q }) ∧ (served → ∀ t, exec i { s with queue := q } = .next t → step s = .next t))) ∧
    (s.fullService = false → s.hush = false → s.starter.clk = 0 → s.fcyc = 0 → s.tickDone = false → Superstep s →
      (∀ h < 40, s.joined.getLsbD h = true → s.calibrated.getLsbD h = true) → (∀ q < 64, s.fab.lp.get q ≠ 0) →
      exec .fullServiceEntry s = .next { s with hush := true }) ∧
    (s.hush = true → s.moduleEvent = none ∧ (s.ticksN ≤ s.fcyc + 1 →
      let t := s.nextCycle
      t.fullService = true ∧ t.hush = false ∧ t.power.standing = p.target.getD p.ceil ∧ t.power.target = none ∧
      (∀ h : Fin 40, t.power.base[h] = p.target.getD p.ceil) ∧ t.pace = s.pace + 1 ∧ t.fcyc = 0 ∧ t.tickDone = false ∧ t.mem = s.mem ∧
      t.fab.flights = s.fab.flights ∧ t.ops = s.ops)) ∧
    (s.fcyc = 0 → s.tickDone = false →
      ∃ t l, exec .paceTick s = .next t ∧ t.tickDone = true ∧ t.copies = [] ∧ t.pace = s.pace ∧ t.queue = l ++ s.queue ∧
        ((∀ o ∈ s.ops, ∀ key left seq tick, o.stage = .replicas key left seq tick → s.pace.toNat < tick + 2) → t.mem = s.mem ∧ t.ops = s.ops) ∧
        (∀ o ∈ t.ops, ∀ key left seq tick, o.stage = .replicas key left seq tick → (∃ a, o.req = .mem a) → s.pace.toNat < tick + 2) ∧
        (∀ h : Fin 40,
          ((s.fullService = false ∨ p.tripped.getLsbD h = true) → t.power.steps[h] = 16) ∧
          (s.fullService = true → p.tripped.getLsbD h = false →
            (¬ hasPace h ∨ p.forced = true ∨ p.override = true ∨ Superstep s → t.power.steps[h] = goal) ∧
            (hasPace h → p.forced = false → p.override = false → ¬ Superstep s → t.power.steps[h] = p.base[h]))) ∧
        (s.fullService = true →
          (p.forced = true ∨ p.override = true ∨ Superstep s → t.power.standing = goal ∧ t.power.target = none) ∧
          (p.forced = true → p.override = false → ¬ Superstep s → (∃ h < 40, hasPace h) →
            t.power.exc = if p.exc = 255 then 255 else p.exc + 1) ∧
          (p.forced = false ∨ p.override = true ∨ Superstep s → t.power.exc = p.exc)) ∧
        (∀ c ∈ s.core :: s.rest, ∀ i : Fin 16,
          (s.releaseDue c.slices[i] = true → s.releases c.id i = true → .sliceRelease c.id i ∈ l) ∧ (s.opens c.slices[i] = true → .exchangeWindowOpen c.id i ∈ l) ∧
          (s.closes c.slices[i] = true → .exchangeWindowClose c.id i ∈ l)) ∧
        (∀ a ∈ s.starter.armed, (s.actionDue a = true → .timedAction a.id ∈ l) ∧ (s.straggles a = true → .straggler a.id ∈ l)))

/-! ## Events: the module's service (R18-R27, R36, R42, R45, R47, R49, R54, R124, R133) -/

/-- R18 to R20, R23, R25 to R27: power-up leaves stores zero, no slab in service, and the module valid with its block's identity and owner portal
where signature and digest hold, with a new device key; otherwise a reload may validate it later. A slab that passed joins at a tick; a double-bit error
poisons its granule, a corrected one is counted, for its stack too where it lies in one; the frames of a stack that is named or past its threshold are
copied one by one, to where their replacements are, and requests redirected; modules leave and join, a join in warm-up at half the domain's place in the
tick; lanes are spared; a port trains with an even latency and 8 credits a channel; firmware's table writes change the entry they name and no other,
reserved bits reading as zero, those of the path and group tables from the next cycle; a frame that enters another subtree is zeroed.
It rests on choices of the model: log 21, 43, 45, 46, 47, 51, 56, 66, 74, 75 and 81. -/
def Obligations.Module_service_events : Prop :=
  ∀ (s : State) (b : ConfigBlock) (failed : List (BitVec 6)) (image : List Byte) (slab : BitVec 6),
    let good := b.signed = true ∧ b.digest = true
    (∃ t, exec (.powerUp b failed image) s = .next t ∧ (∀ h < 40, t.failed.getLsbD h = failed.any (fun x => x.toNat == h)) ∧ t.joined = 0 ∧
      t.fullService = false ∧ (t.valid = true ↔ good) ∧ t.core = Core.fresh 0 ∧ t.rest = [] ∧ t.power = State.reset.power ∧ t.pois = [] ∧
      t.ops = [] ∧ t.fab.flights = [] ∧ t.starter = State.reset.starter ∧ (∀ k < 2 ^ 114, t.mem.byte k = 0) ∧ t.deviceKey = Config.deviceKey s.draws ∧
      (good → t.modId = b.modId ∧ t.config = b ∧ t.fab.base = b.policy.map (fun v => v &&& ~~~127#64) ∧
        (let d := (t.portals.get 0).toNat
         fld d 255 255 = 1 ∧ fld d 253 253 = 1 ∧ fld d 203 192 = 0 ∧ fld d 101 101 = 0 ∧ fld d 100 0 = 0 ∧
         fld d 247 204 = fld b.portal0.toNat 247 204 ∧ fld d 191 102 = fld b.portal0.toNat 191 102))) ∧
    (s.valid = false → ∃ t, exec (.mgmtImageReload b image) s = .next t ∧ (t.valid = true ↔ good) ∧
      (good → t.modId = b.modId ∧ t.config = b) ∧ (¬ good → t = s)) ∧
    (s.valid = true → slab.toNat < 40 → s.failed.getLsbD slab.toNat = false → s.joined.getLsbD slab.toNat = false → s.fcyc = 0 →
      ∃ t, exec (.slabJoin slab) s = .next t ∧ { t with joined := s.joined } = s ∧
        ∀ h < 40, t.joined.getLsbD h = (s.joined.getLsbD h || h == slab.toNat)) ∧
    (∀ a, ∃ t, exec (.doubleBitError slab ⟨a, false⟩) s = .next t ∧ { t with pois := s.pois, counters := s.counters } = s ∧ Counted s t slab.toNat 1 ∧
      ∀ g, g ∈ t.pois ↔ g = 8 * (a / 8) ∨ g ∈ s.pois) ∧
    (∀ a, ∃ t, exec (.doubleBitError slab ⟨a, true⟩) s = .next t ∧ { t with counters := s.counters, stackErrs := s.stackErrs } = s ∧
      Counted s t slab.toNat 0 ∧
      ∀ h, t.stackErrs.get h = s.stackErrs.get h +
        (if hbmKey s.modId 0 ≤ a ∧ a < hbmKey s.modId (2 ^ 56) ∧ h = homeSlab (a - hbmKey s.modId 0) then 1 else 0)) ∧
    (∀ map, (s.retired.getLsbD slab.toNat = true ∨ s.config.errMax < (s.stackErrs.get slab.toNat).toNat) → ∃ t, exec (.stackRetirement slab map) s = .next t ∧ { t with retired := s.retired, redirect := s.redirect } = s ∧
      (∀ h < 40, t.retired.getLsbD h = (s.retired.getLsbD h || h == slab.toNat)) ∧
      ∀ r, r ∈ t.redirect ↔ r ∈ s.redirect ∨ (r.2.2 = false ∧ (r.1, r.2.1) ∈ map ∧ r.1.toNat / 1048576 = slab.toNat ∧
        r.2.1.toNat / 1048576 ≠ slab.toNat ∧ ∀ q ∈ s.redirect, q.1 ≠ r.1)) ∧
    (∀ frame r, s.redirect.find? (fun x => x.1 == frame && !x.2.2) = some r →
      ∃ t, exec (.stackFrameCopy frame) s = .next t ∧ (frame, r.2.1, true) ∈ t.redirect ∧
        (let k := s.real (hbmKey s.modId (r.2.1.toNat * 65536))
         (∀ j < 65536, t.mem.byte (k + j) = s.mem.byte (s.real (hbmKey s.modId (frame.toNat * 65536)) + j)) ∧
         ∀ a, a < k ∨ k + 65536 ≤ a → t.mem.byte a = s.mem.byte a)) ∧
    (∀ m, ∃ t, exec (.moduleRemoval m) s = .next t ∧ t.fab.present.get m.toNat = 0 ∧ t.mem = s.mem ∧
      ∀ n, n ≠ m.toNat → t.fab.present.get n = s.fab.present.get n) ∧
    (∀ pace pos, let p := if s.fullService then pos % 1024 else pos % 1024 / 2
      ∃ t, exec (.moduleJoin pace pos) s = .next t ∧ t.pace = pace ∧ t.fcyc = p ∧ t.tickDone = decide (p ≠ 0) ∧
        { t with pace := s.pace, fcyc := s.fcyc, tickDone := s.tickDone, fab := { t.fab with flights := s.fab.flights } } = s ∧
        t.fab.flights = s.fab.flights.map (fun x => if x.pkt.kind = 4 then { x with due := x.due + (p + s.fcyc) % 2 } else x)) ∧
    (∃ t, exec (.laneSparing slab) s = .next t ∧ { t with counters := s.counters } = s ∧ ∃ u, Counted s u slab.toNat 5 ∧ Counted u t slab.toNat 4) ∧
    (∀ port lp, lp % 2 = 0 → ∃ t, exec (.offModulePortTraining port lp) s = .next t ∧
      { t with fab := { t.fab with lp := s.fab.lp, credits := s.fab.credits } } = s ∧
      t.fab.lp.get port.toNat = BitVec.ofNat 32 (lp + 1) ∧ (∀ k, k ≠ port.toNat → t.fab.lp.get k = s.fab.lp.get k) ∧
      ∀ k, t.fab.credits.get k = if k / 2 = port.toNat then 8 else s.fab.credits.get k) ∧
    (∀ port resp n, ∃ t, exec (.linkControlFlit port ⟨resp, n⟩) s = .next t ∧ { t with fab := { t.fab with credits := s.fab.credits } } = s ∧
      ∀ k, t.fab.credits.get k = s.fab.credits.get k + if k = 2 * port.toNat + resp.toNat then BitVec.ofNat 16 n else 0) ∧
    (∀ (co : CoreId) (n : BitVec 8), (∀ v : BitVec 192, ∃ t, exec (.registerWrite (.path co n v)) s = .next t ∧ t.fab.path = s.fab.path ∧
        t.fab.newCycle.path.get (co.toNat * 256 + n.toNat) = v &&& ~~~(BitVec.ofNat 192 (2 ^ 39 - 1)) ∧
        ∀ k, k ≠ co.toNat * 256 + n.toNat → t.fab.newCycle.path.get k = s.fab.newCycle.path.get k) ∧
      (∀ v : BitVec 8, ∃ t, exec (.registerWrite (.group co n v)) s = .next t ∧ t.fab.group = s.fab.group ∧
        t.fab.newCycle.group.get (co.toNat * 256 + n.toNat) = v &&& 0xBF)) ∧
    (∀ (co : CoreId) (n : BitVec 5) (v : Word), ∃ t, exec (.registerWrite (.coreAccess co n v)) s = .next t ∧
      t.coreTable co = (s.coreTable co).set n.toNat (v &&& ~~~127) ∧ ∀ c, c ≠ co → t.coreTable c = s.coreTable c) ∧
    (∀ cls did (n : BitVec 5) (v : Word), ∃ t, exec (.registerWrite (.unitAccess cls did n v)) s = .next t ∧
      t.unitTable cls.toNat did.toNat = (s.unitTable cls.toNat did.toNat).set n.toNat (v &&& ~~~127)) ∧
    (∀ slabs, exec (.registerWrite (.calibrated slabs)) s = .next { s with calibrated := s.calibrated ||| slabs }) ∧
    (∀ (port : BitVec 6) (node : BitVec 12), ∃ t, exec (.registerWrite (.hostPort port (some node))) s = .next t ∧
      (t.fab.hostPort.get port.toNat).toNat = node.toNat + 1) ∧
    exec (.registerWrite .rootRecord) s = .next { s with rootq := { s.rootq with head := min (s.rootq.head + 1) s.rootq.recs.length } } ∧
    (∀ m on, ∃ t, exec (.registerWrite (.present m on)) s = .next t ∧ t.fab.present.get m.toNat = if on then 1 else 0) ∧
    (∀ m v, ∃ t, exec (.registerWrite (.moduleClass slab m v)) s = .next t ∧ t.fab.classes.get (slab.toNat * 4096 + m.toNat) = v) ∧
    (∀ frame, exec (.registerWrite (.pasidBase frame)) s = .next { s with pasidBase := frame }) ∧
    (∀ pasid v, ∃ t, exec (.registerWrite (.pasidEntry pasid v)) s = .next t ∧
      Wrote s t (s.real (hbmKey s.modId (s.pasidBase.toNat * 65536 + 8 * pasid.toNat))) 8 v.toNat) ∧
    (∀ frame n v, ∃ t, exec (.registerWrite (.pageEntry frame n v)) s = .next t ∧
      (v.getLsbD 0 = false → t = s ∨ Wrote s t (s.real (hbmKey s.modId (frame.toNat * 65536 + 8 * n.toNat))) 8 v.toNat)) ∧
    (∀ (mark : Word) (f : Nat), s.frames.get f ≠ 0 → s.frames.get f ≠ mark →
      Wrote s (s.enterFrame mark f) (s.real (hbmKey s.modId (f * 65536))) 65536 0 ∧ (s.enterFrame mark f).frames.get f = mark) ∧
    (∀ v : Word, ∃ t, exec (.registerWrite (.power v)) s = .next t ∧ t.power.cap.toNat = max 240 (min 450 (fld v.toNat 15 0)) ∧
      t.power.ceil.toNat = max 16 (min 32 (fld v.toNat 49 44)) ∧ t.power.exc = 0 ∧ t.power.standing = s.power.standing ∧
      t.power.steps = s.power.steps)

/-! ## Events: the fabric (R28-R49, R117, R199, R326, R329) -/

/-- R28, R31 to R48: a router sends a packet one hop on along its current segment, or delivers it, or discards and counts it as a misroute (a copy without
a group entry, as such); the flits of the open plane move in odd cycles of the tick, one by an output; a packet that comes in through a port is
malformed, or another module's in warm-up, and counted, or enters at the port's router, with a host node's stamps where the port is one's; in warm-up a
scheduled packet and one for another module do not leave by a port. A flit replay is counted and makes its packet 2 cycles late, on the scheduled plane
from a flit on one of its outputs on, those ahead of it keeping their time. A scheduled transfer leaves at its window cycle with the bytes it read then,
unless it is refused, is written flit by flit where the core's table and a partition admit it, and tags its tiles unless its window has closed. A message
enters its slice's ring, or changes nothing where a message of another module is refused; a start message that the core's table lets in starts its slice,
any other use of it is counted, and one that the table does not let in is refused like a message.
It rests on choices of the model: log 19, 25, 31, 62, 63, 69, 78, 79, 87 and 91. -/
def Obligations.Fabric_events : Prop :=
  ∀ (s : State) (k : Nat) (x : Flight), s.fab.flights.find? (fun z => z.id == k) = some x →
    let p := x.pkt
    let gone := s.fab.flights.filter (fun z => z.id != k)
    let slab := x.row / 128 * 8 + x.col / 128
    let port := p.seg0 / 1024
    let hops := p.seg0 % 1024
    let free := ∀ z ∈ s.fab.flights, z.id ≠ k → z.track = []
    let at_ (dr dc : Int) : Option (Nat × Nat) :=
      if 0 ≤ x.row + dr ∧ x.row + dr < 640 ∧ 0 ≤ x.col + dc ∧ x.col + dc < 1024 then some ((x.row + dr).toNat, (x.col + dc).toNat) else none
    let to_ := if port = 0 then at_ (-1) 0 else if port = 1 then at_ 0 1 else if port = 2 then at_ 1 0 else at_ 0 (-1)
    let drops (n : Nat) (t : State) : Prop := Counted s t slab n ∧
      { t with counters := s.counters, fab := { t.fab with flights := s.fab.flights } } = s ∧
      (if p.kind = 4 then ∃ d, s.time ≤ d ∧
          t.fab.flights = s.fab.flights.map (fun z => if z.id = k then { x with arrived := some 9, due := d } else z)
       else t.fab.flights = gone)
    let copied := p.mc = true ∧ p.segn = 1 ∧ p.seg0 = 7 * 1024
    let co := coreAtPos x.row x.col
    (x.arrived = none → x.row < 640 → x.col < 1024 → x.latched = none →
      (∀ r c, p.segn ≠ 0 → port < 4 → hops ≠ 0 → to_ = some (r, c) → free →
        ∃ t y, exec (.routerForward k) s = .next t ∧ t.fab.flights = gone ++ [y] ∧ y.id = k ∧ y.row = r ∧ y.col = c ∧ y.rq = x.rq ∧
          y.inp = (port + 2) % 4 ∧ y.pkt = (if hops = 1 then p.shifted else p.setF 160 148 (p.seg0 - 1)) ∧ t.mem = s.mem ∧
          (p.kind = 4 → y.due = x.due + (if slab = r / 128 * 8 + c / 128 then 2 else 4))) ∧
      (¬ copied → (p.segn = 0 ∨ port < 4 ∧ (hops = 0 ∨ to_ = none) ∨
          4 ≤ port ∧ (hops ≠ 0 ∨ p.segn ≠ 1 ∨ (port = 4 ∧ (p.dcls ≠ 0 ∨ p.did ≠ co)) ∨ (port = 7 ∧ p.mc = false))) →
        ∃ t, exec (.routerForward k) s = .next t ∧ drops 2 t) ∧
      (copied → x.only = none → (s.fab.group.get (co.toNat * 256 + p.group)).getLsbD 7 = false → ∃ t, exec (.routerForward k) s = .next t ∧ drops 9 t) ∧
      (p.segn = 1 → port = 6 → hops = 0 → (portAtPos x.row x.col).isSome = true → s.fullService = false → p.kind = 4 ∨ p.dcls ≠ 4 →
        ∃ t, exec (.routerForward k) s = .next t ∧ drops 2 t) ∧
      (p.segn = 1 → port = 4 → hops = 0 → p.dcls = 0 → p.did = co → x.rq = none → free →
        ∃ t y, exec (.routerForward k) s = .next t ∧ t.fab.flights = gone ++ [y] ∧ y.id = k ∧ y.arrived = some 4 ∧ y.pkt = p ∧
          y.row = x.row ∧ y.col = x.col ∧ (p.kind = 4 → y.due = x.due + 4 + 2 * x.slips.count 1))) ∧
    (s.fcyc % 2 = 0 → s.openCycle = s ∧ ∀ z out, s.granted z out = false) ∧
    (∀ z out, s.granted z out = true → (z.row, z.col, out) ∉ s.fab.used ∧ s.takesFlit z.row z.col out z.chan = true) ∧
    (∀ q port rq, s.hush = false →
      q.malformed = true ∨ (s.fullService = false ∧ q.h = false ∧ (s.fab.hostPort.get port.toNat).toNat = 0) →
      ∃ t, exec (.moduleIngress q port rq) s = .next t ∧ { t with counters := s.counters } = s ∧
        Counted s t (if port.toNat < 32 then port.toNat / 4 else 32 + (port.toNat - 32) / 4) 2) ∧
    (∀ q port rq, s.hush = false → q.malformed = false → q.segn ≠ 0 →
      let host := (s.fab.hostPort.get port.toNat).toNat
      (s.fullService = true ∨ q.h = true ∨ host ≠ 0) →
      ∃ t y, exec (.moduleIngress q port rq) s = .next t ∧ t.fab.flights = s.fab.flights ++ [y] ∧ y.rq = rq ∧ (host = 0 → y.pkt = q) ∧
        (host ≠ 0 → y.pkt.h = true ∧ y.pkt.smod.toNat = (host - 1) % 4096 ∧ y.pkt.srgn = 0 ∧ y.pkt.sslc = 0 ∧ y.pkt.gang = 0 ∧ y.pkt.body = q.body) ∧
        (q.kind = 4 → y.due = s.time + 2 + s.fcyc % 2) ∧
        (y.row, y.col) = (if port.toNat < 32 then (0, 32 * port.toNat) else (639, 32 * (port.toNat - 32))) ∧ t.mem = s.mem) ∧
    (∀ h : BitVec 6, ∃ t, exec (.flitReplay h k) s = .next t ∧ Counted s t h.toNat 4 ∧ t.mem = s.mem ∧
      t.fab.flights.map (fun z => z.id) = s.fab.flights.map (fun z => z.id) ∧
      (p.kind ≠ 4 → t.fab.flights = s.fab.flights.map (fun z => if z.id = k then { x with due := x.due + 2 } else z)) ∧
      (p.kind = 4 → ∃ y ∈ t.fab.flights, y.id = k ∧ y.pkt = p ∧ y.late = true ∧ y.got = x.got ∧ y.track.length = x.track.length ∧
        (∀ (j : Nat) (h : Hop), x.track[j]? = some h → y.track[j]? = some h ∨ y.track[j]? = some { h with last := h.last + 2 }) ∧
        (y.due = x.due + 2 ∧ y.slips = x.slips ∨ y.due = x.due ∧ ∃ i, y.slips = i :: x.slips))) ∧
    (p.kind = 4 → x.arrived = some 4 →
      let off := p.opx % 16384 * 32
      let n := 32 * p.len
      let admitted := ∃ e, deciding (s.coreTable co) p.srgn p.smod p.h = some e ∧ e.getLsbD 9 = true ∧ off + n ≤ 393216 ∧
        (s.spaceSlice co off n e).isSome = true
      ∃ t, exec (.scheduledDelivery k) s = .next t ∧ t.counters = s.counters ∧
        (p.len = 0 ∨ x.got = 0 ∧ ¬ admitted → t.fab.flights = gone ∧ t.mem = s.mem ∧ t.tags = s.tags) ∧
        (p.len ≠ 0 → (x.got = 0 → admitted) →
          Wrote s t (coreKey co (off + 32 * x.got)) 32 (p.body.toNat / 2 ^ (256 * x.got) % 2 ^ 256) ∧
          (x.got + 1 < p.len → t.tags = s.tags ∧
            t.fab.flights = s.fab.flights.map (fun z => if z.id = k then { x with got := x.got + 1, due := x.due + 2 + 2 * x.slips.count (x.got + 2) } else z)) ∧
          (p.len ≤ x.got + 1 → t.fab.flights = gone ∧ ∀ j, j < n → t.tag co (off + j) =
            if (∃ c, x.closes = some c ∧ c ≤ s.time) then s.tag co (off + j)
            else BitVec.ofNat 16 (p.opx / 16384 % 64 * 1024 + p.tag)))) ∧
    (p.kind = 3 → x.arrived = some 4 → p.opx / 1048576 % 2 = 0 →
      let i : Fin 16 := Fin.ofNat 16 (p.opx / 65536 % 16)
      let d := s.sliceAt co i
      ∃ t, exec (.messageArrival k) s = .next t ∧
        (s.messageRefusal co p = none → t.fab.flights = gone ∧ (t.sliceAt co i).rqTail = d.rqTail + 1 ∧
          (t.sliceAt co i).rqHead = d.rqHead ∧
          Wrote s t (coreKey co (d.rqBase.toNat * 32 + 32 * (min d.rqMax.toNat 16 + 1) * (d.rqTail.toNat % d.rqSlots.toNat))) (32 + 32 * p.len)
            ((p.smod.toNat * 2 ^ 52 + p.score.toNat * 2 ^ 32 + p.srgn.toNat * 2 ^ 20 + p.sslc * 2 ^ 16 + p.opx % 2 ^ 16) +
             (p.gang * 2 ^ 32 + p.h.toNat * 2 ^ 31 + p.tag * 2 ^ 16 + p.len) * 2 ^ 64 + s.pace.toNat % 2 ^ 48 * 2 ^ 128 +
             p.body.toNat % 2 ^ (256 * p.len) * 2 ^ 256)) ∧
        (s.messageRefusal co p ≠ none → p.smod ≠ s.modId → { t with fab := { t.fab with flights := s.fab.flights } } = s ∧ t.fab.flights = gone)) ∧
    (p.kind = 3 → x.arrived = some 4 → p.opx / 1048576 % 2 = 1 →
      let v := p.body.toNat % 2 ^ 256
      let i : Fin 16 := Fin.ofNat 16 v
      let lets := ∃ e, deciding (s.coreTable co) p.srgn p.smod p.h = some e ∧ e.getLsbD 10 = true
      let fits := p.smod = s.modId ∧ p.h = false ∧ p.score.toNat % 16384 = 0 ∧ p.srgn = 0 ∧ p.len = 1 ∧ p.opx / 65536 = 31 ∧ v < 16
      ∃ t, exec (.startMessage k) s = .next t ∧
        (lets → fits → (t.sliceAt co i).started = true ∧
          ((s.sliceAt co i).v = true → (s.sliceAt co i).st = .held → (s.sliceAt co i).gang = 0 →
            (t.sliceAt co i).st = (if s.isolated = true ∧ (s.sliceAt co i).disc = true then .suspended else .ready) ∧
            (t.sliceAt co i).brem = (s.sliceAt co i).bud)) ∧
        (lets → ¬ fits → Counted s t (slabOf co) 8 ∧ t.fab.flights = gone ∧
          { t with counters := s.counters, fab := { t.fab with flights := s.fab.flights } } = s) ∧
        (¬ lets → p.smod ≠ s.modId ∨ p.h = true → { t with fab := { t.fab with flights := s.fab.flights } } = s ∧ t.fab.flights = gone) ∧
        (¬ lets → p.smod = s.modId → p.h = false → p.score.toNat % 16384 = 0 → p.srgn = 0 → p.sslc = 0 →
          Counted s t (p.score.toNat / 16384) 10 ∧ t.fab.flights = gone ∧
          { t with counters := s.counters, fab := { t.fab with flights := s.fab.flights } } = s)) ∧
    (∀ c l (y : XSend), (s.coreAt c).inj = y :: l → y.win.toNat ≤ s.pace.toNat → (s.pace.toNat - y.win.toNat) * s.ticksN + s.fcyc = y.depart →
      s.hushFor y.iss.gang (y.win.toNat + y.depart / s.ticksN) = false →
      let pe := s.pathEntry c y.path.toNat
      let reached := entryValid pe = true ∧ fld pe.toNat 190 188 = 0 ∧ s.reachable (BitVec.ofNat 12 (fld pe.toNat 79 68)) = true
      (¬ reached → ∃ t, exec (.xsendDeparture c) s = .next t ∧ (t.coreAt c).inj = l ∧ t.fab.flights = s.fab.flights ∧ t.mem = s.mem) ∧
      (reached → (∀ z ∈ s.fab.flights, z.track = []) → y.n ≤ 16 →
      ∃ t f, exec (.xsendDeparture c) s = .next t ∧ (t.coreAt c).inj = l ∧ f ∈ t.fab.flights ∧ f.id = s.nextId ∧ f.due = s.time ∧
        (∀ z ∈ s.fab.flights, z.id ≠ s.nextId → z ∈ t.fab.flights) ∧ (f.row, f.col) = corePos c ∧ t.mem = s.mem ∧
        ∀ j < 32 * y.n, byteOf f.pkt.body.toNat j = (s.mem.byte (coreKey c y.src.toNat + j)).toNat))

/-! ## Events: requests (R46, R110, R117, R120-R136, R179, R185-R196, R318, R322) -/

/-- R110, R123 to R136, R179, R185 to R196, R318, R322. Each of the seven events of a request answers a next state for every operation at its stage:
a request to core space performs where the core's table and a partition admit it, and is answered with its refusal elsewhere (coreSpaceRequest). A
global request passes its station's table and translation, by a walk or by a translation that the station holds, and goes on to its home, to its
requester's replica, or by a route to a unit outside (globalRequestTranslation). The home station performs it (homeRequest), and a replicated store
reaches every copy, each with one event, before it is answered (replicaStore). The answer writes the data, the value word and the completion slot, or
goes back to where the request came from (splitPhaseCompletion). An invalidation drops what the stations hold and is answered once no translated
request is under way (translationInvalidation). A kick enters its pump's queue, or waits while that is full (kickWordStore).
It rests on choices of the model: log 13, 20, 21, 69, 92 and 94. -/
def Obligations.Request_events : Prop :=
  ∀ (s : State) (k : Nat) (o : Op), s.ops.find? (fun (p : Op) => p.id == k) = some o →
    let gone := s.ops.filter (fun (p : Op) => p.id != k)
    let refuse (sub : Nat) (a : Word) : Stage := .reply (.fault (BitVec.ofNat 64 (10 + 256 * sub)) a 0 0)
    let st := (slabOf o.iss.core, o.iss.core.toNat % 128 / 8)
    let phys (key : Nat) := key - hbmKey s.modId 0
    let home (key kind : Nat) := s.stationRefusal (homeSlab (phys key)) (homeStation (phys key)) o.iss.rgn o.smod o.host kind
    -- a request to core space, at the core
    (∀ a : Access, o.req = .mem a → o.stage = .flight → isCoreSpace a.addr = true → spaceMod a.addr = s.modId →
      let key := coreKey (spaceCore a.addr) (fld a.addr.toNat 18 0)
      ∃ t, exec (.coreSpaceRequest k) s = .next t ∧
        (∀ sub, s.spaceRefusal o a = some sub → Staged s t k (refuse sub a.addr) ∧ t.mem = s.mem) ∧
        (s.spaceRefusal o a = none →
          (∀ g, readsPoison s key a = some g →
            Staged s t k (.reply (.fault 11 (a.addr + BitVec.ofNat 64 g - BitVec.ofNat 64 key) 0 0)) ∧ t.mem = s.mem) ∧
          (readsPoison s key a = none → ∃ ans, Staged s t k (.reply ans) ∧ Performs s t key a ans))) ∧
    -- a global request, at the station of the requester
    (∀ a : Access, o.req = .mem a → o.stage = .flight → isGlobal a.addr = true →
      let va := a.addr.toNat % 2 ^ 57
      let e := s.effFor o.iss
      let entry := s.stationRefusal st.1 st.2 o.iss.rgn o.smod o.host a.kind.toNat
      let store := a.kind = 1 ∨ a.kind = 2
      let held (c : CachedTr) : Prop := c.slab.toNat = st.1 ∧ c.station.toNat = st.2 ∧ c.pasid = e.pasid ∧ c.s2f = e.s2f ∧ c.page = va / 65536
      let found := s.translate st e va a.kind.toNat
      ((∀ c ∈ s.tlb, ¬ held c) → found = walk s e.pasid.toNat e.s2f.toNat va a.kind.toNat) ∧
      (found = walk s e.pasid.toNat e.s2f.toNat va a.kind.toNat ∨ ∃ c ∈ s.tlb, held c ∧
        (store → c.bits1.getLsbD 11 = true ∧ c.bits2.getLsbD 11 = true) ∧
        ∀ w, found = .ok w → w.phys = c.phys + va % 65536 ∧ w.bits1 = c.bits1 ∧ w.bits2 = c.bits2) ∧
      ∃ t, exec (.globalRequestTranslation k) s = .next t ∧
        (∀ sub, entry = some sub → Staged s t k (refuse sub a.addr) ∧ t.mem = s.mem) ∧
        (entry = none → va = 0x01F0000000000000 →
          Staged s t k (.reply (.fault (BitVec.ofNat 64 (walkCause 9 0 0 0 a.kind.toNat none)) a.addr 0 0))) ∧
        (entry = none → va ≠ 0x01F0000000000000 → 31744 ≤ va / 2 ^ 42 →
          Staged s t k (.reply (.fault (BitVec.ofNat 64 (walkCause 8 0 0 0 a.kind.toNat none)) a.addr 0 0))) ∧
        (entry = none → va / 2 ^ 42 < 31744 →
          (∀ c, found = .bad c → Staged s t k (.reply (.fault (BitVec.ofNat 64 c) a.addr 0 0)) ∧ t.mem = s.mem) ∧
          (∀ w, found = .ok w →
            let ap := fld w.bits2.toNat 7 6
            let m := BitVec.ofNat 12 (fld w.bits2.toNat 23 12)
            let mc := w.bits2.getLsbD 8
            let rp := w.bits2.getLsbD 9
            let out := s.leavesBy st (s.homePacket a.kind.toNat (ap == 2) m w.phys)
            (store → ∀ p ∈ t.ops, p.id = k → p.mc0 = !mc) ∧
            (ap = 1 ∨ ap = 2 →
              (∀ sub, out = .inl sub → Staged s t k (refuse sub a.addr)) ∧
              (out = .inr none → Staged s t k (.away (ap == 2))) ∧
              (∀ r c, out = .inr (some (r, c)) → Staged s t k .lost ∧ Counted s t (r / 128 * 8 + c / 128) 2)) ∧
            (ap = 0 → rp = true → ¬ store →
              Staged s t k (.home (hbmKey s.modId (w.phys - homeSlab w.phys * 2 ^ 36 + st.1 * 2 ^ 36)) true false 0 m)) ∧
            (ap = 0 → rp = false ∨ store →
              let at_ := Staged s t k (.home (hbmKey s.modId w.phys) mc rp 0 m)
              (store ∨ mc = true ∨ homeSlab w.phys = st.1 ∨ s.copies = [] → at_) ∧
              (at_ ∨ ∃ u : State, u.copies = s.copies ∧ ∃ v, u.fromCopies st (hbmKey s.modId w.phys) a.size = some v ∧
                Staged s t k (.reply (.done (BitVec.ofNat 4096 v) 0))))))) ∧
    -- a request at its home, on a page that is not replicated
    (∀ a key mc ap m, o.req = .mem a → o.stage = .home key mc false ap m →
      let hk := s.real key
      ∃ t, exec (.homeRequest k) s = .next t ∧
        (∀ sub, home key a.kind.toNat = some sub → Staged s t k (refuse sub a.addr) ∧ t.mem = s.mem) ∧
        (home key a.kind.toNat = none →
          (∀ g, readsPoison s hk a = some g → t.mem = s.mem ∧
            Staged s t k (.reply (.fault 11 (a.addr + BitVec.ofNat 64 g - BitVec.ofNat 64 hk) 0 0))) ∧
          (readsPoison s hk a = none → ∃ ans, Staged s t k (.reply ans) ∧ Performs s t hk a ans))) ∧
    -- a replicated store, at its primary and at each other slab
    (∀ a key mc ap m, o.req = .mem a → o.stage = .home key mc true ap m → a.kind = 1 →
      ∃ t, exec (.replicaStore k) s = .next t ∧
        (∀ sub, home key 1 = some sub → Staged s t k (refuse sub a.addr) ∧ t.mem = s.mem) ∧
        (home key 1 = none → Staged s t k (.replicas key 39 s.draws s.pace.toNat) ∧ Stored s t (s.real key) a)) ∧
    (∀ a key left seq tick, o.req = .mem a → o.stage = .replicas key left seq tick → a.kind = 1 →
      let p := phys key
      let h := (otherSlabs k (homeSlab p)).getD (left - 1) 0
      ∃ t, exec (.replicaStore k) s = .next t ∧ Stored s t (s.real (hbmKey s.modId (p - homeSlab p * 2 ^ 36 + h * 2 ^ 36))) a ∧
        Staged s t k (if left ≤ 1 then .reply (.done 0 0) else .replicas key (left - 1) seq tick)) ∧
    (∀ p < 40, (otherSlabs k p).length = 39 ∧ ∀ h < 40, h ≠ p → h ∈ otherSlabs k p) ∧
    -- the answer, at the issuer
    (∀ a x ext, o.req = .mem a →
      o.stage = .reply x ∨ o.stage = .away false ∧ x = ext ∨
        o.stage = .away true ∧ x = (match ext with
          | .done d p => .done d p
          | .fault .. => .fault (BitVec.ofNat 64 (10 + 256 * 7)) a.addr 0 0) →
      ∃ t, exec (.splitPhaseCompletion k ext) s = .next t ∧ t.ops.map (fun p => (p.id, p.stage)) = gone.map (fun p => (p.id, p.stage)) ∧
        (o.foreign = true → t.mem = s.mem ∧ Responds s t o (if a.kind = 1 then 0 else a.size) x) ∧
        (∀ u, o.foreign = false → o.pump = some u → t.ops = gone ∧ t.mem = s.mem ∧
          (t.pumpAt u).queue = (s.pumpAt u).queue.map (fun j => if j.asked == some k then { j with ans := some x } else j)) ∧
        (o.foreign = false → o.pump = none → s.issuerThere o.iss = true →
          let slot := coreKey o.iss.core o.slot.toNat
          let dst := coreKey o.iss.core o.dst.toNat
          (o.mc0 = true → (t.sliceAt o.iss.core o.iss.slc).ctxs[o.iss.ctx].mc0 = some s.pace) ∧
          (∀ q : Spill, o.kind = 0 → (s.sliceAt o.iss.core o.iss.slc).ctxs[o.iss.ctx].spill = some q → q.op = k →
            (t.sliceAt o.iss.core o.iss.slc).ctxs[o.iss.ctx].spill = some { q with answer := some x } ∧ t.mem = s.mem) ∧
          (∀ d p, x = .done d p → o.kind ≠ 0 →
            t.mem.rd slot 8 = o.kind.toNat * 256 + 2 ∧
            t.mem.rd (slot + 8) 8 =
              (if o.kind = 1 then d.toNat % 2 ^ (8 * a.size) % 2 ^ 64
               else if o.kind = 5 then (amoOld a.aop.toNat a.size d.toNat).toNat
               else if o.kind = 6 then (amoOld 10 a.size d.toNat).toNat else 0) ∧
            (∀ y, y < slot ∨ slot + 16 ≤ y → o.kind ≠ 3 ∨ y < dst ∨ dst + 512 ≤ y → t.mem.byte y = s.mem.byte y) ∧
            (o.kind = 3 → dst + 512 ≤ slot ∨ slot + 16 ≤ dst → ∀ j < 512, (t.mem.byte (dst + j)).toNat = byteOf d.toNat j)) ∧
          (∀ c ad d0 d1, x = .fault c ad d0 d1 → o.kind ≠ 0 →
            t.mem.rd slot 8 = o.kind.toNat * 256 + 3 ∧
            t.mem.rd (slot + 8) 8 = (if o.iss.prv then c ||| 0x8000000000000000#64 else c).toNat ∧
            t.mem.rd (slot + 16) 8 = (o.iss.pc.toNat + o.iss.d.toNat) % 2 ^ 64 ∧ t.mem.rd (slot + 24) 8 = o.iss.npc.toNat ∧
            t.mem.rd (slot + 32) 8 = ad.toNat ∧ t.mem.rd (slot + 40) 8 = d0.toNat ∧ t.mem.rd (slot + 48) 8 = d1.toNat ∧
            (∀ y, y < slot ∨ slot + 56 ≤ y → t.mem.byte y = s.mem.byte y)))) ∧
    (∀ ext h q px, o.req = .post q px → o.stage = .away h →
      ∃ t, exec (.splitPhaseCompletion k ext) s = .next t ∧ t.ops = gone ∧ t.mem = s.mem) ∧
    -- an invalidation
    (∀ a, o.req = .mem a → o.stage = .flight → a.addr = stationWord → o.kind = 2 → a.size = 8 →
      let entry := s.stationRefusal st.1 st.2 o.iss.rgn o.smod o.host 1
      let v := a.data.toNat % 2 ^ 64
      let kind := v / 2 ^ 62
      let root := (s.regions.find? (fun g => g.id.toNat == v / 2 ^ 20 % 2 ^ 12)).map (·.eff.s2f)
      ∃ t, exec (.translationInvalidation k) s = .next t ∧ t.mem = s.mem ∧
        (∀ sub, entry = some sub → Staged s t k (refuse sub a.addr) ∧ t.tlb = s.tlb) ∧
        (entry = none → kind = 3 → Staged s t k (refuse 8 a.addr) ∧ t.tlb = s.tlb) ∧
        (entry = none → kind ≠ 3 → Staged s t k (if s.homesQuiet then .reply (.done 0 0) else .flight) ∧
          t.tlb = s.tlb.filter (fun c => !(kind == 2 || (kind == 0 && c.pasid.toNat == v % 2 ^ 20) ||
            (kind == 1 && (c.rgn.toNat == v / 2 ^ 20 % 2 ^ 12 || root == some c.s2f)))))) ∧
    -- a kick
    (∀ (u : PumpId) v, o.req = .kick u v →
      ∃ t, exec (.kickWordStore k) s = .next t ∧ t.mem = s.mem ∧
        ((s.pumpAt u).queue.length < 8 →
          t.ops = gone ∧ ∃ j : Job, (t.pumpAt u).queue = (s.pumpAt u).queue ++ [j] ∧ j.iss = o.iss ∧
            j.off.toNat = v.toNat % 2 ^ 21 ∧ j.chan.toNat = v.toNat / 2 ^ 24 % 16 ∧ j.desc = none ∧ j.count = 0 ∧ j.outcome = none) ∧
        (8 ≤ (s.pumpAt u).queue.length → Staged s t k o.stage ∧ t.pumps = s.pumps))

/-! ## Events: the Starter (R51-R73) -/

/-- R51 to R53, R56, R60 to R73: a Sync of the domain on the active port, from the best master heard, gives the offset; eight within 50 ns lock the clock, one beyond 1 µs unlocks it,
and so does a first one on a new port that is not within 50 ns; an Announce of the domain names the best master; a timeout changes port, and leaves the
clock in holdover once both ports have had theirs; the reference module trims toward its offset's zero, by at most 0.1 ppm a second within 50 ppm. A
lost frequency isolates the module and clears its entries; relocking moves every deadline with the pace count. A due record acts on its gang's slices
and is acted, or is refused in holdover; one past its last tick straggles; a notice from a present module is recorded, an undo takes effect two ticks
later, and an entry is freed 64 ticks after its outcome is final.
It rests on choices of the model: log 24, 60, 70, 83, 84, 85, 95 and 96. -/
def Obligations.Starter_events : Prop :=
  ∀ s : State,
    let x := s.starter
    let code (port : Bool) : BitVec 2 := if port then 1 else 0
    (∀ (port : Bool) (domain : BitVec 7) (rank : Nat) (delta : Int), ∃ t, exec (.syncMessage ⟨⟨port, domain⟩, rank, delta⟩) s = .next t ∧
      (domain ≠ s.config.ptpDomain ∨ x.port ≠ code port ∨ x.master ≠ some rank → t = s) ∧
      (domain = s.config.ptpDomain → x.port = code port → x.master = some rank →
        let d := if s.fullService then delta else 2 * (delta / 2)
        { t with starter := x } = s ∧ t.starter.ofs.toInt = max (-2147483648) (min d 2147483647) ∧
        t.starter.good = (if d.natAbs ≤ 125 then x.good + 1 else 0) ∧
        t.starter.clk = (if x.clk = 2 then 2
          else if x.clk = 0 then (if 2500 < d.natAbs ∨ (x.first = true ∧ 125 < d.natAbs) then 1 else 0)
          else if 8 ≤ t.starter.good then 0 else x.clk) ∧ t.starter.first = false ∧ t.starter.port = x.port ∧ t.starter.armed = x.armed)) ∧
    (∀ (port : Bool) (domain : BitVec 7) rank, ∃ t, exec (.announceMessage ⟨port, domain⟩ rank) s = .next t ∧
      (domain ≠ s.config.ptpDomain ∨ (x.port ≠ 2 ∧ x.port ≠ code port) → t = s) ∧
      (domain = s.config.ptpDomain → x.port = 2 ∨ x.port = code port → { t with starter := x } = s ∧ t.starter.expired = false ∧
        t.starter.master = some (match x.master with
          | none => rank
          | some m => min rank m) ∧ t.starter.port = code port ∧ t.starter.clk = x.clk)) ∧
    (∀ port (domain : BitVec 7) seq t2 t3, exec (.pdelayReq ⟨port, domain⟩ seq t2 t3) s = .next
      (if domain ≠ s.config.ptpDomain ∨ x.port ≠ code port then s
       else { s with starter := { x with answers := { port := port, seq := seq, t2 := t2, t3 := t3, oneStep := s.config.oneStep } :: x.answers } })) ∧
    (∃ t, exec .announceReceiptTimeout s = .next t ∧ { t with starter := x } = s ∧ t.starter.master = none ∧ t.starter.expired = true ∧
      t.starter.first = true ∧ t.starter.port = (if x.port = 0 then 1 else 0) ∧
      (x.expired = false → t.starter.clk = x.clk ∧ t.starter.good = x.good) ∧
      (x.expired = true → t.starter.clk = (if x.clk = 0 then 1 else x.clk) ∧ t.starter.good = 0)) ∧
    (∀ ppb : Int, ∃ t, exec (.frequencyTrim ppb) s = .next t ∧ { t with starter := x } = s ∧
      (s.modId ≠ s.config.refMod ∨ x.clk ≠ 0 → t = s) ∧
      (s.modId = s.config.refMod → x.clk = 0 → -50000 ≤ x.trim → x.trim ≤ 50000 →
        let moved := t.starter.trim - x.trim
        let room := (s.time - x.trimAt) * 100 / 2500000000
        t.starter.trim ≤ 50000 ∧ -50000 ≤ t.starter.trim ∧ moved.natAbs ≤ 100 ∧ moved.natAbs ≤ room ∧
        (x.ofs = 0 → moved = 0) ∧ (0 < x.ofs.toInt → 0 ≤ moved) ∧ (x.ofs.toInt < 0 → moved ≤ 0) ∧
        (moved ≠ 0 → t.starter.trimAt = s.time) ∧
        (-50000 ≤ ppb → ppb ≤ 50000 → (ppb - x.trim).natAbs ≤ min 100 room →
          0 < x.ofs.toInt ∧ x.trim ≤ ppb ∨ x.ofs.toInt < 0 ∧ ppb ≤ x.trim → t.starter.trim = ppb))) ∧
    (∃ t, exec .frequencyLoss s = .next t ∧ (s.isolated = true → t = s) ∧
      (s.isolated = false → t.isolated = true ∧ t.starter.clk = 2 ∧ t.starter.armed = [])) ∧
    (s.isolated = true → ∀ pace pos, ∃ t, exec (.relock pace pos) s = .next t ∧ t.isolated = false ∧ t.pace = pace ∧ t.fcyc = (if s.fullService then pos % 1024 else pos % 1024 / 2) ∧
      t.starter.clk = 3 ∧ t.starter.good = 0 ∧ t.mem = s.mem ∧
      ∀ co i, (s.sliceAt co i).v = true → (t.sliceAt co i).dead = (s.sliceAt co i).dead + (pace - s.pace).setWidth 48 ∧
        (t.sliceAt co i).suspTick = (s.sliceAt co i).suspTick + (pace - s.pace)) ∧
    (∀ n (a : Armed), x.armed.find? (fun b => b.id == n) = some a →
      let entry (t : State) (q : Armed → Prop) : Prop := ∃ b ∈ t.starter.armed, b.id = n ∧ q b
      let mine := a.coord = s.modId
      let stopped (y : Slice) : Prop := y.st = .suspended
      let again (t : State) : Prop := entry t (fun b => b.attempt = a.attempt + 1 ∧ b.acted = false ∧ b.straggled = false)
      let missed (t : State) : Prop := entry t (fun b => b.straggled = true ∧ b.final = some s.pace ∧ b.acted = a.acted) ∧
        ∀ co i, s.gangSlices a.gang = [(co, i)] → a.holds (s.sliceAt co i) = true → (t.sliceAt co i).st = .leaving
      (s.actionDue a = true → x.clk = 1 → a.f 6 6 = 1 → ∃ t, exec (.timedAction n) s = .next t ∧
        (¬ mine → a.retries = true → again t) ∧ (¬ mine → a.retries = false → missed t)) ∧
      (s.actionDue a = true → x.clk ≠ 1 ∨ a.f 6 6 ≠ 1 →
        ∃ t, exec (.timedAction n) s = .next t ∧ entry t (fun b => b.acted = true) ∧
          (∀ co i, s.gangSlices a.gang = [(co, i)] →
            let y := s.sliceAt co i
            let z := t.sliceAt co i
            (a.doing = 0 → a.holds y = true → z.st = .ready ∧ z.brem = y.bud) ∧
            (a.doing = 1 → y.st = .ready ∨ y.st = .running ∨ y.st = .idle → stopped z ∧ z.suspTick = s.pace) ∧
            (a.doing = 2 → y.st = .suspended ∨ y.st = .stopped → (y.attached && y.halted) = false → z.st = .ready ∨ z.st = .running) ∧
            (3 ≤ a.doing → z.st = .leaving))) ∧
      (s.straggles a = true → ∃ t, exec (.straggler n) s = .next t ∧
        (¬ mine → a.retries = true → again t) ∧ (¬ mine → a.retries = false → missed t)) ∧
      (a.collecting = true → s.lastTick a + 64 ≤ s.pace.toNat →
        ∃ t, exec (.coordCollectTimeout n) s = .next t ∧
          ((a.reports.filter (fun r => r.acted)).length = a.nmem ∨ a.strg = 1 ∨ a.act = 3 →
            entry t (fun b => b.final = some s.pace ∧ b.collecting = false)) ∧
          ((a.reports.filter (fun r => r.acted)).length ≠ a.nmem → a.strg ≠ 1 → a.act ≠ 3 →
            (a.acted = true → entry t (fun b => b.undoAt = some (s.pace + 2) ∧ b.collecting = false)) ∧
            (a.acted = false → a.retries = true → again t) ∧
            (a.acted = false → a.retries = false → entry t (fun b => b.final = some s.pace ∧ b.collecting = false)))) ∧
      (∀ u, a.undoAt = some u → u.toNat ≤ s.pace.toNat →
        ∃ t, exec (.undo n) s = .next t ∧
          (a.retries = true → entry t (fun b => b.attempt = a.attempt + 1 ∧ b.acted = false ∧ b.undoAt = none)) ∧
          (a.retries = false → entry t (fun b => b.undoAt = none ∧ b.final = some s.pace)) ∧
          ∀ co i, s.gangSlices a.gang = [(co, i)] → a.acted = true → a.act = 0 →
            (s.sliceAt co i).st = .ready ∨ (s.sliceAt co i).st = .running → stopped (t.sliceAt co i)) ∧
      (∀ f, a.final = some f → f.toNat + 64 ≤ s.pace.toNat →
        exec (.armEntryFree n) s = .next { s with starter := { x with armed := x.armed.filter (fun b => b.id != n) } }) ∧
      (a.act = 0 → a.tried = false → a.final = none → s.placesBefore a.seq = false →
        let d := (s.portals.get a.portal.toNat).toNat
        let q := s.portalSpace a.portal
        ∃ t, exec (.armedRecordPlacement n) s = .next t ∧
          (match (s.launchTree (portalSlab a.portal) (s.portalNode a.portal) (BitVec.ofNat 64 (a.f 319 256)) q.1 q.2 (d.testBit 253)
              (BitVec.ofNat 12 (fld d 235 224)) a.gang (some a.id)).2 with
           | .status _ => entry t (fun b => b.tried = true ∧ b.ready = a.ready)
           | .waits => entry t (fun b => b.tried = false)
           | .slices _ => entry t (fun b => b.tried = true ∧ b.ready = true)))) ∧
    (∀ k (f : Flight), s.fab.flights.find? (fun z => z.id == k) = some f → f.pkt.kind = 3 → f.pkt.dcls = 5 → f.arrived = some 5 →
      let p := f.pkt
      let b := p.body.toNat
      let gone := s.fab.flights.filter (fun z => z.id != k)
      let known := s.fab.present.get p.smod.toNat = 1 ∧ p.h = false
      ∃ t, exec (.starterNotice k) s = .next t ∧
        (¬ known ∨ x.armed.find? (fun a => a.matches b) = none → t.fab.flights = gone ∧ Counted s t 0 7 ∧ t.starter = x ∧ t.mem = s.mem) ∧
        (∀ a, known → x.armed.find? (fun a => a.matches b) = some a →
          (fld b 47 40 = 3 → fld b 39 32 = a.attempt % 256 →
            ∃ e ∈ t.starter.armed, e.id = a.id ∧ e.undoAt = some (s.pace + 2) ∧ e.final = none) ∧
          (fld b 47 40 = 1 ∨ fld b 47 40 = 2 → a.coord = s.modId → a.reports.length + 1 < a.nmem →
            (∀ r ∈ a.reports, r.m ≠ p.smod) →
            ∃ e ∈ t.starter.armed, e.id = a.id ∧ e.reports = a.reports ++ [{ m := p.smod, acted := fld b 47 40 == 1 }])))

/-! ## Events: host portals (R74-R87, R95, R103, R138) -/

/-- R75 to R79: a notify write from the portal's host node moves TAIL, or counts in ERR; a reset notify sets both counts and clears ERR and FLT. A
portal with commands to fetch reads the next from its ring, or sets FLT; a command that may not be carried out has its status at once. A completion
record takes the command's context word, status, detail, phase, count and data words. R80 to R87, R103, R138: each command is carried out as its
item says and has its result; what is not placed, not in the tenancy, busy or beyond a budget has its status.
It rests on choices of the model: log 37, 39 to 45, 64, 86 and 96 to 103. -/
def Obligations.Host_commands : Prop :=
  ∀ s : State,
    let pd (t : State) (p : BitVec 6) : Nat := (t.portals.get p.toNat).toNat
    (∀ k (x : Flight), s.fab.flights.find? (fun z => z.id == k) = some x → x.isNotify = true →
      let p : BitVec 6 := BitVec.ofNat 6 (x.pkt.opx / 64)
      let v := x.pkt.body.toNat % 2 ^ 64
      let d := pd s p
      let gone (t : State) : Prop := t.fab.flights = s.fab.flights.filter (fun z => z.id != k)
      let free (n : Nat) : Prop := (v + 2 ^ 32 - n) % 2 ^ 32 ≤ 2 ^ fld d 251 248
      let counted (t : State) : Prop := fld (pd t p) 203 192 = min (fld d 203 192 + 1) 4095 ∧ fld (pd t p) 255 204 = fld d 255 204 ∧
        fld (pd t p) 191 0 = fld d 191 0
      (v / 2 ^ 32 ≠ 2 ^ 31 →
        let good := s.notifyAllowed x.pkt = true ∧ v < 2 ^ 32 ∧ fld d 101 101 = 0 ∧ free (fld d 31 0) ∧ free (fld d 63 32)
        ∃ t, exec (.notifyWrite k) s = .next t ∧ gone t ∧
          (s.valid = false → t.portals = s.portals ∧ t.mem = s.mem ∧ t.sent = s.sent) ∧
          (s.valid = true → good → fld (pd t p) 63 32 = v ∧ fld (pd t p) 255 64 = fld d 255 64 ∧ fld (pd t p) 31 0 = fld d 31 0 ∧ t.mem = s.mem) ∧
          (s.valid = true → ¬ good → counted t)) ∧
      (v / 2 ^ 32 = 2 ^ 31 →
        ∃ t, exec (.resetNotify k) s = .next t ∧ gone t ∧
          (s.valid = false → t.portals = s.portals ∧ t.mem = s.mem ∧ t.sent = s.sent) ∧
          (s.valid = true → s.notifyAllowed x.pkt = true → fld (pd t p) 63 32 = v % 2 ^ 32 ∧ fld (pd t p) 31 0 = v % 2 ^ 32 ∧ fld (pd t p) 203 192 = 0 ∧
            fld (pd t p) 101 101 = 0 ∧ fld (pd t p) 255 204 = fld d 255 204 ∧ fld (pd t p) 191 102 = fld d 191 102 ∧ t.mem = s.mem) ∧
          (s.valid = true → s.notifyAllowed x.pkt = false → counted t))) ∧
    (∀ p, s.mayFetch p = true →
      let d := pd s p
      let n := fld d 31 0
      let ring := s.ringKey p (fld d 191 147 * 4096 + 64 * (n % 2 ^ fld d 251 248)) 64 0
      (ring.2 = none → ∃ t, exec (.commandFetch p) s = .next t ∧ (pd t p).testBit 101 = true ∧ t.cmds = s.cmds) ∧
      (∀ u k, ring = (u, some k) →
        ∃ t c, exec (.commandFetch p) s = .next t ∧ t.cmds = s.cmds ++ [c] ∧ t.mem = u.mem ∧ c.p = p ∧ c.n.toNat = n ∧
          c.bytes.toNat = u.mem.rd k 64 ∧ c.waits = [] ∧ fld (pd t p) 31 0 = (n + 1) % 2 ^ 32 ∧
          (let v := c.bytes.toNat
           let own := d.testBit 253
           let mine := fld v 135 128 = 4 ∧ fld v 143 136 = p.toNat
           let ofOwner := fld v 7 0 = 7 ∧ (fld v 135 128 = 2 ∨ fld v 135 128 = 3) ∧ (pd s (BitVec.ofNat 6 (fld v 143 136))).testBit 253 = true
           (d.testBit 254 = true → c.result = some (1, 0, 0, 0)) ∧
           (d.testBit 254 = false → fld v 51 32 ≠ fld d 223 204 → c.result = some (3, 0, 0, 0)) ∧
           (d.testBit 254 = false → fld v 51 32 = fld d 223 204 →
             (fld v 7 0 = 0 ∨ 8 < fld v 7 0 → c.result = some (2, 0, 0, 0)) ∧
             (1 ≤ fld v 7 0 → fld v 7 0 ≤ 8 →
               (operandBad v = true → c.result = some (4, 0, 0, 0)) ∧
               (operandBad v = false → (fld v 7 0 = 7 ∧ own = false ∧ ¬ mine → c.result = some (10, 0, 0, 0)) ∧
                 (fld v 7 0 ≠ 7 ∨ own = true ∨ mine → (ofOwner → c.result = some (4, 0, 0, 0)) ∧ (¬ ofOwner → c.result = none)))))))) ∧
    (∀ p n (c : Cmd), s.cmds.find? (fun (e : Cmd) => e.p == p && e.n == n) = some c →
      let d := pd s p
      let ends (t : State) (st : Nat) (d0 d1 : Word) : Prop := Ended t p n st 0 d0 d1
      let entry (t : State) (q : Cmd → Prop) : Prop := ∃ e ∈ t.cmds, e.p = p ∧ e.n = n ∧ q e
      let only (t u : State) : Prop := { t with cmds := u.cmds, draws := u.draws } = u
      let tenant := BitVec.ofNat 12 (fld d 235 224)
      let named (a : Word) (t : State) : Prop := (s.regionAt a = none → ends t 12 0 0) ∧
        (∀ r, s.regionAt a = some r → s.under r.id tenant = false → ends t 7 0 0)
      let at_ (a : Word) (r : Region) : Prop := s.regionAt a = some r ∧ s.under r.id tenant = true
      (∀ r, c.result = some r →
        ∃ t, exec (.commandCompletion p n) s = .next t ∧ t.cmds = s.cmds.filter (fun (e : Cmd) => !(e.p == p && e.n == n)) ∧
          (c.op = 7 → c.f 135 128 = 3 → r.1 = 0 → t.revoked.getLsbD (c.f 143 136 % 64) = true) ∧
          (let size := 2 ^ fld d 251 248
           let ring := State.ringKey { s with cmds := t.cmds } c.p (fld d 146 102 * 4096 + 32 * (c.n.toNat % size)) 32 1
           (ring.2 = none → (pd t p).testBit 101 = true) ∧
           (∀ u k, ring = (u, some k) → c.bytes.getLsbD 8 = false →
             t.mem.rd k 8 = c.f 127 64 ∧ t.mem.rd (k + 16) 8 = r.2.2.1.toNat ∧ t.mem.rd (k + 24) 8 = r.2.2.2.toNat ∧
             t.mem.rd (k + 8) 8 = r.1.toNat + r.2.1.toNat * 2 ^ 8 + c.n.toNat / size % 2 * 2 ^ 16 + c.n.toNat * 2 ^ 32 ∧
             ∀ a, a < k ∨ k + 32 ≤ a → t.mem.byte a = u.mem.byte a))) ∧
      (s.mayRun c = true →
        (c.op = 1 → c.waits = [] →
          ∃ t, exec (.launch p n) s = .next t ∧
            (match (s.launchTree (portalSlab p) (s.portalNode p) (BitVec.ofNat 64 (c.f 191 128)) (s.portalSpace p).1 (s.portalSpace p).2
                (d.testBit 253) tenant 0 none).2 with
             | .status st => ends t st 0 0
             | .waits => entry t (fun e => e.result = none ∧ e.waits = [])
             | .slices l => (l = [] → ends t 0 0 0) ∧ (l ≠ [] → entry t (fun e => e.result = none ∧ e.waits = l)))) ∧
        (c.op = 1 → c.waits ≠ [] →
          ∃ t, exec (.launch p n) s = .next t ∧ only t s ∧
            ((∀ w ∈ c.waits, (s.sliceAt w.1 w.2).st ≠ .held) → ∃ d1, ends t 0 (BitVec.ofNat 64 c.waits.length) d1 ∧
              (∃ w ∈ c.waits, d1.toNat = w.1.toNat) ∧ ∀ w ∈ c.waits, d1.toNat ≤ w.1.toNat) ∧
            ((∃ w ∈ c.waits, (s.sliceAt w.1 w.2).st = .held) → entry t (fun e => e.result = none))) ∧
        (c.op = 2 →
          let r : BitVec 512 := BitVec.ofNat 512 (c.f 511 128)
          ∃ t, exec (.arm p n) s = .next t ∧
            (∀ code, s.armRefusal p r = some code → Ended t p n 9 code 0 0 ∧ only t (s.armCheck p r).1 ∧ (code ≠ 8 → only t s)) ∧
            (s.armRefusal p r = none → ends t 0 0 0 ∧ ∃ a, t.starter.armed = s.starter.armed ++ [a] ∧ a.recd = r ∧ a.portal = p ∧ a.attempt = 0 ∧
              a.acted = false ∧ a.tried = false ∧ a.final = none ∧ a.k = BitVec.ofInt 64 (firstTick s.config r 0))) ∧
        (c.op = 3 → c.f 135 128 = 0 → c.waits = [] →
          let a := BitVec.ofNat 64 (c.f 255 192)
          ∃ t, exec (.killSubtree p n) s = .next t ∧ named a t ∧
            (∀ r, at_ a r → r.id = 0 → ends t 7 0 0) ∧
            (∀ r, at_ a r → r.id ≠ 0 → (s.slicesOf (s.subtree r.id) = [] → ends t 0 0 0) ∧
              (∀ w, s.slicesOf (s.subtree r.id) = [w] → entry t (fun e => e.result = none ∧ e.waits = [w]) ∧
                (t.sliceAt w.1 w.2).st = .leaving))) ∧
        (c.op = 3 → c.f 135 128 = 1 → c.waits = [] →
          let g : BitVec 16 := BitVec.ofNat 16 (c.f 207 192)
          let mine (a : Armed) : Prop := a.gang = g ∧ a.open = true
          ∃ t, exec (.killGang p n) s = .next t ∧
            (c.pos = 0 → (∀ a ∈ s.starter.armed, ¬ mine a) → s.gangSlices g = [] → ends t 12 0 0) ∧
            ((∃ a ∈ s.starter.armed, mine a ∧ s.cancellable a = false) → entry t (fun e => e.result = none ∧ e.waits = []) ∧
              ∀ b ∈ t.starter.armed, b ∈ s.starter.armed ∧ ¬ (mine b ∧ s.cancellable b = true)) ∧
            ((∀ a ∈ s.starter.armed, mine a → s.cancellable a = true) → ∀ b ∈ t.starter.armed, b ∈ s.starter.armed ∧ ¬ mine b) ∧
            (∀ w, (∀ a ∈ s.starter.armed, ¬ mine a) → s.gangSlices g = [w] → entry t (fun e => e.result = none ∧ e.waits = [w]) ∧
              (t.sliceAt w.1 w.2).st = .leaving)) ∧
        (c.op = 3 → c.waits ≠ [] → c.f 135 128 < 2 →
          ∃ t, exec (if c.f 135 128 = 0 then .killSubtree p n else .killGang p n) s = .next t ∧ only t s ∧
            ((∀ w ∈ c.waits, s.gone w = true) → (∀ r ∈ c.parts, s.delivered r = true) → ends t 0 0 0) ∧
            ((∃ w ∈ c.waits, s.gone w = false) ∨ (∃ r ∈ c.parts, s.delivered r = false) → entry t (fun e => e.result = none))) ∧
        (c.op = 4 → c.f 135 128 = 0 → ∃ t, exec (.queryStarterStatus p n) s = .next t ∧ only t s ∧ ends t 0 s.starterWord 0) ∧
        (c.op = 4 → c.f 135 128 = 1 → ∃ t, exec (.queryPower p n) s = .next t ∧ only t s ∧ ends t 0 s.powerWord 0) ∧
        (c.op = 4 → c.f 135 128 = 2 →
          ∃ t, exec (.queryDescriptor p n) s = .next t ∧ only t s ∧ ends t 0 (BitVec.ofNat 64 (fld d 63 0)) (BitVec.ofNat 64 (fld d 127 64))) ∧
        (c.op = 4 → c.f 135 128 = 3 →
          let a := BitVec.ofNat 64 (c.f 255 192)
          ∃ t, exec (.queryRegion p n) s = .next t ∧ t.regions = s.regions ∧
            (∀ r, s.regionAt a = some r → s.under r.id tenant = false → ends t 7 0 0) ∧
            (∀ r, at_ a r →
              let l := s.slicesOf [r.id]
              let held := l.filter (fun w => (s.sliceAt w.1 w.2).st == .suspended || (s.sliceAt w.1 w.2).st == .stopped)
              let fill := s.queueFill (portalSlab p) r.eff r.id
              only t fill.1 ∧ ends t 0 (BitVec.ofNat 64 (l.length + held.length * 2 ^ 16 + r.id.toNat * 2 ^ 32 + 2 ^ 44)) (BitVec.ofNat 64 fill.2))) ∧
        (c.op = 5 →
          let len := c.f 295 256
          let src := s.copyWalk c (c.f 184 128 + c.pos) 0
          ∃ t, exec (.copy p n) s = .next t ∧
            (len ≤ c.pos → only t s ∧ ends t c.badSt.toNat (BitVec.ofNat 64 (c.low.getD 0)) (BitVec.ofNat 64 c.bad)) ∧
            (∀ st, c.pos < len → src = .inl st → only t (s.copyMark c (c.f 184 128 + c.pos) 0) ∧ entry t (fun e => e.result = none ∧ e.bad = c.bad + 1 ∧
              e.low = some (min (c.low.getD c.pos) c.pos) ∧ e.pos = (c.pos / 65536 + 1) * 65536 ∧ (c.bad = 0 → e.badSt = BitVec.ofNat 8 st))) ∧
            (∀ w to_, c.pos < len → src = .inr w →
              let r := (s.setAcDt w 0).draw
              r.copyWalk c (c.f 248 192 + c.pos) 1 = .inr to_ →
              entry t (fun e => e.result = none ∧ e.pos = c.pos + 8 ∧ e.bad = c.bad) ∧
              (s.copies = [] ∨ w.cold (portalSlab p) = false → ∀ g ∈ to_.keys s, ∀ j < 8,
                t.mem.byte (s.real g + j) = r.mem.byte (s.real (w.loadKey s (portalSlab p)) + j)))) ∧
        (c.op = 6 →
          let a := BitVec.ofNat 64 (c.f 191 128)
          let num : BitVec 4 := BitVec.ofNat 4 (c.f 199 192)
          let same (r : Region) (q : Pool) : Bool := q.rgn == r.id && q.num == num
          let nkey := c.f 255 224
          ∃ t, exec (if nkey = 0 then .keypoolRelease p n else .keypool p n) s = .next t ∧ named a t ∧
            (∀ r q, at_ a r → s.pools.find? (same r) = some q → q.busy = true → ends t 14 0 0 ∧ t.pools = s.pools) ∧
            (∀ r, at_ a r → nkey = 0 → s.pools.find? (same r) = none → ends t 12 0 0) ∧
            (∀ r q, at_ a r → nkey = 0 → s.pools.find? (same r) = some q → q.busy = false → ends t 0 0 0 ∧
              t.pools = s.pools.filter (fun y => !(y.rgn == q.rgn && y.num == q.num))) ∧
            (∀ r, at_ a r → nkey ≠ 0 → (∀ q, s.pools.find? (same r) = some q → q.busy = false) →
              let excess := (s.chain 4096 r.id).any (fun y => y.id != 0 && decide (y.ckeys < s.keysUsed y.id r.id num + nkey))
              let others := s.pools.filter (fun y => !same r y)
              let before := match s.pools.find? (same r) with
                | some q => s.releaseFrames q
                | none => s
              let m := 8 * (c.f 202 200 + 1)
              let dep := 4 * 2 ^ c.f 205 203
              (excess = true → ends t 8 0 0 ∧ t.pools = s.pools) ∧
              (excess = false → before.pickFrames (s.poolSlab r).toNat (poolFrames nkey dep m) before.occupied = none → ends t 8 0 0 ∧ t.pools = s.pools) ∧
              (∀ fs, excess = false → before.pickFrames (s.poolSlab r).toNat (poolFrames nkey dep m) before.occupied = some fs → ends t 0 0 0 ∧
                (∀ f ∈ fs, f / 2 ^ 20 = (s.poolSlab r).toNat ∧ f % 2 ^ 20 < 732421 ∧ ∀ u ∈ before.occupied, f < u.1 ∨ u.1 + u.2 ≤ f) ∧ fs.Nodup ∧
                ∃ q, t.pools = others ++ [q] ∧ q.rgn = r.id ∧ q.num = num ∧ q.n = m ∧ q.d = dep ∧ q.lossy = c.bytes.getLsbD 206 ∧
                  q.nst = c.f 215 208 ∧ q.nkey = nkey ∧ q.slab = s.poolSlab r ∧ q.keys = [] ∧ q.readers = [] ∧ q.waiting = [] ∧
                  q.frames = fs.map (BitVec.ofNat 40) ∧ fs.length = poolFrames nkey dep m))) ∧
        (c.op = 7 →
          let q := c.f 143 136 % 64
          let v := c.f 447 192
          let old := (s.portals.get q).toNat
          (c.f 135 128 = 1 → ∃ t, exec (.configPower p n) s = .next t ∧ ends t 0 0 0 ∧ t.power.cap.toNat = max 240 (min 450 (c.f 207 192)) ∧
            t.power.ceil.toNat = max 16 (min 32 (c.f 241 236)) ∧ t.power.exc = 0 ∧ t.mem = s.mem) ∧
          (c.f 135 128 = 2 → ∃ t, exec (.configDescriptor p n) s = .next t ∧ ends t 0 0 0 ∧
            (let w := (t.portals.get q).toNat
             fld w 255 254 = fld v 255 254 ∧ fld w 253 253 = fld old 253 253 ∧ fld w 252 204 = fld v 252 204 ∧ fld w 203 192 = 0 ∧
             fld w 191 102 = fld v 191 102 ∧ fld w 101 0 = 0) ∧
            t.revoked.getLsbD q = (s.revoked.getLsbD q && v.testBit 254)) ∧
          (c.f 135 128 = 3 → ∃ t, exec (.configRevoke p n) s = .next t ∧ ends t 0 0 0 ∧
            ∀ j < 256, (t.portals.get q).getLsbD j = ((s.portals.get q).getLsbD j || j == 254)) ∧
          (c.f 135 128 = 4 → ∃ t, exec (.configInterrupt p n) s = .next t ∧ ends t 0 0 0 ∧
            (let e := (t.irqs.get (c.f 143 136)).toNat
             fld e 31 0 = c.f 223 192 ∧ fld e 65 32 = 0 ∧ fld e 127 66 = c.f 319 258)) ∧
          (c.f 135 128 = 5 → ∃ t, exec (.configRetireStack p n) s = .next t ∧ ends t 0 0 0 ∧
            ∀ j < 40, t.retired.getLsbD j = (s.retired.getLsbD j || j == c.f 143 136))) ∧
        (c.op = 8 →
          let a := BitVec.ofNat 64 (c.f 191 128)
          ∃ t, exec (.resume p n) s = .next t ∧ named a t ∧
            (∀ r, at_ a r →
              let l := (s.slicesOf (s.subtree r.id)).filter (fun w =>
                ((s.sliceAt w.1 w.2).st == .suspended || (s.sliceAt w.1 w.2).st == .stopped) &&
                  !((s.sliceAt w.1 w.2).attached && (s.sliceAt w.1 w.2).halted))
              ends t 0 (BitVec.ofNat 64 l.length) 0 ∧
              ∀ w, l = [w] → (t.sliceAt w.1 w.2).st = .ready ∨ (t.sliceAt w.1 w.2).st = .running)))) ∧
    (∀ (r : Region) rows cols k gang arm prv lead (code : Nat × Nat) co i pb ib tbl,
      (s.coreAt co).fit r.eff = some (i, pb, ib) → tableInsert (s.coreTable co) (placementEntry r.id s.modId) = some tbl →
      ∃ t, s.placeSlice r rows cols k gang arm prv lead code co = some (t, (co, i)) ∧ t.coreTable co = tbl ∧
        (let x := t.sliceAt co i
         let wp := pb * 4096 + (if r.eff.acc then 4096 else 0)
         x.v = true ∧ x.st = .held ∧ x.rgn = r.id ∧ x.gang = gang ∧ x.arm = arm ∧ x.eff = r.eff ∧ x.rcb = r.rcb ∧ x.k = k ∧ x.started = false ∧
         x.ctxs[(0 : Fin 11)].live = true ∧ x.ctxs[(0 : Fin 11)].wp.toNat = wp ∧ x.ctxs[(0 : Fin 11)].prv = prv ∧
         x.ctxs[(0 : Fin 11)].pc.toNat = ib * 4096 + r.eff.entry.toNat ∧ (∀ h : Fin 11, h ≠ 0 → x.ctxs[h].live = false) ∧
         (8 * r.eff.clen.toNat ≤ r.eff.iskb.toNat * 1024 → wp + 512 ≤ 393216 →
           ∀ j < 8 * r.eff.clen.toNat, (t.mem.byte (coreKey co (393216 + ib * 4096 + j))).toNat = byteOf code.1 j)))

/-! ## Events: slices, supersteps and the debugger (R84, R97-R105, R169, R204, R217-R222, R295, R298-R301) -/

/-- R97 to R105, R169, R299 to R301: a release gives a slice its budget and next deadline; one that runs out is given them again in class 3, or faults
as its region says. A switch ends with the bank restored and the contexts going on; a slice that has come to rest leaves its entry fresh, and its
share is cleared 256 cycles later. Arrivals collect at slice 0, and the last one sends every slice a go message that names the opening tick; windows
open and close at their ticks. R204, R295: an expired wait sends a cancel or traps. R217 to R222: krabex attaches, halts, resumes, steps, and reads and
writes breakpoints, watchpoints, traces and state.
It rests on choices of the model: log 49, 50, 53, 61, 66, 82 and 90. -/
def Obligations.Slice_events : Prop :=
  ∀ (s : State) (co : CoreId) (i : Fin 16),
    let x := s.sliceAt co i
    let c := s.coreAt co
    (s.releaseDue x = true → c.switch = none → ∃ t, exec (.sliceRelease co i) s = .next t ∧ t.mem = s.mem ∧ (t.coreAt co).evaluate = true ∧
      t.sliceAt co i = { x with brem := x.bud, dead := x.dead + x.per.setWidth 48, st := if x.st = .idle then .ready else x.st }) ∧
    (x.v = true → x.st = .ready ∨ x.st = .running → x.brem = 0 → x.disc = false ∨ x.counting = true → c.switch = none →
      ∃ t, exec (.budgetExhaustion co i) s = .next t ∧ (t.coreAt co).evaluate = true ∧
        (x.cls = 3 → x.disc = false → t.mem = s.mem ∧ (t.sliceAt co i).st = x.st ∧ (t.sliceAt co i).brem = x.bud ∧
          (t.sliceAt co i).dead = BitVec.ofNat 48 (s.pace.toNat + x.per.toNat)) ∧
        (x.cls ≠ 3 ∨ x.disc = true → (t.sliceAt co i).st = (if x.eff.dfp = 2 then .leaving else if x.eff.dfp = 1 then .idle else .stopped))) ∧
    (∀ w, c.switch = some w → c.switchOver = true →
      ∃ t, exec (.switchComplete co) s = .next t ∧ (t.coreAt co).switch = none ∧ (t.coreAt co).evaluate = true ∧
        (w.inc = none → t.mem = s.mem) ∧
        (w.inc = some i →
          (x.acc = true → x.v = true → (∀ j < 4096, t.mem.byte (bankKey co 0 0 + j) = s.mem.byte (coreKey co (x.pb.toNat * 4096) + j)) ∧
            ∀ a, a < bankKey co 0 0 ∨ bankKey co 0 0 + 4096 ≤ a → t.mem.byte a = s.mem.byte a) ∧
          (x.st = .running → ∀ h : Fin 11, x.ctxs[h].live = true → x.ctxs[h].stopped = true →
            (t.sliceAt co i).ctxs[h].live = true ∧ (t.sliceAt co i).ctxs[h].stopped = false))) ∧
    (s.mayLeave co i = true → ∃ t, exec (.sliceLeave co i) s = .next t ∧ t.sliceAt co i = Slice.fresh ∧ (t.coreAt co).running ≠ some i ∧
      (t.coreAt co).evaluate = true ∧ (c.share = some i → (t.coreAt co).shareClr = some (i, c.cyc + 256))) ∧
    (∀ n, c.shareClr = some n → ∃ t, exec (.bShareClear co) s = .next t ∧ (t.coreAt co).shareClr = none ∧
      (c.share = some n.1 → (t.coreAt co).share = none ∧ (∀ j < 32768, t.mem.byte (shareKey co 0 0 + j) = 0) ∧
        ∀ a, a < shareKey co 0 0 ∨ shareKey co 0 0 + 32768 ≤ a → t.mem.byte a = s.mem.byte a) ∧
      (c.share ≠ some n.1 → (t.coreAt co).share = c.share ∧ t.mem = s.mem)) ∧
    (∀ k (o : Op) num v op, s.ops.find? (fun (p : Op) => p.id == k) = some o → o.req = .arrival num v op →
      let y := s.sliceAt o.iss.core o.iss.slc
      let gone := s.ops.filter (fun (p : Op) => p.id != k)
      ∃ t, exec (.sbarArrival k) s = .next t ∧ t.mem = s.mem ∧
        (s.memberAt y.lead o.iss.rgn 0 = none → t.ops = gone) ∧
        (∀ h, s.memberAt y.lead o.iss.rgn 0 = some h →
          let z := s.sliceAt y.lead h
          let rows := z.crows.toNat
          let cols := z.ccols.toNat
          let l := z.arrivals.filter (fun a => !(a.num == num && a.k == y.k)) ++ [{ k := y.k, num := num, v := v, op := op }]
          let mine := l.filter (fun a => a.num == num)
          (mine.length < rows * cols → t.ops = gone ∧ (t.sliceAt y.lead h).arrivals = l) ∧
          (rows * cols ≤ mine.length → (t.sliceAt y.lead h).arrivals = l.filter (fun a => a.num != num) ∧
            ∀ j < rows * cols,
              let d : CoreId := BitVec.ofNat 20 (y.lead.toNat + 128 * (j / cols) + j % cols)
              ∀ q, s.memberAt d z.rgn j = some q → ∃ p ∈ t.ops, p.iss.core = d ∧ p.iss.slc = q ∧ p.iss.rgn = z.rgn ∧
                p.req = .go { num := num, v := combine (((mine.find? (fun a => a.k == 0)).map (·.op)).getD 0) (mine.map (·.v)), w := s.pace + z.eff.xgap.setWidth 64, tick := 0 }))) ∧
    (∀ k (o : Op) g, s.ops.find? (fun (p : Op) => p.id == k) = some o → o.req = .go g →
      ∃ t, exec (.goMessage k) s = .next t ∧ t.ops = s.ops.filter (fun (p : Op) => p.id != k) ∧
        (s.issuerThere o.iss = false → { t with ops := s.ops } = s) ∧
        (s.issuerThere o.iss = true → (t.sliceAt o.iss.core o.iss.slc).go = some { g with tick := s.pace })) ∧
    (∀ g, s.opens x = true → x.go = some g →
      ∃ t, exec (.exchangeWindowOpen co i) s = .next t ∧ (t.sliceAt co i).window = some s.pace ∧ (t.sliceAt co i).go = some { g with w := s.pace } ∧
        (∀ w, x.ctxs[(0 : Fin 11)].wait = some w → w.kind = .sbar → w.arg = g.num → c.running = some i →
          (t.sliceAt co i).opened = true ∧ (t.sliceAt co i).vote = g.v)) ∧
    (s.closes x = true → ∃ t, exec (.exchangeWindowClose co i) s = .next t ∧ (t.sliceAt co i).brem = x.bud ∧ (t.sliceAt co i).counting = true ∧
      (∀ w, x.ctxs[(0 : Fin 11)].wait = some w → w.kind = .xend → c.running = some i → (t.sliceAt co i).opened = false)) ∧
    (∀ (h : Fin 11) w, s.expiredWait co i h = some w →
      let f := s.focus i h
      ∃ t, exec (.boundedWaitExpiry co i h) s = .next t ∧
        (co = s.core.id → w.kind ≠ .cwait ∨ f.cancelTarget w = none →
          t = f.trapNow (infoOf 12 ((match w.kind with
            | .cwait => 0
            | .qwait => 1
            | .hjoin => 2
            | .sbar => 3
            | .xend => 4
            | .mwait => 5
            | .plain => 6) * 256) 0 (match w.kind with
            | .hjoin => BitVec.ofNat 64 w.seen
            | .sbar => w.arg
            | .xend => BitVec.ofNat 64 x.closing
            | _ => 0) 0)) ∧
        (∀ o, co = s.core.id → w.kind = .cwait → f.cancelTarget w = some o →
          (t.sliceAt co i).ctxs[h].wait = some { w with cancelled := true } ∧ (∃ p ∈ t.ops, p.id = o.id ∧ p.cancel ≠ none) ∧ t.mem = s.mem)) ∧
    (∃ t, exec (.krabexAttach co i) s = .next t ∧ t.sliceAt co i = { x with attached := true } ∧ t.mem = s.mem) ∧
    (∃ t, exec (.krabexDetach co i) s = .next t ∧ t.sliceAt co i = { x with attached := false } ∧ t.mem = s.mem ∧
      (let kept (v : Word) : Word := if v.getLsbD 58 = false ∧ fld v.toNat 62 59 = i.val then 0 else v
       (∀ n : Fin 4, (t.coreAt co).brk[n] = kept c.brk[n]) ∧ ∀ n : Fin 2, (t.coreAt co).wpt[n] = kept c.wpt[n])) ∧
    (∀ (n : Fin 4) v, ∃ t, exec (.breakpointWrite co n v) s = .next t ∧ (t.coreAt co).brk = c.brk.set n (v &&& 0xFFFF80000000FFF8#64) ∧
      t.mem = s.mem ∧ (t.coreAt co).slices = c.slices) ∧
    (∀ (n : Fin 2) v, ∃ t, exec (.watchpointWrite co n v) s = .next t ∧ (t.coreAt co).wpt = c.wpt.set n (v &&& 0xFFF00000001FFFF8#64) ∧
      t.mem = s.mem ∧ (t.coreAt co).slices = c.slices) ∧
    (x.attached = true → x.halted = false → x.resident = true →
      ∃ t, exec (.krabexHalt co i) s = .next t ∧ (t.sliceAt co i).halted = true ∧ (t.sliceAt co i).st = .suspended ∧
        (t.sliceAt co i).suspTick = s.pace ∧ ∀ h : Fin 11, x.ctxs[h].live = true → x.ctxs[h].unvec = false →
          (t.sliceAt co i).ctxs[h].stopped = true ∨ (t.sliceAt co i).ctxs[h].haltMark = true ∨ (t.sliceAt co i).ctxs[h].halting = true) ∧
    (x.halted = true → x.resident = true →
      ∃ t, exec (.krabexResume co i) s = .next t ∧ (t.sliceAt co i).halted = false ∧
        (x.st = .suspended ∨ x.st = .stopped → (t.sliceAt co i).st = .ready ∨ (t.sliceAt co i).st = .running)) ∧
    (∀ (h : Fin 11) on, ∃ t, exec (.krabexStep co i h on) s = .next t ∧ (t.sliceAt co i).ctxs[h] = { x.ctxs[h] with stepping := on } ∧
      t.mem = s.mem) ∧
    (∀ on, ∃ t, exec (.traceEnable co on) s = .next t ∧ t.coreAt co = { c with trace := on } ∧ t.mem = s.mem) ∧
    (∀ off h n v, exec (.krabexStateAccess (.readWord co off)) s = .next s ∧ exec (.krabexStateAccess (.readSlice co i)) s = .next s ∧
      (∀ slab q, exec (.krabexStateAccess (.readCounter slab q)) s = .next s) ∧
      (let k := coreKey co (off.toNat / 8 * 8)
       ∃ t, exec (.krabexStateAccess (.writeWord co off v)) s = .next t ∧ Wrote s t k 8 (keptBits co k 8 v.toNat) ∧
         (k < coreKey co 458752 → keptBits co k 8 v.toNat = v.toNat)) ∧
      (∃ t, exec (.krabexStateAccess (.writeSpecial co i h n v)) s = .next t ∧
        (co = s.core.id → t.focus i h = (s.focus i h).writeSr n.toNat v ∧ t.core.cur = s.core.cur ∧ t.core.curCtx = s.core.curCtx)) ∧
      (∃ t, exec (.krabexStateAccess .rootRecord) s = .next t ∧ { t with rootq := s.rootq } = s ∧ t.rootq.recs = s.rootq.recs ∧
        t.rootq.head = (if s.rootq.head < s.rootq.recs.length then s.rootq.head + 1 else s.rootq.recs.length)))

/-! ## Events: the cistern, the matrix unit and the pumps (R137-R155, R169, R173, R176-R183, R333-R344) -/

/-- R138 to R153, R343, R344: a cistern request that its tables and key admit is answered at once or waits: a store appends its sample, a horizon rises,
a load reads what is retained, a low-water instant is registered; refusals, disorder, retention and full stations have their codes; a cancel removes
what waits; the answer writes its record and slot. R333 to R341: a matrix command at the head of its core's queue has its effect on bank, share or
scratchpad, or records its fault, and leaves the queue; behind a recorded fault it is discarded. R177 to R183: a pump moves the next piece of its job,
and at the end writes nothing more than its mailbox and its channel's one update.
It rests on choices of the model: log 20, 21, 23, 58, 59, 80 and 90. -/
def Obligations.Cistern_matrix_and_pump_events : Prop :=
  ∀ s : State,
    (∀ k (o : Op), s.ops.find? (fun (p : Op) => p.id == k) = some o → o.writes = true ∨ o.isTld = true ∨ o.isTlow = true →
      let ev : Instr := if o.isTst then .cisternTstRequest k else if o.isTld then .cisternTldRequest k
        else if o.isTlow then .cisternTlowRequest k else .cisternTadvRequest k
      let key := o.keyOf
      let idx := fld key.toNat 27 0
      let gone := s.ops.filter (fun (p : Op) => p.id != k)
      let refuse (sub : Nat) : Stage := .reply (.fault (BitVec.ofNat 64 (10 + 256 * sub)) key 0 0)
      let fault (code : Nat) (d1 : Word) : Stage := .reply (.fault (BitVec.ofNat 64 (16 + 256 * code)) key o.instant d1)
      let code (c n : Nat) (r : BitVec 2048) : Stage := .reply (.done (BitVec.ofNat 4096 (r.toNat + c * 2 ^ 2048 + n * 2 ^ 2056)) 0)
      let entry := if o.foreign then none else s.stationRefusal o.station.1 o.station.2 o.iss.rgn o.smod o.host 6
      (o.stage = .flight →
        (∀ sub, entry = some sub → ∃ t, exec ev s = .next t ∧ Staged s t k (refuse sub) ∧ t.pools = s.pools) ∧
        (entry = none → key.toNat / 2 ^ 56 ≠ 0 → ∃ t, exec ev s = .next t ∧ Staged s t k (refuse 20) ∧ t.pools = s.pools) ∧
        (entry = none → key.toNat / 2 ^ 56 = 0 → keyMod key ≠ s.modId →
          let out := s.leavesBy o.station (s.homePacket 6 false (keyMod key) 0)
          ∃ t, exec ev s = .next t ∧ t.pools = s.pools ∧ (o.foreign = true → Staged s t k (refuse 20)) ∧
            (∀ sub, o.foreign = false → out = .inl sub → Staged s t k (refuse sub)) ∧
            (o.foreign = false → out = .inr none → Staged s t k (.away false)) ∧
            (∀ r c, o.foreign = false → out = .inr (some (r, c)) → Staged s t k .lost ∧ Counted s t (r / 128 * 8 + c / 128) 2)) ∧
        (entry = none → key.toNat / 2 ^ 56 = 0 → keyMod key = s.modId → s.poolOf key = none →
          ∃ t, exec ev s = .next t ∧ Staged s t k (refuse 20) ∧ t.pools = s.pools) ∧
        (∀ p, entry = none → key.toNat / 2 ^ 56 = 0 → keyMod key = s.modId → s.poolOf key = some p → p.waiting = [] →
          let home := s.stationRefusal p.slab.toNat (if o.isTlow then 0 else idx % p.nst) o.iss.rgn o.smod o.host 6
          let q := p.key idx
          let pool (t : State) (f : Pool → Prop) : Prop := ∃ y ∈ t.pools, y.rgn = p.rgn ∧ y.num = p.num ∧ f y
          let bound := o.smod = s.modId ∧ (q.writer = none ∨ q.writer = some (o.iss.core, o.iss.slc))
          (∀ sub, home = some sub → ∃ t, exec ev s = .next t ∧ Staged s t k (refuse sub) ∧ t.pools = s.pools) ∧
          (home = none →
            (o.writes = true → ¬ bound → ∃ t, exec ev s = .next t ∧ Staged s t k (refuse 21) ∧ t.pools = s.pools) ∧
            (∀ ky tm r pois, o.req = .tst ky tm r pois → bound →
              (∀ g, g < p.n / 2 → pois.getLsbD g = true → (∀ h < g, pois.getLsbD h = false) →
                ∃ t, exec ev s = .next t ∧ Staged s t k (.reply (.fault 11 (o.dst + BitVec.ofNat 64 (8 * g)) 0 0)) ∧ t.pools = s.pools) ∧
              ((∀ g < p.n / 2, pois.getLsbD g = false) →
                (tm.toInt ≤ q.l.toInt ∨ tm.toInt < q.h.toInt →
                  ∃ t, exec ev s = .next t ∧ Staged s t k (fault 6 q.h) ∧ t.pools = s.pools) ∧
                (q.l.toInt < tm.toInt → q.h.toInt ≤ tm.toInt → p.d ≤ q.samples.length ∧ p.blocked q = true → s.left o = false →
                  ∃ t, exec ev s = .next t ∧ Staged s t k .queued ∧ pool t (fun y => y.waiting = [k] ∧ y.key idx = q)) ∧
                (q.l.toInt < tm.toInt → q.h.toInt ≤ tm.toInt → q.samples.length < p.d ∨ p.blocked q = false →
                  ∃ t, exec ev s = .next t ∧ Staged s t k (code 0 0 0) ∧
                    pool t (fun y => (y.key idx).l = tm ∧ (y.key idx).h = tm ∧ (y.key idx).writer = some (o.iss.core, o.iss.slc) ∧
                      ∃ z, (y.key idx).samples = (if p.d ≤ q.samples.length then q.samples.drop 1 else q.samples) ++ [z] ∧ z.t = tm ∧
                        z.recd.toNat = r.toNat % 2 ^ (32 * p.n) ∧ z.h = tm ∧ z.first = q.samples.isEmpty)))) ∧
            (∀ ky h, o.req = .tadv ky h → bound →
              (q.samples = [] → ∃ t, exec ev s = .next t ∧ Staged s t k (fault 6 q.h) ∧ t.pools = s.pools) ∧
              (q.samples ≠ [] → h.toInt ≤ q.h.toInt → ∃ t, exec ev s = .next t ∧ Staged s t k (code 0 0 0) ∧ pool t (fun y => y.key idx = q)) ∧
              (∀ z, q.samples.getLast? = some z → q.h.toInt < h.toInt →
                ∃ t, exec ev s = .next t ∧ Staged s t k (code 0 0 0) ∧ pool t (fun y => (y.key idx).h = h ∧ (y.key idx).l = q.l ∧
                  ∃ z', (y.key idx).samples = q.samples.dropLast ++ [z'] ∧ z'.t = z.t ∧ z'.recd = z.recd ∧ z'.h = h))) ∧
            (∀ ky tm lim ga block hold, o.req = .tld ky tm lim ga block hold →
              (q.samples = [] → block = false → ∃ t, exec ev s = .next t ∧ Staged s t k (code 4 p.n 0) ∧ t.pools = s.pools) ∧
              (q.samples = [] → block = true → s.left o = false →
                ∃ t, exec ev s = .next t ∧ Staged s t k .queued ∧ pool t (fun y => y.waiting = [k])) ∧
              (∀ z, q.samples.find? (fun y => y.t == tm) = some z →
                ∃ t, exec ev s = .next t ∧ Staged s t k (code 0 p.n z.recd) ∧ t.pools = s.pools) ∧
              (∀ z l, q.samples = z :: l → q.samples.find? (fun y => y.t == tm) = none →
                tm.toInt < (if z.first then z.t else z.h).toInt →
                ∃ t, exec ev s = .next t ∧ Staged s t k (fault 5 (if z.first then z.t else z.h)) ∧ t.pools = s.pools) ∧
              (∀ z, q.samples = [z] → z.t.toInt < tm.toInt → z.h.toInt < tm.toInt ∨ tm = z.h → (if z.first then z.t else z.h).toInt ≤ tm.toInt →
                (tm = z.h → ∃ t, exec ev s = .next t ∧ Staged s t k (code 2 p.n (if hold then z.recd else z.hp)) ∧ t.pools = s.pools) ∧
                (tm ≠ z.h → tm.toInt ≤ q.l.toInt + lim.toNat →
                  ∃ t, exec ev s = .next t ∧ Staged s t k (code 3 p.n z.recd) ∧ t.pools = s.pools) ∧
                (tm ≠ z.h → q.l.toInt + lim.toNat < tm.toInt → block = false →
                  ∃ t, exec ev s = .next t ∧ Staged s t k (code 4 p.n 0) ∧ t.pools = s.pools))) ∧
            (∀ ky tm, o.req = .tlow ky tm →
              let others := p.readers.filter (fun r => !(r.m == o.smod && r.core == o.iss.core && r.slc == o.iss.slc))
              (tm = 0x7FFFFFFFFFFFFFFF ∨ s.left o = true →
                ∃ t, exec ev s = .next t ∧ Staged s t k (code 0 0 0) ∧ pool t (fun y => y.readers = others)) ∧
              (tm ≠ 0x7FFFFFFFFFFFFFFF → s.left o = false → 16 ≤ others.length →
                ∃ t, exec ev s = .next t ∧ Staged s t k (fault 7 (p.floor.getD 0)) ∧ t.pools = s.pools) ∧
              (tm ≠ 0x7FFFFFFFFFFFFFFF → s.left o = false → others.length < 16 →
                ∃ t, exec ev s = .next t ∧ Staged s t k (code 0 0 0) ∧
                  pool t (fun y => y.readers = others ++ [{ m := o.smod, core := o.iss.core, slc := o.iss.slc, t := tm }])))))) ∧
      (o.cancel ≠ none → (∀ a, o.stage = .reply a → ∃ t, exec (.cisternCancel k) s = .next t ∧ t.pools = s.pools ∧
          (o.foreign = false → Staged s t k (.reply a)) ∧
          (o.foreign = true → t.ops = gone ∧ t.mem = s.mem ∧ Responds s t o o.answerBytes (o.wireAnswer a))) ∧
        (∀ h, o.stage = .away h → ∃ t, exec (.cisternCancel k) s = .next t ∧ Staged s t k (.away h) ∧ t.pools = s.pools) ∧
        (o.stage = .lost → ∃ t, exec (.cisternCancel k) s = .next t ∧ (s.cancelledAt o = [] → Staged s t k .lost ∧ t.mem = s.mem)) ∧
        (∀ p, o.stage = .queued → s.poolOf key = some p → p.waiting = [k] →
          ∃ t, exec (.cisternCancel k) s = .next t ∧ (∃ y ∈ t.pools, y.rgn = p.rgn ∧ y.num = p.num ∧ y.waiting = []) ∧
            Staged s t k (.reply (.fault 12 key o.instant (if o.isTst then p.floor.getD (p.key idx).l else (p.key idx).l))))) ∧
      (∀ a ext, o.stage = .reply a ∨ (∃ h, o.stage = .away h) ∧ a = ext →
        ∃ t, exec (.cisternCompletion k ext) s = .next t ∧
          (o.foreign = true → t.ops = gone ∧ t.mem = s.mem ∧ Responds s t o o.answerBytes (o.wireAnswer a)) ∧
          (∀ u, o.foreign = false → o.pump = some u → t.ops = gone ∧ t.mem = s.mem ∧
            (t.pumpAt u).queue = (s.pumpAt u).queue.map (fun j => if j.asked == some k then { j with ans := some a } else j)) ∧
          (o.foreign = false → o.pump = none → s.issuerThere o.iss = true →
            let slot := coreKey o.iss.core o.slot.toNat
            let dst := coreKey o.iss.core o.dst.toNat
            (∀ d p, a = .done d p →
              let c := d.toNat / 2 ^ 2048 % 256
              let n := d.toNat / 2 ^ 2056 % 256
              t.ops = gone ∧ t.mem.rd slot 8 = o.kind.toNat * 256 + 2 ∧ t.mem.rd (slot + 8) 8 = c ∧
              (o.isTld = true → c ≤ 3 → dst + 4 * n ≤ slot ∨ slot + 16 ≤ dst → ∀ j < 4 * n, (t.mem.byte (dst + j)).toNat = byteOf d.toNat j)) ∧
            (∀ c ad d0 d1, a = .fault c ad d0 d1 → c.toNat % 256 ≠ 12 ∨ s.cancelledAt o = [] →
              t.ops = gone ∧ t.mem.rd slot 8 = o.kind.toNat * 256 + 3 ∧ t.mem.rd (slot + 32) 8 = ad.toNat ∧ t.mem.rd (slot + 40) 8 = d0.toNat ∧
              t.mem.rd (slot + 48) 8 = d1.toNat) ∧
            (∀ c ad d0 d1 h, a = .fault c ad d0 d1 → c.toNat % 256 = 12 → s.cancelledAt o = [h] → o.iss.core = s.core.id →
              t = (State.focus { s with ops := gone } o.iss.slc h).trapNow { cause := c, addr := ad, d0 := d0, d1 := d1 })))) ∧
    (∀ (co : CoreId) (m : MCmd) l, (s.coreAt co).mq = m :: l → m.iss.core = co → s.issuerThere m.iss = true →
      (∀ y ∈ (s.coreAt co).gone, m.isOf m.iss.slc y = false) →
      let x := s.sliceAt co m.iss.slc
      let w := s.asRead co m
      let ev : Instr := match m.what with
        | .mma .. => .mmaExecution co
        | .mldb .. => .mldbExecution co
        | .mzero => .mzeroExecution co
        | .mdrain .. => .mdrainExecution co
      let left (t : State) (bad : Bool) : Prop := (t.coreAt co).mq = l ∧ (t.sliceAt co m.iss.slc).jobs[(0 : Fin 16)] = x.jobs[(0 : Fin 16)] - 1 ∧
        (t.sliceAt co m.iss.slc).done.getLsbD 0 = true ∧ (t.sliceAt co m.iss.slc).flt.getLsbD 0 = (bad || x.flt.getLsbD 0)
      let faulted (i : Info) : Prop := ∃ t, exec ev s = .next t ∧ t.mem = s.mem ∧ left t true ∧ (t.sliceAt co m.iss.slc).mflt = some ⟨i, m.iss⟩
      (∀ f, x.mflt = some f → ∃ t, exec ev s = .next t ∧ left t true ∧
        ((∀ gt sd sq tag slot ty act e4n, m.what ≠ .mdrain gt sd sq tag slot ty act e4n) → t.mem = s.mem ∧ (t.sliceAt co m.iss.slc).mflt = some f) ∧
        (∀ gt sd sq tag slot ty act e4n, m.what = .mdrain gt sd sq tag slot ty act e4n → (t.sliceAt co m.iss.slc).mflt = none ∧
          t.mem.rd (coreKey co slot.toNat) 8 = 11 * 256 + 3 ∧ t.mem.rd (coreKey co slot.toNat + 32) 8 = f.info.addr.toNat)) ∧
      (x.mflt = none →
        (m.what = .mzero → ∃ t, exec ev s = .next t ∧ left t false ∧ Wrote s t (bankKey co 0 0) 4096 0 ∧ (t.sliceAt co m.iss.slc).bank = none ∧
          (t.sliceAt co m.iss.slc).sat = false ∧ (t.sliceAt co m.iss.slc).bc = false) ∧
        (∀ gs go gl, m.what = .mldb gs go gl →
          (∀ g, firstPoison s.pois (coreKey co gs.toNat) (32 * gl) = some g → faulted (infoOf 11 0 (BitVec.ofNat 64 (g - coreKey co 0)) 0 0)) ∧
          (∀ g < 4 * gl, let k := coreKey co gs.toNat + 8 * g
            w.mem.rd k 8 = s.mem.rd k 8 ∨ ∃ n ∈ s.munits, n.active = some co ∧ w.mem.rd k 8 = n.snap.rd k 8) ∧
          (firstPoison s.pois (coreKey co gs.toNat) (32 * gl) = none → go + gl ≤ 1024 →
            ∃ t, exec ev s = .next t ∧ left t false ∧ (t.coreAt co).share = some m.iss.slc ∧
              (∀ c < 32, ∀ b < gl, t.mem.byte (shareKey co c (go + b)) = w.mem.byte (coreKey co (gs.toNat + c * gl + b))) ∧
              ∀ a, (∀ c < 32, ∀ b < gl, a ≠ shareKey co c (go + b)) → t.mem.byte a =
                if (s.coreAt co).shareClr.isSome ∧ shareKey co 0 0 ≤ a ∧ a < shareKey co 0 0 + 32768 then 0 else s.mem.byte a)) ∧
        (∀ p ga gb gs table kk ba bb ap, m.what = .mma p ga gb gs table kk ba bb ap →
          ((s.coreAt co).share ≠ some m.iss.slc → faulted (infoOf 17 768 gb 0 0)) ∧
          ((s.coreAt co).share = some m.iss.slc → (∃ b, x.bank = some b ∧ b ≠ pairBank p.val) → faulted (infoOf 17 1024 ga 0 0)) ∧
          ((s.coreAt co).share = some m.iss.slc → x.bank = none ∨ x.bank = some (pairBank p.val) →
            (∀ g, s.mmaPoison co p.val ga.toNat gb.toNat gs.toNat table kk ba bb = some g → faulted (infoOf 11 0 (BitVec.ofNat 64 g) 0 0)) ∧
            (s.mmaPoison co p.val ga.toNat gb.toNat gs.toNat table kk ba bb = none →
              ∃ t, exec ev s = .next t ∧ left t false ∧ (t.sliceAt co m.iss.slc).bank = some (pairBank p.val) ∧
                (∀ a, a < bankKey co 0 0 ∨ bankKey co 0 0 + 4096 ≤ a → t.mem.byte a = s.mem.byte a) ∧
                (p = 6 → table = false → kk = 16 →
                  let v (i j : Nat) : Int := (List.range 16).foldl (fun (y : Int) k =>
                    y + toSigned 8 (w.mem.rd (coreKey co (ga.toNat + i * 16 + k)) 1) * toSigned 8 (w.mem.rd (shareKey co j (gb.toNat + k)) 1))
                    (toSigned 32 (w.mem.rd (bankKey co i j) 4))
                  (∀ i < 32, ∀ j < 32, t.mem.rd (bankKey co i j) 4 = ofInt 32 (max (-2147483648) (min (v i j) 2147483647))) ∧
                  ((t.sliceAt co m.iss.slc).sat = true ↔ x.sat = true ∨ ∃ i < 32, ∃ j < 32, v i j < -2147483648 ∨ 2147483647 < v i j))))) ∧
        (∀ gt sd sq tag slot ty act e4n, m.what = .mdrain gt sd sq tag slot ty act e4n →
          ∃ t, exec ev s = .next t ∧ left t false ∧ t.mem.rd (coreKey co slot.toNat) 8 = 11 * 256 + 2 ∧
            (ty ≠ 15 → t.mem.rd (coreKey co slot.toNat + 8) 8 = x.bc.toNat * 2 + x.sat.toNat ∧
              (gt.toNat + drainBytes ty ≤ slot.toNat ∨ slot.toNat + 16 ≤ gt.toNat → ∀ i < 32, ∀ j < 32,
                let w := (drainFmt ty.toNat).width
                t.mem.rd (coreKey co (gt.toNat + (32 * i + j) * (w / 8))) (w / 8) =
                  (roundV (drainFmt ty.toNat) 0 e4n (activate act.toNat ((s.bankVal co x.bank i j).scaled sd.toInt))).1 % 2 ^ w))))) ∧
    (∀ (u : PumpId) (j : Job) js, (s.pumpAt u).queue = j :: js →
      let d := s.jobDesc j
      let len := descLen d
      let z := descSize d
      let at_ (a : Word) (n : Nat) : Word := a + BitVec.ofNat 64 n
      let src := at_ (descSrc d)
      let dst := at_ (descDst d)
      let idx := at_ (descIdx d)
      let n := min (len - j.count) (8 - ((descDst d).toNat + j.count) % 8)
      let finds (w : State) (a : Word) (n acc : Nat) (v : State) (x : Spot) : Prop := w.pumpSpot u j.iss a n acc = (v, .inr x)
      let goes (t : State) (q : Job → Prop) : Prop := ∃ j', (t.pumpAt u).queue = j' :: js ∧ j'.iss = j.iss ∧ j'.desc = some d ∧ q j'
      let went (t : State) (m : Nat) : Prop := goes t (fun e => e.count = j.count + m ∧
        e.outcome = if j.count + m = len then some (infoOf 0 0 0 0 0) else none)
      -- a job ends with a fault, or waits for an answer that does not come, where a request of it has been lost
      let ends (t : State) (m : Nat) (i : Info) : Prop := goes t (fun e => e.count = j.count + m ∧ (i.cause ≠ 0 → e.outcome = some i) ∧
        (i.cause = 0 → e.asked = some 0 ∧ e.ans = none))
      -- what a pump reads, byte after byte, up to the first fault
      (∀ a v x, finds s a 1 3 v x → x.cold = false →
        s.pumpRead u j.iss a 1 = (v, ⟨1, v.mem.rd (v.real x.key) 1, (poisoned v.pois (8 * (v.real x.key / 8))).toNat, none⟩)) ∧
      (∀ a v c, s.pumpSpot u j.iss a 1 3 = (v, .inl c) → s.pumpRead u j.iss a 1 = (v, ⟨0, 0, 0, some (infoOf c 0 a 0 0)⟩)) ∧
      (∀ m n a w b, s.pumpRead u j.iss a m = (w, b) → b.fault = none →
        let r := w.pumpRead u j.iss (at_ a m) n
        s.pumpRead u j.iss a (m + n) = (r.1, ⟨m + r.2.n, b.v + 256 ^ m * r.2.v, b.p + 2 ^ m * r.2.p, r.2.fault⟩)) ∧
      -- the pieces of each type of job
      (s.jobRuns u j 0 = true → ∀ w b, s.pumpRead u j.iss (src j.count) n = (w, b) →
        (∀ i, b.n = 0 → b.fault = some i → ∃ t, exec (.pumpCopy u) s = .next t ∧ t.mem = w.mem ∧ ends t 0 i) ∧
        (∀ v x, 0 < b.n → finds w (dst j.count) b.n 4 v x →
          ∃ t, exec (.pumpCopy u) s = .next t ∧ PumpWrote v t x b.n (byteOf b.v) ∧ (b.fault = none → went t b.n) ∧
            ∀ i, b.fault = some i → ends t b.n i) ∧
        (∀ v c, 0 < b.n → w.pumpSpot u j.iss (dst j.count) b.n 4 = (v, .inl c) →
          ∃ t, exec (.pumpCopy u) s = .next t ∧ t.mem = v.mem ∧ ends t 0 (infoOf c 0 (dst j.count) 0 0))) ∧
      (s.jobRuns u j 1 = true → ∀ w e w2 b v x, s.pumpWord u j.iss (idx (4 * j.count)) 4 = (w, .inr e) →
        w.pumpRead u j.iss (src (z * e)) z = (w2, b) → b.fault = none → (dst (z * j.count)).toNat % z = 0 → finds w2 (dst (z * j.count)) z 4 v x →
        ∃ t, exec (.pumpGather u) s = .next t ∧ PumpWrote v t x z (byteOf b.v) ∧ went t 1) ∧
      (s.jobRuns u j 2 = true → ∀ w e w2 b v x, s.pumpWord u j.iss (idx (4 * j.count)) 4 = (w, .inr e) →
        w.pumpRead u j.iss (src (z * j.count)) z = (w2, b) → b.fault = none → (dst (z * e)).toNat % z = 0 → finds w2 (dst (z * e)) z 4 v x →
        ∃ t, exec (.pumpScatter u) s = .next t ∧ PumpWrote v t x z (byteOf b.v) ∧ went t 1) ∧
      (∀ w i, s.pumpWord u j.iss (idx (4 * j.count)) 4 = (w, .inl i) →
        (s.jobRuns u j 1 = true → ∃ t, exec (.pumpGather u) s = .next t ∧ t.mem = w.mem ∧ ends t 0 i) ∧
        (s.jobRuns u j 2 = true → ∃ t, exec (.pumpScatter u) s = .next t ∧ t.mem = w.mem ∧ ends t 0 i)) ∧
      (s.jobRuns u j 3 = true → ∀ v x, finds s (dst j.count) n 4 v x →
        ∃ t, exec (.pumpFill u) s = .next t ∧ went t n ∧ PumpWrote v t x n (fun i => byteOf (descSrc d).toNat ((j.count + i) % 8))) ∧
      (s.jobRuns u j 4 = true →
        (∀ w y v x, j.asked = none → s.pumpWord u j.iss (src j.count) 4 = (w, .inr y) → (dst j.count).toNat % 4 = 0 → finds w (dst j.count) 4 2 v x →
          (x.host = false → firstPoison v.pois (v.real x.key) 4 = none →
            ∃ t, exec (.pumpAddReduce u) s = .next t ∧ went t 4 ∧ Wrote v t (v.real x.key) 4 (amoNew 9 4 (v.mem.rd (v.real x.key) 4) y)) ∧
          (x.host = true → ∃ t o, exec (.pumpAddReduce u) s = .next t ∧ t.mem = v.mem ∧ t.ops = v.ops ++ [o] ∧ o.stage = .away true ∧
            o.req = .mem (plainAccess 2 (dst j.count) 4 (BitVec.ofNat 4096 y) 0 9 0) ∧ o.pump = some u ∧ o.mc0 = x.mc0 ∧
            goes t (fun e => e.asked = some o.id ∧ e.count = j.count))) ∧
        (∀ q x, j.asked = some q → j.ans = some x → ∃ t, exec (.pumpAddReduce u) s = .next t ∧ t.mem = s.mem ∧
          (∀ v p, x = .done v p → went t 4) ∧ ∀ c a d0 d1, x = .fault c a d0 d1 → ends t 0 (infoOf c.toNat 0 a 0 0))) ∧
      (s.jobRuns u j 5 = true →
        (∀ w b, j.asked = none → s.pumpRead u j.iss (src (s.recBytes (jobKey d j.count) * j.count)) (s.recBytes (jobKey d j.count)) = (w, b) →
          b.fault = none →
          ∃ t o pois, exec (.pumpCisternStore u) s = .next t ∧ t.mem = w.mem ∧ t.ops = w.ops ++ [o] ∧
            o.req = .tst (jobKey d j.count) (descTime d) (BitVec.ofNat 2048 b.v) pois ∧
            o.pump = some u ∧ goes t (fun e => e.asked = some o.id ∧ e.count = j.count)) ∧
        (∀ v p q, j.asked = some q → j.ans = some (.done v p) → ∃ t, exec (.pumpCisternStore u) s = .next t ∧ t.mem = s.mem ∧ went t 1) ∧
        (∀ c a d0 d1 q, j.asked = some q → j.ans = some (.fault c a d0 d1) →
          ∃ t, exec (.pumpCisternStore u) s = .next t ∧ t.mem = s.mem ∧ ends t 0 (infoOf c.toNat 0 a 0 0))) ∧
      (s.jobRuns u j 6 = true →
        (j.asked = none →
          ∃ t o, exec (.pumpCisternLoad u) s = .next t ∧ t.mem = s.mem ∧ t.ops = s.ops ++ [o] ∧ o.req = .tld (jobKey d j.count) (descTime d) 0 0 false false ∧
            o.pump = some u ∧ goes t (fun e => e.asked = some o.id ∧ e.count = j.count)) ∧
        (∀ y p q v x, j.asked = some q → j.ans = some (.done y p) → y.toNat / 2 ^ 2048 % 256 = 4 → finds s (idx j.count) 1 4 v x →
          ∃ t, exec (.pumpCisternLoad u) s = .next t ∧ PumpWrote v t x 1 (fun _ => 4) ∧ went t 1) ∧
        (∀ c a d0 d1 q, j.asked = some q → j.ans = some (.fault c a d0 d1) →
          ∃ t, exec (.pumpCisternLoad u) s = .next t ∧
            (c.toNat % 256 ≠ 16 → t.mem = s.mem ∧ ends t 0 (infoOf c.toNat 0 a 0 0)) ∧
            (∀ v x, c.toNat % 256 = 16 → finds s (idx j.count) 1 4 v x →
              PumpWrote v t x 1 (fun _ => c.toNat / 256 % 256) ∧ ends t 0 (infoOf c.toNat 0 a 0 0)))) ∧
      (s.jobRuns u j 7 = true → ∀ v x, finds s (dst j.count) n 4 v x →
        ∃ t, exec (.pumpMicrocodeRead u) s = .next t ∧ went t n ∧
          PumpWrote v t x n (fun i => (s.mem.byte (pumpKey u (131072 + j.count) + i)).toNat)) ∧
      -- the end of a job
      (∀ i unread, s.jobOver j = some (i, unread) → j.asked = none → (j.half = true → s.pumpReleased u = true) →
        let told (t : State) : Prop := (t.pumpAt u).queue = js ∧
          (let x := s.sliceAt j.iss.core j.iss.slc
           let y := t.sliceAt j.iss.core j.iss.slc
           let h : Fin 16 := Fin.ofNat 16 j.chan.toNat
           j.chan ≠ 0 → s.issuerThere j.iss = true → y.jobs[h] = x.jobs[h] - 1 ∧ y.done.getLsbD h.val = true ∧
             y.flt.getLsbD h.val = (unread || i.cause.toNat % 256 != 0 || x.flt.getLsbD h.val))
        let box := descBox d
        let waits (t : State) : Prop := ∃ j', (t.pumpAt u).queue = j' :: js ∧ j'.asked = some 0 ∧ j'.ans = none
        let low := s.pumpWrite u j.iss box 8 (descTag d * 2 ^ 32 + i.cause.toNat % 65536) 0
        ∃ t, exec (.pumpJobCompletion u) s = .next t ∧
          (unread = true ∨ hasBox d = false → told t) ∧
          (unread = false → hasBox d = true → j.half = true →
            ((∀ x, low.2 = some x → x.cause ≠ 0) → told t) ∧ ((∃ x, low.2 = some x ∧ x.cause = 0) → waits t)) ∧
          (unread = false → i.cause = 0 → box = 0 → t.mem = s.mem) ∧
          (∀ v x, unread = false → hasBox d = true → j.half = false → finds s (at_ box 8) 8 4 v x →
            (x.mc0 = false → s.pumpReleased u = true → told t ∨ waits t) ∧
            (x.mc0 = true ∨ s.pumpReleased u = false → PumpWrote v t x 8 (byteOf j.count) ∧
              ∃ j', (t.pumpAt u).queue = j' :: js ∧ j'.half = true ∧ j'.count = j.count ∧ j'.outcome = j.outcome)) ∧
          (∀ v x, unread = false → hasBox d = true → j.half = true → s.issuerThere j.iss = true → finds s box 8 4 v x →
            PumpWrote v t x 8 (byteOf (descTag d * 2 ^ 32 + i.cause.toNat % 65536)))))
end

