-- ==== Sys2Proof/Laws/Mem.lean ====
section
/-! SUPPORT. Laws.Mem: reads after writes of tables, bytes, poison and tags, and the canonical form that every write keeps (R3, R119,
R134, R135). -/

namespace Sys2Proof.Machine
set_option Elab.async false
set_option linter.all false

/-! ## Lists searched by key -/

theorem find?_filter_of_imp {α : Type} (p q : α → Bool) (h : ∀ x, q x = true → p x = true) (l : List α) :
    (l.filter p).find? q = l.find? q := by
  rw [List.find?_filter]; congr 1; funext x
  cases hq : q x <;> simp_all

theorem find?_filter_none {α : Type} (p q : α → Bool) (h : ∀ x, q x = true → p x = false) (l : List α) :
    (l.filter p).find? q = none := by
  simp only [List.find?_filter, List.find?_eq_none]
  intro x _; cases hq : q x <;> simp_all

/-! ## Tables -/

theorem Tab.get_set_self {w : Nat} (t : Tab w) (k : Nat) (v : BitVec w) : (t.set k v).get k = v := by
  unfold Tab.get Tab.set
  rw [List.find?_append, List.find?_append, find?_filter_none _ _ (by intro x; simp; omega),
    find?_filter_none (fun c : Nat × BitVec w => decide (k < c.1)) _ (by intro x; simp; omega)]
  split
  · rename_i h; simp [h]
  · simp

theorem Tab.get_set_other {w : Nat} (t : Tab w) {k j : Nat} (v : BitVec w) (h : j ≠ k) : (t.set k v).get j = t.get j := by
  unfold Tab.get Tab.set
  have mid : (if v = 0 then [] else [(k, v)] : List (Nat × BitVec w)).find? (fun c => c.1 == j) = none := by
    split <;> simp; omega
  rw [List.find?_append, List.find?_append, mid]
  rcases Nat.lt_or_gt_of_ne h with l | l
  · rw [find?_filter_of_imp _ _ (by intro x; simp; omega), find?_filter_none (fun c : Nat × BitVec w => decide (k < c.1)) _ (by intro x; simp; omega)]
    simp
  · rw [find?_filter_none _ _ (by intro x; simp; omega), find?_filter_of_imp (fun c : Nat × BitVec w => decide (k < c.1)) _ (by intro x; simp; omega)]
    simp

theorem Tab.set_wf {w : Nat} {t : Tab w} (h : t.wf = true) (k : Nat) (v : BitVec w) : (t.set k v).wf = true := by
  simp only [Tab.wf, Bool.and_eq_true, decide_eq_true_eq, List.all_eq_true] at *
  obtain ⟨hp, hz⟩ := h
  constructor
  · unfold Tab.set
    rw [List.pairwise_append, List.pairwise_append]
    refine ⟨⟨hp.filter _, by split <;> simp, ?_⟩, hp.filter _, ?_⟩
    · intro a ha b hb
      split at hb <;> simp at ha hb
      rw [hb]; exact ha.2
    · intro a ha b hb
      simp only [List.mem_append, List.mem_filter, decide_eq_true_eq] at ha hb
      rcases ha with ha | ha
      · omega
      · split at ha <;> simp at ha
        rw [ha]; omega
  · intro x hx
    simp only [Tab.set, List.mem_append, List.mem_filter] at hx
    rcases hx with (hx | hx) | hx
    · exact hz x hx.1
    · split at hx <;> simp_all
    · exact hz x hx.1

/-! ## Little-endian numbers (R3) -/

@[simp] theorem leBytes_length (n v : Nat) : (leBytes n v).length = n := by
  induction n generalizing v with
  | zero => rfl
  | succ n ih => simp [leBytes, ih]

theorem leNat_leBytes (n v : Nat) : leNat (leBytes n v) = v % 256 ^ n := by
  induction n generalizing v with
  | zero => simp [leBytes, leNat, Nat.mod_one]
  | succ n ih => 
    simp only [leBytes, leNat, ih]
    rw [BitVec.toNat_ofNat, show 256 ^ (n + 1) = 256 * 256 ^ n from Nat.pow_succ', Nat.mod_mul]

theorem leNat_lt (bs : List Byte) : leNat bs < 256 ^ bs.length := by
  induction bs with
  | nil => simp [leNat]
  | cons b bs ih =>
    have := b.isLt
    simp only [leNat, List.length_cons, Nat.pow_succ']; omega

/-! ## Bytes -/

/-- The cells that a list of bytes puts in stand at its keys. -/
theorem cellsOf_keys (a : Nat) (bs : List Byte) : ∀ c ∈ cellsOf a bs, a ≤ c.1 ∧ c.1 < a + bs.length ∧ c.2 ≠ 0 := by
  induction bs generalizing a with
  | nil => simp [cellsOf]
  | cons b bs ih =>
    intro c hc
    unfold cellsOf at hc
    split at hc
    · have := ih (a + 1) c hc; simp only [List.length_cons]; exact ⟨by omega, by omega, this.2.2⟩
    · rcases List.mem_cons.1 hc with rfl | hc
      · exact ⟨Nat.le_refl _, by simp only [List.length_cons]; omega, by assumption⟩
      · have := ih (a + 1) c hc; simp only [List.length_cons]; exact ⟨by omega, by omega, this.2.2⟩

theorem cellsOf_rising (a : Nat) (bs : List Byte) : (cellsOf a bs).Pairwise (fun x y => x.1 < y.1) := by
  induction bs generalizing a with
  | nil => simp [cellsOf]
  | cons b bs ih =>
    unfold cellsOf
    split
    · exact ih _
    · refine List.pairwise_cons.2 ⟨fun c hc => ?_, ih _⟩
      have := cellsOf_keys (a + 1) bs c hc; simp only; omega

theorem cellsOf_find (a : Nat) (bs : List Byte) (k : Nat) :
    ((((cellsOf a bs).find? (fun c => c.1 == k)).map (·.2)).getD 0) = if a ≤ k then bs.getD (k - a) 0 else 0 := by
  induction bs generalizing a with
  | nil => simp [cellsOf]
  | cons b bs ih =>
    have tail : a ≠ k → ((((cellsOf (a + 1) bs).find? (fun c => c.1 == k)).map (·.2)).getD 0) =
        if a ≤ k then (b :: bs).getD (k - a) 0 else 0 := by
      intro h
      rw [ih]
      by_cases hk : a + 1 ≤ k
      · have e : k - a = (k - (a + 1)) + 1 := by omega
        rw [if_pos hk, if_pos (by omega), e, List.getD_cons_succ]
      · rw [if_neg hk, if_neg (by omega)]
    have none : ((cellsOf (a + 1) bs).find? (fun c => c.1 == a)) = none := by
      rw [List.find?_eq_none]; intro c hc
      have := cellsOf_keys (a + 1) bs c hc; simp; omega
    unfold cellsOf
    by_cases hk : a = k
    · subst hk
      split
      · rename_i hb; subst hb; simp [none]
      · simp
    · split
      · exact tail hk
      · rw [List.find?_cons_of_neg (by simpa using hk)]; exact tail hk

/-- A byte after a write: the written one inside, the old one outside. -/
theorem Mem.byte_write (m : Mem) (a : Nat) (bs : List Byte) (k : Nat) :
    (m.write a bs).byte k = if a ≤ k ∧ k < a + bs.length then bs.getD (k - a) 0 else m.byte k := by
  unfold Mem.byte Mem.write
  simp only [List.find?_append]
  by_cases h1 : k < a
  · rw [find?_filter_of_imp (fun c : Host.Cell => decide (c.1 < a)) _ (by intro x; simp; omega),
      find?_filter_none (fun c : Host.Cell => decide (a + bs.length ≤ c.1)) _ (by intro x; simp; omega), if_neg (by omega)]
    have : (cellsOf a bs).find? (fun c => c.1 == k) = none := by
      rw [List.find?_eq_none]; intro c hc; have := cellsOf_keys a bs c hc; simp; omega
    simp [this]
  · by_cases h2 : k < a + bs.length
    · rw [find?_filter_none (fun c : Host.Cell => decide (c.1 < a)) _ (by intro x; simp; omega),
        find?_filter_none (fun c : Host.Cell => decide (a + bs.length ≤ c.1)) _ (by intro x; simp; omega), if_pos (by omega)]
      have := cellsOf_find a bs k
      rw [if_pos (by omega)] at this
      simpa using this
    · rw [find?_filter_none (fun c : Host.Cell => decide (c.1 < a)) _ (by intro x; simp; omega),
        find?_filter_of_imp (fun c : Host.Cell => decide (a + bs.length ≤ c.1)) _ (by intro x; simp; omega), if_neg (by omega)]
      have : (cellsOf a bs).find? (fun c => c.1 == k) = none := by
        rw [List.find?_eq_none]; intro c hc; have := cellsOf_keys a bs c hc; simp; omega
      simp [this]

theorem Mem.write_wf {m : Mem} (h : m.wf = true) (a : Nat) (bs : List Byte) : (m.write a bs).wf = true := by
  simp only [Mem.wf, Bool.and_eq_true, decide_eq_true_eq, List.all_eq_true] at *
  obtain ⟨hp, hz⟩ := h
  constructor
  · unfold Mem.write
    rw [List.pairwise_append, List.pairwise_append]
    refine ⟨⟨hp.filter _, cellsOf_rising a bs, ?_⟩, hp.filter _, ?_⟩
    · intro x hx y hy
      have := cellsOf_keys a bs y hy
      simp only [List.mem_filter, decide_eq_true_eq] at hx; omega
    · intro x hx y hy
      simp only [List.mem_append, List.mem_filter, decide_eq_true_eq] at hx hy
      rcases hx with hx | hx
      · omega
      · have := cellsOf_keys a bs x hx; omega
  · intro x hx
    simp only [Mem.write, List.mem_append, List.mem_filter] at hx
    rcases hx with (hx | hx) | hx
    · exact hz x hx.1
    · simpa using (cellsOf_keys a bs x hx).2.2
    · exact hz x hx.1

/-- Bytes outside a write read as before. -/
theorem Mem.bytes_write_other (m : Mem) (a : Nat) (bs : List Byte) (k n : Nat) (h : k + n ≤ a ∨ a + bs.length ≤ k) :
    (m.write a bs).bytes k n = m.bytes k n := by
  induction n generalizing k with
  | zero => rfl
  | succ n ih => simp only [Mem.bytes]; rw [Mem.byte_write, if_neg (by omega), ih _ (by omega)]

/-- Bytes inside a write read as written. -/
theorem Mem.bytes_write_in (m : Mem) (a : Nat) (bs : List Byte) (i n : Nat) (h : i + n ≤ bs.length) :
    (m.write a bs).bytes (a + i) n = (bs.drop i).take n := by
  induction n generalizing i with
  | zero => simp [Mem.bytes]
  | succ n ih =>
    have hi : i < bs.length := by omega
    simp only [Mem.bytes]
    rw [Mem.byte_write, if_pos (by omega), Nat.add_assoc, ih (i + 1) (by omega), List.drop_eq_getElem_cons hi,
      List.take_succ_cons]
    congr 1
    have e : a + i - a = i := by omega
    rw [e]; simp [List.getD, hi]

theorem Mem.bytes_write_self (m : Mem) (a : Nat) (bs : List Byte) : (m.write a bs).bytes a bs.length = bs := by
  simpa using m.bytes_write_in a bs 0 bs.length (by omega)

theorem Mem.rd_write_other (m : Mem) (a : Nat) (bs : List Byte) (k n : Nat) (h : k + n ≤ a ∨ a + bs.length ≤ k) :
    (m.write a bs).rd k n = m.rd k n := by
  unfold Mem.rd; rw [m.bytes_write_other a bs k n h]

theorem Mem.rd_write_self (m : Mem) (a n v : Nat) : (m.write a (leBytes n v)).rd a n = v % 256 ^ n := by
  unfold Mem.rd
  have := m.bytes_write_self a (leBytes n v)
  rw [leBytes_length] at this
  rw [this, leNat_leBytes]

@[simp] theorem Mem.bytes_length (m : Mem) (a n : Nat) : (m.bytes a n).length = n := by
  induction n generalizing a with
  | zero => rfl
  | succ n ih => simp [Mem.bytes, ih]

theorem Mem.rd_lt (m : Mem) (a n : Nat) : m.rd a n < 256 ^ n := by
  have := leNat_lt (m.bytes a n); simpa [Mem.rd] using this

/-! ## Poison (R135) -/

theorem poisonAdd_wf {p : List Nat} (h : poisonWf p = true) (g : Nat) : poisonWf (poisonAdd p g) = true := by
  unfold poisonAdd
  simp only [poisonWf, decide_eq_true_eq] at *
  rw [List.pairwise_append, List.pairwise_append]
  refine ⟨⟨h.filter _, by simp, ?_⟩, h.filter _, ?_⟩ <;> intro x hx y hy <;>
    simp only [List.mem_append, List.mem_filter, List.mem_singleton, decide_eq_true_eq] at hx hy <;> omega

theorem poisonClear_wf {p : List Nat} (h : poisonWf p = true) (a n : Nat) : poisonWf (poisonClear p a n) = true := by
  unfold poisonClear
  simp only [poisonWf, decide_eq_true_eq] at *
  exact h.filter _

theorem poisonMark_wf {p : List Nat} (h : poisonWf p = true) (a bits : Nat) (gs : List Nat) :
    poisonWf (poisonMark a bits gs p) = true := by
  induction gs generalizing p with
  | nil => exact h
  | cons g gs ih =>
    unfold poisonMark
    split
    · exact ih (poisonAdd_wf h g)
    · exact ih h

theorem poisoned_poisonAdd (p : List Nat) (g k : Nat) : poisoned (poisonAdd p g) k = (poisoned p k || k == g) := by
  rw [Bool.eq_iff_iff]
  simp only [poisoned, poisonAdd, List.contains_eq_mem, decide_eq_true_eq, List.mem_append, List.mem_filter, List.mem_singleton,
    Bool.or_eq_true, beq_iff_eq]
  constructor
  · rintro ((x | x) | x)
    · exact .inl x.1
    · exact .inr x
    · exact .inl x.1
  · rintro (x | x)
    · rcases Nat.lt_trichotomy k g with h | h | h
      · exact .inl (.inl ⟨x, h⟩)
      · exact .inl (.inr h)
      · exact .inr ⟨x, h⟩
    · exact .inl (.inr x)

theorem poisoned_poisonClear (p : List Nat) (a n k : Nat) :
    poisoned (poisonClear p a n) k = (poisoned p k && !(decide (a ≤ k) && decide (k + 8 ≤ a + n))) := by
  rw [Bool.eq_iff_iff]
  simp [poisoned, poisonClear, List.mem_filter]

/-! ## The stores of a state -/

theorem State.peek_putGood_self (s : State) (a n v : Nat) : (s.putGood a n v).peek a n = v % 256 ^ n := s.mem.rd_write_self a n v

theorem State.peek_putGood_other (s : State) (a n v k j : Nat) (h : k + j ≤ a ∨ a + n ≤ k) :
    (s.putGood a n v).peek k j = s.peek k j :=
  s.mem.rd_write_other a (leBytes n v) k j (by simpa using h)

theorem State.byte_putGood_other (s : State) (a n v k : Nat) (h : k < a ∨ a + n ≤ k) : (s.putGood a n v).mem.byte k = s.mem.byte k := by
  show (s.mem.write a (leBytes n v)).byte k = _
  rw [Mem.byte_write, if_neg (by simp; omega)]

theorem State.word_putGood_self (s : State) (a : Nat) (v : Word) : (s.putGood a 8 v.toNat).word a = v := by
  unfold State.word
  rw [show (s.putGood a 8 v.toNat).mem.rd a 8 = v.toNat % 256 ^ 8 from s.mem.rd_write_self a 8 v.toNat]
  have := v.isLt
  apply BitVec.eq_of_toNat_eq; simp; omega

theorem State.word_putGood_other (s : State) (a n v k : Nat) (h : k + 8 ≤ a ∨ a + n ≤ k) : (s.putGood a n v).word k = s.word k := by
  unfold State.word
  rw [show (s.putGood a n v).mem.rd k 8 = s.mem.rd k 8 from s.peek_putGood_other a n v k 8 h]

theorem State.memWf_iff (s : State) : s.memWf = true ↔ s.mem.wf = true ∧ poisonWf s.pois = true ∧ s.tags.wf = true := by
  simp [State.memWf, Bool.and_eq_true, and_assoc]

theorem State.putGood_memWf {s : State} (h : s.memWf = true) (a n v : Nat) : (s.putGood a n v).memWf = true := by
  rw [State.memWf_iff] at *
  exact ⟨Mem.write_wf h.1 _ _, poisonClear_wf h.2.1 _ _, h.2.2⟩

theorem State.put_memWf {s : State} (h : s.memWf = true) (a n v b : Nat) : (s.put a n v b).memWf = true := by
  rw [State.memWf_iff] at *
  exact ⟨Mem.write_wf h.1 _ _, poisonMark_wf (poisonClear_wf h.2.1 _ _) _ _ _, h.2.2⟩

theorem State.setTag_memWf {s : State} (h : s.memWf = true) (co : CoreId) (off : Nat) (t : BitVec 16) :
    (s.setTag co off t).memWf = true := by
  rw [State.memWf_iff] at *
  exact ⟨h.1, h.2.1, Tab.set_wf h.2.2 _ _⟩

theorem State.setTags_memWf {s : State} (h : s.memWf = true) (co : CoreId) (off n : Nat) (t : BitVec 16) :
    (s.setTags co off n t).memWf = true := by
  unfold State.setTags
  generalize List.range _ = l
  induction l generalizing s with
  | nil => exact h
  | cons i l ih => exact ih (State.setTag_memWf h _ _ _)

theorem State.tag_setTag_self (s : State) (co : CoreId) (off : Nat) (t : BitVec 16) : (s.setTag co off t).tag co off = t :=
  Tab.get_set_self _ _ _

theorem State.tag_setTag_other (s : State) (co : CoreId) {off k : Nat} (t : BitVec 16) (h : k / 512 ≠ off / 512) :
    (s.setTag co off t).tag co k = s.tag co k :=
  Tab.get_set_other _ _ (by omega)

end Sys2Proof.Machine
end

