-- ==== Sys2Proof/Laws/State.lean ====
section
/-! SUPPORT. Laws.State: what each named update of the state changes and leaves, field by field; each is true by unfolding, and none is
to be unfolded by a later proof. -/

namespace Sys2Proof.Machine
set_option Elab.async false
set_option linter.all false

/-! ## setSl -/

@[simp] theorem State.setSl_rest (s : State) (x : Slice) : (s.setSl x).rest = s.rest := rfl
@[simp] theorem State.setSl_todo (s : State) (x : Slice) : (s.setSl x).todo = s.todo := rfl
@[simp] theorem State.setSl_mem (s : State) (x : Slice) : (s.setSl x).mem = s.mem := rfl
@[simp] theorem State.setSl_pois (s : State) (x : Slice) : (s.setSl x).pois = s.pois := rfl
@[simp] theorem State.setSl_tags (s : State) (x : Slice) : (s.setSl x).tags = s.tags := rfl
@[simp] theorem State.setSl_time (s : State) (x : Slice) : (s.setSl x).time = s.time := rfl
@[simp] theorem State.setSl_fcyc (s : State) (x : Slice) : (s.setSl x).fcyc = s.fcyc := rfl
@[simp] theorem State.setSl_tickDone (s : State) (x : Slice) : (s.setSl x).tickDone = s.tickDone := rfl
@[simp] theorem State.setSl_pace (s : State) (x : Slice) : (s.setSl x).pace = s.pace := rfl
@[simp] theorem State.setSl_draws (s : State) (x : Slice) : (s.setSl x).draws = s.draws := rfl
@[simp] theorem State.setSl_nextId (s : State) (x : Slice) : (s.setSl x).nextId = s.nextId := rfl
@[simp] theorem State.setSl_queue (s : State) (x : Slice) : (s.setSl x).queue = s.queue := rfl
@[simp] theorem State.setSl_sent (s : State) (x : Slice) : (s.setSl x).sent = s.sent := rfl
@[simp] theorem State.setSl_modId (s : State) (x : Slice) : (s.setSl x).modId = s.modId := rfl
@[simp] theorem State.setSl_config (s : State) (x : Slice) : (s.setSl x).config = s.config := rfl
@[simp] theorem State.setSl_valid (s : State) (x : Slice) : (s.setSl x).valid = s.valid := rfl
@[simp] theorem State.setSl_deviceKey (s : State) (x : Slice) : (s.setSl x).deviceKey = s.deviceKey := rfl
@[simp] theorem State.setSl_fullService (s : State) (x : Slice) : (s.setSl x).fullService = s.fullService := rfl
@[simp] theorem State.setSl_hush (s : State) (x : Slice) : (s.setSl x).hush = s.hush := rfl
@[simp] theorem State.setSl_calibrated (s : State) (x : Slice) : (s.setSl x).calibrated = s.calibrated := rfl
@[simp] theorem State.setSl_joined (s : State) (x : Slice) : (s.setSl x).joined = s.joined := rfl
@[simp] theorem State.setSl_failed (s : State) (x : Slice) : (s.setSl x).failed = s.failed := rfl
@[simp] theorem State.setSl_isolated (s : State) (x : Slice) : (s.setSl x).isolated = s.isolated := rfl
@[simp] theorem State.setSl_power (s : State) (x : Slice) : (s.setSl x).power = s.power := rfl
@[simp] theorem State.setSl_starter (s : State) (x : Slice) : (s.setSl x).starter = s.starter := rfl
@[simp] theorem State.setSl_fab (s : State) (x : Slice) : (s.setSl x).fab = s.fab := rfl
@[simp] theorem State.setSl_ops (s : State) (x : Slice) : (s.setSl x).ops = s.ops := rfl
@[simp] theorem State.setSl_pumps (s : State) (x : Slice) : (s.setSl x).pumps = s.pumps := rfl
@[simp] theorem State.setSl_munits (s : State) (x : Slice) : (s.setSl x).munits = s.munits := rfl
@[simp] theorem State.setSl_pools (s : State) (x : Slice) : (s.setSl x).pools = s.pools := rfl
@[simp] theorem State.setSl_regions (s : State) (x : Slice) : (s.setSl x).regions = s.regions := rfl
@[simp] theorem State.setSl_past (s : State) (x : Slice) : (s.setSl x).past = s.past := rfl
@[simp] theorem State.setSl_rootq (s : State) (x : Slice) : (s.setSl x).rootq = s.rootq := rfl
@[simp] theorem State.setSl_portals (s : State) (x : Slice) : (s.setSl x).portals = s.portals := rfl
@[simp] theorem State.setSl_irqs (s : State) (x : Slice) : (s.setSl x).irqs = s.irqs := rfl
@[simp] theorem State.setSl_cmds (s : State) (x : Slice) : (s.setSl x).cmds = s.cmds := rfl
@[simp] theorem State.setSl_revoked (s : State) (x : Slice) : (s.setSl x).revoked = s.revoked := rfl
@[simp] theorem State.setSl_pasidBase (s : State) (x : Slice) : (s.setSl x).pasidBase = s.pasidBase := rfl
@[simp] theorem State.setSl_frames (s : State) (x : Slice) : (s.setSl x).frames = s.frames := rfl
@[simp] theorem State.setSl_tlb (s : State) (x : Slice) : (s.setSl x).tlb = s.tlb := rfl
@[simp] theorem State.setSl_copies (s : State) (x : Slice) : (s.setSl x).copies = s.copies := rfl
@[simp] theorem State.setSl_redirect (s : State) (x : Slice) : (s.setSl x).redirect = s.redirect := rfl
@[simp] theorem State.setSl_retired (s : State) (x : Slice) : (s.setSl x).retired = s.retired := rfl
@[simp] theorem State.setSl_stackErrs (s : State) (x : Slice) : (s.setSl x).stackErrs = s.stackErrs := rfl
@[simp] theorem State.setSl_counters (s : State) (x : Slice) : (s.setSl x).counters = s.counters := rfl
@[simp] theorem State.setSl_traces (s : State) (x : Slice) : (s.setSl x).traces = s.traces := rfl
@[simp] theorem State.setSl_core_id (s : State) (x : Slice) : (s.setSl x).core.id = s.core.id := rfl
@[simp] theorem State.setSl_core_cur (s : State) (x : Slice) : (s.setSl x).core.cur = s.core.cur := rfl
@[simp] theorem State.setSl_core_curCtx (s : State) (x : Slice) : (s.setSl x).core.curCtx = s.core.curCtx := rfl
@[simp] theorem State.setSl_core_stall (s : State) (x : Slice) : (s.setSl x).core.stall = s.core.stall := rfl
@[simp] theorem State.setSl_core_lone (s : State) (x : Slice) : (s.setSl x).core.lone = s.core.lone := rfl
@[simp] theorem State.setSl_core_cBeats (s : State) (x : Slice) : (s.setSl x).core.cBeats = s.core.cBeats := rfl
@[simp] theorem State.setSl_core_took (s : State) (x : Slice) : (s.setSl x).core.took = s.core.took := rfl
@[simp] theorem State.setSl_core_running (s : State) (x : Slice) : (s.setSl x).core.running = s.core.running := rfl
@[simp] theorem State.setSl_core_switch (s : State) (x : Slice) : (s.setSl x).core.switch = s.core.switch := rfl
@[simp] theorem State.setSl_core_evaluate (s : State) (x : Slice) : (s.setSl x).core.evaluate = s.core.evaluate := rfl
@[simp] theorem State.setSl_core_lastCtx (s : State) (x : Slice) : (s.setSl x).core.lastCtx = s.core.lastCtx := rfl
@[simp] theorem State.setSl_core_cyc (s : State) (x : Slice) : (s.setSl x).core.cyc = s.core.cyc := rfl
@[simp] theorem State.setSl_core_ran (s : State) (x : Slice) : (s.setSl x).core.ran = s.core.ran := rfl
@[simp] theorem State.setSl_core_vecFree (s : State) (x : Slice) : (s.setSl x).core.vecFree = s.core.vecFree := rfl
@[simp] theorem State.setSl_core_beats (s : State) (x : Slice) : (s.setSl x).core.beats = s.core.beats := rfl
@[simp] theorem State.setSl_core_mq (s : State) (x : Slice) : (s.setSl x).core.mq = s.core.mq := rfl
@[simp] theorem State.setSl_core_gone (s : State) (x : Slice) : (s.setSl x).core.gone = s.core.gone := rfl
@[simp] theorem State.setSl_core_share (s : State) (x : Slice) : (s.setSl x).core.share = s.core.share := rfl
@[simp] theorem State.setSl_core_shareClr (s : State) (x : Slice) : (s.setSl x).core.shareClr = s.core.shareClr := rfl
@[simp] theorem State.setSl_core_inj (s : State) (x : Slice) : (s.setSl x).core.inj = s.core.inj := rfl
@[simp] theorem State.setSl_core_brk (s : State) (x : Slice) : (s.setSl x).core.brk = s.core.brk := rfl
@[simp] theorem State.setSl_core_wpt (s : State) (x : Slice) : (s.setSl x).core.wpt = s.core.wpt := rfl
@[simp] theorem State.setSl_core_trace (s : State) (x : Slice) : (s.setSl x).core.trace = s.core.trace := rfl

@[simp] theorem State.setSl_sl (s : State) (x : Slice) : (s.setSl x).sl = x := by simp [State.setSl, State.sl]
@[simp] theorem State.setSl_cx (s : State) (x : Slice) : (s.setSl x).cx = x.ctxs[s.core.curCtx] := by simp [State.cx]

/-! ## setCx -/

@[simp] theorem State.setCx_rest (s : State) (c : Ctx) : (s.setCx c).rest = s.rest := rfl
@[simp] theorem State.setCx_todo (s : State) (c : Ctx) : (s.setCx c).todo = s.todo := rfl
@[simp] theorem State.setCx_mem (s : State) (c : Ctx) : (s.setCx c).mem = s.mem := rfl
@[simp] theorem State.setCx_pois (s : State) (c : Ctx) : (s.setCx c).pois = s.pois := rfl
@[simp] theorem State.setCx_tags (s : State) (c : Ctx) : (s.setCx c).tags = s.tags := rfl
@[simp] theorem State.setCx_time (s : State) (c : Ctx) : (s.setCx c).time = s.time := rfl
@[simp] theorem State.setCx_fcyc (s : State) (c : Ctx) : (s.setCx c).fcyc = s.fcyc := rfl
@[simp] theorem State.setCx_tickDone (s : State) (c : Ctx) : (s.setCx c).tickDone = s.tickDone := rfl
@[simp] theorem State.setCx_pace (s : State) (c : Ctx) : (s.setCx c).pace = s.pace := rfl
@[simp] theorem State.setCx_draws (s : State) (c : Ctx) : (s.setCx c).draws = s.draws := rfl
@[simp] theorem State.setCx_nextId (s : State) (c : Ctx) : (s.setCx c).nextId = s.nextId := rfl
@[simp] theorem State.setCx_queue (s : State) (c : Ctx) : (s.setCx c).queue = s.queue := rfl
@[simp] theorem State.setCx_sent (s : State) (c : Ctx) : (s.setCx c).sent = s.sent := rfl
@[simp] theorem State.setCx_modId (s : State) (c : Ctx) : (s.setCx c).modId = s.modId := rfl
@[simp] theorem State.setCx_config (s : State) (c : Ctx) : (s.setCx c).config = s.config := rfl
@[simp] theorem State.setCx_valid (s : State) (c : Ctx) : (s.setCx c).valid = s.valid := rfl
@[simp] theorem State.setCx_deviceKey (s : State) (c : Ctx) : (s.setCx c).deviceKey = s.deviceKey := rfl
@[simp] theorem State.setCx_fullService (s : State) (c : Ctx) : (s.setCx c).fullService = s.fullService := rfl
@[simp] theorem State.setCx_hush (s : State) (c : Ctx) : (s.setCx c).hush = s.hush := rfl
@[simp] theorem State.setCx_calibrated (s : State) (c : Ctx) : (s.setCx c).calibrated = s.calibrated := rfl
@[simp] theorem State.setCx_joined (s : State) (c : Ctx) : (s.setCx c).joined = s.joined := rfl
@[simp] theorem State.setCx_failed (s : State) (c : Ctx) : (s.setCx c).failed = s.failed := rfl
@[simp] theorem State.setCx_isolated (s : State) (c : Ctx) : (s.setCx c).isolated = s.isolated := rfl
@[simp] theorem State.setCx_power (s : State) (c : Ctx) : (s.setCx c).power = s.power := rfl
@[simp] theorem State.setCx_starter (s : State) (c : Ctx) : (s.setCx c).starter = s.starter := rfl
@[simp] theorem State.setCx_fab (s : State) (c : Ctx) : (s.setCx c).fab = s.fab := rfl
@[simp] theorem State.setCx_ops (s : State) (c : Ctx) : (s.setCx c).ops = s.ops := rfl
@[simp] theorem State.setCx_pumps (s : State) (c : Ctx) : (s.setCx c).pumps = s.pumps := rfl
@[simp] theorem State.setCx_munits (s : State) (c : Ctx) : (s.setCx c).munits = s.munits := rfl
@[simp] theorem State.setCx_pools (s : State) (c : Ctx) : (s.setCx c).pools = s.pools := rfl
@[simp] theorem State.setCx_regions (s : State) (c : Ctx) : (s.setCx c).regions = s.regions := rfl
@[simp] theorem State.setCx_past (s : State) (c : Ctx) : (s.setCx c).past = s.past := rfl
@[simp] theorem State.setCx_rootq (s : State) (c : Ctx) : (s.setCx c).rootq = s.rootq := rfl
@[simp] theorem State.setCx_portals (s : State) (c : Ctx) : (s.setCx c).portals = s.portals := rfl
@[simp] theorem State.setCx_irqs (s : State) (c : Ctx) : (s.setCx c).irqs = s.irqs := rfl
@[simp] theorem State.setCx_cmds (s : State) (c : Ctx) : (s.setCx c).cmds = s.cmds := rfl
@[simp] theorem State.setCx_revoked (s : State) (c : Ctx) : (s.setCx c).revoked = s.revoked := rfl
@[simp] theorem State.setCx_pasidBase (s : State) (c : Ctx) : (s.setCx c).pasidBase = s.pasidBase := rfl
@[simp] theorem State.setCx_frames (s : State) (c : Ctx) : (s.setCx c).frames = s.frames := rfl
@[simp] theorem State.setCx_tlb (s : State) (c : Ctx) : (s.setCx c).tlb = s.tlb := rfl
@[simp] theorem State.setCx_copies (s : State) (c : Ctx) : (s.setCx c).copies = s.copies := rfl
@[simp] theorem State.setCx_redirect (s : State) (c : Ctx) : (s.setCx c).redirect = s.redirect := rfl
@[simp] theorem State.setCx_retired (s : State) (c : Ctx) : (s.setCx c).retired = s.retired := rfl
@[simp] theorem State.setCx_stackErrs (s : State) (c : Ctx) : (s.setCx c).stackErrs = s.stackErrs := rfl
@[simp] theorem State.setCx_counters (s : State) (c : Ctx) : (s.setCx c).counters = s.counters := rfl
@[simp] theorem State.setCx_traces (s : State) (c : Ctx) : (s.setCx c).traces = s.traces := rfl
@[simp] theorem State.setCx_core_id (s : State) (c : Ctx) : (s.setCx c).core.id = s.core.id := rfl
@[simp] theorem State.setCx_core_cur (s : State) (c : Ctx) : (s.setCx c).core.cur = s.core.cur := rfl
@[simp] theorem State.setCx_core_curCtx (s : State) (c : Ctx) : (s.setCx c).core.curCtx = s.core.curCtx := rfl
@[simp] theorem State.setCx_core_stall (s : State) (c : Ctx) : (s.setCx c).core.stall = s.core.stall := rfl
@[simp] theorem State.setCx_core_lone (s : State) (c : Ctx) : (s.setCx c).core.lone = s.core.lone := rfl
@[simp] theorem State.setCx_core_cBeats (s : State) (c : Ctx) : (s.setCx c).core.cBeats = s.core.cBeats := rfl
@[simp] theorem State.setCx_core_took (s : State) (c : Ctx) : (s.setCx c).core.took = s.core.took := rfl
@[simp] theorem State.setCx_core_running (s : State) (c : Ctx) : (s.setCx c).core.running = s.core.running := rfl
@[simp] theorem State.setCx_core_switch (s : State) (c : Ctx) : (s.setCx c).core.switch = s.core.switch := rfl
@[simp] theorem State.setCx_core_evaluate (s : State) (c : Ctx) : (s.setCx c).core.evaluate = s.core.evaluate := rfl
@[simp] theorem State.setCx_core_lastCtx (s : State) (c : Ctx) : (s.setCx c).core.lastCtx = s.core.lastCtx := rfl
@[simp] theorem State.setCx_core_cyc (s : State) (c : Ctx) : (s.setCx c).core.cyc = s.core.cyc := rfl
@[simp] theorem State.setCx_core_ran (s : State) (c : Ctx) : (s.setCx c).core.ran = s.core.ran := rfl
@[simp] theorem State.setCx_core_vecFree (s : State) (c : Ctx) : (s.setCx c).core.vecFree = s.core.vecFree := rfl
@[simp] theorem State.setCx_core_beats (s : State) (c : Ctx) : (s.setCx c).core.beats = s.core.beats := rfl
@[simp] theorem State.setCx_core_mq (s : State) (c : Ctx) : (s.setCx c).core.mq = s.core.mq := rfl
@[simp] theorem State.setCx_core_gone (s : State) (c : Ctx) : (s.setCx c).core.gone = s.core.gone := rfl
@[simp] theorem State.setCx_core_share (s : State) (c : Ctx) : (s.setCx c).core.share = s.core.share := rfl
@[simp] theorem State.setCx_core_shareClr (s : State) (c : Ctx) : (s.setCx c).core.shareClr = s.core.shareClr := rfl
@[simp] theorem State.setCx_core_inj (s : State) (c : Ctx) : (s.setCx c).core.inj = s.core.inj := rfl
@[simp] theorem State.setCx_core_brk (s : State) (c : Ctx) : (s.setCx c).core.brk = s.core.brk := rfl
@[simp] theorem State.setCx_core_wpt (s : State) (c : Ctx) : (s.setCx c).core.wpt = s.core.wpt := rfl
@[simp] theorem State.setCx_core_trace (s : State) (c : Ctx) : (s.setCx c).core.trace = s.core.trace := rfl

@[simp] theorem State.setCx_cx (s : State) (c : Ctx) : (s.setCx c).cx = c := by simp [State.setCx, State.cx]
@[simp] theorem State.setCx_sl_v (s : State) (c : Ctx) : (s.setCx c).sl.v = s.sl.v := by simp [State.setCx]
@[simp] theorem State.setCx_sl_st (s : State) (c : Ctx) : (s.setCx c).sl.st = s.sl.st := by simp [State.setCx]
@[simp] theorem State.setCx_sl_cls (s : State) (c : Ctx) : (s.setCx c).sl.cls = s.sl.cls := by simp [State.setCx]
@[simp] theorem State.setCx_sl_disc (s : State) (c : Ctx) : (s.setCx c).sl.disc = s.sl.disc := by simp [State.setCx]
@[simp] theorem State.setCx_sl_acc (s : State) (c : Ctx) : (s.setCx c).sl.acc = s.sl.acc := by simp [State.setCx]
@[simp] theorem State.setCx_sl_rgn (s : State) (c : Ctx) : (s.setCx c).sl.rgn = s.sl.rgn := by simp [State.setCx]
@[simp] theorem State.setCx_sl_uid (s : State) (c : Ctx) : (s.setCx c).sl.uid = s.sl.uid := by simp [State.setCx]
@[simp] theorem State.setCx_sl_gang (s : State) (c : Ctx) : (s.setCx c).sl.gang = s.sl.gang := by simp [State.setCx]
@[simp] theorem State.setCx_sl_arm (s : State) (c : Ctx) : (s.setCx c).sl.arm = s.sl.arm := by simp [State.setCx]
@[simp] theorem State.setCx_sl_dead (s : State) (c : Ctx) : (s.setCx c).sl.dead = s.sl.dead := by simp [State.setCx]
@[simp] theorem State.setCx_sl_brem (s : State) (c : Ctx) : (s.setCx c).sl.brem = s.sl.brem := by simp [State.setCx]
@[simp] theorem State.setCx_sl_bud (s : State) (c : Ctx) : (s.setCx c).sl.bud = s.sl.bud := by simp [State.setCx]
@[simp] theorem State.setCx_sl_per (s : State) (c : Ctx) : (s.setCx c).sl.per = s.sl.per := by simp [State.setCx]
@[simp] theorem State.setCx_sl_wp (s : State) (c : Ctx) : (s.setCx c).sl.wp = s.sl.wp := by simp [State.setCx]
@[simp] theorem State.setCx_sl_pb (s : State) (c : Ctx) : (s.setCx c).sl.pb = s.sl.pb := by simp [State.setCx]
@[simp] theorem State.setCx_sl_pkb (s : State) (c : Ctx) : (s.setCx c).sl.pkb = s.sl.pkb := by simp [State.setCx]
@[simp] theorem State.setCx_sl_eff (s : State) (c : Ctx) : (s.setCx c).sl.eff = s.sl.eff := by simp [State.setCx]
@[simp] theorem State.setCx_sl_rcb (s : State) (c : Ctx) : (s.setCx c).sl.rcb = s.sl.rcb := by simp [State.setCx]
@[simp] theorem State.setCx_sl_k (s : State) (c : Ctx) : (s.setCx c).sl.k = s.sl.k := by simp [State.setCx]
@[simp] theorem State.setCx_sl_crows (s : State) (c : Ctx) : (s.setCx c).sl.crows = s.sl.crows := by simp [State.setCx]
@[simp] theorem State.setCx_sl_ccols (s : State) (c : Ctx) : (s.setCx c).sl.ccols = s.sl.ccols := by simp [State.setCx]
@[simp] theorem State.setCx_sl_lead (s : State) (c : Ctx) : (s.setCx c).sl.lead = s.sl.lead := by simp [State.setCx]
@[simp] theorem State.setCx_sl_ib (s : State) (c : Ctx) : (s.setCx c).sl.ib = s.sl.ib := by simp [State.setCx]
@[simp] theorem State.setCx_sl_started (s : State) (c : Ctx) : (s.setCx c).sl.started = s.sl.started := by simp [State.setCx]
@[simp] theorem State.setCx_sl_chk (s : State) (c : Ctx) : (s.setCx c).sl.chk = s.sl.chk := by simp [State.setCx]
@[simp] theorem State.setCx_sl_trv (s : State) (c : Ctx) : (s.setCx c).sl.trv = s.sl.trv := by simp [State.setCx]
@[simp] theorem State.setCx_sl_spl (s : State) (c : Ctx) : (s.setCx c).sl.spl = s.sl.spl := by simp [State.setCx]
@[simp] theorem State.setCx_sl_ovp (s : State) (c : Ctx) : (s.setCx c).sl.ovp = s.sl.ovp := by simp [State.setCx]
@[simp] theorem State.setCx_sl_rqBase (s : State) (c : Ctx) : (s.setCx c).sl.rqBase = s.sl.rqBase := by simp [State.setCx]
@[simp] theorem State.setCx_sl_rqMax (s : State) (c : Ctx) : (s.setCx c).sl.rqMax = s.sl.rqMax := by simp [State.setCx]
@[simp] theorem State.setCx_sl_rqSlots (s : State) (c : Ctx) : (s.setCx c).sl.rqSlots = s.sl.rqSlots := by simp [State.setCx]
@[simp] theorem State.setCx_sl_rqHead (s : State) (c : Ctx) : (s.setCx c).sl.rqHead = s.sl.rqHead := by simp [State.setCx]
@[simp] theorem State.setCx_sl_rqTail (s : State) (c : Ctx) : (s.setCx c).sl.rqTail = s.sl.rqTail := by simp [State.setCx]
@[simp] theorem State.setCx_sl_done (s : State) (c : Ctx) : (s.setCx c).sl.done = s.sl.done := by simp [State.setCx]
@[simp] theorem State.setCx_sl_flt (s : State) (c : Ctx) : (s.setCx c).sl.flt = s.sl.flt := by simp [State.setCx]
@[simp] theorem State.setCx_sl_jobs (s : State) (c : Ctx) : (s.setCx c).sl.jobs = s.sl.jobs := by simp [State.setCx]
@[simp] theorem State.setCx_sl_attached (s : State) (c : Ctx) : (s.setCx c).sl.attached = s.sl.attached := by simp [State.setCx]
@[simp] theorem State.setCx_sl_halted (s : State) (c : Ctx) : (s.setCx c).sl.halted = s.sl.halted := by simp [State.setCx]
@[simp] theorem State.setCx_sl_lastArr (s : State) (c : Ctx) : (s.setCx c).sl.lastArr = s.sl.lastArr := by simp [State.setCx]
@[simp] theorem State.setCx_sl_go (s : State) (c : Ctx) : (s.setCx c).sl.go = s.sl.go := by simp [State.setCx]
@[simp] theorem State.setCx_sl_vote (s : State) (c : Ctx) : (s.setCx c).sl.vote = s.sl.vote := by simp [State.setCx]
@[simp] theorem State.setCx_sl_window (s : State) (c : Ctx) : (s.setCx c).sl.window = s.sl.window := by simp [State.setCx]
@[simp] theorem State.setCx_sl_opened (s : State) (c : Ctx) : (s.setCx c).sl.opened = s.sl.opened := by simp [State.setCx]
@[simp] theorem State.setCx_sl_arrivals (s : State) (c : Ctx) : (s.setCx c).sl.arrivals = s.sl.arrivals := by simp [State.setCx]
@[simp] theorem State.setCx_sl_counting (s : State) (c : Ctx) : (s.setCx c).sl.counting = s.sl.counting := by simp [State.setCx]
@[simp] theorem State.setCx_sl_bank (s : State) (c : Ctx) : (s.setCx c).sl.bank = s.sl.bank := by simp [State.setCx]
@[simp] theorem State.setCx_sl_sat (s : State) (c : Ctx) : (s.setCx c).sl.sat = s.sl.sat := by simp [State.setCx]
@[simp] theorem State.setCx_sl_bc (s : State) (c : Ctx) : (s.setCx c).sl.bc = s.sl.bc := by simp [State.setCx]
@[simp] theorem State.setCx_sl_mflt (s : State) (c : Ctx) : (s.setCx c).sl.mflt = s.sl.mflt := by simp [State.setCx]
@[simp] theorem State.setCx_sl_suspTick (s : State) (c : Ctx) : (s.setCx c).sl.suspTick = s.sl.suspTick := by simp [State.setCx]
@[simp] theorem State.setCx_sl_why (s : State) (c : Ctx) : (s.setCx c).sl.why = s.sl.why := by simp [State.setCx]

/-! ## focus -/

@[simp] theorem State.focus_rest (s : State) (i : Fin 16) (c : Fin 11) : (s.focus i c).rest = s.rest := rfl
@[simp] theorem State.focus_todo (s : State) (i : Fin 16) (c : Fin 11) : (s.focus i c).todo = s.todo := rfl
@[simp] theorem State.focus_mem (s : State) (i : Fin 16) (c : Fin 11) : (s.focus i c).mem = s.mem := rfl
@[simp] theorem State.focus_pois (s : State) (i : Fin 16) (c : Fin 11) : (s.focus i c).pois = s.pois := rfl
@[simp] theorem State.focus_tags (s : State) (i : Fin 16) (c : Fin 11) : (s.focus i c).tags = s.tags := rfl
@[simp] theorem State.focus_time (s : State) (i : Fin 16) (c : Fin 11) : (s.focus i c).time = s.time := rfl
@[simp] theorem State.focus_fcyc (s : State) (i : Fin 16) (c : Fin 11) : (s.focus i c).fcyc = s.fcyc := rfl
@[simp] theorem State.focus_tickDone (s : State) (i : Fin 16) (c : Fin 11) : (s.focus i c).tickDone = s.tickDone := rfl
@[simp] theorem State.focus_pace (s : State) (i : Fin 16) (c : Fin 11) : (s.focus i c).pace = s.pace := rfl
@[simp] theorem State.focus_draws (s : State) (i : Fin 16) (c : Fin 11) : (s.focus i c).draws = s.draws := rfl
@[simp] theorem State.focus_nextId (s : State) (i : Fin 16) (c : Fin 11) : (s.focus i c).nextId = s.nextId := rfl
@[simp] theorem State.focus_queue (s : State) (i : Fin 16) (c : Fin 11) : (s.focus i c).queue = s.queue := rfl
@[simp] theorem State.focus_sent (s : State) (i : Fin 16) (c : Fin 11) : (s.focus i c).sent = s.sent := rfl
@[simp] theorem State.focus_modId (s : State) (i : Fin 16) (c : Fin 11) : (s.focus i c).modId = s.modId := rfl
@[simp] theorem State.focus_config (s : State) (i : Fin 16) (c : Fin 11) : (s.focus i c).config = s.config := rfl
@[simp] theorem State.focus_valid (s : State) (i : Fin 16) (c : Fin 11) : (s.focus i c).valid = s.valid := rfl
@[simp] theorem State.focus_deviceKey (s : State) (i : Fin 16) (c : Fin 11) : (s.focus i c).deviceKey = s.deviceKey := rfl
@[simp] theorem State.focus_fullService (s : State) (i : Fin 16) (c : Fin 11) : (s.focus i c).fullService = s.fullService := rfl
@[simp] theorem State.focus_hush (s : State) (i : Fin 16) (c : Fin 11) : (s.focus i c).hush = s.hush := rfl
@[simp] theorem State.focus_calibrated (s : State) (i : Fin 16) (c : Fin 11) : (s.focus i c).calibrated = s.calibrated := rfl
@[simp] theorem State.focus_joined (s : State) (i : Fin 16) (c : Fin 11) : (s.focus i c).joined = s.joined := rfl
@[simp] theorem State.focus_failed (s : State) (i : Fin 16) (c : Fin 11) : (s.focus i c).failed = s.failed := rfl
@[simp] theorem State.focus_isolated (s : State) (i : Fin 16) (c : Fin 11) : (s.focus i c).isolated = s.isolated := rfl
@[simp] theorem State.focus_power (s : State) (i : Fin 16) (c : Fin 11) : (s.focus i c).power = s.power := rfl
@[simp] theorem State.focus_starter (s : State) (i : Fin 16) (c : Fin 11) : (s.focus i c).starter = s.starter := rfl
@[simp] theorem State.focus_fab (s : State) (i : Fin 16) (c : Fin 11) : (s.focus i c).fab = s.fab := rfl
@[simp] theorem State.focus_ops (s : State) (i : Fin 16) (c : Fin 11) : (s.focus i c).ops = s.ops := rfl
@[simp] theorem State.focus_pumps (s : State) (i : Fin 16) (c : Fin 11) : (s.focus i c).pumps = s.pumps := rfl
@[simp] theorem State.focus_munits (s : State) (i : Fin 16) (c : Fin 11) : (s.focus i c).munits = s.munits := rfl
@[simp] theorem State.focus_pools (s : State) (i : Fin 16) (c : Fin 11) : (s.focus i c).pools = s.pools := rfl
@[simp] theorem State.focus_regions (s : State) (i : Fin 16) (c : Fin 11) : (s.focus i c).regions = s.regions := rfl
@[simp] theorem State.focus_past (s : State) (i : Fin 16) (c : Fin 11) : (s.focus i c).past = s.past := rfl
@[simp] theorem State.focus_rootq (s : State) (i : Fin 16) (c : Fin 11) : (s.focus i c).rootq = s.rootq := rfl
@[simp] theorem State.focus_portals (s : State) (i : Fin 16) (c : Fin 11) : (s.focus i c).portals = s.portals := rfl
@[simp] theorem State.focus_irqs (s : State) (i : Fin 16) (c : Fin 11) : (s.focus i c).irqs = s.irqs := rfl
@[simp] theorem State.focus_cmds (s : State) (i : Fin 16) (c : Fin 11) : (s.focus i c).cmds = s.cmds := rfl
@[simp] theorem State.focus_revoked (s : State) (i : Fin 16) (c : Fin 11) : (s.focus i c).revoked = s.revoked := rfl
@[simp] theorem State.focus_pasidBase (s : State) (i : Fin 16) (c : Fin 11) : (s.focus i c).pasidBase = s.pasidBase := rfl
@[simp] theorem State.focus_frames (s : State) (i : Fin 16) (c : Fin 11) : (s.focus i c).frames = s.frames := rfl
@[simp] theorem State.focus_tlb (s : State) (i : Fin 16) (c : Fin 11) : (s.focus i c).tlb = s.tlb := rfl
@[simp] theorem State.focus_copies (s : State) (i : Fin 16) (c : Fin 11) : (s.focus i c).copies = s.copies := rfl
@[simp] theorem State.focus_redirect (s : State) (i : Fin 16) (c : Fin 11) : (s.focus i c).redirect = s.redirect := rfl
@[simp] theorem State.focus_retired (s : State) (i : Fin 16) (c : Fin 11) : (s.focus i c).retired = s.retired := rfl
@[simp] theorem State.focus_stackErrs (s : State) (i : Fin 16) (c : Fin 11) : (s.focus i c).stackErrs = s.stackErrs := rfl
@[simp] theorem State.focus_counters (s : State) (i : Fin 16) (c : Fin 11) : (s.focus i c).counters = s.counters := rfl
@[simp] theorem State.focus_traces (s : State) (i : Fin 16) (c : Fin 11) : (s.focus i c).traces = s.traces := rfl
@[simp] theorem State.focus_core_id (s : State) (i : Fin 16) (c : Fin 11) : (s.focus i c).core.id = s.core.id := rfl
@[simp] theorem State.focus_core_stall (s : State) (i : Fin 16) (c : Fin 11) : (s.focus i c).core.stall = s.core.stall := rfl
@[simp] theorem State.focus_core_lone (s : State) (i : Fin 16) (c : Fin 11) : (s.focus i c).core.lone = s.core.lone := rfl
@[simp] theorem State.focus_core_cBeats (s : State) (i : Fin 16) (c : Fin 11) : (s.focus i c).core.cBeats = s.core.cBeats := rfl
@[simp] theorem State.focus_core_took (s : State) (i : Fin 16) (c : Fin 11) : (s.focus i c).core.took = s.core.took := rfl
@[simp] theorem State.focus_core_running (s : State) (i : Fin 16) (c : Fin 11) : (s.focus i c).core.running = s.core.running := rfl
@[simp] theorem State.focus_core_switch (s : State) (i : Fin 16) (c : Fin 11) : (s.focus i c).core.switch = s.core.switch := rfl
@[simp] theorem State.focus_core_evaluate (s : State) (i : Fin 16) (c : Fin 11) : (s.focus i c).core.evaluate = s.core.evaluate := rfl
@[simp] theorem State.focus_core_lastCtx (s : State) (i : Fin 16) (c : Fin 11) : (s.focus i c).core.lastCtx = s.core.lastCtx := rfl
@[simp] theorem State.focus_core_cyc (s : State) (i : Fin 16) (c : Fin 11) : (s.focus i c).core.cyc = s.core.cyc := rfl
@[simp] theorem State.focus_core_ran (s : State) (i : Fin 16) (c : Fin 11) : (s.focus i c).core.ran = s.core.ran := rfl
@[simp] theorem State.focus_core_vecFree (s : State) (i : Fin 16) (c : Fin 11) : (s.focus i c).core.vecFree = s.core.vecFree := rfl
@[simp] theorem State.focus_core_beats (s : State) (i : Fin 16) (c : Fin 11) : (s.focus i c).core.beats = s.core.beats := rfl
@[simp] theorem State.focus_core_mq (s : State) (i : Fin 16) (c : Fin 11) : (s.focus i c).core.mq = s.core.mq := rfl
@[simp] theorem State.focus_core_gone (s : State) (i : Fin 16) (c : Fin 11) : (s.focus i c).core.gone = s.core.gone := rfl
@[simp] theorem State.focus_core_share (s : State) (i : Fin 16) (c : Fin 11) : (s.focus i c).core.share = s.core.share := rfl
@[simp] theorem State.focus_core_shareClr (s : State) (i : Fin 16) (c : Fin 11) : (s.focus i c).core.shareClr = s.core.shareClr := rfl
@[simp] theorem State.focus_core_inj (s : State) (i : Fin 16) (c : Fin 11) : (s.focus i c).core.inj = s.core.inj := rfl
@[simp] theorem State.focus_core_brk (s : State) (i : Fin 16) (c : Fin 11) : (s.focus i c).core.brk = s.core.brk := rfl
@[simp] theorem State.focus_core_wpt (s : State) (i : Fin 16) (c : Fin 11) : (s.focus i c).core.wpt = s.core.wpt := rfl
@[simp] theorem State.focus_core_trace (s : State) (i : Fin 16) (c : Fin 11) : (s.focus i c).core.trace = s.core.trace := rfl

@[simp] theorem State.focus_core_cur (s : State) (i : Fin 16) (c : Fin 11) : (s.focus i c).core.cur = i := rfl
@[simp] theorem State.focus_core_curCtx (s : State) (i : Fin 16) (c : Fin 11) : (s.focus i c).core.curCtx = c := rfl
@[simp] theorem State.focus_core_slices (s : State) (i : Fin 16) (c : Fin 11) : (s.focus i c).core.slices = s.core.slices := rfl

/-! ## putGood -/

@[simp] theorem State.putGood_rest (s : State) (a n v : Nat) : (s.putGood a n v).rest = s.rest := rfl
@[simp] theorem State.putGood_todo (s : State) (a n v : Nat) : (s.putGood a n v).todo = s.todo := rfl
@[simp] theorem State.putGood_tags (s : State) (a n v : Nat) : (s.putGood a n v).tags = s.tags := rfl
@[simp] theorem State.putGood_time (s : State) (a n v : Nat) : (s.putGood a n v).time = s.time := rfl
@[simp] theorem State.putGood_fcyc (s : State) (a n v : Nat) : (s.putGood a n v).fcyc = s.fcyc := rfl
@[simp] theorem State.putGood_tickDone (s : State) (a n v : Nat) : (s.putGood a n v).tickDone = s.tickDone := rfl
@[simp] theorem State.putGood_pace (s : State) (a n v : Nat) : (s.putGood a n v).pace = s.pace := rfl
@[simp] theorem State.putGood_draws (s : State) (a n v : Nat) : (s.putGood a n v).draws = s.draws := rfl
@[simp] theorem State.putGood_nextId (s : State) (a n v : Nat) : (s.putGood a n v).nextId = s.nextId := rfl
@[simp] theorem State.putGood_queue (s : State) (a n v : Nat) : (s.putGood a n v).queue = s.queue := rfl
@[simp] theorem State.putGood_sent (s : State) (a n v : Nat) : (s.putGood a n v).sent = s.sent := rfl
@[simp] theorem State.putGood_modId (s : State) (a n v : Nat) : (s.putGood a n v).modId = s.modId := rfl
@[simp] theorem State.putGood_config (s : State) (a n v : Nat) : (s.putGood a n v).config = s.config := rfl
@[simp] theorem State.putGood_valid (s : State) (a n v : Nat) : (s.putGood a n v).valid = s.valid := rfl
@[simp] theorem State.putGood_deviceKey (s : State) (a n v : Nat) : (s.putGood a n v).deviceKey = s.deviceKey := rfl
@[simp] theorem State.putGood_fullService (s : State) (a n v : Nat) : (s.putGood a n v).fullService = s.fullService := rfl
@[simp] theorem State.putGood_hush (s : State) (a n v : Nat) : (s.putGood a n v).hush = s.hush := rfl
@[simp] theorem State.putGood_calibrated (s : State) (a n v : Nat) : (s.putGood a n v).calibrated = s.calibrated := rfl
@[simp] theorem State.putGood_joined (s : State) (a n v : Nat) : (s.putGood a n v).joined = s.joined := rfl
@[simp] theorem State.putGood_failed (s : State) (a n v : Nat) : (s.putGood a n v).failed = s.failed := rfl
@[simp] theorem State.putGood_isolated (s : State) (a n v : Nat) : (s.putGood a n v).isolated = s.isolated := rfl
@[simp] theorem State.putGood_power (s : State) (a n v : Nat) : (s.putGood a n v).power = s.power := rfl
@[simp] theorem State.putGood_starter (s : State) (a n v : Nat) : (s.putGood a n v).starter = s.starter := rfl
@[simp] theorem State.putGood_fab (s : State) (a n v : Nat) : (s.putGood a n v).fab = s.fab := rfl
@[simp] theorem State.putGood_ops (s : State) (a n v : Nat) : (s.putGood a n v).ops = s.ops := rfl
@[simp] theorem State.putGood_pumps (s : State) (a n v : Nat) : (s.putGood a n v).pumps = s.pumps := rfl
@[simp] theorem State.putGood_munits (s : State) (a n v : Nat) : (s.putGood a n v).munits = s.munits := rfl
@[simp] theorem State.putGood_pools (s : State) (a n v : Nat) : (s.putGood a n v).pools = s.pools := rfl
@[simp] theorem State.putGood_regions (s : State) (a n v : Nat) : (s.putGood a n v).regions = s.regions := rfl
@[simp] theorem State.putGood_past (s : State) (a n v : Nat) : (s.putGood a n v).past = s.past := rfl
@[simp] theorem State.putGood_rootq (s : State) (a n v : Nat) : (s.putGood a n v).rootq = s.rootq := rfl
@[simp] theorem State.putGood_portals (s : State) (a n v : Nat) : (s.putGood a n v).portals = s.portals := rfl
@[simp] theorem State.putGood_irqs (s : State) (a n v : Nat) : (s.putGood a n v).irqs = s.irqs := rfl
@[simp] theorem State.putGood_cmds (s : State) (a n v : Nat) : (s.putGood a n v).cmds = s.cmds := rfl
@[simp] theorem State.putGood_revoked (s : State) (a n v : Nat) : (s.putGood a n v).revoked = s.revoked := rfl
@[simp] theorem State.putGood_pasidBase (s : State) (a n v : Nat) : (s.putGood a n v).pasidBase = s.pasidBase := rfl
@[simp] theorem State.putGood_frames (s : State) (a n v : Nat) : (s.putGood a n v).frames = s.frames := rfl
@[simp] theorem State.putGood_tlb (s : State) (a n v : Nat) : (s.putGood a n v).tlb = s.tlb := rfl
@[simp] theorem State.putGood_copies (s : State) (a n v : Nat) : (s.putGood a n v).copies = s.copies := rfl
@[simp] theorem State.putGood_redirect (s : State) (a n v : Nat) : (s.putGood a n v).redirect = s.redirect := rfl
@[simp] theorem State.putGood_retired (s : State) (a n v : Nat) : (s.putGood a n v).retired = s.retired := rfl
@[simp] theorem State.putGood_stackErrs (s : State) (a n v : Nat) : (s.putGood a n v).stackErrs = s.stackErrs := rfl
@[simp] theorem State.putGood_counters (s : State) (a n v : Nat) : (s.putGood a n v).counters = s.counters := rfl
@[simp] theorem State.putGood_traces (s : State) (a n v : Nat) : (s.putGood a n v).traces = s.traces := rfl
@[simp] theorem State.putGood_core (s : State) (a n v : Nat) : (s.putGood a n v).core = s.core := rfl
@[simp] theorem State.putGood_sl (s : State) (a n v : Nat) : (s.putGood a n v).sl = s.sl := rfl
@[simp] theorem State.putGood_cx (s : State) (a n v : Nat) : (s.putGood a n v).cx = s.cx := rfl

/-! ## put -/

@[simp] theorem State.put_rest (s : State) (a n v b : Nat) : (s.put a n v b).rest = s.rest := rfl
@[simp] theorem State.put_todo (s : State) (a n v b : Nat) : (s.put a n v b).todo = s.todo := rfl
@[simp] theorem State.put_tags (s : State) (a n v b : Nat) : (s.put a n v b).tags = s.tags := rfl
@[simp] theorem State.put_time (s : State) (a n v b : Nat) : (s.put a n v b).time = s.time := rfl
@[simp] theorem State.put_fcyc (s : State) (a n v b : Nat) : (s.put a n v b).fcyc = s.fcyc := rfl
@[simp] theorem State.put_tickDone (s : State) (a n v b : Nat) : (s.put a n v b).tickDone = s.tickDone := rfl
@[simp] theorem State.put_pace (s : State) (a n v b : Nat) : (s.put a n v b).pace = s.pace := rfl
@[simp] theorem State.put_draws (s : State) (a n v b : Nat) : (s.put a n v b).draws = s.draws := rfl
@[simp] theorem State.put_nextId (s : State) (a n v b : Nat) : (s.put a n v b).nextId = s.nextId := rfl
@[simp] theorem State.put_queue (s : State) (a n v b : Nat) : (s.put a n v b).queue = s.queue := rfl
@[simp] theorem State.put_sent (s : State) (a n v b : Nat) : (s.put a n v b).sent = s.sent := rfl
@[simp] theorem State.put_modId (s : State) (a n v b : Nat) : (s.put a n v b).modId = s.modId := rfl
@[simp] theorem State.put_config (s : State) (a n v b : Nat) : (s.put a n v b).config = s.config := rfl
@[simp] theorem State.put_valid (s : State) (a n v b : Nat) : (s.put a n v b).valid = s.valid := rfl
@[simp] theorem State.put_deviceKey (s : State) (a n v b : Nat) : (s.put a n v b).deviceKey = s.deviceKey := rfl
@[simp] theorem State.put_fullService (s : State) (a n v b : Nat) : (s.put a n v b).fullService = s.fullService := rfl
@[simp] theorem State.put_hush (s : State) (a n v b : Nat) : (s.put a n v b).hush = s.hush := rfl
@[simp] theorem State.put_calibrated (s : State) (a n v b : Nat) : (s.put a n v b).calibrated = s.calibrated := rfl
@[simp] theorem State.put_joined (s : State) (a n v b : Nat) : (s.put a n v b).joined = s.joined := rfl
@[simp] theorem State.put_failed (s : State) (a n v b : Nat) : (s.put a n v b).failed = s.failed := rfl
@[simp] theorem State.put_isolated (s : State) (a n v b : Nat) : (s.put a n v b).isolated = s.isolated := rfl
@[simp] theorem State.put_power (s : State) (a n v b : Nat) : (s.put a n v b).power = s.power := rfl
@[simp] theorem State.put_starter (s : State) (a n v b : Nat) : (s.put a n v b).starter = s.starter := rfl
@[simp] theorem State.put_fab (s : State) (a n v b : Nat) : (s.put a n v b).fab = s.fab := rfl
@[simp] theorem State.put_ops (s : State) (a n v b : Nat) : (s.put a n v b).ops = s.ops := rfl
@[simp] theorem State.put_pumps (s : State) (a n v b : Nat) : (s.put a n v b).pumps = s.pumps := rfl
@[simp] theorem State.put_munits (s : State) (a n v b : Nat) : (s.put a n v b).munits = s.munits := rfl
@[simp] theorem State.put_pools (s : State) (a n v b : Nat) : (s.put a n v b).pools = s.pools := rfl
@[simp] theorem State.put_regions (s : State) (a n v b : Nat) : (s.put a n v b).regions = s.regions := rfl
@[simp] theorem State.put_past (s : State) (a n v b : Nat) : (s.put a n v b).past = s.past := rfl
@[simp] theorem State.put_rootq (s : State) (a n v b : Nat) : (s.put a n v b).rootq = s.rootq := rfl
@[simp] theorem State.put_portals (s : State) (a n v b : Nat) : (s.put a n v b).portals = s.portals := rfl
@[simp] theorem State.put_irqs (s : State) (a n v b : Nat) : (s.put a n v b).irqs = s.irqs := rfl
@[simp] theorem State.put_cmds (s : State) (a n v b : Nat) : (s.put a n v b).cmds = s.cmds := rfl
@[simp] theorem State.put_revoked (s : State) (a n v b : Nat) : (s.put a n v b).revoked = s.revoked := rfl
@[simp] theorem State.put_pasidBase (s : State) (a n v b : Nat) : (s.put a n v b).pasidBase = s.pasidBase := rfl
@[simp] theorem State.put_frames (s : State) (a n v b : Nat) : (s.put a n v b).frames = s.frames := rfl
@[simp] theorem State.put_tlb (s : State) (a n v b : Nat) : (s.put a n v b).tlb = s.tlb := rfl
@[simp] theorem State.put_copies (s : State) (a n v b : Nat) : (s.put a n v b).copies = s.copies := rfl
@[simp] theorem State.put_redirect (s : State) (a n v b : Nat) : (s.put a n v b).redirect = s.redirect := rfl
@[simp] theorem State.put_retired (s : State) (a n v b : Nat) : (s.put a n v b).retired = s.retired := rfl
@[simp] theorem State.put_stackErrs (s : State) (a n v b : Nat) : (s.put a n v b).stackErrs = s.stackErrs := rfl
@[simp] theorem State.put_counters (s : State) (a n v b : Nat) : (s.put a n v b).counters = s.counters := rfl
@[simp] theorem State.put_traces (s : State) (a n v b : Nat) : (s.put a n v b).traces = s.traces := rfl
@[simp] theorem State.put_core (s : State) (a n v b : Nat) : (s.put a n v b).core = s.core := rfl
@[simp] theorem State.put_sl (s : State) (a n v b : Nat) : (s.put a n v b).sl = s.sl := rfl
@[simp] theorem State.put_cx (s : State) (a n v b : Nat) : (s.put a n v b).cx = s.cx := rfl

/-! ## setTag -/

@[simp] theorem State.setTag_rest (s : State) (co : CoreId) (off : Nat) (t : BitVec 16) : (s.setTag co off t).rest = s.rest := rfl
@[simp] theorem State.setTag_todo (s : State) (co : CoreId) (off : Nat) (t : BitVec 16) : (s.setTag co off t).todo = s.todo := rfl
@[simp] theorem State.setTag_mem (s : State) (co : CoreId) (off : Nat) (t : BitVec 16) : (s.setTag co off t).mem = s.mem := rfl
@[simp] theorem State.setTag_pois (s : State) (co : CoreId) (off : Nat) (t : BitVec 16) : (s.setTag co off t).pois = s.pois := rfl
@[simp] theorem State.setTag_time (s : State) (co : CoreId) (off : Nat) (t : BitVec 16) : (s.setTag co off t).time = s.time := rfl
@[simp] theorem State.setTag_fcyc (s : State) (co : CoreId) (off : Nat) (t : BitVec 16) : (s.setTag co off t).fcyc = s.fcyc := rfl
@[simp] theorem State.setTag_tickDone (s : State) (co : CoreId) (off : Nat) (t : BitVec 16) : (s.setTag co off t).tickDone = s.tickDone := rfl
@[simp] theorem State.setTag_pace (s : State) (co : CoreId) (off : Nat) (t : BitVec 16) : (s.setTag co off t).pace = s.pace := rfl
@[simp] theorem State.setTag_draws (s : State) (co : CoreId) (off : Nat) (t : BitVec 16) : (s.setTag co off t).draws = s.draws := rfl
@[simp] theorem State.setTag_nextId (s : State) (co : CoreId) (off : Nat) (t : BitVec 16) : (s.setTag co off t).nextId = s.nextId := rfl
@[simp] theorem State.setTag_queue (s : State) (co : CoreId) (off : Nat) (t : BitVec 16) : (s.setTag co off t).queue = s.queue := rfl
@[simp] theorem State.setTag_sent (s : State) (co : CoreId) (off : Nat) (t : BitVec 16) : (s.setTag co off t).sent = s.sent := rfl
@[simp] theorem State.setTag_modId (s : State) (co : CoreId) (off : Nat) (t : BitVec 16) : (s.setTag co off t).modId = s.modId := rfl
@[simp] theorem State.setTag_config (s : State) (co : CoreId) (off : Nat) (t : BitVec 16) : (s.setTag co off t).config = s.config := rfl
@[simp] theorem State.setTag_valid (s : State) (co : CoreId) (off : Nat) (t : BitVec 16) : (s.setTag co off t).valid = s.valid := rfl
@[simp] theorem State.setTag_deviceKey (s : State) (co : CoreId) (off : Nat) (t : BitVec 16) : (s.setTag co off t).deviceKey = s.deviceKey := rfl
@[simp] theorem State.setTag_fullService (s : State) (co : CoreId) (off : Nat) (t : BitVec 16) : (s.setTag co off t).fullService = s.fullService := rfl
@[simp] theorem State.setTag_hush (s : State) (co : CoreId) (off : Nat) (t : BitVec 16) : (s.setTag co off t).hush = s.hush := rfl
@[simp] theorem State.setTag_calibrated (s : State) (co : CoreId) (off : Nat) (t : BitVec 16) : (s.setTag co off t).calibrated = s.calibrated := rfl
@[simp] theorem State.setTag_joined (s : State) (co : CoreId) (off : Nat) (t : BitVec 16) : (s.setTag co off t).joined = s.joined := rfl
@[simp] theorem State.setTag_failed (s : State) (co : CoreId) (off : Nat) (t : BitVec 16) : (s.setTag co off t).failed = s.failed := rfl
@[simp] theorem State.setTag_isolated (s : State) (co : CoreId) (off : Nat) (t : BitVec 16) : (s.setTag co off t).isolated = s.isolated := rfl
@[simp] theorem State.setTag_power (s : State) (co : CoreId) (off : Nat) (t : BitVec 16) : (s.setTag co off t).power = s.power := rfl
@[simp] theorem State.setTag_starter (s : State) (co : CoreId) (off : Nat) (t : BitVec 16) : (s.setTag co off t).starter = s.starter := rfl
@[simp] theorem State.setTag_fab (s : State) (co : CoreId) (off : Nat) (t : BitVec 16) : (s.setTag co off t).fab = s.fab := rfl
@[simp] theorem State.setTag_ops (s : State) (co : CoreId) (off : Nat) (t : BitVec 16) : (s.setTag co off t).ops = s.ops := rfl
@[simp] theorem State.setTag_pumps (s : State) (co : CoreId) (off : Nat) (t : BitVec 16) : (s.setTag co off t).pumps = s.pumps := rfl
@[simp] theorem State.setTag_munits (s : State) (co : CoreId) (off : Nat) (t : BitVec 16) : (s.setTag co off t).munits = s.munits := rfl
@[simp] theorem State.setTag_pools (s : State) (co : CoreId) (off : Nat) (t : BitVec 16) : (s.setTag co off t).pools = s.pools := rfl
@[simp] theorem State.setTag_regions (s : State) (co : CoreId) (off : Nat) (t : BitVec 16) : (s.setTag co off t).regions = s.regions := rfl
@[simp] theorem State.setTag_past (s : State) (co : CoreId) (off : Nat) (t : BitVec 16) : (s.setTag co off t).past = s.past := rfl
@[simp] theorem State.setTag_rootq (s : State) (co : CoreId) (off : Nat) (t : BitVec 16) : (s.setTag co off t).rootq = s.rootq := rfl
@[simp] theorem State.setTag_portals (s : State) (co : CoreId) (off : Nat) (t : BitVec 16) : (s.setTag co off t).portals = s.portals := rfl
@[simp] theorem State.setTag_irqs (s : State) (co : CoreId) (off : Nat) (t : BitVec 16) : (s.setTag co off t).irqs = s.irqs := rfl
@[simp] theorem State.setTag_cmds (s : State) (co : CoreId) (off : Nat) (t : BitVec 16) : (s.setTag co off t).cmds = s.cmds := rfl
@[simp] theorem State.setTag_revoked (s : State) (co : CoreId) (off : Nat) (t : BitVec 16) : (s.setTag co off t).revoked = s.revoked := rfl
@[simp] theorem State.setTag_pasidBase (s : State) (co : CoreId) (off : Nat) (t : BitVec 16) : (s.setTag co off t).pasidBase = s.pasidBase := rfl
@[simp] theorem State.setTag_frames (s : State) (co : CoreId) (off : Nat) (t : BitVec 16) : (s.setTag co off t).frames = s.frames := rfl
@[simp] theorem State.setTag_tlb (s : State) (co : CoreId) (off : Nat) (t : BitVec 16) : (s.setTag co off t).tlb = s.tlb := rfl
@[simp] theorem State.setTag_copies (s : State) (co : CoreId) (off : Nat) (t : BitVec 16) : (s.setTag co off t).copies = s.copies := rfl
@[simp] theorem State.setTag_redirect (s : State) (co : CoreId) (off : Nat) (t : BitVec 16) : (s.setTag co off t).redirect = s.redirect := rfl
@[simp] theorem State.setTag_retired (s : State) (co : CoreId) (off : Nat) (t : BitVec 16) : (s.setTag co off t).retired = s.retired := rfl
@[simp] theorem State.setTag_stackErrs (s : State) (co : CoreId) (off : Nat) (t : BitVec 16) : (s.setTag co off t).stackErrs = s.stackErrs := rfl
@[simp] theorem State.setTag_counters (s : State) (co : CoreId) (off : Nat) (t : BitVec 16) : (s.setTag co off t).counters = s.counters := rfl
@[simp] theorem State.setTag_traces (s : State) (co : CoreId) (off : Nat) (t : BitVec 16) : (s.setTag co off t).traces = s.traces := rfl
@[simp] theorem State.setTag_core (s : State) (co : CoreId) (off : Nat) (t : BitVec 16) : (s.setTag co off t).core = s.core := rfl
@[simp] theorem State.setTag_sl (s : State) (co : CoreId) (off : Nat) (t : BitVec 16) : (s.setTag co off t).sl = s.sl := rfl
@[simp] theorem State.setTag_cx (s : State) (co : CoreId) (off : Nat) (t : BitVec 16) : (s.setTag co off t).cx = s.cx := rfl

/-! ## draw -/

@[simp] theorem State.draw_rest (s : State)  : (s.draw).rest = s.rest := rfl
@[simp] theorem State.draw_todo (s : State)  : (s.draw).todo = s.todo := rfl
@[simp] theorem State.draw_mem (s : State)  : (s.draw).mem = s.mem := rfl
@[simp] theorem State.draw_pois (s : State)  : (s.draw).pois = s.pois := rfl
@[simp] theorem State.draw_tags (s : State)  : (s.draw).tags = s.tags := rfl
@[simp] theorem State.draw_time (s : State)  : (s.draw).time = s.time := rfl
@[simp] theorem State.draw_fcyc (s : State)  : (s.draw).fcyc = s.fcyc := rfl
@[simp] theorem State.draw_tickDone (s : State)  : (s.draw).tickDone = s.tickDone := rfl
@[simp] theorem State.draw_pace (s : State)  : (s.draw).pace = s.pace := rfl
@[simp] theorem State.draw_nextId (s : State)  : (s.draw).nextId = s.nextId := rfl
@[simp] theorem State.draw_queue (s : State)  : (s.draw).queue = s.queue := rfl
@[simp] theorem State.draw_sent (s : State)  : (s.draw).sent = s.sent := rfl
@[simp] theorem State.draw_modId (s : State)  : (s.draw).modId = s.modId := rfl
@[simp] theorem State.draw_config (s : State)  : (s.draw).config = s.config := rfl
@[simp] theorem State.draw_valid (s : State)  : (s.draw).valid = s.valid := rfl
@[simp] theorem State.draw_deviceKey (s : State)  : (s.draw).deviceKey = s.deviceKey := rfl
@[simp] theorem State.draw_fullService (s : State)  : (s.draw).fullService = s.fullService := rfl
@[simp] theorem State.draw_hush (s : State)  : (s.draw).hush = s.hush := rfl
@[simp] theorem State.draw_calibrated (s : State)  : (s.draw).calibrated = s.calibrated := rfl
@[simp] theorem State.draw_joined (s : State)  : (s.draw).joined = s.joined := rfl
@[simp] theorem State.draw_failed (s : State)  : (s.draw).failed = s.failed := rfl
@[simp] theorem State.draw_isolated (s : State)  : (s.draw).isolated = s.isolated := rfl
@[simp] theorem State.draw_power (s : State)  : (s.draw).power = s.power := rfl
@[simp] theorem State.draw_starter (s : State)  : (s.draw).starter = s.starter := rfl
@[simp] theorem State.draw_fab (s : State)  : (s.draw).fab = s.fab := rfl
@[simp] theorem State.draw_ops (s : State)  : (s.draw).ops = s.ops := rfl
@[simp] theorem State.draw_pumps (s : State)  : (s.draw).pumps = s.pumps := rfl
@[simp] theorem State.draw_munits (s : State)  : (s.draw).munits = s.munits := rfl
@[simp] theorem State.draw_pools (s : State)  : (s.draw).pools = s.pools := rfl
@[simp] theorem State.draw_regions (s : State)  : (s.draw).regions = s.regions := rfl
@[simp] theorem State.draw_past (s : State)  : (s.draw).past = s.past := rfl
@[simp] theorem State.draw_rootq (s : State)  : (s.draw).rootq = s.rootq := rfl
@[simp] theorem State.draw_portals (s : State)  : (s.draw).portals = s.portals := rfl
@[simp] theorem State.draw_irqs (s : State)  : (s.draw).irqs = s.irqs := rfl
@[simp] theorem State.draw_cmds (s : State)  : (s.draw).cmds = s.cmds := rfl
@[simp] theorem State.draw_revoked (s : State)  : (s.draw).revoked = s.revoked := rfl
@[simp] theorem State.draw_pasidBase (s : State)  : (s.draw).pasidBase = s.pasidBase := rfl
@[simp] theorem State.draw_frames (s : State)  : (s.draw).frames = s.frames := rfl
@[simp] theorem State.draw_tlb (s : State)  : (s.draw).tlb = s.tlb := rfl
@[simp] theorem State.draw_copies (s : State)  : (s.draw).copies = s.copies := rfl
@[simp] theorem State.draw_redirect (s : State)  : (s.draw).redirect = s.redirect := rfl
@[simp] theorem State.draw_retired (s : State)  : (s.draw).retired = s.retired := rfl
@[simp] theorem State.draw_stackErrs (s : State)  : (s.draw).stackErrs = s.stackErrs := rfl
@[simp] theorem State.draw_counters (s : State)  : (s.draw).counters = s.counters := rfl
@[simp] theorem State.draw_traces (s : State)  : (s.draw).traces = s.traces := rfl
@[simp] theorem State.draw_core (s : State)  : (s.draw).core = s.core := rfl
@[simp] theorem State.draw_sl (s : State)  : (s.draw).sl = s.sl := rfl
@[simp] theorem State.draw_cx (s : State)  : (s.draw).cx = s.cx := rfl

/-! ## bump -/

@[simp] theorem State.bump_rest (s : State) (slab idx : Nat) : (s.bump slab idx).rest = s.rest := rfl
@[simp] theorem State.bump_todo (s : State) (slab idx : Nat) : (s.bump slab idx).todo = s.todo := rfl
@[simp] theorem State.bump_mem (s : State) (slab idx : Nat) : (s.bump slab idx).mem = s.mem := rfl
@[simp] theorem State.bump_pois (s : State) (slab idx : Nat) : (s.bump slab idx).pois = s.pois := rfl
@[simp] theorem State.bump_tags (s : State) (slab idx : Nat) : (s.bump slab idx).tags = s.tags := rfl
@[simp] theorem State.bump_time (s : State) (slab idx : Nat) : (s.bump slab idx).time = s.time := rfl
@[simp] theorem State.bump_fcyc (s : State) (slab idx : Nat) : (s.bump slab idx).fcyc = s.fcyc := rfl
@[simp] theorem State.bump_tickDone (s : State) (slab idx : Nat) : (s.bump slab idx).tickDone = s.tickDone := rfl
@[simp] theorem State.bump_pace (s : State) (slab idx : Nat) : (s.bump slab idx).pace = s.pace := rfl
@[simp] theorem State.bump_draws (s : State) (slab idx : Nat) : (s.bump slab idx).draws = s.draws := rfl
@[simp] theorem State.bump_nextId (s : State) (slab idx : Nat) : (s.bump slab idx).nextId = s.nextId := rfl
@[simp] theorem State.bump_queue (s : State) (slab idx : Nat) : (s.bump slab idx).queue = s.queue := rfl
@[simp] theorem State.bump_sent (s : State) (slab idx : Nat) : (s.bump slab idx).sent = s.sent := rfl
@[simp] theorem State.bump_modId (s : State) (slab idx : Nat) : (s.bump slab idx).modId = s.modId := rfl
@[simp] theorem State.bump_config (s : State) (slab idx : Nat) : (s.bump slab idx).config = s.config := rfl
@[simp] theorem State.bump_valid (s : State) (slab idx : Nat) : (s.bump slab idx).valid = s.valid := rfl
@[simp] theorem State.bump_deviceKey (s : State) (slab idx : Nat) : (s.bump slab idx).deviceKey = s.deviceKey := rfl
@[simp] theorem State.bump_fullService (s : State) (slab idx : Nat) : (s.bump slab idx).fullService = s.fullService := rfl
@[simp] theorem State.bump_hush (s : State) (slab idx : Nat) : (s.bump slab idx).hush = s.hush := rfl
@[simp] theorem State.bump_calibrated (s : State) (slab idx : Nat) : (s.bump slab idx).calibrated = s.calibrated := rfl
@[simp] theorem State.bump_joined (s : State) (slab idx : Nat) : (s.bump slab idx).joined = s.joined := rfl
@[simp] theorem State.bump_failed (s : State) (slab idx : Nat) : (s.bump slab idx).failed = s.failed := rfl
@[simp] theorem State.bump_isolated (s : State) (slab idx : Nat) : (s.bump slab idx).isolated = s.isolated := rfl
@[simp] theorem State.bump_power (s : State) (slab idx : Nat) : (s.bump slab idx).power = s.power := rfl
@[simp] theorem State.bump_starter (s : State) (slab idx : Nat) : (s.bump slab idx).starter = s.starter := rfl
@[simp] theorem State.bump_fab (s : State) (slab idx : Nat) : (s.bump slab idx).fab = s.fab := rfl
@[simp] theorem State.bump_ops (s : State) (slab idx : Nat) : (s.bump slab idx).ops = s.ops := rfl
@[simp] theorem State.bump_pumps (s : State) (slab idx : Nat) : (s.bump slab idx).pumps = s.pumps := rfl
@[simp] theorem State.bump_munits (s : State) (slab idx : Nat) : (s.bump slab idx).munits = s.munits := rfl
@[simp] theorem State.bump_pools (s : State) (slab idx : Nat) : (s.bump slab idx).pools = s.pools := rfl
@[simp] theorem State.bump_regions (s : State) (slab idx : Nat) : (s.bump slab idx).regions = s.regions := rfl
@[simp] theorem State.bump_past (s : State) (slab idx : Nat) : (s.bump slab idx).past = s.past := rfl
@[simp] theorem State.bump_rootq (s : State) (slab idx : Nat) : (s.bump slab idx).rootq = s.rootq := rfl
@[simp] theorem State.bump_portals (s : State) (slab idx : Nat) : (s.bump slab idx).portals = s.portals := rfl
@[simp] theorem State.bump_irqs (s : State) (slab idx : Nat) : (s.bump slab idx).irqs = s.irqs := rfl
@[simp] theorem State.bump_cmds (s : State) (slab idx : Nat) : (s.bump slab idx).cmds = s.cmds := rfl
@[simp] theorem State.bump_revoked (s : State) (slab idx : Nat) : (s.bump slab idx).revoked = s.revoked := rfl
@[simp] theorem State.bump_pasidBase (s : State) (slab idx : Nat) : (s.bump slab idx).pasidBase = s.pasidBase := rfl
@[simp] theorem State.bump_frames (s : State) (slab idx : Nat) : (s.bump slab idx).frames = s.frames := rfl
@[simp] theorem State.bump_tlb (s : State) (slab idx : Nat) : (s.bump slab idx).tlb = s.tlb := rfl
@[simp] theorem State.bump_copies (s : State) (slab idx : Nat) : (s.bump slab idx).copies = s.copies := rfl
@[simp] theorem State.bump_redirect (s : State) (slab idx : Nat) : (s.bump slab idx).redirect = s.redirect := rfl
@[simp] theorem State.bump_retired (s : State) (slab idx : Nat) : (s.bump slab idx).retired = s.retired := rfl
@[simp] theorem State.bump_stackErrs (s : State) (slab idx : Nat) : (s.bump slab idx).stackErrs = s.stackErrs := rfl
@[simp] theorem State.bump_traces (s : State) (slab idx : Nat) : (s.bump slab idx).traces = s.traces := rfl
@[simp] theorem State.bump_core (s : State) (slab idx : Nat) : (s.bump slab idx).core = s.core := rfl
@[simp] theorem State.bump_sl (s : State) (slab idx : Nat) : (s.bump slab idx).sl = s.sl := rfl
@[simp] theorem State.bump_cx (s : State) (slab idx : Nat) : (s.bump slab idx).cx = s.cx := rfl

/-! ## rootRecord -/

@[simp] theorem State.rootRecord_rest (s : State) (r : BitVec 512) : (s.rootRecord r).rest = s.rest := rfl
@[simp] theorem State.rootRecord_todo (s : State) (r : BitVec 512) : (s.rootRecord r).todo = s.todo := rfl
@[simp] theorem State.rootRecord_mem (s : State) (r : BitVec 512) : (s.rootRecord r).mem = s.mem := rfl
@[simp] theorem State.rootRecord_pois (s : State) (r : BitVec 512) : (s.rootRecord r).pois = s.pois := rfl
@[simp] theorem State.rootRecord_tags (s : State) (r : BitVec 512) : (s.rootRecord r).tags = s.tags := rfl
@[simp] theorem State.rootRecord_time (s : State) (r : BitVec 512) : (s.rootRecord r).time = s.time := rfl
@[simp] theorem State.rootRecord_fcyc (s : State) (r : BitVec 512) : (s.rootRecord r).fcyc = s.fcyc := rfl
@[simp] theorem State.rootRecord_tickDone (s : State) (r : BitVec 512) : (s.rootRecord r).tickDone = s.tickDone := rfl
@[simp] theorem State.rootRecord_pace (s : State) (r : BitVec 512) : (s.rootRecord r).pace = s.pace := rfl
@[simp] theorem State.rootRecord_draws (s : State) (r : BitVec 512) : (s.rootRecord r).draws = s.draws := rfl
@[simp] theorem State.rootRecord_nextId (s : State) (r : BitVec 512) : (s.rootRecord r).nextId = s.nextId := rfl
@[simp] theorem State.rootRecord_queue (s : State) (r : BitVec 512) : (s.rootRecord r).queue = s.queue := rfl
@[simp] theorem State.rootRecord_sent (s : State) (r : BitVec 512) : (s.rootRecord r).sent = s.sent := rfl
@[simp] theorem State.rootRecord_modId (s : State) (r : BitVec 512) : (s.rootRecord r).modId = s.modId := rfl
@[simp] theorem State.rootRecord_config (s : State) (r : BitVec 512) : (s.rootRecord r).config = s.config := rfl
@[simp] theorem State.rootRecord_valid (s : State) (r : BitVec 512) : (s.rootRecord r).valid = s.valid := rfl
@[simp] theorem State.rootRecord_deviceKey (s : State) (r : BitVec 512) : (s.rootRecord r).deviceKey = s.deviceKey := rfl
@[simp] theorem State.rootRecord_fullService (s : State) (r : BitVec 512) : (s.rootRecord r).fullService = s.fullService := rfl
@[simp] theorem State.rootRecord_hush (s : State) (r : BitVec 512) : (s.rootRecord r).hush = s.hush := rfl
@[simp] theorem State.rootRecord_calibrated (s : State) (r : BitVec 512) : (s.rootRecord r).calibrated = s.calibrated := rfl
@[simp] theorem State.rootRecord_joined (s : State) (r : BitVec 512) : (s.rootRecord r).joined = s.joined := rfl
@[simp] theorem State.rootRecord_failed (s : State) (r : BitVec 512) : (s.rootRecord r).failed = s.failed := rfl
@[simp] theorem State.rootRecord_isolated (s : State) (r : BitVec 512) : (s.rootRecord r).isolated = s.isolated := rfl
@[simp] theorem State.rootRecord_power (s : State) (r : BitVec 512) : (s.rootRecord r).power = s.power := rfl
@[simp] theorem State.rootRecord_starter (s : State) (r : BitVec 512) : (s.rootRecord r).starter = s.starter := rfl
@[simp] theorem State.rootRecord_fab (s : State) (r : BitVec 512) : (s.rootRecord r).fab = s.fab := rfl
@[simp] theorem State.rootRecord_ops (s : State) (r : BitVec 512) : (s.rootRecord r).ops = s.ops := rfl
@[simp] theorem State.rootRecord_pumps (s : State) (r : BitVec 512) : (s.rootRecord r).pumps = s.pumps := rfl
@[simp] theorem State.rootRecord_munits (s : State) (r : BitVec 512) : (s.rootRecord r).munits = s.munits := rfl
@[simp] theorem State.rootRecord_pools (s : State) (r : BitVec 512) : (s.rootRecord r).pools = s.pools := rfl
@[simp] theorem State.rootRecord_regions (s : State) (r : BitVec 512) : (s.rootRecord r).regions = s.regions := rfl
@[simp] theorem State.rootRecord_past (s : State) (r : BitVec 512) : (s.rootRecord r).past = s.past := rfl
@[simp] theorem State.rootRecord_portals (s : State) (r : BitVec 512) : (s.rootRecord r).portals = s.portals := rfl
@[simp] theorem State.rootRecord_irqs (s : State) (r : BitVec 512) : (s.rootRecord r).irqs = s.irqs := rfl
@[simp] theorem State.rootRecord_cmds (s : State) (r : BitVec 512) : (s.rootRecord r).cmds = s.cmds := rfl
@[simp] theorem State.rootRecord_revoked (s : State) (r : BitVec 512) : (s.rootRecord r).revoked = s.revoked := rfl
@[simp] theorem State.rootRecord_pasidBase (s : State) (r : BitVec 512) : (s.rootRecord r).pasidBase = s.pasidBase := rfl
@[simp] theorem State.rootRecord_frames (s : State) (r : BitVec 512) : (s.rootRecord r).frames = s.frames := rfl
@[simp] theorem State.rootRecord_tlb (s : State) (r : BitVec 512) : (s.rootRecord r).tlb = s.tlb := rfl
@[simp] theorem State.rootRecord_copies (s : State) (r : BitVec 512) : (s.rootRecord r).copies = s.copies := rfl
@[simp] theorem State.rootRecord_redirect (s : State) (r : BitVec 512) : (s.rootRecord r).redirect = s.redirect := rfl
@[simp] theorem State.rootRecord_retired (s : State) (r : BitVec 512) : (s.rootRecord r).retired = s.retired := rfl
@[simp] theorem State.rootRecord_stackErrs (s : State) (r : BitVec 512) : (s.rootRecord r).stackErrs = s.stackErrs := rfl
@[simp] theorem State.rootRecord_counters (s : State) (r : BitVec 512) : (s.rootRecord r).counters = s.counters := rfl
@[simp] theorem State.rootRecord_traces (s : State) (r : BitVec 512) : (s.rootRecord r).traces = s.traces := rfl
@[simp] theorem State.rootRecord_core (s : State) (r : BitVec 512) : (s.rootRecord r).core = s.core := rfl
@[simp] theorem State.rootRecord_sl (s : State) (r : BitVec 512) : (s.rootRecord r).sl = s.sl := rfl
@[simp] theorem State.rootRecord_cx (s : State) (r : BitVec 512) : (s.rootRecord r).cx = s.cx := rfl

/-! ## tally -/

@[simp] theorem State.tally_rest (s : State) (e n : Nat) : (s.tally e n).rest = s.rest := rfl
@[simp] theorem State.tally_todo (s : State) (e n : Nat) : (s.tally e n).todo = s.todo := rfl
@[simp] theorem State.tally_mem (s : State) (e n : Nat) : (s.tally e n).mem = s.mem := rfl
@[simp] theorem State.tally_pois (s : State) (e n : Nat) : (s.tally e n).pois = s.pois := rfl
@[simp] theorem State.tally_tags (s : State) (e n : Nat) : (s.tally e n).tags = s.tags := rfl
@[simp] theorem State.tally_time (s : State) (e n : Nat) : (s.tally e n).time = s.time := rfl
@[simp] theorem State.tally_fcyc (s : State) (e n : Nat) : (s.tally e n).fcyc = s.fcyc := rfl
@[simp] theorem State.tally_tickDone (s : State) (e n : Nat) : (s.tally e n).tickDone = s.tickDone := rfl
@[simp] theorem State.tally_pace (s : State) (e n : Nat) : (s.tally e n).pace = s.pace := rfl
@[simp] theorem State.tally_draws (s : State) (e n : Nat) : (s.tally e n).draws = s.draws := rfl
@[simp] theorem State.tally_nextId (s : State) (e n : Nat) : (s.tally e n).nextId = s.nextId := rfl
@[simp] theorem State.tally_queue (s : State) (e n : Nat) : (s.tally e n).queue = s.queue := rfl
@[simp] theorem State.tally_sent (s : State) (e n : Nat) : (s.tally e n).sent = s.sent := rfl
@[simp] theorem State.tally_modId (s : State) (e n : Nat) : (s.tally e n).modId = s.modId := rfl
@[simp] theorem State.tally_config (s : State) (e n : Nat) : (s.tally e n).config = s.config := rfl
@[simp] theorem State.tally_valid (s : State) (e n : Nat) : (s.tally e n).valid = s.valid := rfl
@[simp] theorem State.tally_deviceKey (s : State) (e n : Nat) : (s.tally e n).deviceKey = s.deviceKey := rfl
@[simp] theorem State.tally_fullService (s : State) (e n : Nat) : (s.tally e n).fullService = s.fullService := rfl
@[simp] theorem State.tally_hush (s : State) (e n : Nat) : (s.tally e n).hush = s.hush := rfl
@[simp] theorem State.tally_calibrated (s : State) (e n : Nat) : (s.tally e n).calibrated = s.calibrated := rfl
@[simp] theorem State.tally_joined (s : State) (e n : Nat) : (s.tally e n).joined = s.joined := rfl
@[simp] theorem State.tally_failed (s : State) (e n : Nat) : (s.tally e n).failed = s.failed := rfl
@[simp] theorem State.tally_isolated (s : State) (e n : Nat) : (s.tally e n).isolated = s.isolated := rfl
@[simp] theorem State.tally_power (s : State) (e n : Nat) : (s.tally e n).power = s.power := rfl
@[simp] theorem State.tally_starter (s : State) (e n : Nat) : (s.tally e n).starter = s.starter := rfl
@[simp] theorem State.tally_fab (s : State) (e n : Nat) : (s.tally e n).fab = s.fab := rfl
@[simp] theorem State.tally_ops (s : State) (e n : Nat) : (s.tally e n).ops = s.ops := rfl
@[simp] theorem State.tally_pumps (s : State) (e n : Nat) : (s.tally e n).pumps = s.pumps := rfl
@[simp] theorem State.tally_munits (s : State) (e n : Nat) : (s.tally e n).munits = s.munits := rfl
@[simp] theorem State.tally_pools (s : State) (e n : Nat) : (s.tally e n).pools = s.pools := rfl
@[simp] theorem State.tally_regions (s : State) (e n : Nat) : (s.tally e n).regions = s.regions := rfl
@[simp] theorem State.tally_past (s : State) (e n : Nat) : (s.tally e n).past = s.past := rfl
@[simp] theorem State.tally_rootq (s : State) (e n : Nat) : (s.tally e n).rootq = s.rootq := rfl
@[simp] theorem State.tally_portals (s : State) (e n : Nat) : (s.tally e n).portals = s.portals := rfl
@[simp] theorem State.tally_irqs (s : State) (e n : Nat) : (s.tally e n).irqs = s.irqs := rfl
@[simp] theorem State.tally_cmds (s : State) (e n : Nat) : (s.tally e n).cmds = s.cmds := rfl
@[simp] theorem State.tally_revoked (s : State) (e n : Nat) : (s.tally e n).revoked = s.revoked := rfl
@[simp] theorem State.tally_pasidBase (s : State) (e n : Nat) : (s.tally e n).pasidBase = s.pasidBase := rfl
@[simp] theorem State.tally_frames (s : State) (e n : Nat) : (s.tally e n).frames = s.frames := rfl
@[simp] theorem State.tally_tlb (s : State) (e n : Nat) : (s.tally e n).tlb = s.tlb := rfl
@[simp] theorem State.tally_copies (s : State) (e n : Nat) : (s.tally e n).copies = s.copies := rfl
@[simp] theorem State.tally_redirect (s : State) (e n : Nat) : (s.tally e n).redirect = s.redirect := rfl
@[simp] theorem State.tally_retired (s : State) (e n : Nat) : (s.tally e n).retired = s.retired := rfl
@[simp] theorem State.tally_stackErrs (s : State) (e n : Nat) : (s.tally e n).stackErrs = s.stackErrs := rfl
@[simp] theorem State.tally_counters (s : State) (e n : Nat) : (s.tally e n).counters = s.counters := rfl
@[simp] theorem State.tally_traces (s : State) (e n : Nat) : (s.tally e n).traces = s.traces := rfl
@[simp] theorem State.tally_core_id (s : State) (e n : Nat) : (s.tally e n).core.id = s.core.id := rfl
@[simp] theorem State.tally_core_cur (s : State) (e n : Nat) : (s.tally e n).core.cur = s.core.cur := rfl
@[simp] theorem State.tally_core_curCtx (s : State) (e n : Nat) : (s.tally e n).core.curCtx = s.core.curCtx := rfl
@[simp] theorem State.tally_core_stall (s : State) (e n : Nat) : (s.tally e n).core.stall = s.core.stall := rfl
@[simp] theorem State.tally_core_lone (s : State) (e n : Nat) : (s.tally e n).core.lone = s.core.lone := rfl
@[simp] theorem State.tally_core_cBeats (s : State) (e n : Nat) : (s.tally e n).core.cBeats = s.core.cBeats := rfl
@[simp] theorem State.tally_core_took (s : State) (e n : Nat) : (s.tally e n).core.took = s.core.took := rfl
@[simp] theorem State.tally_core_running (s : State) (e n : Nat) : (s.tally e n).core.running = s.core.running := rfl
@[simp] theorem State.tally_core_switch (s : State) (e n : Nat) : (s.tally e n).core.switch = s.core.switch := rfl
@[simp] theorem State.tally_core_evaluate (s : State) (e n : Nat) : (s.tally e n).core.evaluate = s.core.evaluate := rfl
@[simp] theorem State.tally_core_lastCtx (s : State) (e n : Nat) : (s.tally e n).core.lastCtx = s.core.lastCtx := rfl
@[simp] theorem State.tally_core_cyc (s : State) (e n : Nat) : (s.tally e n).core.cyc = s.core.cyc := rfl
@[simp] theorem State.tally_core_ran (s : State) (e n : Nat) : (s.tally e n).core.ran = s.core.ran := rfl
@[simp] theorem State.tally_core_vecFree (s : State) (e n : Nat) : (s.tally e n).core.vecFree = s.core.vecFree := rfl
@[simp] theorem State.tally_core_beats (s : State) (e n : Nat) : (s.tally e n).core.beats = s.core.beats := rfl
@[simp] theorem State.tally_core_mq (s : State) (e n : Nat) : (s.tally e n).core.mq = s.core.mq := rfl
@[simp] theorem State.tally_core_gone (s : State) (e n : Nat) : (s.tally e n).core.gone = s.core.gone := rfl
@[simp] theorem State.tally_core_share (s : State) (e n : Nat) : (s.tally e n).core.share = s.core.share := rfl
@[simp] theorem State.tally_core_shareClr (s : State) (e n : Nat) : (s.tally e n).core.shareClr = s.core.shareClr := rfl
@[simp] theorem State.tally_core_inj (s : State) (e n : Nat) : (s.tally e n).core.inj = s.core.inj := rfl
@[simp] theorem State.tally_core_brk (s : State) (e n : Nat) : (s.tally e n).core.brk = s.core.brk := rfl
@[simp] theorem State.tally_core_wpt (s : State) (e n : Nat) : (s.tally e n).core.wpt = s.core.wpt := rfl
@[simp] theorem State.tally_core_trace (s : State) (e n : Nat) : (s.tally e n).core.trace = s.core.trace := rfl

@[simp] theorem State.tally_cx_live (s : State) (e n : Nat) : (s.tally e n).cx.live = s.cx.live := by simp [State.tally, Ctx.tally]
@[simp] theorem State.tally_cx_wp (s : State) (e n : Nat) : (s.tally e n).cx.wp = s.cx.wp := by simp [State.tally, Ctx.tally]
@[simp] theorem State.tally_cx_pc (s : State) (e n : Nat) : (s.tally e n).cx.pc = s.cx.pc := by simp [State.tally, Ctx.tally]
@[simp] theorem State.tally_cx_dly (s : State) (e n : Nat) : (s.tally e n).cx.dly = s.cx.dly := by simp [State.tally, Ctx.tally]
@[simp] theorem State.tally_cx_outc (s : State) (e n : Nat) : (s.tally e n).cx.outc = s.cx.outc := by simp [State.tally, Ctx.tally]
@[simp] theorem State.tally_cx_xfer (s : State) (e n : Nat) : (s.tally e n).cx.xfer = s.cx.xfer := by simp [State.tally, Ctx.tally]
@[simp] theorem State.tally_cx_prv (s : State) (e n : Nat) : (s.tally e n).cx.prv = s.cx.prv := by simp [State.tally, Ctx.tally]
@[simp] theorem State.tally_cx_fpc (s : State) (e n : Nat) : (s.tally e n).cx.fpc = s.cx.fpc := by simp [State.tally, Ctx.tally]
@[simp] theorem State.tally_cx_fps (s : State) (e n : Nat) : (s.tally e n).cx.fps = s.cx.fps := by simp [State.tally, Ctx.tally]
@[simp] theorem State.tally_cx_e8ov (s : State) (e n : Nat) : (s.tally e n).cx.e8ov = s.cx.e8ov := by simp [State.tally, Ctx.tally]
@[simp] theorem State.tally_cx_rpa (s : State) (e n : Nat) : (s.tally e n).cx.rpa = s.cx.rpa := by simp [State.tally, Ctx.tally]
@[simp] theorem State.tally_cx_rpc (s : State) (e n : Nat) : (s.tally e n).cx.rpc = s.cx.rpc := by simp [State.tally, Ctx.tally]
@[simp] theorem State.tally_cx_rep (s : State) (e n : Nat) : (s.tally e n).cx.rep = s.cx.rep := by simp [State.tally, Ctx.tally]
@[simp] theorem State.tally_cx_repT (s : State) (e n : Nat) : (s.tally e n).cx.repT = s.cx.repT := by simp [State.tally, Ctx.tally]
@[simp] theorem State.tally_cx_entry (s : State) (e n : Nat) : (s.tally e n).cx.entry = s.cx.entry := by simp [State.tally, Ctx.tally]
@[simp] theorem State.tally_cx_liveIn (s : State) (e n : Nat) : (s.tally e n).cx.liveIn = s.cx.liveIn := by simp [State.tally, Ctx.tally]
@[simp] theorem State.tally_cx_count (s : State) (e n : Nat) : (s.tally e n).cx.count = s.cx.count := by simp [State.tally, Ctx.tally]
@[simp] theorem State.tally_cx_atEntry (s : State) (e n : Nat) : (s.tally e n).cx.atEntry = s.cx.atEntry := by simp [State.tally, Ctx.tally]
@[simp] theorem State.tally_cx_bnd (s : State) (e n : Nat) : (s.tally e n).cx.bnd = s.cx.bnd := by simp [State.tally, Ctx.tally]
@[simp] theorem State.tally_cx_dist (s : State) (e n : Nat) : (s.tally e n).cx.dist = s.cx.dist := by simp [State.tally, Ctx.tally]
@[simp] theorem State.tally_cx_seq (s : State) (e n : Nat) : (s.tally e n).cx.seq = s.cx.seq := by simp [State.tally, Ctx.tally]
@[simp] theorem State.tally_cx_pend (s : State) (e n : Nat) : (s.tally e n).cx.pend = s.cx.pend := by simp [State.tally, Ctx.tally]
@[simp] theorem State.tally_cx_ready (s : State) (e n : Nat) : (s.tally e n).cx.ready = s.cx.ready := by simp [State.tally, Ctx.tally]
@[simp] theorem State.tally_cx_locFree (s : State) (e n : Nat) : (s.tally e n).cx.locFree = s.cx.locFree := by simp [State.tally, Ctx.tally]
@[simp] theorem State.tally_cx_wait (s : State) (e n : Nat) : (s.tally e n).cx.wait = s.cx.wait := by simp [State.tally, Ctx.tally]
@[simp] theorem State.tally_cx_fence (s : State) (e n : Nat) : (s.tally e n).cx.fence = s.cx.fence := by simp [State.tally, Ctx.tally]
@[simp] theorem State.tally_cx_held (s : State) (e n : Nat) : (s.tally e n).cx.held = s.cx.held := by simp [State.tally, Ctx.tally]
@[simp] theorem State.tally_cx_cap (s : State) (e n : Nat) : (s.tally e n).cx.cap = s.cx.cap := by simp [State.tally, Ctx.tally]
@[simp] theorem State.tally_cx_relHeld (s : State) (e n : Nat) : (s.tally e n).cx.relHeld = s.cx.relHeld := by simp [State.tally, Ctx.tally]
@[simp] theorem State.tally_cx_settle (s : State) (e n : Nat) : (s.tally e n).cx.settle = s.cx.settle := by simp [State.tally, Ctx.tally]
@[simp] theorem State.tally_cx_after (s : State) (e n : Nat) : (s.tally e n).cx.after = s.cx.after := by simp [State.tally, Ctx.tally]
@[simp] theorem State.tally_cx_stop (s : State) (e n : Nat) : (s.tally e n).cx.stop = s.cx.stop := by simp [State.tally, Ctx.tally]
@[simp] theorem State.tally_cx_stopped (s : State) (e n : Nat) : (s.tally e n).cx.stopped = s.cx.stopped := by simp [State.tally, Ctx.tally]
@[simp] theorem State.tally_cx_haltMark (s : State) (e n : Nat) : (s.tally e n).cx.haltMark = s.cx.haltMark := by simp [State.tally, Ctx.tally]
@[simp] theorem State.tally_cx_unvec (s : State) (e n : Nat) : (s.tally e n).cx.unvec = s.cx.unvec := by simp [State.tally, Ctx.tally]
@[simp] theorem State.tally_cx_mc0 (s : State) (e n : Nat) : (s.tally e n).cx.mc0 = s.cx.mc0 := by simp [State.tally, Ctx.tally]
@[simp] theorem State.tally_cx_spill (s : State) (e n : Nat) : (s.tally e n).cx.spill = s.cx.spill := by simp [State.tally, Ctx.tally]
@[simp] theorem State.tally_cx_stepping (s : State) (e n : Nat) : (s.tally e n).cx.stepping = s.cx.stepping := by simp [State.tally, Ctx.tally]

/-! ## pendR -/

@[simp] theorem State.pendR_rest (s : State) (sl : SlotId) (r : Result) (l : Nat) : (s.pendR sl r l).rest = s.rest := rfl
@[simp] theorem State.pendR_todo (s : State) (sl : SlotId) (r : Result) (l : Nat) : (s.pendR sl r l).todo = s.todo := rfl
@[simp] theorem State.pendR_mem (s : State) (sl : SlotId) (r : Result) (l : Nat) : (s.pendR sl r l).mem = s.mem := rfl
@[simp] theorem State.pendR_pois (s : State) (sl : SlotId) (r : Result) (l : Nat) : (s.pendR sl r l).pois = s.pois := rfl
@[simp] theorem State.pendR_tags (s : State) (sl : SlotId) (r : Result) (l : Nat) : (s.pendR sl r l).tags = s.tags := rfl
@[simp] theorem State.pendR_time (s : State) (sl : SlotId) (r : Result) (l : Nat) : (s.pendR sl r l).time = s.time := rfl
@[simp] theorem State.pendR_fcyc (s : State) (sl : SlotId) (r : Result) (l : Nat) : (s.pendR sl r l).fcyc = s.fcyc := rfl
@[simp] theorem State.pendR_tickDone (s : State) (sl : SlotId) (r : Result) (l : Nat) : (s.pendR sl r l).tickDone = s.tickDone := rfl
@[simp] theorem State.pendR_pace (s : State) (sl : SlotId) (r : Result) (l : Nat) : (s.pendR sl r l).pace = s.pace := rfl
@[simp] theorem State.pendR_draws (s : State) (sl : SlotId) (r : Result) (l : Nat) : (s.pendR sl r l).draws = s.draws := rfl
@[simp] theorem State.pendR_nextId (s : State) (sl : SlotId) (r : Result) (l : Nat) : (s.pendR sl r l).nextId = s.nextId := rfl
@[simp] theorem State.pendR_queue (s : State) (sl : SlotId) (r : Result) (l : Nat) : (s.pendR sl r l).queue = s.queue := rfl
@[simp] theorem State.pendR_sent (s : State) (sl : SlotId) (r : Result) (l : Nat) : (s.pendR sl r l).sent = s.sent := rfl
@[simp] theorem State.pendR_modId (s : State) (sl : SlotId) (r : Result) (l : Nat) : (s.pendR sl r l).modId = s.modId := rfl
@[simp] theorem State.pendR_config (s : State) (sl : SlotId) (r : Result) (l : Nat) : (s.pendR sl r l).config = s.config := rfl
@[simp] theorem State.pendR_valid (s : State) (sl : SlotId) (r : Result) (l : Nat) : (s.pendR sl r l).valid = s.valid := rfl
@[simp] theorem State.pendR_deviceKey (s : State) (sl : SlotId) (r : Result) (l : Nat) : (s.pendR sl r l).deviceKey = s.deviceKey := rfl
@[simp] theorem State.pendR_fullService (s : State) (sl : SlotId) (r : Result) (l : Nat) : (s.pendR sl r l).fullService = s.fullService := rfl
@[simp] theorem State.pendR_hush (s : State) (sl : SlotId) (r : Result) (l : Nat) : (s.pendR sl r l).hush = s.hush := rfl
@[simp] theorem State.pendR_calibrated (s : State) (sl : SlotId) (r : Result) (l : Nat) : (s.pendR sl r l).calibrated = s.calibrated := rfl
@[simp] theorem State.pendR_joined (s : State) (sl : SlotId) (r : Result) (l : Nat) : (s.pendR sl r l).joined = s.joined := rfl
@[simp] theorem State.pendR_failed (s : State) (sl : SlotId) (r : Result) (l : Nat) : (s.pendR sl r l).failed = s.failed := rfl
@[simp] theorem State.pendR_isolated (s : State) (sl : SlotId) (r : Result) (l : Nat) : (s.pendR sl r l).isolated = s.isolated := rfl
@[simp] theorem State.pendR_power (s : State) (sl : SlotId) (r : Result) (l : Nat) : (s.pendR sl r l).power = s.power := rfl
@[simp] theorem State.pendR_starter (s : State) (sl : SlotId) (r : Result) (l : Nat) : (s.pendR sl r l).starter = s.starter := rfl
@[simp] theorem State.pendR_fab (s : State) (sl : SlotId) (r : Result) (l : Nat) : (s.pendR sl r l).fab = s.fab := rfl
@[simp] theorem State.pendR_ops (s : State) (sl : SlotId) (r : Result) (l : Nat) : (s.pendR sl r l).ops = s.ops := rfl
@[simp] theorem State.pendR_pumps (s : State) (sl : SlotId) (r : Result) (l : Nat) : (s.pendR sl r l).pumps = s.pumps := rfl
@[simp] theorem State.pendR_munits (s : State) (sl : SlotId) (r : Result) (l : Nat) : (s.pendR sl r l).munits = s.munits := rfl
@[simp] theorem State.pendR_pools (s : State) (sl : SlotId) (r : Result) (l : Nat) : (s.pendR sl r l).pools = s.pools := rfl
@[simp] theorem State.pendR_regions (s : State) (sl : SlotId) (r : Result) (l : Nat) : (s.pendR sl r l).regions = s.regions := rfl
@[simp] theorem State.pendR_past (s : State) (sl : SlotId) (r : Result) (l : Nat) : (s.pendR sl r l).past = s.past := rfl
@[simp] theorem State.pendR_rootq (s : State) (sl : SlotId) (r : Result) (l : Nat) : (s.pendR sl r l).rootq = s.rootq := rfl
@[simp] theorem State.pendR_portals (s : State) (sl : SlotId) (r : Result) (l : Nat) : (s.pendR sl r l).portals = s.portals := rfl
@[simp] theorem State.pendR_irqs (s : State) (sl : SlotId) (r : Result) (l : Nat) : (s.pendR sl r l).irqs = s.irqs := rfl
@[simp] theorem State.pendR_cmds (s : State) (sl : SlotId) (r : Result) (l : Nat) : (s.pendR sl r l).cmds = s.cmds := rfl
@[simp] theorem State.pendR_revoked (s : State) (sl : SlotId) (r : Result) (l : Nat) : (s.pendR sl r l).revoked = s.revoked := rfl
@[simp] theorem State.pendR_pasidBase (s : State) (sl : SlotId) (r : Result) (l : Nat) : (s.pendR sl r l).pasidBase = s.pasidBase := rfl
@[simp] theorem State.pendR_frames (s : State) (sl : SlotId) (r : Result) (l : Nat) : (s.pendR sl r l).frames = s.frames := rfl
@[simp] theorem State.pendR_tlb (s : State) (sl : SlotId) (r : Result) (l : Nat) : (s.pendR sl r l).tlb = s.tlb := rfl
@[simp] theorem State.pendR_copies (s : State) (sl : SlotId) (r : Result) (l : Nat) : (s.pendR sl r l).copies = s.copies := rfl
@[simp] theorem State.pendR_redirect (s : State) (sl : SlotId) (r : Result) (l : Nat) : (s.pendR sl r l).redirect = s.redirect := rfl
@[simp] theorem State.pendR_retired (s : State) (sl : SlotId) (r : Result) (l : Nat) : (s.pendR sl r l).retired = s.retired := rfl
@[simp] theorem State.pendR_stackErrs (s : State) (sl : SlotId) (r : Result) (l : Nat) : (s.pendR sl r l).stackErrs = s.stackErrs := rfl
@[simp] theorem State.pendR_counters (s : State) (sl : SlotId) (r : Result) (l : Nat) : (s.pendR sl r l).counters = s.counters := rfl
@[simp] theorem State.pendR_traces (s : State) (sl : SlotId) (r : Result) (l : Nat) : (s.pendR sl r l).traces = s.traces := rfl
@[simp] theorem State.pendR_core_id (s : State) (sl : SlotId) (r : Result) (l : Nat) : (s.pendR sl r l).core.id = s.core.id := rfl
@[simp] theorem State.pendR_core_cur (s : State) (sl : SlotId) (r : Result) (l : Nat) : (s.pendR sl r l).core.cur = s.core.cur := rfl
@[simp] theorem State.pendR_core_curCtx (s : State) (sl : SlotId) (r : Result) (l : Nat) : (s.pendR sl r l).core.curCtx = s.core.curCtx := rfl
@[simp] theorem State.pendR_core_stall (s : State) (sl : SlotId) (r : Result) (l : Nat) : (s.pendR sl r l).core.stall = s.core.stall := rfl
@[simp] theorem State.pendR_core_lone (s : State) (sl : SlotId) (r : Result) (l : Nat) : (s.pendR sl r l).core.lone = s.core.lone := rfl
@[simp] theorem State.pendR_core_cBeats (s : State) (sl : SlotId) (r : Result) (l : Nat) : (s.pendR sl r l).core.cBeats = s.core.cBeats := rfl
@[simp] theorem State.pendR_core_took (s : State) (sl : SlotId) (r : Result) (l : Nat) : (s.pendR sl r l).core.took = s.core.took := rfl
@[simp] theorem State.pendR_core_running (s : State) (sl : SlotId) (r : Result) (l : Nat) : (s.pendR sl r l).core.running = s.core.running := rfl
@[simp] theorem State.pendR_core_switch (s : State) (sl : SlotId) (r : Result) (l : Nat) : (s.pendR sl r l).core.switch = s.core.switch := rfl
@[simp] theorem State.pendR_core_evaluate (s : State) (sl : SlotId) (r : Result) (l : Nat) : (s.pendR sl r l).core.evaluate = s.core.evaluate := rfl
@[simp] theorem State.pendR_core_lastCtx (s : State) (sl : SlotId) (r : Result) (l : Nat) : (s.pendR sl r l).core.lastCtx = s.core.lastCtx := rfl
@[simp] theorem State.pendR_core_cyc (s : State) (sl : SlotId) (r : Result) (l : Nat) : (s.pendR sl r l).core.cyc = s.core.cyc := rfl
@[simp] theorem State.pendR_core_ran (s : State) (sl : SlotId) (r : Result) (l : Nat) : (s.pendR sl r l).core.ran = s.core.ran := rfl
@[simp] theorem State.pendR_core_vecFree (s : State) (sl : SlotId) (r : Result) (l : Nat) : (s.pendR sl r l).core.vecFree = s.core.vecFree := rfl
@[simp] theorem State.pendR_core_beats (s : State) (sl : SlotId) (r : Result) (l : Nat) : (s.pendR sl r l).core.beats = s.core.beats := rfl
@[simp] theorem State.pendR_core_mq (s : State) (sl : SlotId) (r : Result) (l : Nat) : (s.pendR sl r l).core.mq = s.core.mq := rfl
@[simp] theorem State.pendR_core_gone (s : State) (sl : SlotId) (r : Result) (l : Nat) : (s.pendR sl r l).core.gone = s.core.gone := rfl
@[simp] theorem State.pendR_core_share (s : State) (sl : SlotId) (r : Result) (l : Nat) : (s.pendR sl r l).core.share = s.core.share := rfl
@[simp] theorem State.pendR_core_shareClr (s : State) (sl : SlotId) (r : Result) (l : Nat) : (s.pendR sl r l).core.shareClr = s.core.shareClr := rfl
@[simp] theorem State.pendR_core_inj (s : State) (sl : SlotId) (r : Result) (l : Nat) : (s.pendR sl r l).core.inj = s.core.inj := rfl
@[simp] theorem State.pendR_core_brk (s : State) (sl : SlotId) (r : Result) (l : Nat) : (s.pendR sl r l).core.brk = s.core.brk := rfl
@[simp] theorem State.pendR_core_wpt (s : State) (sl : SlotId) (r : Result) (l : Nat) : (s.pendR sl r l).core.wpt = s.core.wpt := rfl
@[simp] theorem State.pendR_core_trace (s : State) (sl : SlotId) (r : Result) (l : Nat) : (s.pendR sl r l).core.trace = s.core.trace := rfl

@[simp] theorem State.pendR_cx_live (s : State) (sl : SlotId) (r : Result) (l : Nat) : (s.pendR sl r l).cx.live = s.cx.live := by simp [State.pendR]
@[simp] theorem State.pendR_cx_wp (s : State) (sl : SlotId) (r : Result) (l : Nat) : (s.pendR sl r l).cx.wp = s.cx.wp := by simp [State.pendR]
@[simp] theorem State.pendR_cx_pc (s : State) (sl : SlotId) (r : Result) (l : Nat) : (s.pendR sl r l).cx.pc = s.cx.pc := by simp [State.pendR]
@[simp] theorem State.pendR_cx_dly (s : State) (sl : SlotId) (r : Result) (l : Nat) : (s.pendR sl r l).cx.dly = s.cx.dly := by simp [State.pendR]
@[simp] theorem State.pendR_cx_outc (s : State) (sl : SlotId) (r : Result) (l : Nat) : (s.pendR sl r l).cx.outc = s.cx.outc := by simp [State.pendR]
@[simp] theorem State.pendR_cx_xfer (s : State) (sl : SlotId) (r : Result) (l : Nat) : (s.pendR sl r l).cx.xfer = s.cx.xfer := by simp [State.pendR]
@[simp] theorem State.pendR_cx_prv (s : State) (sl : SlotId) (r : Result) (l : Nat) : (s.pendR sl r l).cx.prv = s.cx.prv := by simp [State.pendR]
@[simp] theorem State.pendR_cx_fpc (s : State) (sl : SlotId) (r : Result) (l : Nat) : (s.pendR sl r l).cx.fpc = s.cx.fpc := by simp [State.pendR]
@[simp] theorem State.pendR_cx_fps (s : State) (sl : SlotId) (r : Result) (l : Nat) : (s.pendR sl r l).cx.fps = s.cx.fps := by simp [State.pendR]
@[simp] theorem State.pendR_cx_e8ov (s : State) (sl : SlotId) (r : Result) (l : Nat) : (s.pendR sl r l).cx.e8ov = s.cx.e8ov := by simp [State.pendR]
@[simp] theorem State.pendR_cx_rpa (s : State) (sl : SlotId) (r : Result) (l : Nat) : (s.pendR sl r l).cx.rpa = s.cx.rpa := by simp [State.pendR]
@[simp] theorem State.pendR_cx_rpc (s : State) (sl : SlotId) (r : Result) (l : Nat) : (s.pendR sl r l).cx.rpc = s.cx.rpc := by simp [State.pendR]
@[simp] theorem State.pendR_cx_rep (s : State) (sl : SlotId) (r : Result) (l : Nat) : (s.pendR sl r l).cx.rep = s.cx.rep := by simp [State.pendR]
@[simp] theorem State.pendR_cx_repT (s : State) (sl : SlotId) (r : Result) (l : Nat) : (s.pendR sl r l).cx.repT = s.cx.repT := by simp [State.pendR]
@[simp] theorem State.pendR_cx_entry (s : State) (sl : SlotId) (r : Result) (l : Nat) : (s.pendR sl r l).cx.entry = s.cx.entry := by simp [State.pendR]
@[simp] theorem State.pendR_cx_liveIn (s : State) (sl : SlotId) (r : Result) (l : Nat) : (s.pendR sl r l).cx.liveIn = s.cx.liveIn := by simp [State.pendR]
@[simp] theorem State.pendR_cx_count (s : State) (sl : SlotId) (r : Result) (l : Nat) : (s.pendR sl r l).cx.count = s.cx.count := by simp [State.pendR]
@[simp] theorem State.pendR_cx_atEntry (s : State) (sl : SlotId) (r : Result) (l : Nat) : (s.pendR sl r l).cx.atEntry = s.cx.atEntry := by simp [State.pendR]
@[simp] theorem State.pendR_cx_bnd (s : State) (sl : SlotId) (r : Result) (l : Nat) : (s.pendR sl r l).cx.bnd = s.cx.bnd := by simp [State.pendR]
@[simp] theorem State.pendR_cx_dist (s : State) (sl : SlotId) (r : Result) (l : Nat) : (s.pendR sl r l).cx.dist = s.cx.dist := by simp [State.pendR]
@[simp] theorem State.pendR_cx_seq (s : State) (sl : SlotId) (r : Result) (l : Nat) : (s.pendR sl r l).cx.seq = s.cx.seq := by simp [State.pendR]
@[simp] theorem State.pendR_cx_ready (s : State) (sl : SlotId) (r : Result) (l : Nat) : (s.pendR sl r l).cx.ready = s.cx.ready := by simp [State.pendR]
@[simp] theorem State.pendR_cx_locFree (s : State) (sl : SlotId) (r : Result) (l : Nat) : (s.pendR sl r l).cx.locFree = s.cx.locFree := by simp [State.pendR]
@[simp] theorem State.pendR_cx_wait (s : State) (sl : SlotId) (r : Result) (l : Nat) : (s.pendR sl r l).cx.wait = s.cx.wait := by simp [State.pendR]
@[simp] theorem State.pendR_cx_fence (s : State) (sl : SlotId) (r : Result) (l : Nat) : (s.pendR sl r l).cx.fence = s.cx.fence := by simp [State.pendR]
@[simp] theorem State.pendR_cx_held (s : State) (sl : SlotId) (r : Result) (l : Nat) : (s.pendR sl r l).cx.held = s.cx.held := by simp [State.pendR]
@[simp] theorem State.pendR_cx_cap (s : State) (sl : SlotId) (r : Result) (l : Nat) : (s.pendR sl r l).cx.cap = s.cx.cap := by simp [State.pendR]
@[simp] theorem State.pendR_cx_relHeld (s : State) (sl : SlotId) (r : Result) (l : Nat) : (s.pendR sl r l).cx.relHeld = s.cx.relHeld := by simp [State.pendR]
@[simp] theorem State.pendR_cx_settle (s : State) (sl : SlotId) (r : Result) (l : Nat) : (s.pendR sl r l).cx.settle = s.cx.settle := by simp [State.pendR]
@[simp] theorem State.pendR_cx_after (s : State) (sl : SlotId) (r : Result) (l : Nat) : (s.pendR sl r l).cx.after = s.cx.after := by simp [State.pendR]
@[simp] theorem State.pendR_cx_stop (s : State) (sl : SlotId) (r : Result) (l : Nat) : (s.pendR sl r l).cx.stop = s.cx.stop := by simp [State.pendR]
@[simp] theorem State.pendR_cx_stopped (s : State) (sl : SlotId) (r : Result) (l : Nat) : (s.pendR sl r l).cx.stopped = s.cx.stopped := by simp [State.pendR]
@[simp] theorem State.pendR_cx_haltMark (s : State) (sl : SlotId) (r : Result) (l : Nat) : (s.pendR sl r l).cx.haltMark = s.cx.haltMark := by simp [State.pendR]
@[simp] theorem State.pendR_cx_unvec (s : State) (sl : SlotId) (r : Result) (l : Nat) : (s.pendR sl r l).cx.unvec = s.cx.unvec := by simp [State.pendR]
@[simp] theorem State.pendR_cx_mc0 (s : State) (sl : SlotId) (r : Result) (l : Nat) : (s.pendR sl r l).cx.mc0 = s.cx.mc0 := by simp [State.pendR]
@[simp] theorem State.pendR_cx_spill (s : State) (sl : SlotId) (r : Result) (l : Nat) : (s.pendR sl r l).cx.spill = s.cx.spill := by simp [State.pendR]
@[simp] theorem State.pendR_cx_ctr (s : State) (sl : SlotId) (r : Result) (l : Nat) : (s.pendR sl r l).cx.ctr = s.cx.ctr := by simp [State.pendR]
@[simp] theorem State.pendR_cx_stepping (s : State) (sl : SlotId) (r : Result) (l : Nat) : (s.pendR sl r l).cx.stepping = s.cx.stepping := by simp [State.pendR]

end Sys2Proof.Machine
end

