-- ==== Sys2Proof/Laws/Keeps.lean ====
section
/-! SUPPORT. Laws.Keeps: every operation keeps the canonical form of the byte memory (R3): the shared operations of a core. -/

namespace Sys2Proof.Machine
set_option Elab.async false
set_option linter.all false

def KeepsMem (o : Out) : Prop := match o with | .next t => t.mem.wf = true | _ => True
@[simp] theorem keepsMem_next (t : State) : KeepsMem (.next t) = (t.mem.wf = true) := rfl
@[simp] theorem keepsMem_fault (t : Fault) : KeepsMem (.fault t) = True := rfl
@[simp] theorem keepsMem_refused (t : Refusal) : KeepsMem (.refused t) = True := rfl
@[simp] theorem memWf_ite (c : Prop) [Decidable c] (a b : State) (ha : a.mem.wf = true) (hb : b.mem.wf = true) :
    (if c then a else b).mem.wf = true := by split <;> assumption
@[simp] theorem keepsMem_ite (c : Prop) [Decidable c] (a b : Out) (ha : KeepsMem a)
    (hb : KeepsMem b) : KeepsMem (if c then a else b) := by split <;> assumption
@[simp] theorem memWf_write {m : Mem} (h : m.wf = true) (a : Nat) (bs : List Byte) : (m.write a bs).wf = true := Mem.write_wf h a bs
@[simp] theorem memWf_foldl {α : Type} (f : State → α → State) (hf : ∀ s a, s.mem.wf = true → (f s a).mem.wf = true) (l : List α) (s : State)
    (h : s.mem.wf = true) : (l.foldl f s).mem.wf = true := by induction l generalizing s with | nil => exact h | cons a l ih => exact ih _ (hf _ _ h)

theorem mem_foldl {α : Type} (f : State → α → State) (hf : ∀ s a, (f s a).mem = s.mem) (l : List α) (s : State) : (l.foldl f s).mem = s.mem := by
  induction l generalizing s with
  | nil => rfl
  | cons a l ih => rw [List.foldl_cons, ih, hf]

/-! ## Mem -/

@[simp] theorem State.put_keeps (s : State) (a n v : Nat) (bad : Nat) (hs : s.mem.wf = true) : (State.put s a n v bad).mem.wf = true := by
  rw [State.put]
  simp (maxDischargeDepth := 12) [hs]
@[simp] theorem State.putGood_keeps (s : State) (a n v : Nat) (hs : s.mem.wf = true) : (State.putGood s a n v).mem.wf = true := by
  rw [State.putGood]
  simp (maxDischargeDepth := 12) [hs]
@[simp] theorem State.setTag_keeps (s : State) (co : CoreId) (off : Nat) (t : BitVec 16) (hs : s.mem.wf = true) :
    (State.setTag s co off t).mem.wf = true := by
  rw [State.setTag]
  simp (maxDischargeDepth := 12) [hs]
@[simp] theorem State.setTags_keeps (s : State) (co : CoreId) (off n : Nat) (t : BitVec 16) (hs : s.mem.wf = true) :
    (State.setTags s co off n t).mem.wf = true := by
  rw [State.setTags]
  (try dsimp only); (repeat' split) <;> simp_all (maxDischargeDepth := 12)
@[simp] theorem State.bump_keeps (s : State) (slab idx : Nat) (hs : s.mem.wf = true) : (State.bump s slab idx).mem.wf = true := by
  rw [State.bump]
  simp (maxDischargeDepth := 12) [hs]
@[simp] theorem State.draw_keeps (s : State) (hs : s.mem.wf = true) : (State.draw s).mem.wf = true := by
  rw [State.draw]
  simp (maxDischargeDepth := 12) [hs]
@[simp] theorem State.putCore_keeps (s : State) (c : Core) (hs : s.mem.wf = true) : (State.putCore s c).mem.wf = true := by
  rw [State.putCore]
  simp (maxDischargeDepth := 12) [hs]
@[simp] theorem State.modSlice_keeps (s : State) (co : CoreId) (i : Fin 16) (f : Slice → Slice) (hs : s.mem.wf = true) :
    (State.modSlice s co i f).mem.wf = true := by
  rw [State.modSlice]
  simp (maxDischargeDepth := 12) [hs]
@[simp] theorem State.mapCores_keeps (s : State) (f : Core → Core) (hs : s.mem.wf = true) : (State.mapCores s f).mem.wf = true := by
  rw [State.mapCores]
  simp (maxDischargeDepth := 12) [hs]

/-! ## Translate -/

@[simp] theorem State.setAcDt_keeps (s : State) (w : Walked) (acc : Nat) (hs : s.mem.wf = true) : (State.setAcDt s w acc).mem.wf = true := by
  rw [State.setAcDt]
  simp (maxDischargeDepth := 12) [hs]
@[simp] theorem State.setCoreTable_keeps (s : State) (co : CoreId) (l : List (BitVec 64)) (hs : s.mem.wf = true) :
    (State.setCoreTable s co l).mem.wf = true := by
  rw [State.setCoreTable]
  simp (maxDischargeDepth := 12) [hs]
@[simp] theorem State.setUnitTable_keeps (s : State) (cls did : Nat) (l : List (BitVec 64)) (hs : s.mem.wf = true) :
    (State.setUnitTable s cls did l).mem.wf = true := by
  rw [State.setUnitTable]
  simp (maxDischargeDepth := 12) [hs]
@[simp] theorem State.dropCopies_mem (s : State) (slab key n : Nat) : (s.dropCopies slab key n).mem = s.mem := rfl
@[simp] theorem State.keepLine_mem (s : State) (st : Nat × Nat) (l : Nat) : (s.keepLine st l).mem = s.mem := by rw [State.keepLine]
@[simp] theorem State.keepCopies_mem (s : State) (st : Nat × Nat) (key n : Nat) : (s.keepCopies st key n).mem = s.mem := by
  rw [State.keepCopies]
  exact mem_foldl (fun s i => s.keepLine st (key / 64 + i)) (fun s a => State.keepLine_mem s st _) _ _
@[simp] theorem State.dropCopies_keeps (s : State) (slab : Nat) (key n : Nat) (hs : s.mem.wf = true) :
    (State.dropCopies s slab key n).mem.wf = true := by
  simpa using hs
@[simp] theorem State.keepCopies_keeps (s : State) (st : Nat × Nat) (key n : Nat) (hs : s.mem.wf = true) :
    (State.keepCopies s st key n).mem.wf = true := by
  simpa using hs
theorem Walk.bind_ok {α β : Type} {x : Walk α} {f : α → Walk β} {b : β} (h : x.bind f = .ok b) : ∃ a, x = .ok a ∧ f a = .ok b := by
  cases x with
  | ok a => exact ⟨a, rfl, h⟩
  | bad c => simp [Walk.bind] at h
/-! ## Packet -/

@[simp] theorem State.launchFlight_keeps (s : State) (row col inp : Nat) (p : Packet) (rq : Option Ask) (due : Nat) (closes : Option Nat) (iss : Option Issuer) (hs : s.mem.wf = true) : (State.launchFlight s row col inp p rq due closes iss).mem.wf = true := by
  rw [State.launchFlight]
  simp (maxDischargeDepth := 12) [hs]
@[simp] theorem State.sendFrom_keeps (s : State) (row col inp : Nat) (p : Packet) (hs : s.mem.wf = true) :
    (State.sendFrom s row col inp p).mem.wf = true := by
  rw [State.sendFrom]
  (try dsimp only); (repeat' split) <;> simp (maxDischargeDepth := 12) [hs]
@[simp] theorem State.putMask_keeps (s : State) (key mask v : Nat) (hs : s.mem.wf = true) : (State.putMask s key mask v).mem.wf = true := by
  rw [State.putMask]
  (try dsimp only); (repeat' split) <;> simp_all (maxDischargeDepth := 12)
@[simp] theorem State.performStore_keeps (s : State) (key : Nat) (a : Access) (hs : s.mem.wf = true) : (State.performStore s key a).mem.wf = true :=
    by
  rw [State.performStore]
  (try dsimp only); (repeat' split) <;> simp (maxDischargeDepth := 12) [hs]
@[simp] theorem State.toStage_keeps (s : State) (o : Op) (st : Stage) (hs : s.mem.wf = true) : (State.toStage s o st).mem.wf = true := by
  rw [State.toStage]
  simp (maxDischargeDepth := 12) [hs]
@[simp] theorem State.atReplica_keeps (s : State) (key h : Nat) (a : Access) (hs : s.mem.wf = true) : (State.atReplica s key h a).mem.wf = true :=
    by
  rw [State.atReplica]
  simp (maxDischargeDepth := 12) [hs]
@[simp] theorem State.finishReplicas_keeps (s : State) (o : Op) (hs : s.mem.wf = true) : (State.finishReplicas s o).mem.wf = true := by
  unfold State.finishReplicas
  split
  · exact State.toStage_keeps _ _ _ (memWf_foldl _ (fun t h ht => State.atReplica_keeps t _ h _ ht) _ _ hs)
  · exact hs
@[simp] theorem State.flushReplicas_keeps (s : State) (f : Nat → Nat → Bool) (hs : s.mem.wf = true) : (State.flushReplicas s f).mem.wf = true := by
  rw [State.flushReplicas]
  exact memWf_foldl _ (fun t o ht => State.finishReplicas_keeps t o ht) _ _ hs
@[simp] theorem State.flushPage_keeps (s : State) (key : Nat) (hs : s.mem.wf = true) : (State.flushPage s key).mem.wf = true := by
  rw [State.flushPage]
  simp (maxDischargeDepth := 12) [hs]
@[simp] theorem State.flushOld_keeps (s : State) (hs : s.mem.wf = true) : (State.flushOld s).mem.wf = true := by
  rw [State.flushOld]
  simp (maxDischargeDepth := 12) [hs]
@[simp] theorem State.ctrlMark_keeps (s : State) (slab pasid root va acc : Nat) (hs : s.mem.wf = true) : (State.ctrlMark s slab pasid root va
    acc).mem.wf = true := by
  rw [State.ctrlMark]
  (try dsimp only); (repeat' split) <;> simp (maxDischargeDepth := 12) [hs]
theorem State.gread_keeps {s t : State} {b p r va n q : Nat} (h : s.gread b p r va n = .ok (t, q)) (hs : s.mem.wf = true) : t.mem.wf = true := by
  obtain ⟨w, -, h⟩ := Walk.bind_ok h
  dsimp only at h
  split at h
  · cases h; simp [hs]
  · split at h <;> cases h
    split <;> simp [hs]
theorem State.gwriteTo_keeps {s t : State} {h : Option (BitVec 12)} {b p r va n v : Nat} (hw : s.gwriteTo h b p r va n v = .ok t)
    (hs : s.mem.wf = true) : t.mem.wf = true := by
  obtain ⟨w, -, hw⟩ := Walk.bind_ok hw
  cases hw
  apply memWf_foldl
  · intro s a h; simp [h]
  · split
    · simp [hs]
    · split <;> simp [hs]
theorem State.gwrite_keeps {s t : State} {b p r va n v : Nat} (h : s.gwrite b p r va n v = .ok t) (hs : s.mem.wf = true) : t.mem.wf = true :=
  State.gwriteTo_keeps h hs
theorem State.gmodify_keeps {s t : State} {b p r va n : Nat} {f : Nat → Nat} (h : s.gmodify b p r va n f = .ok t) (hs : s.mem.wf = true) :
    t.mem.wf = true := by
  obtain ⟨w, -, h⟩ := Walk.bind_ok h
  exact State.gwrite_keeps h hs

/-! ## Ops -/

@[simp] theorem State.setSl_keeps (s : State) (x : Slice) (hs : s.mem.wf = true) : (State.setSl s x).mem.wf = true := by
  rw [State.setSl]
  simp (maxDischargeDepth := 12) [hs]
@[simp] theorem State.setCx_keeps (s : State) (c : Ctx) (hs : s.mem.wf = true) : (State.setCx s c).mem.wf = true := by
  rw [State.setCx]
  simp (maxDischargeDepth := 12) [hs]
@[simp] theorem State.focus_keeps (s : State) (i : Fin 16) (c : Fin 11) (hs : s.mem.wf = true) : (State.focus s i c).mem.wf = true := by
  rw [State.focus]
  simp (maxDischargeDepth := 12) [hs]
@[simp] theorem State.onCore_keeps (s : State) (co : CoreId) (f : State → State) (hs : s.mem.wf = true)
    (hf : ∀ a0, a0.mem.wf = true → (f a0).mem.wf = true) : (State.onCore s co f).mem.wf = true := by
  rw [State.onCore]
  simp (maxDischargeDepth := 12) [hs, hf]
@[simp] theorem State.writeG_keeps (s : State) (r : GReg) (v : Word) (hs : s.mem.wf = true) : (State.writeG s r v).mem.wf = true := by
  rw [State.writeG]
  simp (maxDischargeDepth := 12) [hs]
@[simp] theorem State.writeV_keeps (s : State) (r : VReg) (v : VWord) (hs : s.mem.wf = true) : (State.writeV s r v).mem.wf = true := by
  rw [State.writeV]
  simp (maxDischargeDepth := 12) [hs]
@[simp] theorem State.pendR_keeps (s : State) (sl : SlotId) (r : Result) (l : Nat) (hs : s.mem.wf = true) : (State.pendR s sl r l).mem.wf = true := by
  rw [State.pendR]
  simp (maxDischargeDepth := 12) [hs]
@[simp] theorem State.pendG_keeps (s : State) (sl : SlotId) (r : GReg) (v : Word) (l : Nat) (hs : s.mem.wf = true) :
    (State.pendG s sl r v l).mem.wf = true := by
  rw [State.pendG]
  simp (maxDischargeDepth := 12) [hs]
@[simp] theorem State.pendV_keeps (s : State) (sl : SlotId) (r : VReg) (v : VWord) (l : Nat) (hs : s.mem.wf = true) :
    (State.pendV s sl r v l).mem.wf = true := by
  rw [State.pendV]
  simp (maxDischargeDepth := 12) [hs]
@[simp] theorem State.pendF_keeps (s : State) (sl : SlotId) (f : BitVec 6) (l : Nat) (hs : s.mem.wf = true) :
    (State.pendF s sl f l).mem.wf = true := by
  rw [State.pendF]
  simp (maxDischargeDepth := 12) [hs]
@[simp] theorem State.landOne_keeps (s : State) (r : Result) (hs : s.mem.wf = true) : (State.landOne s r).mem.wf = true := by
  unfold State.landOne
  split <;> simp (maxDischargeDepth := 12) [hs]
@[simp] theorem State.landOnto_keeps (s : State) (p : Pending) (hs : s.mem.wf = true) : (State.landOnto s p).mem.wf = true := by
  rw [State.landOnto]
  (try dsimp only); (repeat' split) <;> simp (maxDischargeDepth := 12) [hs]
@[simp] theorem State.landList_keeps (s : State) (ps : List Pending) (hs : s.mem.wf = true) : (State.landList s ps).mem.wf = true := by
  rw [State.landList]
  exact memWf_foldl _ (fun s a h => State.landOnto_keeps s a h) _ _ hs
@[simp] theorem State.landSome_keeps (s : State) (q : Pending → Bool) (hs : s.mem.wf = true) : (State.landSome s q).mem.wf = true := by
  rw [State.landSome]
  simp (maxDischargeDepth := 12) [hs]
@[simp] theorem State.landDue_keeps (s : State) (hs : s.mem.wf = true) : (State.landDue s).mem.wf = true := by
  rw [State.landDue]
  simp (maxDischargeDepth := 12) [hs]
@[simp] theorem State.landRead_keeps (s : State) (rs : List VReg) (hs : s.mem.wf = true) : (State.landRead s rs).mem.wf = true := by
  rw [State.landRead]
  simp (maxDischargeDepth := 12) [hs]
@[simp] theorem State.landAll_keeps (s : State) (hs : s.mem.wf = true) : (State.landAll s).mem.wf = true := by
  rw [State.landAll]
  simp (maxDischargeDepth := 12) [hs]
@[simp] theorem State.landFree_keeps (s : State) (p : Pending) (hs : s.mem.wf = true) : (State.landFree s p).mem.wf = true := by
  unfold State.landFree
  split
  · (repeat' split) <;> simp (maxDischargeDepth := 12) [hs]
  · exact hs
@[simp] theorem State.landEarly_keeps (s : State) (hs : s.mem.wf = true) : (State.landEarly s).mem.wf = true := by
  rw [State.landEarly]
  exact memWf_foldl _ (fun t p ht => State.landFree_keeps t p ht) _ _ hs
@[simp] theorem State.landCycle_keeps (s : State) (hs : s.mem.wf = true) : (State.landCycle s).mem.wf = true := by
  rw [State.landCycle]
  simp (maxDischargeDepth := 12) [hs]
@[simp] theorem State.tally_keeps (s : State) (e n : Nat) (hs : s.mem.wf = true) : (State.tally s e n).mem.wf = true := by
  rw [State.tally]
  simp (maxDischargeDepth := 12) [hs]
@[simp] theorem State.putWs_keeps (s : State) (off : Nat) (v : Nat) (hs : s.mem.wf = true) : (State.putWs s off v).mem.wf = true := by
  rw [State.putWs]
  simp (maxDischargeDepth := 12) [hs]
@[simp] theorem State.storeCtrs_keeps (s : State) (hs : s.mem.wf = true) : (State.storeCtrs s).mem.wf = true := by
  rw [State.storeCtrs]
  (try dsimp only); (repeat' split) <;> simp_all (maxDischargeDepth := 12)
@[simp] theorem State.loadCtrs_keeps (s : State) (hs : s.mem.wf = true) : (State.loadCtrs s).mem.wf = true := by
  rw [State.loadCtrs]
  simp (maxDischargeDepth := 12) [hs]
@[simp] theorem State.storeStatus_keeps (s : State) (hs : s.mem.wf = true) : (State.storeStatus s).mem.wf = true := by
  rw [State.storeStatus]
  simp (maxDischargeDepth := 12) [hs]
@[simp] theorem State.loadStatus_keeps (s : State) (hs : s.mem.wf = true) : (State.loadStatus s).mem.wf = true := by
  rw [State.loadStatus]
  simp (maxDischargeDepth := 12) [hs]
@[simp] theorem State.rootRecord_keeps (s : State) (r : BitVec 512) (hs : s.mem.wf = true) : (State.rootRecord s r).mem.wf = true := by
  rw [State.rootRecord]
  simp (maxDischargeDepth := 12) [hs]
@[simp] theorem State.rootAccess_keeps (s : State) (cause : Nat) (va : Word) (rgn : BitVec 12) (hs : s.mem.wf = true) :
    (State.rootAccess s cause va rgn).mem.wf = true := by
  rw [State.rootAccess]
  simp (maxDischargeDepth := 12) [hs]
@[simp] theorem State.notifyHandler_keeps (s : State) (e : Eff) (rgn : BitVec 12) (slab tail : Nat) (hs : s.mem.wf = true) :
    (State.notifyHandler s e rgn slab tail).mem.wf = true := by
  rw [State.notifyHandler]
  exact State.sendFrom_keeps _ _ _ _ _ hs
@[simp] theorem State.queueWrite_keeps (s : State) (e : Eff) (rgn : BitVec 12) (slab va n v : Nat) (hs : s.mem.wf = true) :
    (State.queueWrite s e rgn slab va n v).mem.wf = true := by
  rw [State.queueWrite]
  cases h : s.gwrite slab e.fpasid.toNat e.fs2f.toNat va n v with
  | ok t => exact State.gwrite_keeps h hs
  | bad c => exact State.rootAccess_keeps _ _ _ _ (State.ctrlMark_keeps _ _ _ _ _ _ hs)
@[simp] theorem State.queueLost_keeps (s : State) (e : Eff) (rgn : BitVec 12) (slab rcb lost : Nat) (hs : s.mem.wf = true) :
    (State.queueLost s e rgn slab rcb lost).mem.wf = true := by
  rw [State.queueLost]
  simp (maxDischargeDepth := 12) [hs]
@[simp] theorem State.queueAdvance_keeps (s : State) (e : Eff) (rgn : BitVec 12) (slab : Nat) (rcb : Word) (tail : Nat) (hs : s.mem.wf = true) :
    (State.queueAdvance s e rgn slab rcb tail).mem.wf = true := by
  rw [State.queueAdvance]
  cases h : s.gwrite slab e.fpasid.toNat e.fs2f.toNat (rcb.toNat + 128) 4 (tail + 1) with
  | ok t => exact State.notifyHandler_keeps _ _ _ _ _ (State.gwrite_keeps h hs)
  | bad c => exact State.rootAccess_keeps _ _ _ _ (State.ctrlMark_keeps _ _ _ _ _ _ hs)
@[simp] theorem State.queuePut_keeps (s : State) (e : Eff) (rgn : BitVec 12) (slab : Nat) (r : BitVec 512) (rcb : Word) (tail : Nat)
    (hs : s.mem.wf = true) : (State.queuePut s e rgn slab r rcb tail).mem.wf = true := by
  rw [State.queuePut]
  cases h : s.gwrite slab e.fpasid.toNat e.fs2f.toNat (e.fqbase.toNat + 64 * (tail % 2 ^ e.fqlog.toNat)) 64 r.toNat with
  | ok t => simp only [h]; exact State.queueAdvance_keeps _ _ _ _ _ _ (State.gwrite_keeps h hs)
  | bad c => simp only [h]; exact State.rootAccess_keeps _ _ _ _ (State.ctrlMark_keeps _ _ _ _ _ _ hs)
@[simp] theorem State.faultRecord_keeps (s : State) (e : Eff) (rgn : BitVec 12) (slab : Nat) (r : BitVec 512) (hs : s.mem.wf = true) :
    (State.faultRecord s e rgn slab r).mem.wf = true := by
  simp only [State.faultRecord]
  cases e.fdom with
  | none => exact State.rootRecord_keeps _ _ hs
  | some rcb =>
    cases h : s.gread slab e.fpasid.toNat e.fs2f.toNat (rcb.toNat + 128) 16 with
    | bad c => simp only [h]; exact State.rootAccess_keeps _ _ _ _ (State.ctrlMark_keeps _ _ _ _ _ _ hs)
    | ok x =>
      simp only [h]
      split
      · exact State.queueLost_keeps _ _ _ _ _ _ (State.gread_keeps h hs)
      · exact State.queuePut_keeps _ _ _ _ _ _ _ (State.gread_keeps h hs)
@[simp] theorem State.sliceRecord_keeps (s : State) (x : Slice) (cause pc npc addr d0 d1 : Word) (co : CoreId) (i : Nat) (ctx : Nat)
    (hs : s.mem.wf = true) : (State.sliceRecord s x cause pc npc addr d0 d1 co i ctx).mem.wf = true := by
  rw [State.sliceRecord]
  simp (maxDischargeDepth := 12) [hs]
@[simp] theorem State.boundary_keeps (s : State) (hs : s.mem.wf = true) : (State.boundary s).mem.wf = true := by
  rw [State.boundary]
  simp (maxDischargeDepth := 12) [hs]
@[simp] theorem State.stopHere_keeps (s : State) (hs : s.mem.wf = true) : (State.stopHere s).mem.wf = true := by
  rw [State.stopHere]
  simp (maxDischargeDepth := 12) [hs]
@[simp] theorem State.stopAtEntry_keeps (s : State) (hs : s.mem.wf = true) : (State.stopAtEntry s).mem.wf = true := by
  rw [State.stopAtEntry]
  simp (maxDischargeDepth := 12) [hs]
@[simp] theorem State.dropProgress_keeps (s : State) (hs : s.mem.wf = true) : (State.dropProgress s).mem.wf = true := by
  rw [State.dropProgress]
  split <;> simp (maxDischargeDepth := 12) [hs]
@[simp] theorem State.eachCtx_keeps (s : State) (i : Fin 16) (f : State → State) (hs : s.mem.wf = true)
    (hf : ∀ a0, a0.mem.wf = true → (f a0).mem.wf = true) : (State.eachCtx s i f).mem.wf = true := by
  rw [State.eachCtx]
  (try dsimp only); (repeat' split) <;> simp_all (maxDischargeDepth := 12)
@[simp] theorem State.writeRecord_keeps (s : State) (i : Info) (prv : Bool) (pc npc : Word) (d : Bool) (hs : s.mem.wf = true) :
    (State.writeRecord s i prv pc npc d).mem.wf = true := by
  rw [State.writeRecord]
  simp (maxDischargeDepth := 12) [hs]
@[simp] theorem State.dropOwn_keeps (s : State) (hs : s.mem.wf = true) : (State.dropOwn s).mem.wf = true := by
  rw [State.dropOwn]
  simp (maxDischargeDepth := 12) [hs]
@[simp] theorem State.haltRecord_keeps (s : State) (cause : Word) (addr : Option Word) (d0 : Word) (hs : s.mem.wf = true) : (State.haltRecord s
    cause addr d0).mem.wf = true := by
  rw [State.haltRecord]
  simp (maxDischargeDepth := 12) [hs]
@[simp] theorem State.settles_keeps (s : State) (k : Settle) (hs : s.mem.wf = true) : (State.settles s k).mem.wf = true := by
  rw [State.settles]
  simp (maxDischargeDepth := 12) [hs]
@[simp] theorem State.haltNow_keeps (s : State) (cause : Word) (addr : Option Word) (d0 : Word) (hs : s.mem.wf = true) :
    (State.haltNow s cause addr d0).mem.wf = true := by
  rw [State.haltNow]
  simp (maxDischargeDepth := 12) [hs]
@[simp] theorem State.haltMarked_keeps (s : State) (hs : s.mem.wf = true) : (State.haltMarked s).mem.wf = true := by
  rw [State.haltMarked]
  simp (maxDischargeDepth := 12) [hs]
@[simp] theorem State.haltCtx_keeps (s : State) (hs : s.mem.wf = true) : (State.haltCtx s).mem.wf = true := by
  rw [State.haltCtx]
  simp (maxDischargeDepth := 12) [hs]
@[simp] theorem State.giveUp_keeps (s : State) (hs : s.mem.wf = true) : (State.giveUp s).mem.wf = true := by
  rw [State.giveUp]
  simp (maxDischargeDepth := 12) [hs]
@[simp] theorem State.tellStop_keeps (s : State) (hs : s.mem.wf = true) : (State.tellStop s).mem.wf = true := by
  rw [State.tellStop]
  (try dsimp only); (repeat' split) <;> simp (maxDischargeDepth := 12) [hs]
@[simp] theorem State.tellStopAll_keeps (s : State) (i : Fin 16) (hs : s.mem.wf = true) : (State.tellStopAll s i).mem.wf = true := by
  rw [State.tellStopAll]
  (try dsimp only); (repeat' split) <;> simp_all (maxDischargeDepth := 12)
@[simp] theorem State.sliceStops_keeps (s : State) (st : SliceSt) (hs : s.mem.wf = true) : (State.sliceStops s st).mem.wf = true := by
  rw [State.sliceStops]
  simp (maxDischargeDepth := 12) [hs]
@[simp] theorem State.haltSlice_keeps (s : State) (i : Info) (st : SliceSt) (hs : s.mem.wf = true) : (State.haltSlice s i st).mem.wf = true := by
  rw [State.haltSlice]
  (try dsimp only); (repeat' split) <;> simp_all (maxDischargeDepth := 12)
@[simp] theorem State.enterTrap_keeps (s : State) (i : Info) (prv : Bool) (pc npc : Word) (d : Bool) (hs : s.mem.wf = true) : (State.enterTrap s i
    prv pc npc d).mem.wf = true := by
  rw [State.enterTrap]
  simp (maxDischargeDepth := 12) [hs]
@[simp] theorem State.takeTrapIn_keeps (s : State) (late : Nat) (i : Info) (prv : Bool) (pc npc : Word) (d : Bool) (hs : s.mem.wf = true) :
    (State.takeTrapIn s late i prv pc npc d).mem.wf = true := by
  rw [State.takeTrapIn]
  simp (maxDischargeDepth := 12) [hs]
@[simp] theorem State.takeTrap_keeps (s : State) (i : Info) (prv : Bool) (pc npc : Word) (d : Bool) (hs : s.mem.wf = true) :
    (State.takeTrap s i prv pc npc d).mem.wf = true := by
  rw [State.takeTrap]
  simp (maxDischargeDepth := 12) [hs]
@[simp] theorem State.trapIn_keeps (s : State) (late : Nat) (i : Info) (hs : s.mem.wf = true) : (State.trapIn s late i).mem.wf = true := by
  rw [State.trapIn]
  simp (maxDischargeDepth := 12) [hs]
@[simp] theorem State.trapNow_keeps (s : State) (i : Info) (hs : s.mem.wf = true) : (State.trapNow s i).mem.wf = true := by
  rw [State.trapNow]
  simp (maxDischargeDepth := 12) [hs]
@[simp] theorem State.returnFrom_keeps (s : State) (hs : s.mem.wf = true) : (State.returnFrom s).mem.wf = true := by
  rw [State.returnFrom]
  simp (maxDischargeDepth := 12) [hs]
@[simp] theorem State.trapAt_keeps (s : State) (t : Trap) (hs : s.mem.wf = true) : (State.trapAt s t).mem.wf = true := by
  rw [State.trapAt]
  simp (maxDischargeDepth := 12) [hs]
@[simp] theorem State.guarded_keeps (s : State) (ts : List Trap) (eff : State → State) (hs : s.mem.wf = true)
    (heff : ∀ a0, a0.mem.wf = true → (eff a0).mem.wf = true) : (State.guarded s ts eff).mem.wf = true := by
  rw [State.guarded]
  split <;> simp (maxDischargeDepth := 12) [hs, heff]

/-! ## Operands -/

@[simp] theorem State.watch_keeps (s : State) (a n : Nat) (wr : Bool) (hs : s.mem.wf = true) : (State.watch s a n wr).mem.wf = true := by
  rw [State.watch]
  (try dsimp only); (repeat' split) <;> simp (maxDischargeDepth := 12) [hs]

end Sys2Proof.Machine
end

