-- ==== Sys2Proof/Laws/KeepsCore.lean ====
section
/-! SUPPORT. Laws.KeepsCore: every operation keeps the canonical form of the byte memory (R3): what the instructions of a core do. -/

namespace Sys2Proof.Machine
set_option Elab.async false
set_option linter.all false

def PollKeepsMem : Poll → Prop | .waiting => True | .done t => t.mem.wf = true | .trapped t => t.mem.wf = true
@[simp] theorem pollKeepsMem_waiting : PollKeepsMem .waiting = True := rfl
@[simp] theorem pollKeepsMem_done (t : State) : PollKeepsMem (.done t) = (t.mem.wf = true) := rfl
@[simp] theorem pollKeepsMem_trapped (t : State) : PollKeepsMem (.trapped t) = (t.mem.wf = true) := rfl
@[simp] theorem pollKeepsMem_ite (c : Prop) [Decidable c] (a b : Poll) (ha : PollKeepsMem a)
    (hb : PollKeepsMem b) : PollKeepsMem (if c then a else b) := by split <;> assumption

/-! ## Scalar -/

@[simp] theorem State.alu_keeps (s : State) (rd : GReg) (v : Word) (l : Nat) (hs : s.mem.wf = true) : KeepsMem (State.alu s rd v l) := by
  rw [State.alu]
  simp (maxDischargeDepth := 12) [hs]
@[simp] theorem execNopA_keeps (s : State) (hs : s.mem.wf = true) : KeepsMem (execNopA s) := by
  rw [execNopA]
  simp (maxDischargeDepth := 12) [hs]
@[simp] theorem execHintA_keeps (_v : BitVec 28) (s : State) (hs : s.mem.wf = true) : KeepsMem (execHintA _v s) := by
  rw [execHintA]
  simp (maxDischargeDepth := 12) [hs]
@[simp] theorem execAdd_keeps (rd ra rb : GReg) (w32 : Bool) (s : State) (hs : s.mem.wf = true) : KeepsMem (execAdd rd ra rb w32 s) := by
  rw [execAdd]
  simp (maxDischargeDepth := 12) [hs]
@[simp] theorem execSub_keeps (rd ra rb : GReg) (w32 : Bool) (s : State) (hs : s.mem.wf = true) : KeepsMem (execSub rd ra rb w32 s) := by
  rw [execSub]
  simp (maxDischargeDepth := 12) [hs]
@[simp] theorem execAnd_keeps (rd ra rb : GReg) (s : State) (hs : s.mem.wf = true) : KeepsMem (execAnd rd ra rb s) := by
  rw [execAnd]
  simp (maxDischargeDepth := 12) [hs]
@[simp] theorem execOr_keeps (rd ra rb : GReg) (s : State) (hs : s.mem.wf = true) : KeepsMem (execOr rd ra rb s) := by
  rw [execOr]
  simp (maxDischargeDepth := 12) [hs]
@[simp] theorem execXor_keeps (rd ra rb : GReg) (s : State) (hs : s.mem.wf = true) : KeepsMem (execXor rd ra rb s) := by
  rw [execXor]
  simp (maxDischargeDepth := 12) [hs]
@[simp] theorem execAndn_keeps (rd ra rb : GReg) (s : State) (hs : s.mem.wf = true) : KeepsMem (execAndn rd ra rb s) := by
  rw [execAndn]
  simp (maxDischargeDepth := 12) [hs]
@[simp] theorem execOrn_keeps (rd ra rb : GReg) (s : State) (hs : s.mem.wf = true) : KeepsMem (execOrn rd ra rb s) := by
  rw [execOrn]
  simp (maxDischargeDepth := 12) [hs]
@[simp] theorem execShl_keeps (rd ra rb : GReg) (w32 : Bool) (s : State) (hs : s.mem.wf = true) : KeepsMem (execShl rd ra rb w32 s) := by
  rw [execShl]
  simp (maxDischargeDepth := 12) [hs]
@[simp] theorem execShr_keeps (rd ra rb : GReg) (w32 : Bool) (s : State) (hs : s.mem.wf = true) : KeepsMem (execShr rd ra rb w32 s) := by
  rw [execShr]
  simp (maxDischargeDepth := 12) [hs]
@[simp] theorem execSar_keeps (rd ra rb : GReg) (w32 : Bool) (s : State) (hs : s.mem.wf = true) : KeepsMem (execSar rd ra rb w32 s) := by
  rw [execSar]
  simp (maxDischargeDepth := 12) [hs]
@[simp] theorem execRol_keeps (rd ra rb : GReg) (w32 : Bool) (s : State) (hs : s.mem.wf = true) : KeepsMem (execRol rd ra rb w32 s) := by
  rw [execRol]
  simp (maxDischargeDepth := 12) [hs]
@[simp] theorem execMin_keeps (rd ra rb : GReg) (s : State) (hs : s.mem.wf = true) : KeepsMem (execMin rd ra rb s) := by
  rw [execMin]
  simp (maxDischargeDepth := 12) [hs]
@[simp] theorem execMax_keeps (rd ra rb : GReg) (s : State) (hs : s.mem.wf = true) : KeepsMem (execMax rd ra rb s) := by
  rw [execMax]
  simp (maxDischargeDepth := 12) [hs]
@[simp] theorem execMinn_keeps (rd ra rb : GReg) (s : State) (hs : s.mem.wf = true) : KeepsMem (execMinn rd ra rb s) := by
  rw [execMinn]
  simp (maxDischargeDepth := 12) [hs]
@[simp] theorem execMaxn_keeps (rd ra rb : GReg) (s : State) (hs : s.mem.wf = true) : KeepsMem (execMaxn rd ra rb s) := by
  rw [execMaxn]
  simp (maxDischargeDepth := 12) [hs]
@[simp] theorem execSeq_keeps (rd ra rb : GReg) (s : State) (hs : s.mem.wf = true) : KeepsMem (execSeq rd ra rb s) := by
  rw [execSeq]
  simp (maxDischargeDepth := 12) [hs]
@[simp] theorem execSne_keeps (rd ra rb : GReg) (s : State) (hs : s.mem.wf = true) : KeepsMem (execSne rd ra rb s) := by
  rw [execSne]
  simp (maxDischargeDepth := 12) [hs]
@[simp] theorem execSlt_keeps (rd ra rb : GReg) (s : State) (hs : s.mem.wf = true) : KeepsMem (execSlt rd ra rb s) := by
  rw [execSlt]
  simp (maxDischargeDepth := 12) [hs]
@[simp] theorem execSltn_keeps (rd ra rb : GReg) (s : State) (hs : s.mem.wf = true) : KeepsMem (execSltn rd ra rb s) := by
  rw [execSltn]
  simp (maxDischargeDepth := 12) [hs]
@[simp] theorem execSle_keeps (rd ra rb : GReg) (s : State) (hs : s.mem.wf = true) : KeepsMem (execSle rd ra rb s) := by
  rw [execSle]
  simp (maxDischargeDepth := 12) [hs]
@[simp] theorem execSlen_keeps (rd ra rb : GReg) (s : State) (hs : s.mem.wf = true) : KeepsMem (execSlen rd ra rb s) := by
  rw [execSlen]
  simp (maxDischargeDepth := 12) [hs]
@[simp] theorem execBget_keeps (rd ra rb : GReg) (s : State) (hs : s.mem.wf = true) : KeepsMem (execBget rd ra rb s) := by
  rw [execBget]
  simp (maxDischargeDepth := 12) [hs]
@[simp] theorem execBset_keeps (rd ra rb : GReg) (s : State) (hs : s.mem.wf = true) : KeepsMem (execBset rd ra rb s) := by
  rw [execBset]
  simp (maxDischargeDepth := 12) [hs]
@[simp] theorem execBclr_keeps (rd ra rb : GReg) (s : State) (hs : s.mem.wf = true) : KeepsMem (execBclr rd ra rb s) := by
  rw [execBclr]
  simp (maxDischargeDepth := 12) [hs]
@[simp] theorem execBflip_keeps (rd ra rb : GReg) (s : State) (hs : s.mem.wf = true) : KeepsMem (execBflip rd ra rb s) := by
  rw [execBflip]
  simp (maxDischargeDepth := 12) [hs]
@[simp] theorem execPopc_keeps (rd ra : GReg) (s : State) (hs : s.mem.wf = true) : KeepsMem (execPopc rd ra s) := by
  rw [execPopc]
  simp (maxDischargeDepth := 12) [hs]
@[simp] theorem execClz_keeps (rd ra : GReg) (s : State) (hs : s.mem.wf = true) : KeepsMem (execClz rd ra s) := by
  rw [execClz]
  simp (maxDischargeDepth := 12) [hs]
@[simp] theorem execCtz_keeps (rd ra : GReg) (s : State) (hs : s.mem.wf = true) : KeepsMem (execCtz rd ra s) := by
  rw [execCtz]
  simp (maxDischargeDepth := 12) [hs]
@[simp] theorem execRev_keeps (rd ra : GReg) (s : State) (hs : s.mem.wf = true) : KeepsMem (execRev rd ra s) := by
  rw [execRev]
  simp (maxDischargeDepth := 12) [hs]
@[simp] theorem execMov_keeps (rd ra : GReg) (s : State) (hs : s.mem.wf = true) : KeepsMem (execMov rd ra s) := by
  rw [execMov]
  simp (maxDischargeDepth := 12) [hs]
@[simp] theorem execCmov_keeps (rd ra rb : GReg) (s : State) (hs : s.mem.wf = true) : KeepsMem (execCmov rd ra rb s) := by
  rw [execCmov]
  split <;> simp (maxDischargeDepth := 12) [hs]
@[simp] theorem execSext_keeps (rd ra : GReg) (wc : BitVec 2) (s : State) (hs : s.mem.wf = true) : KeepsMem (execSext rd ra wc s) := by
  rw [execSext]
  simp (maxDischargeDepth := 12) [hs]
@[simp] theorem execZext_keeps (rd ra : GReg) (wc : BitVec 2) (s : State) (hs : s.mem.wf = true) : KeepsMem (execZext rd ra wc s) := by
  rw [execZext]
  simp (maxDischargeDepth := 12) [hs]
@[simp] theorem execMul_keeps (rd ra rb : GReg) (w32 : Bool) (s : State) (hs : s.mem.wf = true) : KeepsMem (execMul rd ra rb w32 s) := by
  rw [execMul]
  simp (maxDischargeDepth := 12) [hs]
@[simp] theorem execMulh_keeps (rd ra rb : GReg) (w32 : Bool) (s : State) (hs : s.mem.wf = true) : KeepsMem (execMulh rd ra rb w32 s) := by
  rw [execMulh]
  simp (maxDischargeDepth := 12) [hs]
@[simp] theorem execMulhn_keeps (rd ra rb : GReg) (w32 : Bool) (s : State) (hs : s.mem.wf = true) : KeepsMem (execMulhn rd ra rb w32 s) := by
  rw [execMulhn]
  simp (maxDischargeDepth := 12) [hs]
@[simp] theorem execDiv_keeps (rd ra rb : GReg) (w32 : Bool) (s : State) (hs : s.mem.wf = true) : KeepsMem (execDiv rd ra rb w32 s) := by
  rw [execDiv]
  simp (maxDischargeDepth := 12) [hs]
@[simp] theorem execDivn_keeps (rd ra rb : GReg) (w32 : Bool) (s : State) (hs : s.mem.wf = true) : KeepsMem (execDivn rd ra rb w32 s) := by
  rw [execDivn]
  simp (maxDischargeDepth := 12) [hs]
@[simp] theorem execRem_keeps (rd ra rb : GReg) (w32 : Bool) (s : State) (hs : s.mem.wf = true) : KeepsMem (execRem rd ra rb w32 s) := by
  rw [execRem]
  simp (maxDischargeDepth := 12) [hs]
@[simp] theorem execRemn_keeps (rd ra rb : GReg) (w32 : Bool) (s : State) (hs : s.mem.wf = true) : KeepsMem (execRemn rd ra rb w32 s) := by
  rw [execRemn]
  simp (maxDischargeDepth := 12) [hs]
@[simp] theorem execAddi_keeps (rd ra : GReg) (imm : BitVec 16) (s : State) (hs : s.mem.wf = true) : KeepsMem (execAddi rd ra imm s) := by
  rw [execAddi]
  simp (maxDischargeDepth := 12) [hs]
@[simp] theorem execAndi_keeps (rd ra : GReg) (imm : BitVec 16) (s : State) (hs : s.mem.wf = true) : KeepsMem (execAndi rd ra imm s) := by
  rw [execAndi]
  simp (maxDischargeDepth := 12) [hs]
@[simp] theorem execOri_keeps (rd ra : GReg) (imm : BitVec 16) (s : State) (hs : s.mem.wf = true) : KeepsMem (execOri rd ra imm s) := by
  rw [execOri]
  simp (maxDischargeDepth := 12) [hs]
@[simp] theorem execXori_keeps (rd ra : GReg) (imm : BitVec 16) (s : State) (hs : s.mem.wf = true) : KeepsMem (execXori rd ra imm s) := by
  rw [execXori]
  simp (maxDischargeDepth := 12) [hs]
@[simp] theorem execSlti_keeps (rd ra : GReg) (imm : BitVec 16) (s : State) (hs : s.mem.wf = true) : KeepsMem (execSlti rd ra imm s) := by
  rw [execSlti]
  simp (maxDischargeDepth := 12) [hs]
@[simp] theorem execMovi_keeps (rd : GReg) (imm : BitVec 16) (s : State) (hs : s.mem.wf = true) : KeepsMem (execMovi rd imm s) := by
  rw [execMovi]
  simp (maxDischargeDepth := 12) [hs]
@[simp] theorem execMovhi_keeps (rd ra : GReg) (imm : BitVec 16) (s : State) (hs : s.mem.wf = true) : KeepsMem (execMovhi rd ra imm s) := by
  rw [execMovhi]
  simp (maxDischargeDepth := 12) [hs]
@[simp] theorem execBext_keeps (rd ra : GReg) (pos wd : BitVec 6) (s : State) (hs : s.mem.wf = true) : KeepsMem (execBext rd ra pos wd s) := by
  rw [execBext]
  simp (maxDischargeDepth := 12) [hs]
@[simp] theorem execBins_keeps (rd ra : GReg) (pos wd : BitVec 6) (s : State) (hs : s.mem.wf = true) : KeepsMem (execBins rd ra pos wd s) := by
  rw [execBins]
  simp (maxDischargeDepth := 12) [hs]
@[simp] theorem execShli_keeps (rd ra : GReg) (w32 : Bool) (amt : BitVec 6) (s : State)
    (hs : s.mem.wf = true) : KeepsMem (execShli rd ra w32 amt s) := by
  rw [execShli]
  simp (maxDischargeDepth := 12) [hs]
@[simp] theorem execShri_keeps (rd ra : GReg) (w32 : Bool) (amt : BitVec 6) (s : State)
    (hs : s.mem.wf = true) : KeepsMem (execShri rd ra w32 amt s) := by
  rw [execShri]
  simp (maxDischargeDepth := 12) [hs]
@[simp] theorem execSari_keeps (rd ra : GReg) (w32 : Bool) (amt : BitVec 6) (s : State)
    (hs : s.mem.wf = true) : KeepsMem (execSari rd ra w32 amt s) := by
  rw [execSari]
  simp (maxDischargeDepth := 12) [hs]
@[simp] theorem State.fpu_keeps (s : State) (rd : GReg) (v : Word) (f : FFlags) (l : Nat)
    (hs : s.mem.wf = true) : KeepsMem (State.fpu s rd v f l) := by
  rw [State.fpu]
  (try dsimp only); (repeat' split) <;> simp_all (maxDischargeDepth := 12)
@[simp] theorem State.fpuF_keeps (s : State) (rd : GReg) (r : Nat × FFlags) (l : Nat) (hs : s.mem.wf = true) : KeepsMem (State.fpuF s rd r l) := by
  rw [State.fpuF]
  simp (maxDischargeDepth := 12) [hs]
@[simp] theorem execFadd_keeps (rd ra rb : GReg) (t rm : BitVec 2) (s : State) (hs : s.mem.wf = true) : KeepsMem (execFadd rd ra rb t rm s) := by
  rw [execFadd]
  simp (maxDischargeDepth := 12) [hs]
@[simp] theorem execFsub_keeps (rd ra rb : GReg) (t rm : BitVec 2) (s : State) (hs : s.mem.wf = true) : KeepsMem (execFsub rd ra rb t rm s) := by
  rw [execFsub]
  simp (maxDischargeDepth := 12) [hs]
@[simp] theorem execFmul_keeps (rd ra rb : GReg) (t rm : BitVec 2) (s : State) (hs : s.mem.wf = true) : KeepsMem (execFmul rd ra rb t rm s) := by
  rw [execFmul]
  simp (maxDischargeDepth := 12) [hs]
@[simp] theorem execFma_keeps (rd ra rb : GReg) (t rm : BitVec 2) (s : State) (hs : s.mem.wf = true) : KeepsMem (execFma rd ra rb t rm s) := by
  rw [execFma]
  simp (maxDischargeDepth := 12) [hs]
@[simp] theorem execFms_keeps (rd ra rb : GReg) (t rm : BitVec 2) (s : State) (hs : s.mem.wf = true) : KeepsMem (execFms rd ra rb t rm s) := by
  rw [execFms]
  simp (maxDischargeDepth := 12) [hs]
@[simp] theorem execFnma_keeps (rd ra rb : GReg) (t rm : BitVec 2) (s : State) (hs : s.mem.wf = true) : KeepsMem (execFnma rd ra rb t rm s) := by
  rw [execFnma]
  simp (maxDischargeDepth := 12) [hs]
@[simp] theorem execFdiv_keeps (rd ra rb : GReg) (t rm : BitVec 2) (s : State) (hs : s.mem.wf = true) : KeepsMem (execFdiv rd ra rb t rm s) := by
  rw [execFdiv]
  simp (maxDischargeDepth := 12) [hs]
@[simp] theorem execFsqrt_keeps (rd ra : GReg) (t rm : BitVec 2) (s : State) (hs : s.mem.wf = true) : KeepsMem (execFsqrt rd ra t rm s) := by
  rw [execFsqrt]
  simp (maxDischargeDepth := 12) [hs]
@[simp] theorem execFrcp_keeps (rd ra : GReg) (t : BitVec 2) (s : State) (hs : s.mem.wf = true) : KeepsMem (execFrcp rd ra t s) := by
  rw [execFrcp]
  simp (maxDischargeDepth := 12) [hs]
@[simp] theorem execFrsq_keeps (rd ra : GReg) (t : BitVec 2) (s : State) (hs : s.mem.wf = true) : KeepsMem (execFrsq rd ra t s) := by
  rw [execFrsq]
  simp (maxDischargeDepth := 12) [hs]
@[simp] theorem execFmin_keeps (rd ra rb : GReg) (t : BitVec 2) (s : State) (hs : s.mem.wf = true) : KeepsMem (execFmin rd ra rb t s) := by
  rw [execFmin]
  simp (maxDischargeDepth := 12) [hs]
@[simp] theorem execFmax_keeps (rd ra rb : GReg) (t : BitVec 2) (s : State) (hs : s.mem.wf = true) : KeepsMem (execFmax rd ra rb t s) := by
  rw [execFmax]
  simp (maxDischargeDepth := 12) [hs]
@[simp] theorem execFabs_keeps (rd ra : GReg) (t : BitVec 2) (s : State) (hs : s.mem.wf = true) : KeepsMem (execFabs rd ra t s) := by
  rw [execFabs]
  simp (maxDischargeDepth := 12) [hs]
@[simp] theorem execFneg_keeps (rd ra : GReg) (t : BitVec 2) (s : State) (hs : s.mem.wf = true) : KeepsMem (execFneg rd ra t s) := by
  rw [execFneg]
  simp (maxDischargeDepth := 12) [hs]
@[simp] theorem execFcpsgn_keeps (rd ra rb : GReg) (t : BitVec 2) (s : State) (hs : s.mem.wf = true) : KeepsMem (execFcpsgn rd ra rb t s) := by
  rw [execFcpsgn]
  simp (maxDischargeDepth := 12) [hs]
@[simp] theorem execFclass_keeps (rd ra : GReg) (t : BitVec 2) (s : State) (hs : s.mem.wf = true) : KeepsMem (execFclass rd ra t s) := by
  rw [execFclass]
  simp (maxDischargeDepth := 12) [hs]
@[simp] theorem execFeq_keeps (rd ra rb : GReg) (t : BitVec 2) (s : State) (hs : s.mem.wf = true) : KeepsMem (execFeq rd ra rb t s) := by
  rw [execFeq]
  simp (maxDischargeDepth := 12) [hs]
@[simp] theorem execFlt_keeps (rd ra rb : GReg) (t : BitVec 2) (s : State) (hs : s.mem.wf = true) : KeepsMem (execFlt rd ra rb t s) := by
  rw [execFlt]
  simp (maxDischargeDepth := 12) [hs]
@[simp] theorem execFle_keeps (rd ra rb : GReg) (t : BitVec 2) (s : State) (hs : s.mem.wf = true) : KeepsMem (execFle rd ra rb t s) := by
  rw [execFle]
  simp (maxDischargeDepth := 12) [hs]
@[simp] theorem execFcvt_keeps (rd ra : GReg) (t rm ax : BitVec 2) (s : State) (hs : s.mem.wf = true) : KeepsMem (execFcvt rd ra t rm ax s) := by
  rw [execFcvt]
  simp (maxDischargeDepth := 12) [hs]
@[simp] theorem execFcvti_keeps (rd ra : GReg) (t rm ax : BitVec 2) (s : State) (hs : s.mem.wf = true) : KeepsMem (execFcvti rd ra t rm ax s) := by
  rw [execFcvti]
  simp (maxDischargeDepth := 12) [hs]
@[simp] theorem execFcvtf_keeps (rd ra : GReg) (t rm ax : BitVec 2) (s : State) (hs : s.mem.wf = true) : KeepsMem (execFcvtf rd ra t rm ax s) := by
  rw [execFcvtf]
  simp (maxDischargeDepth := 12) [hs]
@[simp] theorem execFexp_keeps (rd ra : GReg) (t : BitVec 2) (s : State) (hs : s.mem.wf = true) : KeepsMem (execFexp rd ra t s) := by
  rw [execFexp]
  simp (maxDischargeDepth := 12) [hs]
@[simp] theorem execFscl_keeps (rd ra rb : GReg) (t rm : BitVec 2) (s : State) (hs : s.mem.wf = true) : KeepsMem (execFscl rd ra rb t rm s) := by
  rw [execFscl]
  simp (maxDischargeDepth := 12) [hs]

/-! ## Vector -/

@[simp] theorem State.beats_keeps (s : State) (n : Nat) (hs : s.mem.wf = true) : (State.beats s n).mem.wf = true := by
  rw [State.beats]
  simp (maxDischargeDepth := 12) [hs]
@[simp] theorem State.vop_keeps (s : State) (rs : List Nat) (vd : VReg) (r : VWord × FFlags) (l beats : Nat)
    (hs : s.mem.wf = true) : KeepsMem (State.vop s rs vd r l beats) := by
  rw [State.vop]
  (try dsimp only); (repeat' split) <;> simp_all (maxDischargeDepth := 12)
@[simp] theorem State.vopG_keeps (s : State) (rs : List Nat) (gd : GReg) (v : Word) (l : Nat)
    (hs : s.mem.wf = true) : KeepsMem (State.vopG s rs gd v l) := by
  rw [State.vopG]
  (try dsimp only); (repeat' split) <;> simp_all (maxDischargeDepth := 12)
@[simp] theorem State.pendVs_keeps (s : State) (l : Nat) (rs : List (Nat × VWord)) (hs : s.mem.wf = true) : (s.pendVs l rs).mem.wf = true := by
  induction rs generalizing s with
  | nil => exact hs
  | cons r rs ih => exact ih _ (by simp [hs])
@[simp] theorem execVadd_keeps (vd va vb : VReg) (ty : BitVec 4) (s : State) (hs : s.mem.wf = true) : KeepsMem (execVadd vd va vb ty s) := by
  rw [execVadd]
  simp (maxDischargeDepth := 12) [hs]
@[simp] theorem execVsub_keeps (vd va vb : VReg) (ty : BitVec 4) (s : State) (hs : s.mem.wf = true) : KeepsMem (execVsub vd va vb ty s) := by
  rw [execVsub]
  simp (maxDischargeDepth := 12) [hs]
@[simp] theorem execVmul_keeps (vd va vb : VReg) (ty : BitVec 4) (s : State) (hs : s.mem.wf = true) : KeepsMem (execVmul vd va vb ty s) := by
  rw [execVmul]
  simp (maxDischargeDepth := 12) [hs]
@[simp] theorem execVmulh_keeps (vd va vb : VReg) (ty : BitVec 4) (s : State) (hs : s.mem.wf = true) : KeepsMem (execVmulh vd va vb ty s) := by
  rw [execVmulh]
  simp (maxDischargeDepth := 12) [hs]
@[simp] theorem execVfma_keeps (vd va vb : VReg) (ty : BitVec 4) (s : State) (hs : s.mem.wf = true) : KeepsMem (execVfma vd va vb ty s) := by
  rw [execVfma]
  simp (maxDischargeDepth := 12) [hs]
@[simp] theorem execVfms_keeps (vd va vb : VReg) (ty : BitVec 4) (s : State) (hs : s.mem.wf = true) : KeepsMem (execVfms vd va vb ty s) := by
  rw [execVfms]
  simp (maxDischargeDepth := 12) [hs]
@[simp] theorem execVmin_keeps (vd va vb : VReg) (ty : BitVec 4) (s : State) (hs : s.mem.wf = true) : KeepsMem (execVmin vd va vb ty s) := by
  rw [execVmin]
  simp (maxDischargeDepth := 12) [hs]
@[simp] theorem execVmax_keeps (vd va vb : VReg) (ty : BitVec 4) (s : State) (hs : s.mem.wf = true) : KeepsMem (execVmax vd va vb ty s) := by
  rw [execVmax]
  simp (maxDischargeDepth := 12) [hs]
@[simp] theorem execVabs_keeps (vd va : VReg) (ty : BitVec 4) (s : State) (hs : s.mem.wf = true) : KeepsMem (execVabs vd va ty s) := by
  rw [execVabs]
  simp (maxDischargeDepth := 12) [hs]
@[simp] theorem execVneg_keeps (vd va : VReg) (ty : BitVec 4) (s : State) (hs : s.mem.wf = true) : KeepsMem (execVneg vd va ty s) := by
  rw [execVneg]
  simp (maxDischargeDepth := 12) [hs]
@[simp] theorem execVand_keeps (vd va vb : VReg) (_ty : BitVec 4) (s : State) (hs : s.mem.wf = true) : KeepsMem (execVand vd va vb _ty s) := by
  rw [execVand]
  simp (maxDischargeDepth := 12) [hs]
@[simp] theorem execVor_keeps (vd va vb : VReg) (_ty : BitVec 4) (s : State) (hs : s.mem.wf = true) : KeepsMem (execVor vd va vb _ty s) := by
  rw [execVor]
  simp (maxDischargeDepth := 12) [hs]
@[simp] theorem execVxor_keeps (vd va vb : VReg) (_ty : BitVec 4) (s : State) (hs : s.mem.wf = true) : KeepsMem (execVxor vd va vb _ty s) := by
  rw [execVxor]
  simp (maxDischargeDepth := 12) [hs]
@[simp] theorem execVandn_keeps (vd va vb : VReg) (_ty : BitVec 4) (s : State) (hs : s.mem.wf = true) : KeepsMem (execVandn vd va vb _ty s) := by
  rw [execVandn]
  simp (maxDischargeDepth := 12) [hs]
@[simp] theorem execVshl_keeps (vd va vb : VReg) (ty : BitVec 4) (s : State) (hs : s.mem.wf = true) : KeepsMem (execVshl vd va vb ty s) := by
  rw [execVshl]
  simp (maxDischargeDepth := 12) [hs]
@[simp] theorem execVshr_keeps (vd va vb : VReg) (ty : BitVec 4) (s : State) (hs : s.mem.wf = true) : KeepsMem (execVshr vd va vb ty s) := by
  rw [execVshr]
  simp (maxDischargeDepth := 12) [hs]
@[simp] theorem execVsar_keeps (vd va vb : VReg) (ty : BitVec 4) (s : State) (hs : s.mem.wf = true) : KeepsMem (execVsar vd va vb ty s) := by
  rw [execVsar]
  simp (maxDischargeDepth := 12) [hs]
@[simp] theorem execVcmp_keeps (vd va vb : VReg) (ty : BitVec 4) (cc : BitVec 3) (s : State)
    (hs : s.mem.wf = true) : KeepsMem (execVcmp vd va vb ty cc s) := by
  rw [execVcmp]
  simp (maxDischargeDepth := 12) [hs]
@[simp] theorem execVsel_keeps (vd va vb : VReg) (ty : BitVec 4) (vm : VReg) (s : State)
    (hs : s.mem.wf = true) : KeepsMem (execVsel vd va vb ty vm s) := by
  rw [execVsel]
  simp (maxDischargeDepth := 12) [hs]
@[simp] theorem execVmand_keeps (vd va vb : VReg) (ty : BitVec 4) (s : State) (hs : s.mem.wf = true) : KeepsMem (execVmand vd va vb ty s) := by
  rw [execVmand]
  simp (maxDischargeDepth := 12) [hs]
@[simp] theorem execVmor_keeps (vd va vb : VReg) (ty : BitVec 4) (s : State) (hs : s.mem.wf = true) : KeepsMem (execVmor vd va vb ty s) := by
  rw [execVmor]
  simp (maxDischargeDepth := 12) [hs]
@[simp] theorem execVmnot_keeps (vd va : VReg) (ty : BitVec 4) (s : State) (hs : s.mem.wf = true) : KeepsMem (execVmnot vd va ty s) := by
  rw [execVmnot]
  simp (maxDischargeDepth := 12) [hs]
@[simp] theorem execVcvt_keeps (vd va : VReg) (ty src : BitVec 4) (s : State) (hs : s.mem.wf = true) : KeepsMem (execVcvt vd va ty src s) := by
  rw [execVcvt]
  (try dsimp only); (repeat' split) <;> simp_all (maxDischargeDepth := 12)
@[simp] theorem execVperm_keeps (vd va vb : VReg) (ty : BitVec 4) (s : State) (hs : s.mem.wf = true) : KeepsMem (execVperm vd va vb ty s) := by
  rw [execVperm]
  simp (maxDischargeDepth := 12) [hs]
@[simp] theorem execVrot_keeps (vd va vb : VReg) (ty : BitVec 4) (s : State) (hs : s.mem.wf = true) : KeepsMem (execVrot vd va vb ty s) := by
  rw [execVrot]
  simp (maxDischargeDepth := 12) [hs]
@[simp] theorem execVsum_keeps (vd va : VReg) (ty : BitVec 4) (s : State) (hs : s.mem.wf = true) : KeepsMem (execVsum vd va ty s) := by
  rw [execVsum]
  simp (maxDischargeDepth := 12) [hs]
@[simp] theorem execVmaxr_keeps (vd va : VReg) (ty : BitVec 4) (s : State) (hs : s.mem.wf = true) : KeepsMem (execVmaxr vd va ty s) := by
  rw [execVmaxr]
  simp (maxDischargeDepth := 12) [hs]
@[simp] theorem execVminr_keeps (vd va : VReg) (ty : BitVec 4) (s : State) (hs : s.mem.wf = true) : KeepsMem (execVminr vd va ty s) := by
  rw [execVminr]
  simp (maxDischargeDepth := 12) [hs]
@[simp] theorem execVdot_keeps (vd va vb : VReg) (ty : BitVec 4) (s : State) (hs : s.mem.wf = true) : KeepsMem (execVdot vd va vb ty s) := by
  rw [execVdot]
  simp (maxDischargeDepth := 12) [hs]
@[simp] theorem execVlerp_keeps (vd va vb : VReg) (ty : BitVec 4) (s : State) (hs : s.mem.wf = true) : KeepsMem (execVlerp vd va vb ty s) := by
  rw [execVlerp]
  simp (maxDischargeDepth := 12) [hs]
@[simp] theorem execVclamp_keeps (vd va vb : VReg) (ty : BitVec 4) (s : State) (hs : s.mem.wf = true) : KeepsMem (execVclamp vd va vb ty s) := by
  rw [execVclamp]
  simp (maxDischargeDepth := 12) [hs]
@[simp] theorem execVrcp_keeps (vd va : VReg) (ty : BitVec 4) (s : State) (hs : s.mem.wf = true) : KeepsMem (execVrcp vd va ty s) := by
  rw [execVrcp]
  simp (maxDischargeDepth := 12) [hs]
@[simp] theorem execVrsq_keeps (vd va : VReg) (ty : BitVec 4) (s : State) (hs : s.mem.wf = true) : KeepsMem (execVrsq vd va ty s) := by
  rw [execVrsq]
  simp (maxDischargeDepth := 12) [hs]
@[simp] theorem execVexp2_keeps (vd va : VReg) (ty : BitVec 4) (s : State) (hs : s.mem.wf = true) : KeepsMem (execVexp2 vd va ty s) := by
  rw [execVexp2]
  simp (maxDischargeDepth := 12) [hs]
@[simp] theorem execVlog2_keeps (vd va : VReg) (ty : BitVec 4) (s : State) (hs : s.mem.wf = true) : KeepsMem (execVlog2 vd va ty s) := by
  rw [execVlog2]
  simp (maxDischargeDepth := 12) [hs]
@[simp] theorem execVsinpi_keeps (vd va : VReg) (ty : BitVec 4) (s : State) (hs : s.mem.wf = true) : KeepsMem (execVsinpi vd va ty s) := by
  rw [execVsinpi]
  simp (maxDischargeDepth := 12) [hs]
@[simp] theorem execVcospi_keeps (vd va : VReg) (ty : BitVec 4) (s : State) (hs : s.mem.wf = true) : KeepsMem (execVcospi vd va ty s) := by
  rw [execVcospi]
  simp (maxDischargeDepth := 12) [hs]
@[simp] theorem execVbcast_keeps (vd : VReg) (gb : GReg) (ty : BitVec 4) (s : State) (hs : s.mem.wf = true) : KeepsMem (execVbcast vd gb ty s) := by
  rw [execVbcast]
  simp (maxDischargeDepth := 12) [hs]
@[simp] theorem execVins_keeps (vd : VReg) (gi : BitVec 4) (gb : GReg) (ty : BitVec 4) (s : State)
    (hs : s.mem.wf = true) : KeepsMem (execVins vd gi gb ty s) := by
  rw [execVins]
  simp (maxDischargeDepth := 12) [hs]
@[simp] theorem execVext_keeps (vd : VReg) (gi : BitVec 4) (gb : GReg) (ty : BitVec 4) (s : State)
    (hs : s.mem.wf = true) : KeepsMem (execVext vd gi gb ty s) := by
  rw [execVext]
  simp (maxDischargeDepth := 12) [hs]
@[simp] theorem execVmpop_keeps (gb : GReg) (va : VReg) (ty : BitVec 4) (s : State) (hs : s.mem.wf = true) : KeepsMem (execVmpop gb va ty s) := by
  rw [execVmpop]
  simp (maxDischargeDepth := 12) [hs]
@[simp] theorem execVscl_keeps (vd va : VReg) (gb : GReg) (ty : BitVec 4) (s : State) (hs : s.mem.wf = true) : KeepsMem (execVscl vd va gb ty s) := by
  rw [execVscl]
  simp (maxDischargeDepth := 12) [hs]
@[simp] theorem execVqe8_keeps (vd va : VReg) (gb : GReg) (ty : BitVec 4) (s : State) (hs : s.mem.wf = true) : KeepsMem (execVqe8 vd va gb ty s) := by
  rw [execVqe8]
  (try dsimp only); (repeat' split) <;> simp_all (maxDischargeDepth := 12)
@[simp] theorem execVde8_keeps (vd va : VReg) (gb : GReg) (ty : BitVec 4) (s : State) (hs : s.mem.wf = true) : KeepsMem (execVde8 vd va gb ty s) := by
  rw [execVde8]
  simp (maxDischargeDepth := 12) [hs]
@[simp] theorem execVfix_keeps (vd va : VReg) (gb : GReg) (ty : BitVec 4) (s : State) (hs : s.mem.wf = true) : KeepsMem (execVfix vd va gb ty s) := by
  rw [execVfix]
  (try dsimp only); (repeat' split) <;> simp_all (maxDischargeDepth := 12)
@[simp] theorem execVunfix_keeps (vd va : VReg) (gb : GReg) (ty : BitVec 4) (s : State)
    (hs : s.mem.wf = true) : KeepsMem (execVunfix vd va gb ty s) := by
  rw [execVunfix]
  simp (maxDischargeDepth := 12) [hs]
@[simp] theorem execVmaxe_keeps (gb : GReg) (va : VReg) (ty : BitVec 4) (s : State) (hs : s.mem.wf = true) : KeepsMem (execVmaxe gb va ty s) := by
  rw [execVmaxe]
  simp (maxDischargeDepth := 12) [hs]
@[simp] theorem execVex_keeps (vd va vb : VReg) (gd gs : GReg) (ty : BitVec 4) (s : State)
    (hs : s.mem.wf = true) : KeepsMem (execVex vd va vb gd gs ty s) := by
  rw [execVex]
  (try dsimp only); (repeat' split) <;> simp_all (maxDischargeDepth := 12)

/-! ## Sched -/

@[simp] theorem State.traceRec_keeps (s : State) (ev : Nat) (out inc : Option (Fin 16)) (hs : s.mem.wf = true) :
    (State.traceRec s ev out inc).mem.wf = true := by
  unfold State.traceRec
  simp (maxDischargeDepth := 12) [hs]
@[simp] theorem State.evaluateNow_keeps (s : State) (hs : s.mem.wf = true) : (State.evaluateNow s).mem.wf = true := by
  rw [State.evaluateNow]
  simp (maxDischargeDepth := 12) [hs]
@[simp] theorem State.begun_keeps (s : State) (hs : s.mem.wf = true) : (State.begun s).mem.wf = true := by
  rw [State.begun]
  simp (maxDischargeDepth := 12) [hs]
@[simp] theorem State.takeAfter_keeps (s : State) (hs : s.mem.wf = true) : (State.takeAfter s).mem.wf = true := by
  rw [State.takeAfter]
  split <;> simp (maxDischargeDepth := 12) [hs]
@[simp] theorem State.afterBundle_keeps (s : State) (hs : s.mem.wf = true) : (State.afterBundle s).mem.wf = true := by
  rw [State.afterBundle]
  (try dsimp only); (repeat' split) <;> simp (maxDischargeDepth := 12) [hs]
@[simp] theorem State.pastBundle_keeps (s : State) (stall plus ready : Nat) (hs : s.mem.wf = true) :
    (State.pastBundle s stall plus ready).mem.wf = true := by
  rw [State.pastBundle]
  simp (maxDischargeDepth := 12) [hs]
@[simp] theorem State.advance_keeps (s : State) (stall plus ready : Nat) (hs : s.mem.wf = true) :
    (State.advance s stall plus ready).mem.wf = true := by
  rw [State.advance]
  simp (maxDischargeDepth := 12) [hs]
@[simp] theorem State.takeRecord_keeps (s : State) (r : FaultRec) (hs : s.mem.wf = true) : (State.takeRecord s r).mem.wf = true := by
  rw [State.takeRecord]
  simp (maxDischargeDepth := 12) [hs]
@[simp] theorem State.pollSlot_keeps (s : State) (w : Waiting) (hs : s.mem.wf = true) : PollKeepsMem (State.pollSlot s w) := by
  rw [State.pollSlot]
  dsimp only
  generalize s.peek (coreKey s.core.id (BitVec.toNat w.arg)) 8 % 4 = st
  split
  · simp [hs]
  split
  · exact State.takeTrap_keeps _ _ _ _ _ _ hs
  · trivial
@[simp] theorem State.pollSbar_keeps (s : State) (w : Waiting) (hs : s.mem.wf = true) : PollKeepsMem (State.pollSbar s w) := by
  rw [State.pollSbar]
  (try dsimp only); (repeat' split) <;> simp (maxDischargeDepth := 12) [hs]
@[simp] theorem State.pollXend_keeps (s : State) (hs : s.mem.wf = true) : PollKeepsMem (State.pollXend s) := by
  rw [State.pollXend]
  (try dsimp only); (repeat' split) <;> simp (maxDischargeDepth := 12) [hs]
@[simp] theorem State.pollMatrix_keeps (s : State) (hs : s.mem.wf = true) : PollKeepsMem (State.pollMatrix s) := by
  rw [State.pollMatrix]
  (try dsimp only); (repeat' split) <;> simp (maxDischargeDepth := 12) [hs]
@[simp] theorem State.poll_keeps (s : State) (w : Waiting) (hs : s.mem.wf = true) : PollKeepsMem (State.poll s w) := by
  rw [State.poll]
  (try dsimp only); (repeat' split) <;> simp (maxDischargeDepth := 12) [hs]
@[simp] theorem State.waitAtIssue_keeps (s : State) (w : Waiting) (hs : s.mem.wf = true) : (State.waitAtIssue s w).mem.wf = true := by
  rw [State.waitAtIssue]
  have h := State.poll_keeps s w hs
  cases hp : s.poll w with
  | waiting => dsimp only; (repeat' split) <;> simp (maxDischargeDepth := 12) [hs]
  | done t => simpa [hp] using h
  | trapped t => simpa [hp] using h
@[simp] theorem State.waitLater_keeps (s : State) (atTick : Bool) (hs : s.mem.wf = true) : (State.waitLater s atTick).mem.wf = true := by
  rw [State.waitLater]
  cases hw : s.cx.wait with
  | none => exact hs
  | some w =>
    have h := State.poll_keeps s w hs
    cases hp : s.poll w <;> simp_all (maxDischargeDepth := 12)
@[simp] theorem State.fenceLater_keeps (s : State) (hs : s.mem.wf = true) : (State.fenceLater s).mem.wf = true := by
  rw [State.fenceLater]
  (try dsimp only); (repeat' split) <;> simp (maxDischargeDepth := 12) [hs]
@[simp] theorem State.ctxCycle_keeps (s : State) (hs : s.mem.wf = true) : (State.ctxCycle s).mem.wf = true := by
  rw [State.ctxCycle]
  (try dsimp only); (repeat' split) <;> simp (maxDischargeDepth := 12) [hs]
@[simp] theorem State.beginSwitch_keeps (s : State) (inc : Option (Fin 16)) (hs : s.mem.wf = true) : (State.beginSwitch s inc).mem.wf = true := by
  rw [State.beginSwitch]
  split <;> simp (maxDischargeDepth := 12) [hs]
@[simp] theorem State.dispatch_keeps (s : State) (hs : s.mem.wf = true) : (State.dispatch s).mem.wf = true := by
  rw [State.dispatch]
  simp (maxDischargeDepth := 12) [hs]
@[simp] theorem State.drainBank_keeps (s : State) (x : Slice) (hs : s.mem.wf = true) : (State.drainBank s x).mem.wf = true := by
  rw [State.drainBank]
  simp (maxDischargeDepth := 12) [hs]
@[simp] theorem State.restoreBank_keeps (s : State) (x : Slice) (hs : s.mem.wf = true) : (State.restoreBank s x).mem.wf = true := by
  rw [State.restoreBank]
  simp (maxDischargeDepth := 12) [hs]
@[simp] theorem State.takeCtrs_keeps (s : State) (hs : s.mem.wf = true) : (State.takeCtrs s).mem.wf = true := by
  rw [State.takeCtrs]
  simp (maxDischargeDepth := 12) [hs]
@[simp] theorem State.leaveCtrs_keeps (s : State) (hs : s.mem.wf = true) : (State.leaveCtrs s).mem.wf = true := by
  rw [State.leaveCtrs]
  simp (maxDischargeDepth := 12) [hs]
@[simp] theorem State.toPointer_keeps (s : State) (w : Switch) (hs : s.mem.wf = true) : (State.toPointer s w).mem.wf = true := by
  rw [State.toPointer]
  (try dsimp only); split
  · simp [hs]
  · refine State.eachCtx_keeps _ _ _ (memWf_ite _ _ _ hs hs) (fun t ht => State.takeCtrs_keeps t ht)
@[simp] theorem State.switchPart_keeps (s : State) (w : Switch) (hs : s.mem.wf = true) : (State.switchPart s w).mem.wf = true := by
  rw [State.switchPart]
  (try dsimp only); (repeat' split) <;> simp (maxDischargeDepth := 12) [hs]
@[simp] theorem State.switchCycle_keeps (s : State) (hs : s.mem.wf = true) : (State.switchCycle s).mem.wf = true := by
  rw [State.switchCycle]
  (try dsimp only); (repeat' split) <;> simp (maxDischargeDepth := 12) [hs]
@[simp] theorem State.resumeCtx_keeps (s : State) (hs : s.mem.wf = true) : (State.resumeCtx s).mem.wf = true := by
  rw [State.resumeCtx]
  simp (maxDischargeDepth := 12) [hs]
@[simp] theorem State.resumeIn_keeps (s : State) (hs : s.mem.wf = true) : (State.resumeIn s).mem.wf = true := by
  rw [State.resumeIn]
  simp (maxDischargeDepth := 12) [hs]
@[simp] theorem State.charge_keeps (s : State) (c : Option (Fin 16)) (hs : s.mem.wf = true) : (State.charge s c).mem.wf = true := by
  unfold State.charge
  split <;> simp (maxDischargeDepth := 12) [hs]
@[simp] theorem State.heed_keeps (s : State) (hs : s.mem.wf = true) : (State.heed s).mem.wf = true := by
  rw [State.heed]
  simp (maxDischargeDepth := 12) [hs]
@[simp] theorem State.goOn_keeps (s : State) (hs : s.mem.wf = true) : (State.goOn s).mem.wf = true := by
  rw [State.goOn]
  simp (maxDischargeDepth := 12) [hs]
@[simp] theorem State.settleTurn_keeps (s : State) (hs : s.mem.wf = true) : (State.settleTurn s).mem.wf = true := by
  rw [State.settleTurn]
  (try dsimp only); (repeat' split) <;> simp (maxDischargeDepth := 12) [hs]

/-! ## Async -/

@[simp] theorem State.addOp_keeps (s : State) (o : Op) (hs : s.mem.wf = true) : (State.addOp s o).mem.wf = true := by
  rw [State.addOp]
  simp (maxDischargeDepth := 12) [hs]
@[simp] theorem State.onItsWay_keeps (s : State) (o : Op) (hs : s.mem.wf = true) : (State.onItsWay s o).mem.wf = true := by
  rw [State.onItsWay]
  split <;> simp (maxDischargeDepth := 12) [hs]
@[simp] theorem State.bound_keeps (s : State) (hs : s.mem.wf = true) : (State.bound s).mem.wf = true := by
  rw [State.bound]
  simp (maxDischargeDepth := 12) [hs]
@[simp] theorem State.slotPending_keeps (s : State) (a : Word) (kind : Nat) (hs : s.mem.wf = true) : (State.slotPending s a kind).mem.wf = true := by
  rw [State.slotPending]
  simp (maxDischargeDepth := 12) [hs]
@[simp] theorem State.slotDone_keeps (s : State) (co : CoreId) (a : Word) (kind : BitVec 8) (v : Word) (hs : s.mem.wf = true) :
    (State.slotDone s co a kind v).mem.wf = true := by
  rw [State.slotDone]
  simp (maxDischargeDepth := 12) [hs]
@[simp] theorem State.slotFault_keeps (s : State) (co : CoreId) (a : Word) (kind : BitVec 8) (r : FaultRec) (hs : s.mem.wf = true) :
    (State.slotFault s co a kind r).mem.wf = true := by
  rw [State.slotFault]
  simp (maxDischargeDepth := 12) [hs]
@[simp] theorem State.uidRecord_keeps (s : State) (uid : Nat) (rgn : BitVec 12) (r : BitVec 512) (hs : s.mem.wf = true) :
    (State.uidRecord s uid rgn r).mem.wf = true := by
  rw [State.uidRecord]
  (repeat' split) <;> simp (maxDischargeDepth := 12) [hs]
@[simp] theorem State.lateFault_keeps (s : State) (r : FaultRec) (hs : s.mem.wf = true) : (State.lateFault s r).mem.wf = true := by
  rw [State.lateFault]
  simp (maxDischargeDepth := 12) [hs]
@[simp] theorem State.opFault_keeps (s : State) (o : Op) (i : Info) (hs : s.mem.wf = true) : (State.opFault s o i).mem.wf = true := by
  rw [State.opFault]
  simp (maxDischargeDepth := 12) [hs]

/-! ## Control -/

@[simp] theorem execNopC_keeps (s : State) (hs : s.mem.wf = true) : KeepsMem (execNopC s) := by
  rw [execNopC]
  simp (maxDischargeDepth := 12) [hs]
@[simp] theorem execHintC_keeps (_v : BitVec 22) (s : State) (hs : s.mem.wf = true) : KeepsMem (execHintC _v s) := by
  rw [execHintC]
  simp (maxDischargeDepth := 12) [hs]
@[simp] theorem State.writeSr_keeps (s : State) (n : Nat) (v : Word) (hs : s.mem.wf = true) : (State.writeSr s n v).mem.wf = true := by
  unfold State.writeSr
  split <;> simp (maxDischargeDepth := 12) [hs]
@[simp] theorem State.capture_keeps (s : State) (hs : s.mem.wf = true) : (State.capture s).mem.wf = true := by
  rw [State.capture]
  simp (maxDischargeDepth := 12) [hs]
@[simp] theorem execGetsr_keeps (rd : GReg) (n : BitVec 12) (s : State) (hs : s.mem.wf = true) : KeepsMem (execGetsr rd n s) := by
  rw [execGetsr]
  (try dsimp only); (repeat' split) <;> simp_all (maxDischargeDepth := 12)
@[simp] theorem execSetsr_keeps (ra : GReg) (n : BitVec 12) (s : State) (hs : s.mem.wf = true) : KeepsMem (execSetsr ra n s) := by
  rw [execSetsr]
  (try dsimp only); (repeat' split) <;> simp_all (maxDischargeDepth := 12)
@[simp] theorem State.transfer_keeps (s : State) (taken : Bool) (target : Word) (hs : s.mem.wf = true) :
    (State.transfer s taken target).mem.wf = true := by
  rw [State.transfer]
  simp (maxDischargeDepth := 12) [hs]
@[simp] theorem State.branch_keeps (s : State) (taken : Bool) (d : Word) (hs : s.mem.wf = true) : KeepsMem (State.branch s taken d) := by
  rw [State.branch]
  (try dsimp only); (repeat' split) <;> simp_all (maxDischargeDepth := 12)
@[simp] theorem State.link_keeps (s : State) (hs : s.mem.wf = true) : (State.link s).mem.wf = true := by
  rw [State.link]
  simp (maxDischargeDepth := 12) [hs]
@[simp] theorem execBr_keeps (d : BitVec 22) (s : State) (hs : s.mem.wf = true) : KeepsMem (execBr d s) := by
  rw [execBr]
  simp (maxDischargeDepth := 12) [hs]
@[simp] theorem execCall_keeps (d : BitVec 22) (s : State) (hs : s.mem.wf = true) : KeepsMem (execCall d s) := by
  rw [execCall]
  (try dsimp only); (repeat' split) <;> simp_all (maxDischargeDepth := 12)
@[simp] theorem execBt_keeps (r : GReg) (b : BitVec 6) (d : Imm 10) (s : State) (hs : s.mem.wf = true) : KeepsMem (execBt r b d s) := by
  rw [execBt]
  simp (maxDischargeDepth := 12) [hs]
@[simp] theorem execBf_keeps (r : GReg) (b : BitVec 6) (d : Imm 10) (s : State) (hs : s.mem.wf = true) : KeepsMem (execBf r b d s) := by
  rw [execBf]
  simp (maxDischargeDepth := 12) [hs]
@[simp] theorem execBnz_keeps (r : GReg) (d : Imm 10) (s : State) (hs : s.mem.wf = true) : KeepsMem (execBnz r d s) := by
  rw [execBnz]
  simp (maxDischargeDepth := 12) [hs]
@[simp] theorem execBz_keeps (r : GReg) (d : Imm 10) (s : State) (hs : s.mem.wf = true) : KeepsMem (execBz r d s) := by
  rw [execBz]
  simp (maxDischargeDepth := 12) [hs]
@[simp] theorem execBse_keeps (b : BitVec 6) (d : Imm 10) (s : State) (hs : s.mem.wf = true) : KeepsMem (execBse b d s) := by
  rw [execBse]
  simp (maxDischargeDepth := 12) [hs]
@[simp] theorem execBsc_keeps (b : BitVec 6) (d : Imm 10) (s : State) (hs : s.mem.wf = true) : KeepsMem (execBsc b d s) := by
  rw [execBsc]
  simp (maxDischargeDepth := 12) [hs]
@[simp] theorem execCallr_keeps (ra : GReg) (s : State) (hs : s.mem.wf = true) : KeepsMem (execCallr ra s) := by
  rw [execCallr]
  (try dsimp only); (repeat' split) <;> simp_all (maxDischargeDepth := 12)
@[simp] theorem execJr_keeps (ra : GReg) (s : State) (hs : s.mem.wf = true) : KeepsMem (execJr ra s) := by
  rw [execJr]
  (try dsimp only); (repeat' split) <;> simp_all (maxDischargeDepth := 12)
@[simp] theorem execRet_keeps (s : State) (hs : s.mem.wf = true) : KeepsMem (execRet s) := by
  rw [execRet]
  (try dsimp only); (repeat' split) <;> simp_all (maxDischargeDepth := 12)
@[simp] theorem execGuard_keeps (_r : GReg) (_b : BitVec 6) (s : State) (hs : s.mem.wf = true) : KeepsMem (execGuard _r _b s) := by
  rw [execGuard]
  simp (maxDischargeDepth := 12) [hs]
@[simp] theorem execGuardn_keeps (_r : GReg) (_b : BitVec 6) (s : State) (hs : s.mem.wf = true) : KeepsMem (execGuardn _r _b s) := by
  rw [execGuardn]
  simp (maxDischargeDepth := 12) [hs]
@[simp] theorem execLi_keeps (rd : GReg) (v : Imm 17) (s : State) (hs : s.mem.wf = true) : KeepsMem (execLi rd v s) := by
  rw [execLi]
  simp (maxDischargeDepth := 12) [hs]
@[simp] theorem execLih_keeps (rd : GReg) (x : BitVec 32) (s : State) (hs : s.mem.wf = true) : KeepsMem (execLih rd x s) := by
  rw [execLih]
  simp (maxDischargeDepth := 12) [hs]
@[simp] theorem execWait_keeps (n : BitVec 12) (s : State) (hs : s.mem.wf = true) : KeepsMem (execWait n s) := by
  rw [execWait]
  simp (maxDischargeDepth := 12) [hs]
@[simp] theorem execRept_keeps (n : BitVec 3) (c : BitVec 8) (k : BitVec 5) (s : State) (hs : s.mem.wf = true) : KeepsMem (execRept n c k s) := by
  rw [execRept]
  (try dsimp only); (repeat' split) <;> simp_all (maxDischargeDepth := 12)
@[simp] theorem execStart_keeps (h : BitVec 5) (d : Imm 17) (s : State) (hs : s.mem.wf = true) : KeepsMem (execStart h d s) := by
  rw [execStart]
  (try dsimp only); (repeat' split) <;> simp_all (maxDischargeDepth := 12)
@[simp] theorem State.afterLanding_keeps (s : State) (act : State → State) (hs : s.mem.wf = true)
    (hact : ∀ a0, a0.mem.wf = true → (act a0).mem.wf = true) : (State.afterLanding s act).mem.wf = true := by
  rw [State.afterLanding]
  simp (maxDischargeDepth := 12) [hs, hact]
@[simp] theorem State.leave_keeps (s : State) (hs : s.mem.wf = true) : (State.leave s).mem.wf = true := by
  rw [State.leave]
  simp (maxDischargeDepth := 12) [hs]
@[simp] theorem execHend_keeps (s : State) (hs : s.mem.wf = true) : KeepsMem (execHend s) := by
  rw [execHend]
  (try dsimp only); (repeat' split) <;> simp_all (maxDischargeDepth := 12)
@[simp] theorem State.boundedWait_keeps (s : State) (k : WaitKind) (rd : GReg) (arg limit : Word) (hs : s.mem.wf = true) :
    (State.boundedWait s k rd arg limit).mem.wf = true := by
  rw [State.boundedWait]
  simp (maxDischargeDepth := 12) [hs]
@[simp] theorem execHjoin_keeps (ra rb : GReg) (s : State) (hs : s.mem.wf = true) : KeepsMem (execHjoin ra rb s) := by
  rw [execHjoin]
  (try dsimp only); (repeat' split) <;> simp_all (maxDischargeDepth := 12)
@[simp] theorem execCwait_keeps (rd ra rb : GReg) (s : State) (hs : s.mem.wf = true) : KeepsMem (execCwait rd ra rb s) := by
  rw [execCwait]
  (try dsimp only); (repeat' split) <;> simp_all (maxDischargeDepth := 12)
@[simp] theorem execQwait_keeps (rd rb : GReg) (s : State) (hs : s.mem.wf = true) : KeepsMem (execQwait rd rb s) := by
  rw [execQwait]
  (try dsimp only); (repeat' split) <;> simp_all (maxDischargeDepth := 12)
@[simp] theorem execMwait_keeps (rb : GReg) (s : State) (hs : s.mem.wf = true) : KeepsMem (execMwait rb s) := by
  rw [execMwait]
  (try dsimp only); (repeat' split) <;> simp_all (maxDischargeDepth := 12)
@[simp] theorem execMark_keeps (x : BitVec 32) (s : State) (hs : s.mem.wf = true) : KeepsMem (execMark x s) := by
  rw [execMark]
  (try dsimp only); (repeat' split) <;> simp_all (maxDischargeDepth := 12)
@[simp] theorem execYield_keeps (s : State) (hs : s.mem.wf = true) : KeepsMem (execYield s) := by
  rw [execYield]
  (try dsimp only); (repeat' split) <;> simp_all (maxDischargeDepth := 12)
@[simp] theorem execSexit_keeps (s : State) (hs : s.mem.wf = true) : KeepsMem (execSexit s) := by
  rw [execSexit]
  (try dsimp only); (repeat' split) <;> simp_all (maxDischargeDepth := 12)
@[simp] theorem State.sbar_keeps (s : State) (op : BitVec 2) (rd ra rb : GReg) (hs : s.mem.wf = true) : KeepsMem (State.sbar s op rd ra rb) := by
  rw [State.sbar]
  (try dsimp only); (repeat' split) <;> simp_all (maxDischargeDepth := 12)
@[simp] theorem execSbarOr_keeps (rd ra rb : GReg) (s : State) (hs : s.mem.wf = true) : KeepsMem (execSbarOr rd ra rb s) := by
  rw [execSbarOr]
  simp (maxDischargeDepth := 12) [hs]
@[simp] theorem execSbarAnd_keeps (rd ra rb : GReg) (s : State) (hs : s.mem.wf = true) : KeepsMem (execSbarAnd rd ra rb s) := by
  rw [execSbarAnd]
  simp (maxDischargeDepth := 12) [hs]
@[simp] theorem execSbarMax_keeps (rd ra rb : GReg) (s : State) (hs : s.mem.wf = true) : KeepsMem (execSbarMax rd ra rb s) := by
  rw [execSbarMax]
  simp (maxDischargeDepth := 12) [hs]
@[simp] theorem execVote_keeps (rd : GReg) (s : State) (hs : s.mem.wf = true) : KeepsMem (execVote rd s) := by
  rw [execVote]
  (try dsimp only); (repeat' split) <;> simp_all (maxDischargeDepth := 12)
@[simp] theorem execXend_keeps (rb : GReg) (s : State) (hs : s.mem.wf = true) : KeepsMem (execXend rb s) := by
  rw [execXend]
  (try dsimp only); (repeat' split) <;> simp_all (maxDischargeDepth := 12)
@[simp] theorem State.raiseAfter_keeps (s : State) (i : Info) (hs : s.mem.wf = true) : (State.raiseAfter s i).mem.wf = true := by
  rw [State.raiseAfter]
  simp (maxDischargeDepth := 12) [hs]
@[simp] theorem execTrap_keeps (k : BitVec 16) (s : State) (hs : s.mem.wf = true) : KeepsMem (execTrap k s) := by
  rw [execTrap]
  (try dsimp only); (repeat' split) <;> simp_all (maxDischargeDepth := 12)
@[simp] theorem execBrk_keeps (s : State) (hs : s.mem.wf = true) : KeepsMem (execBrk s) := by
  rw [execBrk]
  (try dsimp only); (repeat' split) <;> simp_all (maxDischargeDepth := 12)
@[simp] theorem execHalt_keeps (s : State) (hs : s.mem.wf = true) : KeepsMem (execHalt s) := by
  rw [execHalt]
  (try dsimp only); (repeat' split) <;> simp_all (maxDischargeDepth := 12)
@[simp] theorem State.landBefore_keeps (s : State) (hs : s.mem.wf = true) : (State.landBefore s).mem.wf = true := by
  rw [State.landBefore]
  simp (maxDischargeDepth := 12) [hs]
@[simp] theorem execSwp_keeps (rd ra : GReg) (s : State) (hs : s.mem.wf = true) : KeepsMem (execSwp rd ra s) := by
  rw [execSwp]
  (try dsimp only); (repeat' split) <;> simp_all (maxDischargeDepth := 12)
@[simp] theorem execRfe_keeps (s : State) (hs : s.mem.wf = true) : KeepsMem (execRfe s) := by
  rw [execRfe]
  (try dsimp only); (repeat' split) <;> simp_all (maxDischargeDepth := 12)

/-! ## Local -/

@[simp] theorem State.hold_keeps (s : State) (hs : s.mem.wf = true) : (State.hold s).mem.wf = true := by
  rw [State.hold]
  simp (maxDischargeDepth := 12) [hs]
@[simp] theorem State.holdLocal_keeps (s : State) (rel : Bool) (hs : s.mem.wf = true) : (State.holdLocal s rel).mem.wf = true := by
  rw [State.holdLocal]
  split <;> simp (maxDischargeDepth := 12) [hs]
@[simp] theorem State.localAct_keeps (s : State) (o : BitVec 2) (key n : Nat) (act : State → State) (hs : s.mem.wf = true)
    (hact : ∀ a0, a0.mem.wf = true → (act a0).mem.wf = true) : (State.localAct s o key n act).mem.wf = true := by
  rw [State.localAct]
  simp (maxDischargeDepth := 12) [hs, hact]
@[simp] theorem State.overAct_keeps (s : State) (o : BitVec 2) (sc : BitVec 3) (a : Access) (hs : s.mem.wf = true) :
    (State.overAct s o sc a).mem.wf = true := by
  rw [State.overAct]
  (try dsimp only); (repeat' split) <;> simp (maxDischargeDepth := 12) [hs]
@[simp] theorem State.orSpill_keeps (s : State) (fin : BitVec 4096 → State → State) (act : State → State) (hs : s.mem.wf = true) (hfin : ∀ a0 a1,
    a1.mem.wf = true → (fin a0 a1).mem.wf = true) (hact : ∀ a0, a0.mem.wf = true → (act a0).mem.wf = true) : (State.orSpill s fin act).mem.wf = true
    := by
  rw [State.orSpill]
  (try dsimp only); (repeat' split) <;> simp (maxDischargeDepth := 12) [hs, hfin, hact]
@[simp] theorem State.loadAt_keeps (s : State) (rd : GReg) (signed : Bool) (n : Nat) (o : BitVec 2) (sc : BitVec 3) (a : Word)
    (hs : s.mem.wf = true) : (State.loadAt s rd signed n o sc a).mem.wf = true := by
  rw [State.loadAt]
  refine State.orSpill_keeps _ _ _ hs (fun d t ht => by simp (maxDischargeDepth := 12) [ht]) (fun t ht => State.guarded_keeps _ _ _ ht (fun a ha => ?_))
  (repeat' split) <;> simp +contextual (maxDischargeDepth := 12) [ha]
@[simp] theorem State.kick_keeps (s : State) (u : PumpId) (v a : Word) (hs : s.mem.wf = true) : (State.kick s u v a).mem.wf = true := by
  rw [State.kick]
  simp (maxDischargeDepth := 12) [hs]
@[simp] theorem State.storeAt_keeps (s : State) (v : Word) (n : Nat) (o : BitVec 2) (sc : BitVec 3) (a : Word) (hs : s.mem.wf = true) :
    (State.storeAt s v n o sc a).mem.wf = true := by
  rw [State.storeAt]
  refine State.orSpill_keeps _ _ _ hs (fun d t ht => by simp (maxDischargeDepth := 12) [ht]) (fun t ht => State.guarded_keeps _ _ _ ht (fun a ha => ?_))
  (repeat' split) <;> simp +contextual (maxDischargeDepth := 12) [ha]
@[simp] theorem execLdI8_keeps (rd ra : GReg) (o : BitVec 2) (sc : BitVec 3) (off : Imm 7) (s : State)
    (hs : s.mem.wf = true) : KeepsMem (execLdI8 rd ra o sc off s) := by
  rw [execLdI8]
  simp (maxDischargeDepth := 12) [hs]
@[simp] theorem execLdN8_keeps (rd ra : GReg) (o : BitVec 2) (sc : BitVec 3) (off : Imm 7) (s : State)
    (hs : s.mem.wf = true) : KeepsMem (execLdN8 rd ra o sc off s) := by
  rw [execLdN8]
  simp (maxDischargeDepth := 12) [hs]
@[simp] theorem execLdI16_keeps (rd ra : GReg) (o : BitVec 2) (sc : BitVec 3) (off : Imm 7) (s : State)
    (hs : s.mem.wf = true) : KeepsMem (execLdI16 rd ra o sc off s) := by
  rw [execLdI16]
  simp (maxDischargeDepth := 12) [hs]
@[simp] theorem execLdN16_keeps (rd ra : GReg) (o : BitVec 2) (sc : BitVec 3) (off : Imm 7) (s : State)
    (hs : s.mem.wf = true) : KeepsMem (execLdN16 rd ra o sc off s) := by
  rw [execLdN16]
  simp (maxDischargeDepth := 12) [hs]
@[simp] theorem execLdI32_keeps (rd ra : GReg) (o : BitVec 2) (sc : BitVec 3) (off : Imm 7) (s : State)
    (hs : s.mem.wf = true) : KeepsMem (execLdI32 rd ra o sc off s) := by
  rw [execLdI32]
  simp (maxDischargeDepth := 12) [hs]
@[simp] theorem execLdN32_keeps (rd ra : GReg) (o : BitVec 2) (sc : BitVec 3) (off : Imm 7) (s : State)
    (hs : s.mem.wf = true) : KeepsMem (execLdN32 rd ra o sc off s) := by
  rw [execLdN32]
  simp (maxDischargeDepth := 12) [hs]
@[simp] theorem execLdD_keeps (rd ra : GReg) (o : BitVec 2) (sc : BitVec 3) (off : Imm 7) (s : State)
    (hs : s.mem.wf = true) : KeepsMem (execLdD rd ra o sc off s) := by
  rw [execLdD]
  simp (maxDischargeDepth := 12) [hs]
@[simp] theorem execStB_keeps (rs ra : GReg) (o : BitVec 2) (sc : BitVec 3) (off : Imm 7) (s : State)
    (hs : s.mem.wf = true) : KeepsMem (execStB rs ra o sc off s) := by
  rw [execStB]
  simp (maxDischargeDepth := 12) [hs]
@[simp] theorem execStH_keeps (rs ra : GReg) (o : BitVec 2) (sc : BitVec 3) (off : Imm 7) (s : State)
    (hs : s.mem.wf = true) : KeepsMem (execStH rs ra o sc off s) := by
  rw [execStH]
  simp (maxDischargeDepth := 12) [hs]
@[simp] theorem execStW_keeps (rs ra : GReg) (o : BitVec 2) (sc : BitVec 3) (off : Imm 7) (s : State)
    (hs : s.mem.wf = true) : KeepsMem (execStW rs ra o sc off s) := by
  rw [execStW]
  simp (maxDischargeDepth := 12) [hs]
@[simp] theorem execStD_keeps (rs ra : GReg) (o : BitVec 2) (sc : BitVec 3) (off : Imm 7) (s : State)
    (hs : s.mem.wf = true) : KeepsMem (execStD rs ra o sc off s) := by
  rw [execStD]
  simp (maxDischargeDepth := 12) [hs]
@[simp] theorem execLdxI8_keeps (rd ra rb : GReg) (o : BitVec 2) (s : State) (hs : s.mem.wf = true) : KeepsMem (execLdxI8 rd ra rb o s) := by
  rw [execLdxI8]
  simp (maxDischargeDepth := 12) [hs]
@[simp] theorem execLdxN8_keeps (rd ra rb : GReg) (o : BitVec 2) (s : State) (hs : s.mem.wf = true) : KeepsMem (execLdxN8 rd ra rb o s) := by
  rw [execLdxN8]
  simp (maxDischargeDepth := 12) [hs]
@[simp] theorem execLdxI16_keeps (rd ra rb : GReg) (o : BitVec 2) (s : State) (hs : s.mem.wf = true) : KeepsMem (execLdxI16 rd ra rb o s) := by
  rw [execLdxI16]
  simp (maxDischargeDepth := 12) [hs]
@[simp] theorem execLdxN16_keeps (rd ra rb : GReg) (o : BitVec 2) (s : State) (hs : s.mem.wf = true) : KeepsMem (execLdxN16 rd ra rb o s) := by
  rw [execLdxN16]
  simp (maxDischargeDepth := 12) [hs]
@[simp] theorem execLdxI32_keeps (rd ra rb : GReg) (o : BitVec 2) (s : State) (hs : s.mem.wf = true) : KeepsMem (execLdxI32 rd ra rb o s) := by
  rw [execLdxI32]
  simp (maxDischargeDepth := 12) [hs]
@[simp] theorem execLdxN32_keeps (rd ra rb : GReg) (o : BitVec 2) (s : State) (hs : s.mem.wf = true) : KeepsMem (execLdxN32 rd ra rb o s) := by
  rw [execLdxN32]
  simp (maxDischargeDepth := 12) [hs]
@[simp] theorem execLdxD_keeps (rd ra rb : GReg) (o : BitVec 2) (s : State) (hs : s.mem.wf = true) : KeepsMem (execLdxD rd ra rb o s) := by
  rw [execLdxD]
  simp (maxDischargeDepth := 12) [hs]
@[simp] theorem execStxB_keeps (rs ra rb : GReg) (o : BitVec 2) (s : State) (hs : s.mem.wf = true) : KeepsMem (execStxB rs ra rb o s) := by
  rw [execStxB]
  simp (maxDischargeDepth := 12) [hs]
@[simp] theorem execStxH_keeps (rs ra rb : GReg) (o : BitVec 2) (s : State) (hs : s.mem.wf = true) : KeepsMem (execStxH rs ra rb o s) := by
  rw [execStxH]
  simp (maxDischargeDepth := 12) [hs]
@[simp] theorem execStxW_keeps (rs ra rb : GReg) (o : BitVec 2) (s : State) (hs : s.mem.wf = true) : KeepsMem (execStxW rs ra rb o s) := by
  rw [execStxW]
  simp (maxDischargeDepth := 12) [hs]
@[simp] theorem execStxD_keeps (rs ra rb : GReg) (o : BitVec 2) (s : State) (hs : s.mem.wf = true) : KeepsMem (execStxD rs ra rb o s) := by
  rw [execStxD]
  simp (maxDischargeDepth := 12) [hs]
@[simp] theorem State.vbeats_keeps (s : State) (n : Nat) (hs : s.mem.wf = true) : (State.vbeats s n).mem.wf = true := by
  rw [State.vbeats]
  simp (maxDischargeDepth := 12) [hs]
@[simp] theorem State.watchMask_keeps (s : State) (a mask : Nat) (wr : Bool) (hs : s.mem.wf = true) :
    (State.watchMask s a mask wr).mem.wf = true := by
  rw [State.watchMask]
  (try dsimp only); (repeat' split) <;> simp_all (maxDischargeDepth := 12)
@[simp] theorem State.beginBeats_keeps (s : State) (load : Bool) (seq : Nat) (data : VWord) (ps : List Piece) (n : Nat) (tag : Option (Nat × BitVec
    16)) (op : Option Nat) (hs : s.mem.wf = true) : (State.beginBeats s load seq data ps n tag op).mem.wf = true := by
  rw [State.beginBeats]
  simp (maxDischargeDepth := 12) [hs]
@[simp] theorem State.pieceRead_keeps (s : State) (b : Beats) (p : Piece) (hs : s.mem.wf = true) : (State.pieceRead s b p).mem.wf = true := by
  rw [State.pieceRead]
  (try dsimp only); (repeat' split) <;> simp (maxDischargeDepth := 12) [hs]
@[simp] theorem State.pieceWrite_keeps (s : State) (b : Beats) (p : Piece) (hs : s.mem.wf = true) : (State.pieceWrite s b p).mem.wf = true := by
  rw [State.pieceWrite]
  simp (maxDischargeDepth := 12) [hs]
@[simp] theorem State.doPiece_keeps (s : State) (b : Beats) (p : Piece) (hs : s.mem.wf = true) : (State.doPiece s b p).mem.wf = true := by
  rw [State.doPiece]
  simp (maxDischargeDepth := 12) [hs]
@[simp] theorem State.doPieces_keeps (b : Beats) (all : Bool) (ps left : List Piece) (s : State) (hs : s.mem.wf = true) :
    (State.doPieces b all ps left s).1.mem.wf = true := by
  induction ps generalizing left s with
  | nil => exact hs
  | cons p ps ih =>
    rw [State.doPieces]
    split
    · exact ih _ _ (State.doPiece_keeps _ _ _ hs)
    · exact ih _ _ hs
@[simp] theorem State.beatTurn_keeps (s : State) (hs : s.mem.wf = true) : (State.beatTurn s).mem.wf = true := by
  rw [State.beatTurn]
  split
  · exact hs
  · have h := fun (b : Beats) all ps => State.doPieces_keeps b all ps [] (s.focus b.slc b.ctx) (State.focus_keeps _ _ _ hs)
    (try dsimp only); (repeat' split) <;> simp (maxDischargeDepth := 12) [h]
@[simp] theorem State.vloadAt_keeps (s : State) (k : LKind) (vd : VReg) (o : BitVec 2) (sc : BitVec 3) (a : Word) (align mask : Nat) (extra : List Trap) (rs : List VReg) (hs : s.mem.wf = true) : (State.vloadAt s k vd o sc a align mask extra rs).mem.wf = true := by
  rw [State.vloadAt]
  refine State.orSpill_keeps _ _ _ hs (fun d t ht => by simp (maxDischargeDepth := 12) [ht]) (fun t ht => State.guarded_keeps _ _ _ ht (fun a ha => ?_))
  (repeat' split) <;> simp +contextual (maxDischargeDepth := 12) [ha]
@[simp] theorem State.vstoreAt_keeps (s : State) (k : LKind) (vs : VReg) (o : BitVec 2) (sc : BitVec 3) (a : Word) (align mask : Nat) (tag : Option (BitVec 16)) (rs : List VReg) (hs : s.mem.wf = true) : (State.vstoreAt s k vs o sc a align mask tag rs).mem.wf = true := by
  rw [State.vstoreAt]
  refine State.orSpill_keeps _ _ _ hs (fun d t ht => by simp (maxDischargeDepth := 12) [ht]) (fun t ht => State.guarded_keeps _ _ _ ht (fun a ha => ?_))
  (repeat' split) <;> simp +contextual (maxDischargeDepth := 12) [ha]
@[simp] theorem execVld_keeps (vd : VReg) (ra : GReg) (o : BitVec 2) (sc : BitVec 3) (off : Option (BitVec 32)) (s : State)
    (hs : s.mem.wf = true) : KeepsMem (execVld vd ra o sc off s) := by
  rw [execVld]
  simp (maxDischargeDepth := 12) [hs]
@[simp] theorem execVst_keeps (vs : VReg) (ra : GReg) (o : BitVec 2) (sc : BitVec 3) (off : Option (BitVec 32)) (s : State)
    (hs : s.mem.wf = true) : KeepsMem (execVst vs ra o sc off s) := by
  rw [execVst]
  simp (maxDischargeDepth := 12) [hs]
@[simp] theorem execVldm_keeps (vd : VReg) (ra : GReg) (vm : VReg) (o : BitVec 2) (sc : BitVec 3) (off : Option (BitVec 32)) (s : State)
    (hs : s.mem.wf = true) : KeepsMem (execVldm vd ra vm o sc off s) := by
  rw [execVldm]
  simp (maxDischargeDepth := 12) [hs]
@[simp] theorem execVstm_keeps (vs : VReg) (ra : GReg) (vm : VReg) (o : BitVec 2) (sc : BitVec 3) (off : Option (BitVec 32)) (s : State)
    (hs : s.mem.wf = true) : KeepsMem (execVstm vs ra vm o sc off s) := by
  rw [execVstm]
  simp (maxDischargeDepth := 12) [hs]
@[simp] theorem execVldt_keeps (vd : VReg) (ra gt : GReg) (o : BitVec 2) (sc : BitVec 3) (off : Option (BitVec 32)) (s : State)
    (hs : s.mem.wf = true) : KeepsMem (execVldt vd ra gt o sc off s) := by
  rw [execVldt]
  simp (maxDischargeDepth := 12) [hs]
@[simp] theorem execVstt_keeps (vs : VReg) (ra gt : GReg) (o : BitVec 2) (sc : BitVec 3) (off : Option (BitVec 32)) (s : State)
    (hs : s.mem.wf = true) : KeepsMem (execVstt vs ra gt o sc off s) := by
  rw [execVstt]
  simp (maxDischargeDepth := 12) [hs]
@[simp] theorem State.gatherAct_keeps (s : State) (o : BitVec 2) (a : Word) (vi : VReg) (el : BitVec 2) (act : State → State)
    (hs : s.mem.wf = true) (hact : ∀ a0, a0.mem.wf = true → (act a0).mem.wf = true) : (State.gatherAct s o a vi el act).mem.wf = true := by
  rw [State.gatherAct]
  (try dsimp only); (repeat' split) <;> simp_all (maxDischargeDepth := 12)
@[simp] theorem execVgather_keeps (vd : VReg) (ra : GReg) (vi : VReg) (o : BitVec 2) (_sc : BitVec 3) (el : BitVec 2) (off : Option (BitVec 32)) (s : State) (hs : s.mem.wf = true) : KeepsMem (execVgather vd ra vi o _sc el off s) := by
  rw [execVgather]
  (try dsimp only); (repeat' split) <;> simp_all (maxDischargeDepth := 12)
@[simp] theorem execVscatter_keeps (vs : VReg) (ra : GReg) (vi : VReg) (o : BitVec 2) (_sc : BitVec 3) (el : BitVec 2) (off : Option (BitVec 32)) (s : State) (hs : s.mem.wf = true) : KeepsMem (execVscatter vs ra vi o _sc el off s) := by
  rw [execVscatter]
  (try dsimp only); (repeat' split) <;> simp_all (maxDischargeDepth := 12)
@[simp] theorem State.amoAt_keeps (s : State) (rd : GReg) (a : Word) (n op : Nat) (o : BitVec 2) (f : Nat → Option Nat) (hs : s.mem.wf = true) :
    (State.amoAt s rd a n op o f).mem.wf = true := by
  rw [State.amoAt]
  refine State.guarded_keeps _ _ _ hs fun u hu => State.localAct_keeps _ _ _ _ _ hu fun b hb => ?_
  dsimp only
  split <;> simp (maxDischargeDepth := 12) [hb]
@[simp] theorem State.amo_keeps (s : State) (op : Nat) (rd ra rb : GReg) (o : BitVec 2) (dw : Bool)
    (hs : s.mem.wf = true) : KeepsMem (State.amo s op rd ra rb o dw) := by
  rw [State.amo]
  simp (maxDischargeDepth := 12) [hs]
@[simp] theorem execAmoAdd_keeps (rd ra rb : GReg) (o : BitVec 2) (dw : Bool) (s : State)
    (hs : s.mem.wf = true) : KeepsMem (execAmoAdd rd ra rb o dw s) := by
  rw [execAmoAdd]
  simp (maxDischargeDepth := 12) [hs]
@[simp] theorem execAmoAnd_keeps (rd ra rb : GReg) (o : BitVec 2) (dw : Bool) (s : State)
    (hs : s.mem.wf = true) : KeepsMem (execAmoAnd rd ra rb o dw s) := by
  rw [execAmoAnd]
  simp (maxDischargeDepth := 12) [hs]
@[simp] theorem execAmoOr_keeps (rd ra rb : GReg) (o : BitVec 2) (dw : Bool) (s : State)
    (hs : s.mem.wf = true) : KeepsMem (execAmoOr rd ra rb o dw s) := by
  rw [execAmoOr]
  simp (maxDischargeDepth := 12) [hs]
@[simp] theorem execAmoXor_keeps (rd ra rb : GReg) (o : BitVec 2) (dw : Bool) (s : State)
    (hs : s.mem.wf = true) : KeepsMem (execAmoXor rd ra rb o dw s) := by
  rw [execAmoXor]
  simp (maxDischargeDepth := 12) [hs]
@[simp] theorem execAmoMin_keeps (rd ra rb : GReg) (o : BitVec 2) (dw : Bool) (s : State)
    (hs : s.mem.wf = true) : KeepsMem (execAmoMin rd ra rb o dw s) := by
  rw [execAmoMin]
  simp (maxDischargeDepth := 12) [hs]
@[simp] theorem execAmoMax_keeps (rd ra rb : GReg) (o : BitVec 2) (dw : Bool) (s : State)
    (hs : s.mem.wf = true) : KeepsMem (execAmoMax rd ra rb o dw s) := by
  rw [execAmoMax]
  simp (maxDischargeDepth := 12) [hs]
@[simp] theorem execAmoMinn_keeps (rd ra rb : GReg) (o : BitVec 2) (dw : Bool) (s : State)
    (hs : s.mem.wf = true) : KeepsMem (execAmoMinn rd ra rb o dw s) := by
  rw [execAmoMinn]
  simp (maxDischargeDepth := 12) [hs]
@[simp] theorem execAmoMaxn_keeps (rd ra rb : GReg) (o : BitVec 2) (dw : Bool) (s : State)
    (hs : s.mem.wf = true) : KeepsMem (execAmoMaxn rd ra rb o dw s) := by
  rw [execAmoMaxn]
  simp (maxDischargeDepth := 12) [hs]
@[simp] theorem execAmoSwap_keeps (rd ra rb : GReg) (o : BitVec 2) (dw : Bool) (s : State)
    (hs : s.mem.wf = true) : KeepsMem (execAmoSwap rd ra rb o dw s) := by
  rw [execAmoSwap]
  simp (maxDischargeDepth := 12) [hs]
@[simp] theorem execAmoFadd_keeps (rd ra rb : GReg) (o : BitVec 2) (dw : Bool) (s : State)
    (hs : s.mem.wf = true) : KeepsMem (execAmoFadd rd ra rb o dw s) := by
  rw [execAmoFadd]
  simp (maxDischargeDepth := 12) [hs]
@[simp] theorem execCas_keeps (rd ra rb : GReg) (o : BitVec 2) (dw : Bool) (s : State)
    (hs : s.mem.wf = true) : KeepsMem (execCas rd ra rb o dw s) := by
  rw [execCas]
  simp (maxDischargeDepth := 12) [hs]
@[simp] theorem State.fenceAct_keeps (s : State) (sc : BitVec 3) (strong : Bool) (hs : s.mem.wf = true) :
    (State.fenceAct s sc strong).mem.wf = true := by
  rw [State.fenceAct]
  simp (maxDischargeDepth := 12) [hs]
@[simp] theorem execFence_keeps (sc : BitVec 3) (s : State) (hs : s.mem.wf = true) : KeepsMem (execFence sc s) := by
  rw [execFence]
  simp (maxDischargeDepth := 12) [hs]
@[simp] theorem execFenceSc_keeps (sc : BitVec 3) (s : State) (hs : s.mem.wf = true) : KeepsMem (execFenceSc sc s) := by
  rw [execFenceSc]
  simp (maxDischargeDepth := 12) [hs]

/-! ## Split -/

@[simp] theorem State.withSlot_keeps (s : State) (slot : Word) (kind : Nat) (act : State → State) (hs : s.mem.wf = true) (hact : ∀ a0, a0.mem.wf =
    true → (act a0).mem.wf = true) : (State.withSlot s slot kind act).mem.wf = true := by
  rw [State.withSlot]
  simp (maxDischargeDepth := 12) [hs, hact]
@[simp] theorem State.inject_keeps (s : State) (kind : BitVec 8) (slot dst : Word) (o : BitVec 2) (sc : BitVec 3) (a : Access)
    (hs : s.mem.wf = true) : (State.inject s kind slot dst o sc a).mem.wf = true := by
  rw [State.inject]
  exact State.withSlot_keeps _ _ _ _ hs (fun t ht => by (try dsimp only); (repeat' split) <;> simp (maxDischargeDepth := 12) [ht])
@[simp] theorem State.whenRoom_keeps (s : State) (act : State → State) (hs : s.mem.wf = true)
    (hact : ∀ a0, a0.mem.wf = true → (act a0).mem.wf = true) : (State.whenRoom s act).mem.wf = true := by
  rw [State.whenRoom]
  simp (maxDischargeDepth := 12) [hs, hact]
@[simp] theorem execXld_keeps (ra rc : GReg) (o : BitVec 2) (sc : BitVec 3) (sz : BitVec 2) (s : State)
    (hs : s.mem.wf = true) : KeepsMem (execXld ra rc o sc sz s) := by
  rw [execXld]
  (try dsimp only); (repeat' split) <;> simp_all (maxDischargeDepth := 12)
@[simp] theorem execXst_keeps (rv ra rc : GReg) (o : BitVec 2) (sc : BitVec 3) (sz : BitVec 2) (s : State)
    (hs : s.mem.wf = true) : KeepsMem (execXst rv ra rc o sc sz s) := by
  rw [execXst]
  (try dsimp only); (repeat' split) <;> simp_all (maxDischargeDepth := 12)
@[simp] theorem execXvld_keeps (rv ra rc : GReg) (o : BitVec 2) (sc : BitVec 3) (s : State)
    (hs : s.mem.wf = true) : KeepsMem (execXvld rv ra rc o sc s) := by
  rw [execXvld]
  (try dsimp only); (repeat' split) <;> simp_all (maxDischargeDepth := 12)
@[simp] theorem execXvst_keeps (rv ra rc : GReg) (o : BitVec 2) (sc : BitVec 3) (s : State)
    (hs : s.mem.wf = true) : KeepsMem (execXvst rv ra rc o sc s) := by
  rw [execXvst]
  (try dsimp only); (repeat' split) <;> simp_all (maxDischargeDepth := 12)
@[simp] theorem State.xamo_keeps (s : State) (op : BitVec 4) (rv ra rc : GReg) (o : BitVec 2) (sc : BitVec 3) (dw : Bool)
    (hs : s.mem.wf = true) : KeepsMem (State.xamo s op rv ra rc o sc dw) := by
  rw [State.xamo]
  (try dsimp only); (repeat' split) <;> simp_all (maxDischargeDepth := 12)
@[simp] theorem execXamoAdd_keeps (rv ra rc : GReg) (o : BitVec 2) (sc : BitVec 3) (dw : Bool) (s : State)
    (hs : s.mem.wf = true) : KeepsMem (execXamoAdd rv ra rc o sc dw s) := by
  rw [execXamoAdd]
  simp (maxDischargeDepth := 12) [hs]
@[simp] theorem execXamoAnd_keeps (rv ra rc : GReg) (o : BitVec 2) (sc : BitVec 3) (dw : Bool) (s : State)
    (hs : s.mem.wf = true) : KeepsMem (execXamoAnd rv ra rc o sc dw s) := by
  rw [execXamoAnd]
  simp (maxDischargeDepth := 12) [hs]
@[simp] theorem execXamoOr_keeps (rv ra rc : GReg) (o : BitVec 2) (sc : BitVec 3) (dw : Bool) (s : State)
    (hs : s.mem.wf = true) : KeepsMem (execXamoOr rv ra rc o sc dw s) := by
  rw [execXamoOr]
  simp (maxDischargeDepth := 12) [hs]
@[simp] theorem execXamoXor_keeps (rv ra rc : GReg) (o : BitVec 2) (sc : BitVec 3) (dw : Bool) (s : State)
    (hs : s.mem.wf = true) : KeepsMem (execXamoXor rv ra rc o sc dw s) := by
  rw [execXamoXor]
  simp (maxDischargeDepth := 12) [hs]
@[simp] theorem execXamoMin_keeps (rv ra rc : GReg) (o : BitVec 2) (sc : BitVec 3) (dw : Bool) (s : State)
    (hs : s.mem.wf = true) : KeepsMem (execXamoMin rv ra rc o sc dw s) := by
  rw [execXamoMin]
  simp (maxDischargeDepth := 12) [hs]
@[simp] theorem execXamoMax_keeps (rv ra rc : GReg) (o : BitVec 2) (sc : BitVec 3) (dw : Bool) (s : State)
    (hs : s.mem.wf = true) : KeepsMem (execXamoMax rv ra rc o sc dw s) := by
  rw [execXamoMax]
  simp (maxDischargeDepth := 12) [hs]
@[simp] theorem execXamoMinn_keeps (rv ra rc : GReg) (o : BitVec 2) (sc : BitVec 3) (dw : Bool) (s : State)
    (hs : s.mem.wf = true) : KeepsMem (execXamoMinn rv ra rc o sc dw s) := by
  rw [execXamoMinn]
  simp (maxDischargeDepth := 12) [hs]
@[simp] theorem execXamoMaxn_keeps (rv ra rc : GReg) (o : BitVec 2) (sc : BitVec 3) (dw : Bool) (s : State)
    (hs : s.mem.wf = true) : KeepsMem (execXamoMaxn rv ra rc o sc dw s) := by
  rw [execXamoMaxn]
  simp (maxDischargeDepth := 12) [hs]
@[simp] theorem execXamoSwap_keeps (rv ra rc : GReg) (o : BitVec 2) (sc : BitVec 3) (dw : Bool) (s : State)
    (hs : s.mem.wf = true) : KeepsMem (execXamoSwap rv ra rc o sc dw s) := by
  rw [execXamoSwap]
  simp (maxDischargeDepth := 12) [hs]
@[simp] theorem execXamoFadd_keeps (rv ra rc : GReg) (o : BitVec 2) (sc : BitVec 3) (dw : Bool) (s : State)
    (hs : s.mem.wf = true) : KeepsMem (execXamoFadd rv ra rc o sc dw s) := by
  rw [execXamoFadd]
  simp (maxDischargeDepth := 12) [hs]
@[simp] theorem execXcas_keeps (rv ra rc : GReg) (o : BitVec 2) (sc : BitVec 3) (dw : Bool) (s : State)
    (hs : s.mem.wf = true) : KeepsMem (execXcas rv ra rc o sc dw s) := by
  rw [execXcas]
  (try dsimp only); (repeat' split) <;> simp_all (maxDischargeDepth := 12)
@[simp] theorem execPost_keeps (e : BitVec 4) (s : State) (hs : s.mem.wf = true) : KeepsMem (execPost e s) := by
  rw [execPost]
  (try dsimp only); (repeat' split) <;> simp_all (maxDischargeDepth := 12)
@[simp] theorem execQnext_keeps (rd : GReg) (s : State) (hs : s.mem.wf = true) : KeepsMem (execQnext rd s) := by
  rw [execQnext]
  (try dsimp only); (repeat' split) <;> simp_all (maxDischargeDepth := 12)
@[simp] theorem execXsend_keeps (r1 r2 r3 : GReg) (p : BitVec 8) (n : BitVec 5) (tag : BitVec 16) (s : State)
    (hs : s.mem.wf = true) : KeepsMem (execXsend r1 r2 r3 p n tag s) := by
  rw [execXsend]
  (try dsimp only); (repeat' split) <;> simp_all (maxDischargeDepth := 12)
@[simp] theorem State.injectCistern_keeps (s : State) (kind : BitVec 8) (slot dst : Word) (o : BitVec 2) (r : Req) (hs : s.mem.wf = true) :
    (State.injectCistern s kind slot dst o r).mem.wf = true := by
  rw [State.injectCistern]
  exact State.withSlot_keeps _ _ _ _ hs (fun t ht => by (try dsimp only); (repeat' split) <;> simp (maxDischargeDepth := 12) [ht])
@[simp] theorem execTst_keeps (r1 r2 r3 r4 : GReg) (s : State) (hs : s.mem.wf = true) : KeepsMem (execTst r1 r2 r3 r4 s) := by
  rw [execTst]
  (try dsimp only); (repeat' split) <;> simp_all (maxDischargeDepth := 12)
@[simp] theorem execTadv_keeps (r1 r2 r3 : GReg) (s : State) (hs : s.mem.wf = true) : KeepsMem (execTadv r1 r2 r3 s) := by
  rw [execTadv]
  (try dsimp only); (repeat' split) <;> simp_all (maxDischargeDepth := 12)
@[simp] theorem execTlow_keeps (r1 r2 r3 : GReg) (s : State) (hs : s.mem.wf = true) : KeepsMem (execTlow r1 r2 r3 s) := by
  rw [execTlow]
  (try dsimp only); (repeat' split) <;> simp_all (maxDischargeDepth := 12)
@[simp] theorem execTld_keeps (r1 r2 r3 r4 gc : GReg) (wm ik : Bool) (s : State)
    (hs : s.mem.wf = true) : KeepsMem (execTld r1 r2 r3 r4 gc wm ik s) := by
  rw [execTld]
  (try dsimp only); (repeat' split) <;> simp_all (maxDischargeDepth := 12)

/-! ## Matrix -/

@[simp] theorem State.enqueue_keeps (s : State) (k : MKind) (slot : Option Word) (hs : s.mem.wf = true) : (State.enqueue s k slot).mem.wf = true := by
  unfold State.enqueue
  (try dsimp only); split
  · simp [hs]
  · split
    · simp (maxDischargeDepth := 12) [hs]
    · exact State.withSlot_keeps _ _ _ _ hs (fun t ht => by simp (maxDischargeDepth := 12) [ht])
@[simp] theorem State.mma_keeps (s : State) (p : Fin 11) (ra rb rs : GReg) (kb ba bb : BitVec 2) (ap : Bool)
    (hs : s.mem.wf = true) : KeepsMem (State.mma s p ra rb rs kb ba bb ap) := by
  rw [State.mma]
  (try dsimp only); (repeat' split) <;> simp_all (maxDischargeDepth := 12)
@[simp] theorem execMmaE4m3E4m3_keeps (ra rb rs : GReg) (kb ba bb : BitVec 2) (ap : Bool) (s : State)
    (hs : s.mem.wf = true) : KeepsMem (execMmaE4m3E4m3 ra rb rs kb ba bb ap s) := by
  rw [execMmaE4m3E4m3]
  simp (maxDischargeDepth := 12) [hs]
@[simp] theorem execMmaE4m3E5m2_keeps (ra rb rs : GReg) (kb ba bb : BitVec 2) (ap : Bool) (s : State)
    (hs : s.mem.wf = true) : KeepsMem (execMmaE4m3E5m2 ra rb rs kb ba bb ap s) := by
  rw [execMmaE4m3E5m2]
  simp (maxDischargeDepth := 12) [hs]
@[simp] theorem execMmaE5m2E4m3_keeps (ra rb rs : GReg) (kb ba bb : BitVec 2) (ap : Bool) (s : State)
    (hs : s.mem.wf = true) : KeepsMem (execMmaE5m2E4m3 ra rb rs kb ba bb ap s) := by
  rw [execMmaE5m2E4m3]
  simp (maxDischargeDepth := 12) [hs]
@[simp] theorem execMmaE5m2E5m2_keeps (ra rb rs : GReg) (kb ba bb : BitVec 2) (ap : Bool) (s : State)
    (hs : s.mem.wf = true) : KeepsMem (execMmaE5m2E5m2 ra rb rs kb ba bb ap s) := by
  rw [execMmaE5m2E5m2]
  simp (maxDischargeDepth := 12) [hs]
@[simp] theorem execMmaBf16Bf16_keeps (ra rb rs : GReg) (kb ba bb : BitVec 2) (ap : Bool) (s : State)
    (hs : s.mem.wf = true) : KeepsMem (execMmaBf16Bf16 ra rb rs kb ba bb ap s) := by
  rw [execMmaBf16Bf16]
  simp (maxDischargeDepth := 12) [hs]
@[simp] theorem execMmaF16F16_keeps (ra rb rs : GReg) (kb ba bb : BitVec 2) (ap : Bool) (s : State)
    (hs : s.mem.wf = true) : KeepsMem (execMmaF16F16 ra rb rs kb ba bb ap s) := by
  rw [execMmaF16F16]
  simp (maxDischargeDepth := 12) [hs]
@[simp] theorem execMmaI8I8_keeps (ra rb rs : GReg) (kb ba bb : BitVec 2) (ap : Bool) (s : State)
    (hs : s.mem.wf = true) : KeepsMem (execMmaI8I8 ra rb rs kb ba bb ap s) := by
  rw [execMmaI8I8]
  simp (maxDischargeDepth := 12) [hs]
@[simp] theorem execMmaI8T2_keeps (ra rb rs : GReg) (kb ba bb : BitVec 2) (ap : Bool) (s : State)
    (hs : s.mem.wf = true) : KeepsMem (execMmaI8T2 ra rb rs kb ba bb ap s) := by
  rw [execMmaI8T2]
  simp (maxDischargeDepth := 12) [hs]
@[simp] theorem execMmaE8oI8_keeps (ra rb rs : GReg) (kb ba bb : BitVec 2) (ap : Bool) (s : State)
    (hs : s.mem.wf = true) : KeepsMem (execMmaE8oI8 ra rb rs kb ba bb ap s) := by
  rw [execMmaE8oI8]
  simp (maxDischargeDepth := 12) [hs]
@[simp] theorem execMmaE8oE4m3_keeps (ra rb rs : GReg) (kb ba bb : BitVec 2) (ap : Bool) (s : State)
    (hs : s.mem.wf = true) : KeepsMem (execMmaE8oE4m3 ra rb rs kb ba bb ap s) := by
  rw [execMmaE8oE4m3]
  simp (maxDischargeDepth := 12) [hs]
@[simp] theorem execMmaE8oBf16_keeps (ra rb rs : GReg) (kb ba bb : BitVec 2) (ap : Bool) (s : State)
    (hs : s.mem.wf = true) : KeepsMem (execMmaE8oBf16 ra rb rs kb ba bb ap s) := by
  rw [execMmaE8oBf16]
  simp (maxDischargeDepth := 12) [hs]
@[simp] theorem execMldb_keeps (r1 r2 r3 : GReg) (s : State) (hs : s.mem.wf = true) : KeepsMem (execMldb r1 r2 r3 s) := by
  rw [execMldb]
  (try dsimp only); (repeat' split) <;> simp_all (maxDischargeDepth := 12)
@[simp] theorem execMzero_keeps (s : State) (hs : s.mem.wf = true) : KeepsMem (execMzero s) := by
  rw [execMzero]
  (try dsimp only); (repeat' split) <;> simp_all (maxDischargeDepth := 12)
@[simp] theorem execMdrain_keeps (r1 r2 r3 r4 : GReg) (ty act : BitVec 4) (s : State)
    (hs : s.mem.wf = true) : KeepsMem (execMdrain r1 r2 r3 r4 ty act s) := by
  rw [execMdrain]
  (try dsimp only); (repeat' split) <;> simp_all (maxDischargeDepth := 12)
@[simp] theorem State.onCmdSlice_keeps (s : State) (m : MCmd) (f : Slice → Slice) (hs : s.mem.wf = true) :
    (State.onCmdSlice s m f).mem.wf = true := by
  rw [State.onCmdSlice]
  simp (maxDischargeDepth := 12) [hs]
@[simp] theorem State.goneDone_keeps (s : State) (co : CoreId) (m : MCmd) (hs : s.mem.wf = true) : (State.goneDone s co m).mem.wf = true := by
  rw [State.goneDone]
  (try dsimp only); (repeat' split) <;> simp (maxDischargeDepth := 12) [hs]
@[simp] theorem State.cmdDone_keeps (s : State) (co : CoreId) (m : MCmd) (fault : Bool) (hs : s.mem.wf = true) :
    (State.cmdDone s co m fault).mem.wf = true := by
  rw [State.cmdDone]
  simp (maxDischargeDepth := 12) [hs]
@[simp] theorem State.cmdFault_keeps (s : State) (co : CoreId) (m : MCmd) (i : Info) (hs : s.mem.wf = true) :
    (State.cmdFault s co m i).mem.wf = true := by
  rw [State.cmdFault]
  simp (maxDischargeDepth := 12) [hs]
theorem memWf_foldlMem {α : Type} (f : Mem → α → Mem) (hf : ∀ m a, m.wf = true → (f m a).wf = true) (l : List α) (m : Mem) (h : m.wf = true) :
    (l.foldl f m).wf = true := by
  induction l generalizing m with
  | nil => exact h
  | cons a l ih => exact ih _ (hf _ _ h)
@[simp] theorem State.asRead_keeps (s : State) (co : CoreId) (m : MCmd) (hs : s.mem.wf = true) : (State.asRead s co m).mem.wf = true := by
  rw [State.asRead]
  split
  · exact hs
  · exact memWf_foldlMem _ (fun t k ht => by split <;> simp [ht]) _ _ hs
@[simp] theorem State.runMma_keeps (s : State) (co : CoreId) (m : MCmd) (p : Nat) (ga gb gs : Word) (table : Bool) (kk ba bb : Nat) (ap : Bool)
    (hs : s.mem.wf = true) : (State.runMma s co m p ga gb gs table kk ba bb ap).mem.wf = true := by
  rw [State.runMma]
  (try dsimp only); (repeat' split) <;> simp (maxDischargeDepth := 12) [hs]
@[simp] theorem State.wipeShare_keeps (s : State) (co : CoreId) (hs : s.mem.wf = true) : (State.wipeShare s co).mem.wf = true := by
  rw [State.wipeShare]
  (try dsimp only); (repeat' split) <;> simp_all (maxDischargeDepth := 12)
@[simp] theorem State.runMldb_keeps (s : State) (co : CoreId) (m : MCmd) (gs : Word) (go gl : Nat) (hs : s.mem.wf = true) :
    (State.runMldb s co m gs go gl).mem.wf = true := by
  rw [State.runMldb]
  (try dsimp only); (repeat' split) <;> simp_all (maxDischargeDepth := 12)
@[simp] theorem State.runMzero_keeps (s : State) (co : CoreId) (m : MCmd) (hs : s.mem.wf = true) : (State.runMzero s co m).mem.wf = true := by
  rw [State.runMzero]
  simp (maxDischargeDepth := 12) [hs]
@[simp] theorem State.runMdrain_keeps (s : State) (co : CoreId) (m : MCmd) (gt : Word) (sd sq : BitVec 8) (tag : BitVec 16) (slot : Word) (ty act : BitVec 4) (e4n : Bool) (hs : s.mem.wf = true) : (State.runMdrain s co m gt sd sq tag slot ty act e4n).mem.wf = true := by
  rw [State.runMdrain]
  simp (maxDischargeDepth := 12) [hs]
@[simp] theorem State.discard_keeps (s : State) (co : CoreId) (m : MCmd) (hs : s.mem.wf = true) : (State.discard s co m).mem.wf = true := by
  rw [State.discard]
  split <;> simp (maxDischargeDepth := 12) [hs]
@[simp] theorem execMmaExecution_keeps (co : CoreId) (s : State) (hs : s.mem.wf = true) : KeepsMem (execMmaExecution co s) := by
  rw [execMmaExecution]
  (try dsimp only); (repeat' split) <;> simp (maxDischargeDepth := 12) [hs]
@[simp] theorem execMldbExecution_keeps (co : CoreId) (s : State) (hs : s.mem.wf = true) : KeepsMem (execMldbExecution co s) := by
  rw [execMldbExecution]
  (try dsimp only); (repeat' split) <;> simp (maxDischargeDepth := 12) [hs]
@[simp] theorem execMzeroExecution_keeps (co : CoreId) (s : State) (hs : s.mem.wf = true) : KeepsMem (execMzeroExecution co s) := by
  rw [execMzeroExecution]
  (try dsimp only); (repeat' split) <;> simp (maxDischargeDepth := 12) [hs]
@[simp] theorem execMdrainExecution_keeps (co : CoreId) (s : State) (hs : s.mem.wf = true) : KeepsMem (execMdrainExecution co s) := by
  rw [execMdrainExecution]
  (try dsimp only); (repeat' split) <;> simp (maxDischargeDepth := 12) [hs]
@[simp] theorem execBShareClear_keeps (co : CoreId) (s : State) (hs : s.mem.wf = true) : KeepsMem (execBShareClear co s) := by
  rw [execBShareClear]
  (try dsimp only); (repeat' split) <;> simp_all (maxDischargeDepth := 12)
@[simp] theorem State.putUnit_keeps (s : State) (u : MUnit) (hs : s.mem.wf = true) : (State.putUnit s u).mem.wf = true := by
  rw [State.putUnit]
  simp (maxDischargeDepth := 12) [hs]
@[simp] theorem State.unitBegin_keeps (s : State) (u : MUnit) (q pos left cyc : Nat) (hs : s.mem.wf = true) :
    (State.unitBegin s u q pos left cyc).mem.wf = true := by
  rw [State.unitBegin]
  split <;> simp (maxDischargeDepth := 12) [hs]
@[simp] theorem State.unitStart_keeps (s : State) (hs : s.mem.wf = true) : (State.unitStart s).mem.wf = true := by
  rw [State.unitStart]
  (try dsimp only); (repeat' split) <;> simp (maxDischargeDepth := 12) [hs]

end Sys2Proof.Machine
end

