-- ==== Sys2Proof/Laws/KeepsFabric.lean ====
section
/-! SUPPORT. Laws.KeepsFabric: every operation keeps the canonical form of the byte memory (R3): requests, packets, cisterns and pumps. -/

namespace Sys2Proof.Machine
set_option Elab.async false
set_option linter.all false

/-! ## Requests -/

@[simp] theorem State.onOp_keeps (s : State) (k : Nat) (name : String) (f : Op → Out) (hs : s.mem.wf = true)
    (hf : ∀ a0, KeepsMem (f a0)) : KeepsMem (State.onOp s k name f) := by
  rw [State.onOp]
  split <;> simp (maxDischargeDepth := 12) [hs, hf]
@[simp] theorem State.dropOp_keeps (s : State) (k : Nat) (hs : s.mem.wf = true) : (State.dropOp s k).mem.wf = true := by
  rw [State.dropOp]
  simp (maxDischargeDepth := 12) [hs]
@[simp] theorem State.perform_keeps (s : State) (key : Nat) (a : Access) (hs : s.mem.wf = true) : (State.perform s key a).1.mem.wf = true := by
  rw [State.perform]
  (try dsimp only); (repeat' split) <;> simp (maxDischargeDepth := 12) [hs]
@[simp] theorem State.cache_keeps (s : State) (st : Nat × Nat) (e : Eff) (rgn : BitVec 12) (va : Nat) (w : Walked) (acc : Nat) (hs : s.mem.wf = true) :
    (State.cache s st e rgn va w acc).mem.wf = true := by
  rw [State.cache]
  simp (maxDischargeDepth := 12) [hs]
@[simp] theorem State.goesAway_keeps (s : State) (o : Op) (st : Nat × Nat) (p : Packet) (host : Bool) (a : Word) (hs : s.mem.wf = true) :
    (State.goesAway s o st p host a).mem.wf = true := by
  rw [State.goesAway]
  (try dsimp only); (repeat' split) <;> simp (maxDischargeDepth := 12) [hs]
@[simp] theorem State.stationTakes_keeps (s : State) (o : Op) (a : Access) (hs : s.mem.wf = true) : (State.stationTakes s o a).mem.wf = true := by
  rw [State.stationTakes]
  dsimp only
  cases s.stationRefusal (coreStation o.iss.core).1 (coreStation o.iss.core).2 o.iss.rgn o.smod o.host a.kind.toNat with
  | some sub => exact State.toStage_keeps _ _ _ hs
  | none =>
    refine memWf_ite _ _ _ (State.toStage_keeps _ _ _ hs) (memWf_ite _ _ _ (State.toStage_keeps _ _ _ hs) ?_)
    cases s.translate (coreStation o.iss.core) (s.effFor o.iss) (a.addr.toNat % 2 ^ 57) (accOf a) with
    | bad c => exact State.toStage_keeps _ _ _ (State.draw_keeps _ hs)
    | ok w =>
      have ht := State.cache_keeps (s.draw.setAcDt w (accOf a)) (coreStation o.iss.core) (s.effFor o.iss) o.iss.rgn (a.addr.toNat % 2 ^ 57) w (accOf a)
        (State.setAcDt_keeps _ _ _ (State.draw_keeps _ hs))
      dsimp only
      generalize (s.draw.setAcDt w (accOf a)).cache (coreStation o.iss.core) (s.effFor o.iss) o.iss.rgn (a.addr.toNat % 2 ^ 57) w (accOf a) = t at ht ⊢
      refine memWf_ite _ _ _ (State.goesAway_keeps _ _ _ _ _ _ ht) (memWf_ite _ _ _ (State.toStage_keeps _ _ _ ht)
        (memWf_ite _ _ _ ?_ (State.toStage_keeps _ _ _ (memWf_ite _ _ _ (State.dropCopies_keeps _ _ _ _ ht) ht))))
      cases t.fromCopies (coreStation o.iss.core) (hbmKey t.modId w.phys) a.size with
      | none => exact State.toStage_keeps _ _ _ (State.draw_keeps _ ht)
      | some v => exact State.toStage_keeps _ _ _ (State.draw_keeps _ ht)
@[simp] theorem execGlobalRequestTranslation_keeps (k : Nat) (s : State) (hs : s.mem.wf = true) : KeepsMem (execGlobalRequestTranslation k s) := by
  rw [execGlobalRequestTranslation]
  (try dsimp only); apply State.onOp_keeps <;> first | assumption | (intros; (try dsimp only); (repeat' split) <;> simp_all (maxDischargeDepth := 12))
@[simp] theorem State.homeTakes_keeps (s : State) (o : Op) (a : Access) (key : Nat) (mc : Bool) (hs : s.mem.wf = true) :
    (State.homeTakes s o a key mc).mem.wf = true := by
  rw [State.homeTakes]
  split <;> simp (maxDischargeDepth := 12) [hs]
@[simp] theorem execHomeRequest_keeps (k : Nat) (s : State) (hs : s.mem.wf = true) : KeepsMem (execHomeRequest k s) := by
  rw [execHomeRequest]
  (try dsimp only); apply State.onOp_keeps <;> first | assumption | (intros; (try dsimp only); (repeat' split) <;> simp_all (maxDischargeDepth := 12))
@[simp] theorem execReplicaStore_keeps (k : Nat) (s : State) (hs : s.mem.wf = true) : KeepsMem (execReplicaStore k s) := by
  rw [execReplicaStore]
  refine State.onOp_keeps _ _ _ _ hs fun o => ?_
  cases o.req <;> cases o.stage <;> try trivial
  · dsimp only
    split
    · trivial
    split
    · exact State.toStage_keeps _ _ _ hs
    · exact State.toStage_keeps _ _ _ (State.perform_keeps _ _ _ hs)
  · exact State.toStage_keeps _ _ _ (State.atReplica_keeps _ _ _ _ hs)
@[simp] theorem State.invalidate_keeps (s : State) (v : Nat) (hs : s.mem.wf = true) : (State.invalidate s v).mem.wf = true := by
  rw [State.invalidate]
  simp (maxDischargeDepth := 12) [hs]
@[simp] theorem execTranslationInvalidation_keeps (k : Nat) (s : State) (hs : s.mem.wf = true) : KeepsMem (execTranslationInvalidation k s) := by
  rw [execTranslationInvalidation]
  (try dsimp only); apply State.onOp_keeps <;> first | assumption | (intros; (try dsimp only); (repeat' split) <;> simp_all (maxDischargeDepth := 12))
@[simp] theorem execCoreSpaceRequest_keeps (k : Nat) (s : State) (hs : s.mem.wf = true) : KeepsMem (execCoreSpaceRequest k s) := by
  rw [execCoreSpaceRequest]
  (try dsimp only); apply State.onOp_keeps <;> first | assumption | (intros; (try dsimp only); (repeat' split) <;> simp_all (maxDischargeDepth := 12))
@[simp] theorem State.putPump_keeps (s : State) (p : Pump) (hs : s.mem.wf = true) : (State.putPump s p).mem.wf = true := by
  rw [State.putPump]
  simp (maxDischargeDepth := 12) [hs]
@[simp] theorem State.jobAnswer_keeps (s : State) (u : PumpId) (o : Op) (x : Answer) (hs : s.mem.wf = true) : (State.jobAnswer s u o x).mem.wf =
    true := by
  rw [State.jobAnswer]
  simp (maxDischargeDepth := 12) [hs]
@[simp] theorem State.onIssuer_keeps (s : State) (i : Issuer) (f : Ctx → Ctx) (hs : s.mem.wf = true) : (State.onIssuer s i f).mem.wf = true := by
  rw [State.onIssuer]
  simp (maxDischargeDepth := 12) [hs]
@[simp] theorem State.respond_keeps (s : State) (o : Op) (n : Nat) (x : Answer) (hs : s.mem.wf = true) : (State.respond s o n x).mem.wf = true := by
  unfold State.respond
  (try dsimp only); (repeat' split) <;> simp (maxDischargeDepth := 12) [hs]
@[simp] theorem State.acknowledge_keeps (s : State) (o : Op) (hs : s.mem.wf = true) : (State.acknowledge s o).mem.wf = true := by
  rw [State.acknowledge]
  (try dsimp only); (repeat' split) <;> simp (maxDischargeDepth := 12) [hs]
@[simp] theorem State.accessEnds_keeps (s : State) (o : Op) (a : Access) (x : Answer) (hs : s.mem.wf = true) :
    (State.accessEnds s o a x).mem.wf = true := by
  unfold State.accessEnds
  (try dsimp only); (repeat' split) <;> simp (maxDischargeDepth := 12) [hs]
@[simp] theorem execSplitPhaseCompletion_keeps (k : Nat) (ext : Answer) (s : State)
    (hs : s.mem.wf = true) : KeepsMem (execSplitPhaseCompletion k ext s) := by
  rw [execSplitPhaseCompletion]
  (try dsimp only); apply State.onOp_keeps <;> first | assumption | (intros; (try dsimp only); (repeat' split) <;> simp_all (maxDischargeDepth := 12))
@[simp] theorem execKickWordStore_keeps (k : Nat) (s : State) (hs : s.mem.wf = true) : KeepsMem (execKickWordStore k s) := by
  rw [execKickWordStore]
  (try dsimp only); apply State.onOp_keeps <;> first | assumption | (intros; (try dsimp only); (repeat' split) <;> simp_all (maxDischargeDepth := 12))

/-! ## Fabric -/

@[simp] theorem State.onFlight_keeps (s : State) (k : Nat) (name : String) (f : Flight → Out) (hs : s.mem.wf = true)
    (hf : ∀ a0, KeepsMem (f a0)) : KeepsMem (State.onFlight s k name f) := by
  rw [State.onFlight]
  split <;> simp (maxDischargeDepth := 12) [hs, hf]
@[simp] theorem State.dropFlight_keeps (s : State) (k : Nat) (hs : s.mem.wf = true) : (State.dropFlight s k).mem.wf = true := by
  rw [State.dropFlight]
  simp (maxDischargeDepth := 12) [hs]
@[simp] theorem State.putFlight_keeps (s : State) (y : Flight) (hs : s.mem.wf = true) : (State.putFlight s y).mem.wf = true := by
  rw [State.putFlight]
  simp (maxDischargeDepth := 12) [hs]
@[simp] theorem State.keepFlight_keeps (s : State) (y : Flight) (hs : s.mem.wf = true) : (State.keepFlight s y).mem.wf = true := by
  rw [State.keepFlight]
  simp (maxDischargeDepth := 12) [hs]
@[simp] theorem State.ghost_keeps (s : State) (x : Flight) (hs : s.mem.wf = true) : (State.ghost s x).mem.wf = true := by
  rw [State.ghost]
  (try dsimp only); (repeat' split) <;> simp (maxDischargeDepth := 12) [hs]
@[simp] theorem State.misroute_keeps (s : State) (x : Flight) (hs : s.mem.wf = true) : (State.misroute s x).mem.wf = true := by
  rw [State.misroute]
  simp (maxDischargeDepth := 12) [hs]
@[simp] theorem State.carries_keeps (s : State) (row col out chan : Nat) (hs : s.mem.wf = true) : (State.carries s row col out chan).mem.wf = true := by
  rw [State.carries]
  (try dsimp only); (repeat' split) <;> simp (maxDischargeDepth := 12) [hs]
@[simp] theorem State.grant_keeps (s : State) (x : Flight) (out : Nat) (hs : s.mem.wf = true) : (State.grant s x out).mem.wf = true := by
  rw [State.grant]
  simp (maxDischargeDepth := 12) [hs]
@[simp] theorem State.takeSched_keeps (s : State) (x : Flight) (out : Nat) (hs : s.mem.wf = true) : (State.takeSched s x out).1.mem.wf = true := by
  rw [State.takeSched]
  dsimp only
  split
  · exact hs
  split
  · exact State.putFlight_keeps _ _ hs
  split
  · exact State.ghost_keeps _ _ (State.bump_keeps _ _ _ hs)
  · exact memWf_foldl _ (fun s a h => State.ghost_keeps _ _ h) _ _ (State.bump_keeps _ _ _ hs)
@[simp] theorem State.takeOutput_keeps (s : State) (x : Flight) (out : Nat) (hs : s.mem.wf = true) : (State.takeOutput s x out).1.mem.wf = true := by
  rw [State.takeOutput]
  split
  · exact State.takeSched_keeps _ _ _ hs
  · exact State.grant_keeps _ _ _ hs
@[simp] theorem State.hopTo_keeps (s : State) (x : Flight) (dir : Nat) (pkt : Packet) (hs : s.mem.wf = true) :
    (State.hopTo s x dir pkt).mem.wf = true := by
  rw [State.hopTo]
  (try dsimp only); (repeat' split) <;> simp (maxDischargeDepth := 12) [hs]
@[simp] theorem State.foreignOp_keeps (s : State) (x : Flight) (a : Ask) (core : Bool) (hs : s.mem.wf = true) :
    (State.foreignOp s x a core).mem.wf = true := by
  unfold State.foreignOp
  (try dsimp only); (repeat' split) <;> simp (maxDischargeDepth := 12) [hs]
@[simp] theorem State.arrive_keeps (s : State) (x : Flight) (port : Nat) (hs : s.mem.wf = true) : (State.arrive s x port).mem.wf = true := by
  rw [State.arrive]
  (try dsimp only); (repeat' split) <;> simp (maxDischargeDepth := 12) [hs]
@[simp] theorem State.exits_keeps (s : State) (x : Flight) (hs : s.mem.wf = true) : (State.exits s x).mem.wf = true := by
  rw [State.exits]
  (try dsimp only); (repeat' split) <;> simp (maxDischargeDepth := 12) [hs]
@[simp] theorem State.copyOut_keeps (s : State) (c : Flight) (k : Nat) (hs : s.mem.wf = true) : (State.copyOut s c k).mem.wf = true := by
  rw [State.copyOut]
  exact memWf_ite _ _ _ (State.hopTo_keeps _ _ _ _ hs) (State.arrive_keeps _ _ _ hs)
@[simp] theorem State.copyTo_keeps (s : State) (x : Flight) (k : Nat) (hs : s.mem.wf = true) : (State.copyTo s x k).mem.wf = true := by
  rw [State.copyTo]
  exact State.copyOut_keeps _ _ _ hs
@[simp] theorem State.replicate_keeps (s : State) (x : Flight) (ports : List Nat) (hs : s.mem.wf = true) : (State.replicate s x ports).mem.wf = true := by
  rw [State.replicate]
  have h := memWf_foldl (fun t k => t.copyTo x k) (fun s a h => State.copyTo_keeps _ _ _ h) ports s hs
  split <;> simp (maxDischargeDepth := 12) [h]
@[simp] theorem State.multicast_keeps (s : State) (x : Flight) (hs : s.mem.wf = true) : (State.multicast s x).mem.wf = true := by
  rw [State.multicast]
  split
  · exact State.copyOut_keeps _ _ _ hs
  · exact memWf_ite _ _ _ (memWf_foldl _ (fun t k ht => State.bump_keeps _ _ _ ht) _ _ (State.replicate_keeps _ _ _ hs))
      (State.bump_keeps _ _ _ (State.ghost_keeps _ _ hs))
@[simp] theorem State.forward_keeps (s : State) (x : Flight) (hs : s.mem.wf = true) : (State.forward s x).mem.wf = true := by
  rw [State.forward]
  (try dsimp only); (repeat' split) <;> simp (maxDischargeDepth := 12) [hs]
@[simp] theorem execRouterForward_keeps (k : Nat) (s : State) (hs : s.mem.wf = true) : KeepsMem (execRouterForward k s) := by
  rw [execRouterForward]
  (try dsimp only); apply State.onFlight_keeps <;> first | assumption | (intros; (try dsimp only); (repeat' split) <;> simp_all (maxDischargeDepth := 12))
@[simp] theorem State.seatMoves_keeps (s : State) (k i : Nat) (hs : s.mem.wf = true) : (State.seatMoves s k i).mem.wf = true := by
  rw [State.seatMoves]
  split
  · exact hs
  split
  · exact hs
  dsimp only
  exact memWf_ite _ _ _ hs (State.keepFlight_keeps _ _ (State.carries_keeps _ _ _ _ _ hs))
@[simp] theorem State.enters_keeps (s : State) (k : Nat) (hs : s.mem.wf = true) : (State.enters s k).mem.wf = true := by
  rw [State.enters]
  (try dsimp only); (repeat' split) <;> simp (maxDischargeDepth := 12) [hs]
@[simp] theorem State.copyFlit_keeps (s : State) (k : Nat) (hs : s.mem.wf = true) : (State.copyFlit s k).mem.wf = true := by
  rw [State.copyFlit]
  split
  · exact hs
  dsimp only
  split
  · exact hs
  · exact memWf_foldl _ (fun s a h => State.keepFlight_keeps _ _ h) _ _
      (memWf_foldl _ (fun s a h => State.carries_keeps _ _ _ _ _ h) _ _ (State.keepFlight_keeps _ _ hs))
@[simp] theorem State.flitsOf_keeps (s : State) (x : Flight) (hs : s.mem.wf = true) : (State.flitsOf s x).mem.wf = true := by
  rw [State.flitsOf]
  exact State.enters_keeps _ _ (memWf_foldl _ (fun s a h => State.seatMoves_keeps _ _ _ h) _ _
    (memWf_ite _ _ _ (State.copyFlit_keeps _ _ hs) hs))
@[simp] theorem State.openCycle_keeps (s : State) (hs : s.mem.wf = true) : (State.openCycle s).mem.wf = true := by
  rw [State.openCycle]
  refine memWf_ite _ _ _ hs ?_
  exact memWf_foldl _ (fun s a h => State.flitsOf_keeps _ _ h) _ _ (memWf_foldl _ (fun s a h => State.flitsOf_keeps _ _ h) _ _ hs)
@[simp] theorem State.refuseIngress_keeps (s : State) (row col : Nat) (p : Packet) (hs : s.mem.wf = true) : (State.refuseIngress s row col p).mem.wf = true := by
  rw [State.refuseIngress]
  (try dsimp only); (repeat' split) <;> simp (maxDischargeDepth := 12) [hs]
@[simp] theorem execModuleIngress_keeps (p0 : Packet) (port : BitVec 6) (rq : Option Ask) (s : State) (hs : s.mem.wf = true) : KeepsMem
    (execModuleIngress p0 port rq s) := by
  rw [execModuleIngress]
  (try dsimp only); (repeat' split) <;> simp (maxDischargeDepth := 12) [hs]
@[simp] theorem execFlitReplay_keeps (slab : BitVec 6) (k : Nat) (s : State) (hs : s.mem.wf = true) : KeepsMem (execFlitReplay slab k s) := by
  rw [execFlitReplay]
  (try dsimp only); apply State.onFlight_keeps <;> first | assumption | (intros; (try dsimp only); (repeat' split) <;> simp_all (maxDischargeDepth := 12))
@[simp] theorem execLinkControlFlit_keeps (port : BitVec 6) (credits : CreditReturn) (s : State)
    (hs : s.mem.wf = true) : KeepsMem (execLinkControlFlit port credits s) := by
  rw [execLinkControlFlit]
  simp (maxDischargeDepth := 12) [hs]
@[simp] theorem execLaneSparing_keeps (slab : BitVec 6) (s : State) (hs : s.mem.wf = true) : KeepsMem (execLaneSparing slab s) := by
  rw [execLaneSparing]
  simp (maxDischargeDepth := 12) [hs]
@[simp] theorem execOffModulePortTraining_keeps (port : BitVec 6) (lp : Nat) (s : State)
    (hs : s.mem.wf = true) : KeepsMem (execOffModulePortTraining port lp s) := by
  rw [execOffModulePortTraining]
  split <;> simp (maxDischargeDepth := 12) [hs]
@[simp] theorem execXsendDeparture_keeps (co : CoreId) (s : State) (hs : s.mem.wf = true) : KeepsMem (execXsendDeparture co s) := by
  rw [execXsendDeparture]
  (try dsimp only); (repeat' split) <;> simp (maxDischargeDepth := 12) [hs]
@[simp] theorem State.deliverFlit_keeps (s : State) (x : Flight) (co : CoreId) (off : Nat) (hs : s.mem.wf = true) : (State.deliverFlit s x co off).mem.wf = true := by
  rw [State.deliverFlit]
  simp (maxDischargeDepth := 12) [hs]
@[simp] theorem State.deliverAt_keeps (s : State) (x : Flight) (co : CoreId) (off : Nat) (hs : s.mem.wf = true) : (State.deliverAt s x co off).mem.wf = true := by
  rw [State.deliverAt]
  (try dsimp only); (repeat' split) <;> simp (maxDischargeDepth := 12) [hs]
@[simp] theorem State.deliver_keeps (s : State) (x : Flight) (hs : s.mem.wf = true) : (State.deliver s x).mem.wf = true := by
  rw [State.deliver]
  (try dsimp only); (repeat' split) <;> simp (maxDischargeDepth := 12) [hs]
@[simp] theorem execScheduledDelivery_keeps (k : Nat) (s : State) (hs : s.mem.wf = true) : KeepsMem (execScheduledDelivery k s) := by
  rw [execScheduledDelivery]
  (try dsimp only); apply State.onFlight_keeps <;> first | assumption | (intros; (try dsimp only); (repeat' split) <;> simp_all (maxDischargeDepth := 12))
@[simp] theorem State.refuseMessage_keeps (s : State) (p : Packet) (sub : Nat) (iss : Option Issuer) (hs : s.mem.wf = true) :
    (State.refuseMessage s p sub iss).mem.wf = true := by
  unfold State.refuseMessage
  (try dsimp only); (repeat' split) <;> simp (maxDischargeDepth := 12) [hs]
@[simp] theorem State.acceptMessage_keeps (s : State) (co : CoreId) (p : Packet) (hs : s.mem.wf = true) :
    (State.acceptMessage s co p).mem.wf = true := by
  rw [State.acceptMessage]
  simp (maxDischargeDepth := 12) [hs]
@[simp] theorem execMessageArrival_keeps (k : Nat) (s : State) (hs : s.mem.wf = true) : KeepsMem (execMessageArrival k s) := by
  rw [execMessageArrival]
  (try dsimp only); apply State.onFlight_keeps <;> first | assumption | (intros; (try dsimp only); (repeat' split) <;> simp_all (maxDischargeDepth := 12))
@[simp] theorem State.nowReady_keeps (s : State) (co : CoreId) (i : Fin 16) (hs : s.mem.wf = true) : (State.nowReady s co i).mem.wf = true := by
  rw [State.nowReady]
  (try dsimp only); (repeat' split) <;> simp_all (maxDischargeDepth := 12)
@[simp] theorem State.takesStart_keeps (s : State) (co : CoreId) (i : Fin 16) (hs : s.mem.wf = true) : (State.takesStart s co i).mem.wf = true := by
  rw [State.takesStart]
  have hu := State.modSlice_keeps s co i (fun y => { y with started := true }) hs
  (try dsimp only); (repeat' split) <;> simp (maxDischargeDepth := 12) [hu]
@[simp] theorem execStartMessage_keeps (k : Nat) (s : State) (hs : s.mem.wf = true) : KeepsMem (execStartMessage k s) := by
  rw [execStartMessage]
  (try dsimp only); apply State.onFlight_keeps <;> first | assumption | (intros; (try dsimp only); (repeat' split) <;> simp_all (maxDischargeDepth := 12))

/-! ## Cistern -/

@[simp] theorem State.putPool_keeps (s : State) (p : Pool) (hs : s.mem.wf = true) : (State.putPool s p).mem.wf = true := by
  rw [State.putPool]
  simp (maxDischargeDepth := 12) [hs]
@[simp] theorem State.answer_keeps (s : State) (o : Op) (a : Answer) (hs : s.mem.wf = true) : (State.answer s o a).mem.wf = true := by
  rw [State.answer]
  simp (maxDischargeDepth := 12) [hs]
@[simp] theorem State.heldRecord_keeps (s : State) (p : Pool) (o : Op) (hs : s.mem.wf = true) : (State.heldRecord s p o).mem.wf = true := by
  rw [State.heldRecord]
  simp (maxDischargeDepth := 12) [hs]
@[simp] theorem State.takeEntry_keeps (s : State) (p : Pool) (o : Op) (hs : s.mem.wf = true) : (State.takeEntry s p o).mem.wf = true := by
  rw [State.takeEntry]
  simp (maxDischargeDepth := 12) [hs]
@[simp] theorem State.answerLoad_keeps (s : State) (p : Pool) (o : Op) (x : Look) (hs : s.mem.wf = true) :
    (State.answerLoad s p o x).mem.wf = true := by
  unfold State.answerLoad
  split <;> simp (maxDischargeDepth := 12) [hs]
@[simp] theorem State.releaseLoads_keeps (s : State) (p : Pool) (k : Key) (hs : s.mem.wf = true) : (State.releaseLoads s p k).mem.wf = true := by
  rw [State.releaseLoads]
  refine memWf_foldl _ (fun s o h => ?_) _ _ (State.putPool_keeps _ _ hs)
  cases o.req <;> first | exact h | exact State.answerLoad_keeps _ _ _ _ h
@[simp] theorem State.served_keeps (s : State) (p : Pool) (o : Op) (hs : s.mem.wf = true) : (State.served s p o).mem.wf = true := by
  rw [State.served]
  split <;> simp (maxDischargeDepth := 12) [hs]
@[simp] theorem State.drain_keeps (s : State) (rgn : BitVec 12) (num : BitVec 4) (n : Nat) (hs : s.mem.wf = true) :
    (s.drain rgn num n).mem.wf = true := by
  induction n generalizing s with
  | zero => exact hs
  | succ n ih =>
    unfold State.drain
    split
    · exact hs
    split
    · exact hs
    · exact ih _ (State.served_keeps _ _ _ (State.putPool_keeps _ _ hs))
@[simp] theorem State.drained_keeps (s : State) (p : Pool) (hs : s.mem.wf = true) : (State.drained s p).mem.wf = true := by
  rw [State.drained]
  simp (maxDischargeDepth := 12) [hs]
@[simp] theorem State.cisternRequest_keeps (s : State) (k : Nat) (name : String) (mine : Op → Bool) (serve : State → Pool → Op → State)
    (hs : s.mem.wf = true) (hserve : ∀ a0 a1 a2, a0.mem.wf = true → (serve a0 a1 a2).mem.wf = true) : KeepsMem (State.cisternRequest s k name mine serve) := by
  rw [State.cisternRequest]
  refine State.onOp_keeps _ _ _ _ hs fun o => keepsMem_ite _ _ _ trivial ?_
  dsimp only
  cases (if o.foreign then none else s.stationRefusal o.station.1 o.station.2 o.iss.rgn o.smod o.host 6) with
  | some sub => exact State.answer_keeps _ _ _ hs
  | none =>
    refine keepsMem_ite _ _ _ (State.answer_keeps _ _ _ hs) (keepsMem_ite _ _ _ (keepsMem_ite _ _ _ (State.answer_keeps _ _ _ hs) (State.goesAway_keeps _ _ _ _ _ _ hs)) ?_)
    cases s.poolOf o.keyOf with
    | none => exact State.answer_keeps _ _ _ hs
    | some p =>
      dsimp only
      generalize s.stationRefusal p.slab.toNat _ o.iss.rgn o.smod o.host 6 = r
      cases r with
      | some sub => exact State.answer_keeps _ _ _ hs
      | none => exact hserve _ _ _ hs
@[simp] theorem State.serveWrite_keeps (s : State) (p : Pool) (o : Op) (hs : s.mem.wf = true) : (State.serveWrite s p o).mem.wf = true := by
  rw [State.serveWrite]
  simp (maxDischargeDepth := 12) [hs]
@[simp] theorem State.serveLoad_keeps (s : State) (p : Pool) (o : Op) (hs : s.mem.wf = true) : (State.serveLoad s p o).mem.wf = true := by
  rw [State.serveLoad]
  split <;> simp (maxDischargeDepth := 12) [hs]
@[simp] theorem State.serveLow_keeps (s : State) (p : Pool) (o : Op) (hs : s.mem.wf = true) : (State.serveLow s p o).mem.wf = true := by
  rw [State.serveLow]
  simp (maxDischargeDepth := 12) [hs]
@[simp] theorem execCisternTstRequest_keeps (k : Nat) (s : State) (hs : s.mem.wf = true) : KeepsMem (execCisternTstRequest k s) := by
  rw [execCisternTstRequest]
  (try dsimp only); (repeat' split) <;> simp_all (maxDischargeDepth := 12)
@[simp] theorem execCisternTadvRequest_keeps (k : Nat) (s : State) (hs : s.mem.wf = true) : KeepsMem (execCisternTadvRequest k s) := by
  rw [execCisternTadvRequest]
  (try dsimp only); (repeat' split) <;> simp_all (maxDischargeDepth := 12)
@[simp] theorem execCisternTldRequest_keeps (k : Nat) (s : State) (hs : s.mem.wf = true) : KeepsMem (execCisternTldRequest k s) := by
  rw [execCisternTldRequest]
  (try dsimp only); (repeat' split) <;> simp_all (maxDischargeDepth := 12)
@[simp] theorem execCisternTlowRequest_keeps (k : Nat) (s : State) (hs : s.mem.wf = true) : KeepsMem (execCisternTlowRequest k s) := by
  rw [execCisternTlowRequest]
  (try dsimp only); (repeat' split) <;> simp_all (maxDischargeDepth := 12)
@[simp] theorem State.trapWaiters_keeps (s : State) (o : Op) (i : Info) (hs : s.mem.wf = true) : (State.trapWaiters s o i).mem.wf = true := by
  rw [State.trapWaiters]
  exact memWf_foldl _ (fun s a h => State.onCore_keeps _ _ _ h (fun u hu => State.trapNow_keeps _ _ (State.focus_keeps _ _ _ hu))) _ _ hs
@[simp] theorem State.cancelEnds_keeps (s : State) (o : Op) (i : Info) (hs : s.mem.wf = true) : (State.cancelEnds s o i).mem.wf = true := by
  rw [State.cancelEnds]
  split <;> simp (maxDischargeDepth := 12) [hs]
@[simp] theorem State.cisternEnds_keeps (s : State) (o : Op) (x : Answer) (hs : s.mem.wf = true) : (State.cisternEnds s o x).mem.wf = true := by
  unfold State.cisternEnds
  (try dsimp only); (repeat' split) <;> simp (maxDischargeDepth := 12) [hs]
@[simp] theorem execCisternCancel_keeps (k : Nat) (s : State) (hs : s.mem.wf = true) : KeepsMem (execCisternCancel k s) := by
  rw [execCisternCancel]
  refine State.onOp_keeps _ _ _ _ hs fun o => ?_
  dsimp only
  (repeat' split) <;> simp (maxDischargeDepth := 12) [hs]
@[simp] theorem execCisternCompletion_keeps (k : Nat) (ext : Answer) (s : State)
    (hs : s.mem.wf = true) : KeepsMem (execCisternCompletion k ext s) := by
  rw [execCisternCompletion]
  (try dsimp only); apply State.onOp_keeps <;> first | assumption | (intros; (try dsimp only); (repeat' split) <;> simp_all (maxDischargeDepth := 12))
@[simp] theorem State.cisternLeave_keeps (s : State) (co : CoreId) (i : Fin 16) (hs : s.mem.wf = true) :
    (State.cisternLeave s co i).mem.wf = true := by
  rw [State.cisternLeave]
  (try dsimp only); apply memWf_foldl <;> first | assumption | (intros; (try dsimp only); (repeat' split) <;> simp_all (maxDischargeDepth := 12))

/-! ## Pumps -/

@[simp] theorem State.pumpTo_keeps (s : State) (st : Nat × Nat) (p : Packet) (hs : s.mem.wf = true) : (State.pumpTo s st p).1.mem.wf = true := by
  rw [State.pumpTo]
  (try dsimp only); (repeat' split) <;> simp (maxDischargeDepth := 12) [hs]
theorem fst_wf {α : Type} {x : State × α} {t : State} {y : α} (h : x = (t, y)) (hx : x.1.mem.wf = true) : t.mem.wf = true := by
  subst h
  exact hx
@[simp] theorem State.pumpSpot_keeps (s : State) (u : PumpId) (iss : Issuer) (a : Word) (n acc : Nat) (hs : s.mem.wf = true) :
    (State.pumpSpot s u iss a n acc).1.mem.wf = true := by
  have hk (w : Walked) : ((s.draw.setAcDt w acc).cache (pumpStation u) (s.effFor iss) iss.rgn (a.toNat % 2 ^ 57) w acc).mem.wf = true := by
    simp (maxDischargeDepth := 12) [hs]
  have hp (t : State) (p : Packet) (ht : t.mem.wf = true) := State.pumpTo_keeps t (pumpStation u) p ht
  unfold State.pumpSpot
  dsimp only
  split
  · split <;> rename_i heq <;> have ht := fst_wf heq (hp _ _ hs)
    · exact ht
    · split
      · exact ht
      · split <;> exact ht
  · split
    · exact hs
    · split
      · exact hs
      · split
        · simp [hs]
        · split
          · split <;> rename_i heq <;> have ht := fst_wf heq (hp _ _ (hk _))
            · exact ht
            · split <;> exact ht
          · split <;> exact hk _
@[simp] theorem State.spotByte_keeps (s : State) (u : PumpId) (x : Spot) (hs : s.mem.wf = true) : (State.spotByte s u x).1.mem.wf = true := by
  rw [State.spotByte]
  (repeat' split) <;> simp [hs]
theorem State.pumpRead_keeps (s : State) (u : PumpId) (iss : Issuer) (a : Word) (n : Nat) (hs : s.mem.wf = true) :
    (s.pumpRead u iss a n).1.mem.wf = true := by
  induction n generalizing s a with
  | zero => exact hs
  | succ n ih =>
    unfold State.pumpRead
    split <;> rename_i heq <;> have ht := fst_wf heq (State.pumpSpot_keeps _ _ _ _ _ _ hs)
    · exact ht
    · exact ih _ _ (State.spotByte_keeps _ _ _ ht)
@[simp] theorem State.pumpWord_keeps (s : State) (u : PumpId) (iss : Issuer) (a : Word) (n : Nat) (hs : s.mem.wf = true) :
    (State.pumpWord s u iss a n).1.mem.wf = true := by
  rw [State.pumpWord]
  split <;> exact State.pumpRead_keeps s u iss a n hs
@[simp] theorem State.pumpStores_keeps (s : State) (u : PumpId) (x : Spot) (n : Nat) (hs : s.mem.wf = true) :
    (State.pumpStores s u x n).mem.wf = true := by
  rw [State.pumpStores]
  exact memWf_ite _ _ _ (State.putPump_keeps _ _ (memWf_ite _ _ _ (State.dropCopies_keeps _ _ _ _ hs) hs))
    (memWf_ite _ _ _ (State.dropCopies_keeps _ _ _ _ hs) hs)
@[simp] theorem State.pumpPiece_keeps (s : State) (u : PumpId) (iss : Issuer) (a : Word) (n v : Nat) (bad : Bool) (hs : s.mem.wf = true) :
    (State.pumpPiece s u iss a n v bad).1.mem.wf = true := by
  rw [State.pumpPiece]
  split <;> rename_i heq <;> have ht := fst_wf heq (State.pumpSpot_keeps _ _ _ _ _ _ hs)
  · exact ht
  · dsimp only
    exact memWf_foldl _ (fun t k h => State.put_keeps _ _ _ _ _ h) _ _
      (State.pumpStores_keeps _ _ _ _ (memWf_ite _ _ _ (State.flushPage_keeps _ _ ht) ht))
@[simp] theorem State.pumpWrite_keeps (s : State) (u : PumpId) (iss : Issuer) (a : Word) (n v p : Nat) (hs : s.mem.wf = true) :
    (State.pumpWrite s u iss a n v p).1.mem.wf = true := by
  unfold State.pumpWrite
  dsimp only
  have := State.pumpPiece_keeps s u iss a (min n (8 - a.toNat % 8)) (v % 2 ^ (8 * min n (8 - a.toNat % 8))) (p % 2 ^ min n (8 - a.toNat % 8) != 0) hs
  rcases hr : s.pumpPiece u iss a (min n (8 - a.toNat % 8)) (v % 2 ^ (8 * min n (8 - a.toNat % 8))) (p % 2 ^ min n (8 - a.toNat % 8) != 0) with ⟨t, _ | i⟩ <;> rw [hr] at this
  · dsimp only
    split
    · exact this
    · exact State.pumpPiece_keeps _ _ _ _ _ _ _ this
  · exact this
@[simp] theorem State.pumpMove_keeps (s : State) (u : PumpId) (iss : Issuer) (src dst : Word) (n : Nat) (hs : s.mem.wf = true) :
    (State.pumpMove s u iss src dst n).1.mem.wf = true := by
  rw [State.pumpMove]
  have := State.pumpRead_keeps s u iss src n hs
  split
  · exact this
  · exact State.pumpWrite_keeps _ _ _ _ _ _ _ this
@[simp] theorem State.copyPiece_keeps (s : State) (u : PumpId) (j : Job) (d : BitVec 512) (hs : s.mem.wf = true) :
    (State.copyPiece s u j d).1.mem.wf = true := by
  rw [State.copyPiece]
  have := State.pumpRead_keeps s u j.iss (descSrc d + BitVec.ofNat 64 j.count) (pieceLen d j.count) hs
  split
  · exact this
  · exact State.pumpWrite_keeps _ _ _ _ _ _ _ this
@[simp] theorem State.gatherPiece_keeps (s : State) (u : PumpId) (j : Job) (d : BitVec 512) (hs : s.mem.wf = true) :
    (State.gatherPiece s u j d).1.mem.wf = true := by
  rw [State.gatherPiece]
  dsimp only
  have := State.pumpWord_keeps s u j.iss (elemAt (descIdx d) 4 j.count) 4 hs
  rcases hr : s.pumpWord u j.iss (elemAt (descIdx d) 4 j.count) 4 with ⟨t, i | v⟩ <;> rw [hr] at this
  · exact this
  · exact State.pumpMove_keeps _ _ _ _ _ _ this
@[simp] theorem State.scatterPiece_keeps (s : State) (u : PumpId) (j : Job) (d : BitVec 512) (hs : s.mem.wf = true) :
    (State.scatterPiece s u j d).1.mem.wf = true := by
  rw [State.scatterPiece]
  dsimp only
  have := State.pumpWord_keeps s u j.iss (elemAt (descIdx d) 4 j.count) 4 hs
  rcases hr : s.pumpWord u j.iss (elemAt (descIdx d) 4 j.count) 4 with ⟨t, i | v⟩ <;> rw [hr] at this
  · exact this
  · exact State.pumpMove_keeps _ _ _ _ _ _ this
@[simp] theorem State.fillPiece_keeps (s : State) (u : PumpId) (j : Job) (d : BitVec 512) (hs : s.mem.wf = true) :
    (State.fillPiece s u j d).1.mem.wf = true := by
  rw [State.fillPiece]
  simp (maxDischargeDepth := 12) [hs]
@[simp] theorem State.addAt_keeps (s : State) (u : PumpId) (j : Job) (x : Spot) (a : Word) (v : Nat) (hs : s.mem.wf = true) :
    (State.addAt s u j x a v).1.mem.wf = true := by
  rw [State.addAt]
  split <;> simp (maxDischargeDepth := 12) [hs]
@[simp] theorem State.jobSends_keeps (s : State) (u : PumpId) (j : Job) (dst : Word) (r : Req) (st : Stage) (mc0 : Bool) (hs : s.mem.wf = true) :
    (State.jobSends s u j dst r st mc0).1.mem.wf = true := by
  rw [State.jobSends]
  simp (maxDischargeDepth := 12) [hs]
@[simp] theorem State.addPiece_keeps (s : State) (u : PumpId) (j : Job) (d : BitVec 512) (hs : s.mem.wf = true) :
    (State.addPiece s u j d).1.mem.wf = true := by
  rw [State.addPiece]
  split
  · exact hs
  · exact hs
  · exact hs
  have := State.pumpWord_keeps s u j.iss (descSrc d + BitVec.ofNat 64 j.count) 4 hs
  rcases hr : s.pumpWord u j.iss (descSrc d + BitVec.ofNat 64 j.count) 4 with ⟨t, i | v⟩ <;> rw [hr] at this
  · exact this
  · dsimp only
    split
    · exact this
    split <;> rename_i heq <;> have h2 := fst_wf heq (State.pumpSpot_keeps _ _ _ _ _ _ this)
    · exact h2
    · split
      · exact State.jobSends_keeps _ _ _ _ _ _ _ h2
      · exact State.addAt_keeps _ _ _ _ _ _ h2
@[simp] theorem State.jobAsks_keeps (s : State) (u : PumpId) (j : Job) (dst : Word) (r : Req) (hs : s.mem.wf = true) :
    (State.jobAsks s u j dst r).1.mem.wf = true := by
  rw [State.jobAsks]
  exact State.jobSends_keeps _ _ _ _ _ _ _ hs
@[simp] theorem State.storePiece_keeps (s : State) (u : PumpId) (j : Job) (d : BitVec 512) (hs : s.mem.wf = true) :
    (State.storePiece s u j d).1.mem.wf = true := by
  rw [State.storePiece]
  dsimp only
  split
  · have := State.pumpRead_keeps s u j.iss (elemAt (descSrc d) (s.recBytes (jobKey d j.count)) j.count) (s.recBytes (jobKey d j.count)) hs
    split
    · exact this
    · exact State.jobAsks_keeps _ _ _ _ _ this
  all_goals exact hs
@[simp] theorem State.statusByte_keeps (s : State) (u : PumpId) (j : Job) (d : BitVec 512) (c : Nat) (hs : s.mem.wf = true) :
    (State.statusByte s u j d c).1.mem.wf = true := by
  rw [State.statusByte]
  simp (maxDischargeDepth := 12) [hs]
theorem memWf_foldl_fst {α β : Type} (f : State × β → α → State × β) (hf : ∀ r a, r.1.mem.wf = true → (f r a).1.mem.wf = true) (l : List α)
    (r : State × β) (h : r.1.mem.wf = true) : (l.foldl f r).1.mem.wf = true := by
  induction l generalizing r with
  | nil => exact h
  | cons a l ih => exact ih _ (hf _ _ h)
@[simp] theorem State.loadPiece_keeps (s : State) (u : PumpId) (j : Job) (d : BitVec 512) (hs : s.mem.wf = true) :
    (State.loadPiece s u j d).1.mem.wf = true := by
  rw [State.loadPiece]
  dsimp only
  split
  · exact State.jobAsks_keeps _ _ _ _ _ hs
  · split
    · apply memWf_foldl_fst _ _ _ _ hs
      intro r a hr
      split
      · exact hr
      · split
        · exact State.pumpWrite_keeps _ _ _ _ _ _ _ hr
        · exact hr
    · apply State.statusByte_keeps
      apply memWf_foldl_fst _ _ _ _ hs
      intro r a hr
      split
      · exact hr
      · split
        · exact State.pumpWrite_keeps _ _ _ _ _ _ _ hr
        · exact hr
  · split
    · exact State.statusByte_keeps _ _ _ _ _ hs
    · exact hs
  · exact hs
@[simp] theorem State.codePiece_keeps (s : State) (u : PumpId) (j : Job) (d : BitVec 512) (hs : s.mem.wf = true) :
    (State.codePiece s u j d).1.mem.wf = true := by
  rw [State.codePiece]
  simp (maxDischargeDepth := 12) [hs]
@[simp] theorem State.setJob_keeps (s : State) (u : PumpId) (j : Job) (hs : s.mem.wf = true) : (State.setJob s u j).mem.wf = true := by
  rw [State.setJob]
  simp (maxDischargeDepth := 12) [hs]
@[simp] theorem State.popJob_keeps (s : State) (u : PumpId) (hs : s.mem.wf = true) : (State.popJob s u).mem.wf = true := by
  rw [State.popJob]
  simp (maxDischargeDepth := 12) [hs]
theorem State.pumpEvent_keeps (s : State) (u : PumpId) (op : Nat) (name : String) (piece : State → Job → BitVec 512 → State × Job)
    (hp : ∀ s j d, s.mem.wf = true → (piece s j d).1.mem.wf = true) (hs : s.mem.wf = true) : KeepsMem (s.pumpEvent u op name piece) := by
  unfold State.pumpEvent
  dsimp only
  split
  · trivial
  split
  · trivial
  · exact State.draw_keeps _ (State.setJob_keeps _ _ _ (hp _ _ _ hs))
@[simp] theorem execPumpCopy_keeps (u : PumpId) (s : State) (hs : s.mem.wf = true) : KeepsMem (execPumpCopy u s) := by
  exact State.pumpEvent_keeps _ _ _ _ _ (fun _ _ _ h => State.copyPiece_keeps _ _ _ _ h) hs
@[simp] theorem execPumpGather_keeps (u : PumpId) (s : State) (hs : s.mem.wf = true) : KeepsMem (execPumpGather u s) := by
  exact State.pumpEvent_keeps _ _ _ _ _ (fun _ _ _ h => State.gatherPiece_keeps _ _ _ _ h) hs
@[simp] theorem execPumpScatter_keeps (u : PumpId) (s : State) (hs : s.mem.wf = true) : KeepsMem (execPumpScatter u s) := by
  exact State.pumpEvent_keeps _ _ _ _ _ (fun _ _ _ h => State.scatterPiece_keeps _ _ _ _ h) hs
@[simp] theorem execPumpFill_keeps (u : PumpId) (s : State) (hs : s.mem.wf = true) : KeepsMem (execPumpFill u s) := by
  exact State.pumpEvent_keeps _ _ _ _ _ (fun _ _ _ h => State.fillPiece_keeps _ _ _ _ h) hs
@[simp] theorem execPumpAddReduce_keeps (u : PumpId) (s : State) (hs : s.mem.wf = true) : KeepsMem (execPumpAddReduce u s) := by
  exact State.pumpEvent_keeps _ _ _ _ _ (fun _ _ _ h => State.addPiece_keeps _ _ _ _ h) hs
@[simp] theorem execPumpCisternStore_keeps (u : PumpId) (s : State) (hs : s.mem.wf = true) : KeepsMem (execPumpCisternStore u s) := by
  exact State.pumpEvent_keeps _ _ _ _ _ (fun _ _ _ h => State.storePiece_keeps _ _ _ _ h) hs
@[simp] theorem execPumpCisternLoad_keeps (u : PumpId) (s : State) (hs : s.mem.wf = true) : KeepsMem (execPumpCisternLoad u s) := by
  exact State.pumpEvent_keeps _ _ _ _ _ (fun _ _ _ h => State.loadPiece_keeps _ _ _ _ h) hs
@[simp] theorem execPumpMicrocodeRead_keeps (u : PumpId) (s : State) (hs : s.mem.wf = true) : KeepsMem (execPumpMicrocodeRead u s) := by
  exact State.pumpEvent_keeps _ _ _ _ _ (fun _ _ _ h => State.codePiece_keeps _ _ _ _ h) hs
@[simp] theorem State.channelEnd_keeps (s : State) (i : Issuer) (chan : BitVec 4) (fault : Bool) (hs : s.mem.wf = true) :
    (State.channelEnd s i chan fault).mem.wf = true := by
  rw [State.channelEnd]
  simp (maxDischargeDepth := 12) [hs]
@[simp] theorem State.jobTold_keeps (s : State) (j : Job) (d : BitVec 512) (i : Info) (bad : Option Info) (hs : s.mem.wf = true) :
    (State.jobTold s j d i bad).mem.wf = true := by
  unfold State.jobTold
  (try dsimp only); (repeat' split) <;> simp (maxDischargeDepth := 12) [hs]
@[simp] theorem State.boxLow_keeps (s : State) (u : PumpId) (j : Job) (d : BitVec 512) (i : Info) (hs : s.mem.wf = true) :
    (State.boxLow s u j d i).mem.wf = true := by
  rw [State.boxLow]
  simp (maxDischargeDepth := 12) [hs]
@[simp] theorem State.mailbox_keeps (s : State) (u : PumpId) (j : Job) (d : BitVec 512) (i : Info) (hs : s.mem.wf = true) :
    (State.mailbox s u j d i).mem.wf = true := by
  rw [State.mailbox]
  (try dsimp only); (repeat' split) <;> simp (maxDischargeDepth := 12) [hs]
@[simp] theorem State.jobEnds_keeps (s : State) (u : PumpId) (j : Job) (i : Info) (unread : Bool) (hs : s.mem.wf = true) :
    (State.jobEnds s u j i unread).mem.wf = true := by
  rw [State.jobEnds]
  (try dsimp only); (repeat' split) <;> simp (maxDischargeDepth := 12) [hs]
@[simp] theorem execPumpJobCompletion_keeps (u : PumpId) (s : State) (hs : s.mem.wf = true) : KeepsMem (execPumpJobCompletion u s) := by
  rw [execPumpJobCompletion]
  (try dsimp only); (repeat' split) <;> simp (maxDischargeDepth := 12) [hs]

end Sys2Proof.Machine
end

