-- ==== Sys2Proof/Laws/KeepsModule.lean ====
section
/-! SUPPORT. Laws.KeepsModule: every operation keeps the canonical form of the byte memory (R3): regions, the starter, power, the host interface and the module. -/

namespace Sys2Proof.Machine
set_option Elab.async false
set_option linter.all false

/-! ## Regions -/

@[simp] theorem State.putRegion_keeps (s : State) (r : Region) (hs : s.mem.wf = true) : (State.putRegion s r).mem.wf = true := by
  rw [State.putRegion]
  simp (maxDischargeDepth := 12) [hs]
@[simp] theorem State.enterFrame_keeps (s : State) (mark : BitVec 64) (f : Nat) (hs : s.mem.wf = true) :
    (State.enterFrame s mark f).mem.wf = true := by
  rw [State.enterFrame]
  exact memWf_ite _ _ _ hs (memWf_ite _ _ _ hs (State.putGood_keeps _ _ _ _ hs))
@[simp] theorem State.framesEnter_keeps (s old : State) (hs : s.mem.wf = true) : (State.framesEnter s old).mem.wf = true := by
  rw [State.framesEnter]
  refine memWf_foldl _ (fun t f h => ?_) _ _ hs
  dsimp only
  split
  · exact h
  · exact memWf_foldl _ (fun t l h => memWf_foldl _ (fun t i h => State.enterFrame_keeps _ _ _ h) _ _ h) _ _ h
theorem State.readTree_keeps (slab : Nat) (pasid : BitVec 20) (s2f : BitVec 40) (n : Nat) (l : List (Word × Option Nat)) (acc : List Node) (s : State)
    (hs : s.mem.wf = true) : (State.readTree slab pasid s2f n l acc s).1.mem.wf = true := by
  induction n generalizing l acc s with
  | zero => cases l <;> exact hs
  | succ n ih =>
    cases l with
    | nil => exact hs
    | cons x l =>
      obtain ⟨a, up⟩ := x
      unfold State.readTree
      split
      · exact hs
      cases h : s.gread slab pasid.toNat s2f.toNat a.toNat 256 with
      | bad c => exact State.ctrlMark_keeps _ _ _ _ _ _ hs
      | ok y =>
        have hk := State.gread_keeps (t := y.1) (q := y.2) h hs
        dsimp only
        split
        · exact hk
        · exact ih _ _ _ hk
theorem State.readCode_keeps (slab pasid s2f n va : Nat) (s : State) (hs : s.mem.wf = true) : (State.readCode slab pasid s2f n va s).1.mem.wf = true := by
  induction n generalizing va s with
  | zero => exact hs
  | succ n ih =>
    unfold State.readCode
    cases h : s.ctrlWalk slab pasid s2f (va % 2 ^ 57) 0 with
    | bad c => exact State.ctrlMark_keeps _ _ _ _ _ _ hs
    | ok w =>
      have hk := ih (va + 8) (s.setAcDt w 0).draw (State.draw_keeps _ (State.setAcDt_keeps _ _ _ hs))
      dsimp only
      rcases hr : State.readCode slab pasid s2f n (va + 8) (s.setAcDt w 0).draw with ⟨t, c | v⟩ <;> rw [hr] at hk <;> exact hk
theorem State.readRoutes_keeps (slab pasid s2f n va : Nat) (s : State) (hs : s.mem.wf = true) : (State.readRoutes slab pasid s2f n va s).1.mem.wf = true := by
  induction n generalizing va s with
  | zero => exact hs
  | succ n ih =>
    unfold State.readRoutes
    cases h : s.gread slab pasid s2f va 32 with
    | bad c => exact State.ctrlMark_keeps _ _ _ _ _ _ hs
    | ok y =>
      have hk := ih (va + 32) y.1 (State.gread_keeps (t := y.1) (q := y.2) h hs)
      dsimp only
      rcases hr : State.readRoutes slab pasid s2f n (va + 32) y.1 with ⟨t, c | v⟩ <;> rw [hr] at hk <;> exact hk
@[simp] theorem State.putRoute_keeps (s : State) (cores : List CoreId) (v : Nat) (hs : s.mem.wf = true) :
    (State.putRoute s cores v).mem.wf = true := by
  rw [State.putRoute]
  simp (maxDischargeDepth := 12) [hs]
@[simp] theorem State.sendStart_keeps (s : State) (co : CoreId) (i : Fin 16) (hs : s.mem.wf = true) : (State.sendStart s co i).mem.wf = true := by
  rw [State.sendStart]
  exact State.sendFrom_keeps _ _ _ _ _ hs
@[simp] theorem State.fillParts_keeps (s : State) (e : Eff) (co : CoreId) (pb ib : Nat) (code : Nat × Nat) (hs : s.mem.wf = true) :
    (State.fillParts s e co pb ib code).mem.wf = true := by
  rw [State.fillParts]
  simp (maxDischargeDepth := 12) [hs]
@[simp] theorem State.fillWorkspace_keeps (s : State) (r : Region) (rows cols k : Nat) (prv : Bool) (co : CoreId) (pb ib : Nat)
    (hs : s.mem.wf = true) : (State.fillWorkspace s r rows cols k prv co pb ib).mem.wf = true := by
  rw [State.fillWorkspace]
  simp (maxDischargeDepth := 12) [hs]
@[simp] theorem State.enterSlice_keeps (s : State) (co : CoreId) (i : Fin 16) (x : Slice) (hs : s.mem.wf = true) :
    (State.enterSlice s co i x).mem.wf = true := by
  rw [State.enterSlice]
  simp (maxDischargeDepth := 12) [hs]
theorem State.placeSlice_keeps {s t : State} {r : Region} {rows cols k : Nat} {gang : BitVec 16} {arm : Option Nat} {prv : Bool} {lead : CoreId} {code : Nat × Nat} {co : CoreId}
    {p : CoreId × Fin 16} (h : s.placeSlice r rows cols k gang arm prv lead code co = some (t, p)) (hs : s.mem.wf = true) : t.mem.wf = true := by
  unfold State.placeSlice at h
  split at h
  · cases h
    exact State.sendStart_keeps _ _ _ (State.enterSlice_keeps _ _ _ _ (State.fillWorkspace_keeps _ _ _ _ _ _ _ _ _ (State.fillParts_keeps _ _ _ _ _ _ (State.setCoreTable_keeps _ _ _ hs))))
  · cases h
theorem State.placeAll_keeps {r : Region} {rows cols : Nat} {gang : BitVec 16} {arm : Option Nat} {prv : Bool} {lead : CoreId} {code : Nat × Nat} (l : List CoreId) {k : Nat} {s t : State}
    {ps : List (CoreId × Fin 16)} (h : State.placeAll r rows cols gang arm prv lead code k l s = some (t, ps)) (hs : s.mem.wf = true) : t.mem.wf = true := by
  induction l generalizing k s t ps with
  | nil => cases h; exact hs
  | cons co l ih =>
    unfold State.placeAll at h
    cases h1 : s.placeSlice r rows cols k gang arm prv lead code co with
    | none => rw [h1] at h; cases h
    | some x =>
      rw [h1] at h
      have hk := State.placeSlice_keeps (t := x.1) (p := x.2) h1 hs
      dsimp only at h
      cases h2 : State.placeAll r rows cols gang arm prv lead code (k + 1) l x.1 with
      | none => rw [h2] at h; cases h
      | some y => rw [h2] at h; cases h; exact ih (t := y.1) (ps := y.2) h2 hk
@[simp] theorem State.placeRect_keeps (s : State) (slab0 : Nat) (r : Region) (rows cols : Nat) (gang : BitVec 16) (arm : Option Nat) (prv : Bool)
    (hs : s.mem.wf = true) : (State.placeRect s slab0 r rows cols gang arm prv).1.mem.wf = true := by
  rw [State.placeRect]
  dsimp only
  split <;> rename_i heq <;> have h1 := fst_wf heq (State.readCode_keeps _ _ _ _ _ _ hs)
  · exact h1
  split <;> rename_i heq <;> have h2 := fst_wf heq (State.readRoutes_keeps _ _ _ _ _ _ h1)
  · exact h2
  split
  · exact h2
  split
  · exact h2
  split
  · exact h2
  split
  · exact h2
  split
  · exact h2
  · rename_i h3
    exact State.putRegion_keeps _ _ (memWf_foldl _ (fun s a h => State.putRoute_keeps _ _ _ h) _ _ (State.placeAll_keeps _ h3 h2))
@[simp] theorem State.regionWrite_keeps (s : State) (r : Region) (va v : Nat) (hs : s.mem.wf = true) :
    (State.regionWrite s r va v).mem.wf = true := by
  rw [State.regionWrite]
  cases h : s.gwriteTo r.hnode r.slab.toNat r.eff.pasid.toNat r.eff.s2f.toNat va 8 v with
  | ok t => exact State.gwriteTo_keeps h hs
  | bad c => exact State.rootAccess_keeps _ _ _ _ (State.ctrlMark_keeps _ _ _ _ _ _ hs)
@[simp] theorem State.rcbWrite_keeps (s : State) (r : Region) (f : Nat → Nat) (hs : s.mem.wf = true) : (State.rcbWrite s r f).mem.wf = true := by
  simp only [State.rcbWrite]
  cases h : s.gmodify r.slab.toNat r.eff.pasid.toNat r.eff.s2f.toNat (r.rcb.toNat + 112) 8 f with
  | bad c => exact State.rootAccess_keeps _ _ _ _ (State.ctrlMark_keeps _ _ _ _ _ _ hs)
  | ok t => exact State.gmodify_keeps h hs
@[simp] theorem State.placeOne_keeps (s : State) (slab : Nat) (r : Region) (n : Node) (gang : BitVec 16) (arm : Option Nat) (prv : Bool) (hs : s.mem.wf = true) :
    (State.placeOne s slab r n gang arm prv).1.mem.wf = true := by
  unfold State.placeOne
  have hu := State.framesEnter_keeps ({ s with regions := s.regions ++ [r], nextId := s.nextId + 1 } : State) s hs
  have hp := State.placeRect_keeps _ slab r (fld n.v 775 768) (fld n.v 783 776) gang arm prv hu
  simp only
  (repeat' split) <;> first | exact hs | exact hu | exact hp
@[simp] theorem State.markPlaced_keeps (s : State) (r : Region) (hs : s.mem.wf = true) : (State.markPlaced s r).mem.wf = true := by
  rw [State.markPlaced]
  simp (maxDischargeDepth := 12) [hs]
theorem thenPlace_keeps (d : State × (Nat ⊕ List (CoreId × Fin 16))) (f : State → State × (Nat ⊕ List (CoreId × Fin 16))) (hd : d.1.mem.wf = true)
    (hf : ∀ u, u.mem.wf = true → (f u).1.mem.wf = true) : (thenPlace d f).1.mem.wf = true := by
  unfold thenPlace
  rcases d with ⟨u, c | ps⟩
  · exact hd
  · have h := hf u hd
    dsimp only
    rcases hw : f u with ⟨w, c | qs⟩ <;> rw [hw] at h <;> exact h
theorem State.placeTree_keeps (slab : Nat) (hnode : Option (BitVec 12)) (owner : Bool) (tenant : BitVec 40) (gang : BitVec 16) (arm : Option Nat) (parent : BitVec 12) (l : List Node) (ids : List (BitVec 12)) (s : State)
    (hs : s.mem.wf = true) : (State.placeTree slab hnode owner tenant gang arm parent l ids s).1.mem.wf = true := by
  induction l generalizing ids s with
  | nil => exact hs
  | cons n l ih =>
    unfold State.placeTree
    split
    · exact thenPlace_keeps _ _ (State.placeOne_keeps _ _ _ _ _ _ _ hs) fun u hu => ih _ _ (State.markPlaced_keeps _ _ hu)
    · exact hs
@[simp] theorem State.launchTree_keeps (s : State) (slab : Nat) (hnode : Option (BitVec 12)) (root : Word) (pasid : BitVec 20) (s2f : BitVec 40) (owner : Bool) (trgn : BitVec 12)
    (gang : BitVec 16) (arm : Option Nat) (hs : s.mem.wf = true) : (State.launchTree s slab hnode root pasid s2f owner trgn gang arm).1.mem.wf = true := by
  rw [State.launchTree]
  have h1 := State.readTree_keeps slab pasid s2f 4096 [(root, none)] [] s hs
  rcases hr : State.readTree slab pasid s2f 4096 [(root, none)] [] s with ⟨t, c | v⟩ <;> rw [hr] at h1
  · exact h1
  dsimp only
  split
  · exact h1
  rename_i p hp
  split
  · exact h1
  split
  · exact h1
  have h2 := State.placeTree_keeps slab hnode owner s2f gang arm p.id v [] t h1
  rcases hq : State.placeTree slab hnode owner s2f gang arm p.id v [] t with ⟨u, c | l⟩ <;> rw [hq] at h2
  · exact h1
  · exact h2
@[simp] theorem State.regionDone_keeps (s : State) (r : Region) (hs : s.mem.wf = true) : (State.regionDone s r).mem.wf = true := by
  rw [State.regionDone]
  simp (maxDischargeDepth := 12) [hs]
@[simp] theorem State.endRegions_keeps (n : Nat) (s : State) (hs : s.mem.wf = true) : (State.endRegions n s).mem.wf = true := by
  induction n generalizing s with
  | zero => exact hs
  | succ n ih =>
    unfold State.endRegions
    split
    · exact hs
    · exact ih _ (State.regionDone_keeps _ _ hs)
@[simp] theorem State.startLeaving_keeps (s : State) (co : CoreId) (i : Fin 16) (why : BitVec 4) (hs : s.mem.wf = true) :
    (State.startLeaving s co i why).mem.wf = true := by
  rw [State.startLeaving]
  (try dsimp only); (repeat' split) <;> simp_all (maxDischargeDepth := 12)
@[simp] theorem State.lateMatrix_keeps (s : State) (co : CoreId) (i : Fin 16) (x : Slice) (hs : s.mem.wf = true) : (State.lateMatrix s co i
    x).mem.wf = true := by
  rw [State.lateMatrix]
  (try dsimp only); (repeat' split) <;> simp (maxDischargeDepth := 12) [hs]
@[simp] theorem State.dropAccess_keeps (s : State) (co : CoreId) (x : Slice) (hs : s.mem.wf = true) : (State.dropAccess s co x).mem.wf = true := by
  rw [State.dropAccess]
  (try dsimp only); (repeat' split) <;> simp (maxDischargeDepth := 12) [hs]
@[simp] theorem State.freeEntry_keeps (s : State) (co : CoreId) (i : Fin 16) (hs : s.mem.wf = true) : (State.freeEntry s co i).mem.wf = true := by
  rw [State.freeEntry]
  simp (maxDischargeDepth := 12) [hs]
@[simp] theorem State.markWhy_keeps (s : State) (x : Slice) (hs : s.mem.wf = true) : (State.markWhy s x).mem.wf = true := by
  rw [State.markWhy]
  exact hs
@[simp] theorem State.removeSlice_keeps (s : State) (co : CoreId) (i : Fin 16) (hs : s.mem.wf = true) : (State.removeSlice s co i).mem.wf = true := by
  rw [State.removeSlice]
  exact State.endRegions_keeps _ _ (State.markWhy_keeps _ _ (State.freeEntry_keeps _ _ _ (State.dropAccess_keeps _ _ _ (State.modSlice_keeps _ _ _ _ (State.lateMatrix_keeps _ _ _ _ (State.cisternLeave_keeps _ _ _ hs))))))
@[simp] theorem execSliceLeave_keeps (co : CoreId) (i : Fin 16) (s : State) (hs : s.mem.wf = true) : KeepsMem (execSliceLeave co i s) := by
  rw [execSliceLeave]
  split <;> simp (maxDischargeDepth := 12) [hs]
@[simp] theorem State.resumeSlice_keeps (s : State) (co : CoreId) (i : Fin 16) (hs : s.mem.wf = true) : (State.resumeSlice s co i).mem.wf = true := by
  rw [State.resumeSlice]
  (try dsimp only); (repeat' split) <;> simp_all (maxDischargeDepth := 12)
@[simp] theorem execSliceRelease_keeps (co : CoreId) (i : Fin 16) (s : State) (hs : s.mem.wf = true) : KeepsMem (execSliceRelease co i s) := by
  rw [execSliceRelease]
  (try dsimp only); (repeat' split) <;> simp_all (maxDischargeDepth := 12)
@[simp] theorem State.deadlineFault_keeps (s : State) (co : CoreId) (i : Fin 16) (hs : s.mem.wf = true) :
    (State.deadlineFault s co i).mem.wf = true := by
  rw [State.deadlineFault]
  (try dsimp only); (repeat' split) <;> simp_all (maxDischargeDepth := 12)
@[simp] theorem execBudgetExhaustion_keeps (co : CoreId) (i : Fin 16) (s : State)
    (hs : s.mem.wf = true) : KeepsMem (execBudgetExhaustion co i s) := by
  rw [execBudgetExhaustion]
  (try dsimp only); (repeat' split) <;> simp_all (maxDischargeDepth := 12)
@[simp] theorem State.switchIn_keeps (s : State) (w : Switch) (hs : s.mem.wf = true) : (State.switchIn s w).mem.wf = true := by
  rw [State.switchIn]
  (try dsimp only); (repeat' split) <;> simp_all (maxDischargeDepth := 12)
@[simp] theorem execSwitchComplete_keeps (co : CoreId) (s : State) (hs : s.mem.wf = true) : KeepsMem (execSwitchComplete co s) := by
  rw [execSwitchComplete]
  (try dsimp only); (repeat' split) <;> simp_all (maxDischargeDepth := 12)
@[simp] theorem State.sendGos_keeps (s : State) (x : Slice) (lead : CoreId) (g : Go) (hs : s.mem.wf = true) :
    (State.sendGos s x lead g).mem.wf = true := by
  rw [State.sendGos]
  (try dsimp only); apply memWf_foldl <;> first | assumption | (intros; (try dsimp only); (repeat' split) <;> simp_all (maxDischargeDepth := 12))
@[simp] theorem State.arrives_keeps (s : State) (o : Op) (num v : Word) (op : BitVec 2) (hs : s.mem.wf = true) : (State.arrives s o num v op).mem.wf
    = true := by
  rw [State.arrives]
  split <;> simp (maxDischargeDepth := 12) [hs]
@[simp] theorem execSbarArrival_keeps (k : Nat) (s : State) (hs : s.mem.wf = true) : KeepsMem (execSbarArrival k s) := by
  rw [execSbarArrival]
  (try dsimp only); apply State.onOp_keeps <;> first | assumption | (intros; (try dsimp only); (repeat' split) <;> simp_all (maxDischargeDepth := 12))
@[simp] theorem State.nudge_keeps (s : State) (co : CoreId) (i : Fin 16) (k : WaitKind) (atTick : Bool) (hs : s.mem.wf = true) :
    (State.nudge s co i k atTick).mem.wf = true := by
  rw [State.nudge]
  (try dsimp only); apply State.onCore_keeps <;> first | assumption | (intros; (try dsimp only); (repeat' split) <;> simp_all (maxDischargeDepth := 12))
@[simp] theorem execGoMessage_keeps (k : Nat) (s : State) (hs : s.mem.wf = true) : KeepsMem (execGoMessage k s) := by
  rw [execGoMessage]
  (try dsimp only); apply State.onOp_keeps <;> first | assumption | (intros; (try dsimp only); (repeat' split) <;> simp_all (maxDischargeDepth := 12))
@[simp] theorem execExchangeWindowOpen_keeps (co : CoreId) (i : Fin 16) (s : State)
    (hs : s.mem.wf = true) : KeepsMem (execExchangeWindowOpen co i s) := by
  rw [execExchangeWindowOpen]
  split <;> simp (maxDischargeDepth := 12) [hs]
@[simp] theorem execExchangeWindowClose_keeps (co : CoreId) (i : Fin 16) (s : State)
    (hs : s.mem.wf = true) : KeepsMem (execExchangeWindowClose co i s) := by
  rw [execExchangeWindowClose]
  split <;> simp (maxDischargeDepth := 12) [hs]

/-! ## Starter -/

@[simp] theorem execSyncMessage_keeps (m : PtpSync) (s : State) (hs : s.mem.wf = true) :
    KeepsMem (execSyncMessage m s) := by
  rw [execSyncMessage]
  split <;> exact hs
@[simp] theorem execAnnounceMessage_keeps (src : PtpSource) (rank : Nat) (s : State)
    (hs : s.mem.wf = true) : KeepsMem (execAnnounceMessage src rank s) := by
  rw [execAnnounceMessage]
  split <;> simp (maxDischargeDepth := 12) [hs]
@[simp] theorem execPdelayReq_keeps (src : PtpSource) (seq : BitVec 16) (t2 t3 : Nat) (s : State)
    (hs : s.mem.wf = true) : KeepsMem (execPdelayReq src seq t2 t3 s) := by
  rw [execPdelayReq]
  split <;> exact hs
@[simp] theorem execAnnounceReceiptTimeout_keeps (s : State) (hs : s.mem.wf = true) : KeepsMem (execAnnounceReceiptTimeout s) := by
  rw [execAnnounceReceiptTimeout]
  split <;> simp (maxDischargeDepth := 12) [hs]
@[simp] theorem execFrequencyTrim_keeps (ppb : Int) (s : State) (hs : s.mem.wf = true) : KeepsMem (execFrequencyTrim ppb s) := by
  rw [execFrequencyTrim]
  split <;> simp (maxDischargeDepth := 12) [hs]
@[simp] theorem State.putEntry_keeps (s : State) (a : Armed) (hs : s.mem.wf = true) : (State.putEntry s a).mem.wf = true := by
  rw [State.putEntry]
  simp (maxDischargeDepth := 12) [hs]
@[simp] theorem State.dropEntry_keeps (s : State) (n : Nat) (hs : s.mem.wf = true) : (State.dropEntry s n).mem.wf = true := by
  rw [State.dropEntry]
  simp (maxDischargeDepth := 12) [hs]
@[simp] theorem State.onEntry_keeps (s : State) (n : Nat) (name : String) (due : Armed → Bool) (f : Armed → State) (hs : s.mem.wf = true)
    (hf : ∀ a0, (f a0).mem.wf = true) : KeepsMem (State.onEntry s n name due f) := by
  rw [State.onEntry]
  (try dsimp only); (repeat' split) <;> simp (maxDischargeDepth := 12) [hs, hf]
@[simp] theorem State.portalStore_keeps (s : State) (p : BitVec 6) (va n v : Nat) (hs : s.mem.wf = true) :
    (State.portalStore s p va n v).mem.wf = true := by
  simp only [State.portalStore]
  cases h : s.gwriteTo (s.portalNode p) (portalSlab p) (s.portalSpace p).1.toNat (s.portalSpace p).2.toNat va n v with
  | ok t => exact State.gwriteTo_keeps h hs
  | bad c => exact State.rootAccess_keeps _ _ _ _ (State.ctrlMark_keeps _ _ _ _ _ _ hs)
@[simp] theorem State.outcome_keeps (s : State) (a : Armed) (res : Nat) (gang ho : Bool) (tick : Nat) (hs : s.mem.wf = true) :
    (State.outcome s a res gang ho tick).mem.wf = true := by
  rw [State.outcome]
  simp (maxDischargeDepth := 12) [hs]
@[simp] theorem State.gangFault_keeps (s : State) (a : Armed) (sub : Nat) (tick : Nat) (r : Option Region) (hs : s.mem.wf = true) :
    (State.gangFault s a sub tick r).mem.wf = true := by
  unfold State.gangFault
  split <;> simp (maxDischargeDepth := 12) [hs]
@[simp] theorem State.dropHeld_keeps (s : State) (a : Armed) (hs : s.mem.wf = true) : (State.dropHeld s a).mem.wf = true := by
  rw [State.dropHeld]
  (try dsimp only); (repeat' split) <;> simp_all (maxDischargeDepth := 12)
@[simp] theorem State.notice_keeps (s : State) (a : Armed) (to_ : BitVec 12) (type tick : Nat) (hs : s.mem.wf = true) :
    (State.notice s a to_ type tick).mem.wf = true := by
  rw [State.notice]
  exact State.sendFrom_keeps _ _ _ _ _ hs
@[simp] theorem State.undoHere_keeps (s : State) (a : Armed) (hs : s.mem.wf = true) : (State.undoHere s a).mem.wf = true := by
  rw [State.undoHere]
  simp (maxDischargeDepth := 12) [hs]
@[simp] theorem State.coordDecides_keeps (s : State) (a0 : Armed) (hs : s.mem.wf = true) : (State.coordDecides s a0).mem.wf = true := by
  rw [State.coordDecides]
  (try dsimp only); (repeat' split) <;> simp_all (maxDischargeDepth := 12)
@[simp] theorem State.takeReport_keeps (s : State) (a : Armed) (r : Report) (hs : s.mem.wf = true) : (State.takeReport s a r).mem.wf = true := by
  rw [State.takeReport]
  simp (maxDischargeDepth := 12) [hs]
@[simp] theorem State.report_keeps (s : State) (a : Armed) (acted : Bool) (tick : Nat) (hs : s.mem.wf = true) :
    (State.report s a acted tick).mem.wf = true := by
  rw [State.report]
  simp (maxDischargeDepth := 12) [hs]
@[simp] theorem State.recordUnder_keeps (s : State) (slab : Nat) (q : BitVec 20 × BitVec 40) (trgn : BitVec 12) (v : Nat) (hs : s.mem.wf = true) :
    (State.recordUnder s slab q trgn v).1.mem.wf = true := by
  rw [State.recordUnder]
  (try dsimp only); (repeat' split) <;> first | exact State.gread_keeps (by assumption) hs | simp (maxDischargeDepth := 12) [hs]
@[simp] theorem State.armUnder_keeps (s : State) (p : BitVec 6) (r : BitVec 512) (hs : s.mem.wf = true) : (State.armUnder s p r).1.mem.wf = true :=
    by
  rw [State.armUnder]
  (try dsimp only); (repeat' split) <;> simp (maxDischargeDepth := 12) [hs]
@[simp] theorem State.armCheck_keeps (s : State) (p : BitVec 6) (r : BitVec 512) (hs : s.mem.wf = true) : (State.armCheck s p r).1.mem.wf = true :=
    by
  rw [State.armCheck]
  (try dsimp only); (repeat' split) <;> simp (maxDischargeDepth := 12) [hs]
@[simp] theorem State.armRecord_keeps (s : State) (p : BitVec 6) (seq : Nat) (r : BitVec 512) (hs : s.mem.wf = true) : (State.armRecord s p seq r).mem.wf = true := by
  rw [State.armRecord]
  simp (maxDischargeDepth := 12) [hs]
@[simp] theorem State.placeRecord_keeps (s : State) (a : Armed) (hs : s.mem.wf = true) : (State.placeRecord s a).mem.wf = true := by
  unfold State.placeRecord
  dsimp only
  have h := State.launchTree_keeps s (portalSlab a.portal) (s.portalNode a.portal) (BitVec.ofNat 64 (a.f 319 256)) (s.portalSpace a.portal).1 (s.portalSpace a.portal).2 ((s.portals.get a.portal.toNat).toNat.testBit 253)
    (BitVec.ofNat 12 (fld (s.portals.get a.portal.toNat).toNat 235 224)) a.gang (some a.id) hs
  rcases hr : s.launchTree (portalSlab a.portal) (s.portalNode a.portal) (BitVec.ofNat 64 (a.f 319 256)) (s.portalSpace a.portal).1 (s.portalSpace a.portal).2 ((s.portals.get a.portal.toNat).toNat.testBit 253)
    (BitVec.ofNat 12 (fld (s.portals.get a.portal.toNat).toNat 235 224)) a.gang (some a.id) with ⟨t, c | _ | l⟩ <;> rw [hr] at h
  · exact State.putEntry_keeps _ _ h
  · exact State.draw_keeps _ (State.putEntry_keeps _ _ h)
  · exact State.putEntry_keeps _ _ h
@[simp] theorem execArmedRecordPlacement_keeps (n : Nat) (s : State) (hs : s.mem.wf = true) : KeepsMem (execArmedRecordPlacement n s) := by
  rw [execArmedRecordPlacement]
  simp (maxDischargeDepth := 12) [hs]
@[simp] theorem State.suspendGang_keeps (s : State) (g : BitVec 16) (hs : s.mem.wf = true) : (State.suspendGang s g).mem.wf = true := by
  rw [State.suspendGang]
  (try dsimp only); (repeat' split) <;> simp_all (maxDischargeDepth := 12)
@[simp] theorem State.gangAction_keeps (s : State) (a : Armed) (act : Nat) (hs : s.mem.wf = true) : (State.gangAction s a act).mem.wf = true := by
  unfold State.gangAction
  split
  · exact memWf_foldl _ (fun _ _ h => memWf_ite _ _ _ (State.nowReady_keeps _ _ _ h) h) _ _ hs
  · exact State.suspendGang_keeps _ _ hs
  · exact memWf_foldl _ (fun _ _ h => State.resumeSlice_keeps _ _ _ h) _ _ hs
  · exact memWf_foldl _ (fun _ _ h => State.startLeaving_keeps _ _ _ _ h) _ _ hs
@[simp] theorem State.missed_keeps (s : State) (a0 : Armed) (excluded : Bool) (hs : s.mem.wf = true) : (State.missed s a0 excluded).mem.wf = true := by
  rw [State.missed]
  refine memWf_ite _ _ _ (memWf_ite _ _ _ (State.report_keeps _ _ _ _ hs) (State.putEntry_keeps _ _ (State.notice_keeps _ _ _ _ _ hs))) ?_
  exact State.report_keeps _ _ _ _ (State.dropHeld_keeps _ _ (memWf_ite _ _ _ (State.outcome_keeps _ _ _ _ _ _ hs) hs))
@[simp] theorem State.refuseHoldover_keeps (s : State) (a : Armed) (hs : s.mem.wf = true) : (State.refuseHoldover s a).mem.wf = true := by
  rw [State.refuseHoldover]
  exact State.missed_keeps _ _ _ (State.gangFault_keeps _ _ _ _ _ (State.outcome_keeps _ _ _ _ _ _ hs))
@[simp] theorem State.actNow_keeps (s : State) (a : Armed) (hs : s.mem.wf = true) : (State.actNow s a).mem.wf = true := by
  rw [State.actNow]
  simp (maxDischargeDepth := 12) [hs]
@[simp] theorem execTimedAction_keeps (n : Nat) (s : State) (hs : s.mem.wf = true) : KeepsMem (execTimedAction n s) := by
  rw [execTimedAction]
  simp (maxDischargeDepth := 12) [hs]
@[simp] theorem State.straggle_keeps (s : State) (a : Armed) (hs : s.mem.wf = true) : (State.straggle s a).mem.wf = true := by
  rw [State.straggle]
  exact State.missed_keeps _ _ _ (State.gangFault_keeps _ _ _ _ _ hs)
@[simp] theorem execStraggler_keeps (n : Nat) (s : State) (hs : s.mem.wf = true) : KeepsMem (execStraggler n s) := by
  rw [execStraggler]
  simp (maxDischargeDepth := 12) [hs]
@[simp] theorem State.undoNow_keeps (s : State) (a : Armed) (hs : s.mem.wf = true) : (State.undoNow s a).mem.wf = true := by
  rw [State.undoNow]
  simp (maxDischargeDepth := 12) [hs]
@[simp] theorem execUndo_keeps (n : Nat) (s : State) (hs : s.mem.wf = true) : KeepsMem (execUndo n s) := by
  rw [execUndo]
  simp (maxDischargeDepth := 12) [hs]
@[simp] theorem execCoordCollectTimeout_keeps (n : Nat) (s : State) (hs : s.mem.wf = true) : KeepsMem (execCoordCollectTimeout n s) := by
  rw [execCoordCollectTimeout]
  simp (maxDischargeDepth := 12) [hs]
@[simp] theorem execArmEntryFree_keeps (n : Nat) (s : State) (hs : s.mem.wf = true) : KeepsMem (execArmEntryFree n s) := by
  rw [execArmEntryFree]
  simp (maxDischargeDepth := 12) [hs]
@[simp] theorem execStarterNotice_keeps (k : Nat) (s : State) (hs : s.mem.wf = true) : KeepsMem (execStarterNotice k s) := by
  rw [execStarterNotice]
  (try dsimp only); (repeat' split) <;> simp (maxDischargeDepth := 12) [hs]
@[simp] theorem State.cancelEntry_keeps (s : State) (a : Armed) (hs : s.mem.wf = true) : (State.cancelEntry s a).mem.wf = true := by
  rw [State.cancelEntry]
  simp (maxDischargeDepth := 12) [hs]
@[simp] theorem State.isolationFault_keeps (s old : State) (r : Region) (hs : s.mem.wf = true) : (State.isolationFault s old r).mem.wf = true := by
  simp only [State.isolationFault]
  split <;> simp (maxDischargeDepth := 12) [hs]
@[simp] theorem State.isolate_keeps (s : State) (hs : s.mem.wf = true) : (State.isolate s).mem.wf = true := by
  rw [State.isolate]
  dsimp only
  refine memWf_foldl _ (fun _ _ h => State.isolationFault_keeps _ _ _ h) _ _ (memWf_foldl _ (fun t c h => memWf_foldl _ (fun t i h => ?_) _ _ h) _ _
    (memWf_foldl _ (fun _ _ h => State.dropEntry_keeps _ _ (State.dropHeld_keeps _ _ (State.outcome_keeps _ _ _ _ _ _ h))) _ _ hs))
  (repeat' split) <;> simp_all (maxDischargeDepth := 12)
@[simp] theorem execFrequencyLoss_keeps (s : State) (hs : s.mem.wf = true) : KeepsMem (execFrequencyLoss s) := by
  rw [execFrequencyLoss]
  split <;> simp (maxDischargeDepth := 12) [hs]
@[simp] theorem State.movePace_keeps (s : State) (pace : Word) (hs : s.mem.wf = true) : (State.movePace s pace).mem.wf = true := by
  rw [State.movePace]
  simp (maxDischargeDepth := 12) [hs]
@[simp] theorem State.atPlace_keeps (s : State) (pos : Nat) (hs : s.mem.wf = true) : (State.atPlace s pos).mem.wf = true := by
  rw [State.atPlace]
  simp (maxDischargeDepth := 12) [hs]
@[simp] theorem execRelock_keeps (pace : Word) (pos : Nat) (s : State) (hs : s.mem.wf = true) : KeepsMem (execRelock pace pos s) := by
  rw [execRelock]
  split <;> simp (maxDischargeDepth := 12) [hs]

/-! ## Power -/

@[simp] theorem State.writePower_keeps (s : State) (v : Word) (hs : s.mem.wf = true) : (State.writePower s v).mem.wf = true := by
  rw [State.writePower]
  simp (maxDischargeDepth := 12) [hs]
@[simp] theorem execPowerMeasurement_keeps (hot : Bool) (fit : BitVec 6) (s : State)
    (hs : s.mem.wf = true) : KeepsMem (execPowerMeasurement hot fit s) := by
  rw [execPowerMeasurement]
  split <;> simp (maxDischargeDepth := 12) [hs]
@[simp] theorem execStepRaise_keeps (s : State) (hs : s.mem.wf = true) : KeepsMem (execStepRaise s) := by
  rw [execStepRaise]
  simp (maxDischargeDepth := 12) [hs]
@[simp] theorem execStepChangeForced_keeps (s : State) (hs : s.mem.wf = true) : KeepsMem (execStepChangeForced s) := by
  rw [execStepChangeForced]
  split <;> simp (maxDischargeDepth := 12) [hs]
@[simp] theorem execThermalTrip_keeps (slab : BitVec 6) (s : State) (hs : s.mem.wf = true) : KeepsMem (execThermalTrip slab s) := by
  rw [execThermalTrip]
  simp (maxDischargeDepth := 12) [hs]
@[simp] theorem execThermalRecovery_keeps (slab : BitVec 6) (s : State) (hs : s.mem.wf = true) : KeepsMem (execThermalRecovery slab s) := by
  rw [execThermalRecovery]
  simp (maxDischargeDepth := 12) [hs]
@[simp] theorem execSupplyFault_keeps (s : State) (hs : s.mem.wf = true) : KeepsMem (execSupplyFault s) := by
  rw [execSupplyFault]
  simp (maxDischargeDepth := 12) [hs]
@[simp] theorem execSupplyFaultHalt_keeps (s : State) (hs : s.mem.wf = true) : KeepsMem (execSupplyFaultHalt s) := by
  rw [execSupplyFaultHalt]
  split <;> simp (maxDischargeDepth := 12) [hs]
@[simp] theorem execSupplyRecovery_keeps (s : State) (hs : s.mem.wf = true) : KeepsMem (execSupplyRecovery s) := by
  rw [execSupplyRecovery]
  split <;> simp (maxDischargeDepth := 12) [hs]
@[simp] theorem State.powerTick_keeps (s : State) (hs : s.mem.wf = true) : (State.powerTick s).mem.wf = true := by
  rw [State.powerTick]
  exact memWf_ite _ _ _ hs hs
@[simp] theorem execFullServiceEntry_keeps (s : State) (hs : s.mem.wf = true) : KeepsMem (execFullServiceEntry s) := by
  rw [execFullServiceEntry]
  split <;> simp (maxDischargeDepth := 12) [hs]
@[simp] theorem State.endHush_keeps (s : State) (hs : s.mem.wf = true) : (State.endHush s).mem.wf = true := by
  rw [State.endHush]
  simp (maxDischargeDepth := 12) [hs]

/-! ## Host -/

@[simp] theorem State.setPd_keeps (s : State) (p : BitVec 6) (d : Nat) (hs : s.mem.wf = true) : (State.setPd s p d).mem.wf = true := by
  rw [State.setPd]
  simp (maxDischargeDepth := 12) [hs]
@[simp] theorem State.interrupt_keeps (s : State) (p : BitVec 6) (hs : s.mem.wf = true) : (State.interrupt s p).mem.wf = true := by
  rw [State.interrupt]
  simp (maxDischargeDepth := 12) [hs]
@[simp] theorem State.notifyRejected_keeps (s : State) (p : BitVec 6) (hs : s.mem.wf = true) : (State.notifyRejected s p).mem.wf = true := by
  rw [State.notifyRejected]
  simp (maxDischargeDepth := 12) [hs]
@[simp] theorem execNotifyWrite_keeps (k : Nat) (s : State) (hs : s.mem.wf = true) : KeepsMem (execNotifyWrite k s) := by
  rw [execNotifyWrite]
  exact State.onFlight_keeps _ _ _ _ hs fun x => keepsMem_ite _ _ _ trivial (keepsMem_ite _ _ _ (State.dropFlight_keeps _ _ hs)
    (keepsMem_ite _ _ _ (State.setPd_keeps _ _ _ (State.dropFlight_keeps _ _ hs)) (State.notifyRejected_keeps _ _ (State.dropFlight_keeps _ _ hs))))
@[simp] theorem execResetNotify_keeps (k : Nat) (s : State) (hs : s.mem.wf = true) : KeepsMem (execResetNotify k s) := by
  rw [execResetNotify]
  (try dsimp only); apply State.onFlight_keeps <;> first | assumption | (intros; (try dsimp only); (repeat' split) <;> simp_all (maxDischargeDepth := 12))
@[simp] theorem State.ringKey_keeps (s : State) (p : BitVec 6) (va n acc : Nat) (hs : s.mem.wf = true) :
    (State.ringKey s p va n acc).1.mem.wf = true := by
  rw [State.ringKey]
  dsimp only
  split
  · exact hs
  · exact State.draw_keeps _ (State.setAcDt_keeps _ _ _ hs)
@[simp] theorem State.ringFails_keeps (s : State) (p : BitVec 6) (hs : s.mem.wf = true) : (State.ringFails s p).mem.wf = true := by
  rw [State.ringFails]
  simp (maxDischargeDepth := 12) [hs]
@[simp] theorem execCommandFetch_keeps (p : BitVec 6) (s : State) (hs : s.mem.wf = true) : KeepsMem (execCommandFetch p s) := by
  rw [execCommandFetch]
  split
  · trivial
  dsimp only
  split <;> rename_i heq <;> have ht := fst_wf heq (State.ringKey_keeps _ _ _ _ _ hs) <;> simp (maxDischargeDepth := 12) [ht]
@[simp] theorem State.putCmd_keeps (s : State) (c : Cmd) (hs : s.mem.wf = true) : (State.putCmd s c).mem.wf = true := by
  rw [State.putCmd]
  simp (maxDischargeDepth := 12) [hs]
@[simp] theorem State.endCmd_keeps (s : State) (c : Cmd) (st det : Nat) (d0 d1 : Word) (hs : s.mem.wf = true) :
    (State.endCmd s c st det d0 d1).mem.wf = true := by
  rw [State.endCmd]
  simp (maxDischargeDepth := 12) [hs]
@[simp] theorem State.onCmd_keeps (s : State) (p : BitVec 6) (n : BitVec 32) (name : String) (is : Cmd → Bool) (f : Cmd → State)
    (hs : s.mem.wf = true) (hf : ∀ a0, (f a0).mem.wf = true) : KeepsMem (State.onCmd s p n name is f) := by
  rw [State.onCmd]
  (try dsimp only); (repeat' split) <;> simp (maxDischargeDepth := 12) [hs, hf]
@[simp] theorem State.launchCmd_keeps (s : State) (c : Cmd) (hs : s.mem.wf = true) : (State.launchCmd s c).mem.wf = true := by
  rw [State.launchCmd]
  split
  · dsimp only
    have h := State.launchTree_keeps s (portalSlab c.p) (s.portalNode c.p) (BitVec.ofNat 64 (c.f 191 128)) (s.portalSpace c.p).1 (s.portalSpace c.p).2 (pdOwn (s.pd c.p)) (pdTrgn (s.pd c.p)) 0 none hs
    rcases hr : s.launchTree (portalSlab c.p) (s.portalNode c.p) (BitVec.ofNat 64 (c.f 191 128)) (s.portalSpace c.p).1 (s.portalSpace c.p).2 (pdOwn (s.pd c.p)) (pdTrgn (s.pd c.p)) 0 none with ⟨t, st | _ | l⟩ <;> rw [hr] at h
    · exact State.endCmd_keeps _ _ _ _ _ _ h
    · exact State.putCmd_keeps _ _ h
    · dsimp only
      split
      · exact State.endCmd_keeps _ _ _ _ _ _ h
      · exact State.putCmd_keeps _ _ h
  · split
    · exact State.endCmd_keeps _ _ _ _ _ _ hs
    · exact State.putCmd_keeps _ _ hs
@[simp] theorem execLaunch_keeps (p : BitVec 6) (n : BitVec 32) (s : State) (hs : s.mem.wf = true) : KeepsMem (execLaunch p n s) := by
  rw [execLaunch]
  simp (maxDischargeDepth := 12) [hs]
@[simp] theorem State.armCmd_keeps (s : State) (c : Cmd) (hs : s.mem.wf = true) : (State.armCmd s c).mem.wf = true := by
  rw [State.armCmd]
  split <;> rename_i heq <;> have ht := fst_wf heq (State.armCheck_keeps _ _ _ hs) <;> simp (maxDischargeDepth := 12) [ht]
@[simp] theorem execArm_keeps (p : BitVec 6) (n : BitVec 32) (s : State) (hs : s.mem.wf = true) : KeepsMem (execArm p n s) := by
  rw [execArm]
  simp (maxDischargeDepth := 12) [hs]
@[simp] theorem State.killWaits_keeps (s : State) (c : Cmd) (hs : s.mem.wf = true) : (State.killWaits s c).mem.wf = true := by
  rw [State.killWaits]
  simp (maxDischargeDepth := 12) [hs]
@[simp] theorem State.killSlices_keeps (s : State) (l : List (CoreId × Fin 16)) (why : BitVec 4) (hs : s.mem.wf = true) :
    (State.killSlices s l why).mem.wf = true := by
  rw [State.killSlices]
  (try dsimp only); (repeat' split) <;> simp_all (maxDischargeDepth := 12)
@[simp] theorem State.killTree_keeps (s : State) (c : Cmd) (hs : s.mem.wf = true) : (State.killTree s c).mem.wf = true := by
  rw [State.killTree]
  (try dsimp only); (repeat' split) <;> simp (maxDischargeDepth := 12) [hs]
@[simp] theorem execKillSubtree_keeps (p : BitVec 6) (n : BitVec 32) (s : State) (hs : s.mem.wf = true) : KeepsMem (execKillSubtree p n s) := by
  rw [execKillSubtree]
  simp (maxDischargeDepth := 12) [hs]
@[simp] theorem State.killGang_keeps (s : State) (c : Cmd) (hs : s.mem.wf = true) : (State.killGang s c).mem.wf = true := by
  rw [State.killGang]
  have hc (l : List Armed) := memWf_foldl (fun (s : State) (a : Armed) => s.cancelEntry a) (fun _ _ h => State.cancelEntry_keeps _ _ h) l s hs
  (try dsimp only); (repeat' split) <;> simp (maxDischargeDepth := 12) [hs, hc]
@[simp] theorem execKillGang_keeps (p : BitVec 6) (n : BitVec 32) (s : State) (hs : s.mem.wf = true) : KeepsMem (execKillGang p n s) := by
  rw [execKillGang]
  simp (maxDischargeDepth := 12) [hs]
@[simp] theorem State.resumeCmd_keeps (s : State) (c : Cmd) (hs : s.mem.wf = true) : (State.resumeCmd s c).mem.wf = true := by
  rw [State.resumeCmd]
  (try dsimp only); (repeat' split) <;> simp_all (maxDischargeDepth := 12)
@[simp] theorem execResume_keeps (p : BitVec 6) (n : BitVec 32) (s : State) (hs : s.mem.wf = true) : KeepsMem (execResume p n s) := by
  rw [execResume]
  simp (maxDischargeDepth := 12) [hs]
@[simp] theorem execQueryStarterStatus_keeps (p : BitVec 6) (n : BitVec 32) (s : State)
    (hs : s.mem.wf = true) : KeepsMem (execQueryStarterStatus p n s) := by
  rw [execQueryStarterStatus]
  simp (maxDischargeDepth := 12) [hs]
@[simp] theorem execQueryPower_keeps (p : BitVec 6) (n : BitVec 32) (s : State) (hs : s.mem.wf = true) : KeepsMem (execQueryPower p n s) := by
  rw [execQueryPower]
  simp (maxDischargeDepth := 12) [hs]
@[simp] theorem execQueryDescriptor_keeps (p : BitVec 6) (n : BitVec 32) (s : State)
    (hs : s.mem.wf = true) : KeepsMem (execQueryDescriptor p n s) := by
  rw [execQueryDescriptor]
  simp (maxDischargeDepth := 12) [hs]
@[simp] theorem State.queueFill_keeps (s : State) (slab : Nat) (e : Eff) (rgn : BitVec 12) (hs : s.mem.wf = true) : (State.queueFill s slab e
    rgn).1.mem.wf = true := by
  rw [State.queueFill]
  (try dsimp only); (repeat' split) <;> first | exact State.gread_keeps (by assumption) hs | simp (maxDischargeDepth := 12) [hs]
@[simp] theorem State.fillCmd_keeps (s : State) (c : Cmd) (w : Nat) (e : Eff) (rgn : BitVec 12) (hs : s.mem.wf = true) : (State.fillCmd s c w e
    rgn).mem.wf = true := by
  rw [State.fillCmd]
  simp (maxDischargeDepth := 12) [hs]
@[simp] theorem State.queryUnplaced_keeps (s : State) (c : Cmd) (a : Word) (hs : s.mem.wf = true) : (State.queryUnplaced s c a).mem.wf = true := by
  simp only [State.queryUnplaced]
  cases h : s.gread (portalSlab c.p) (s.portalSpace c.p).1.toNat (s.portalSpace c.p).2.toNat a.toNat 256 with
  | bad e => exact State.endCmd_keeps _ _ _ _ _ _ (State.ctrlMark_keeps _ _ _ _ _ _ hs)
  | ok y =>
    obtain ⟨t, v⟩ := y
    have hk := State.gread_keeps h hs
    dsimp only
    (repeat' split) <;> simp (maxDischargeDepth := 12) [hk]
@[simp] theorem State.queryRegion_keeps (s : State) (c : Cmd) (hs : s.mem.wf = true) : (State.queryRegion s c).mem.wf = true := by
  rw [State.queryRegion]
  split <;> simp (maxDischargeDepth := 12) [hs]
@[simp] theorem execQueryRegion_keeps (p : BitVec 6) (n : BitVec 32) (s : State) (hs : s.mem.wf = true) : KeepsMem (execQueryRegion p n s) := by
  rw [execQueryRegion]
  simp (maxDischargeDepth := 12) [hs]
@[simp] theorem State.copyMark_keeps (s : State) (c : Cmd) (va acc : Nat) (hs : s.mem.wf = true) : (State.copyMark s c va acc).mem.wf = true := by
  rw [State.copyMark]
  simp (maxDischargeDepth := 12) [hs]
@[simp] theorem State.copyFault_keeps (s : State) (c : Cmd) (st : Nat) (hs : s.mem.wf = true) : (State.copyFault s c st).mem.wf = true := by
  rw [State.copyFault]
  simp (maxDischargeDepth := 12) [hs]
@[simp] theorem State.copyCmd_keeps (s : State) (c : Cmd) (hs : s.mem.wf = true) : (State.copyCmd s c).mem.wf = true := by
  rw [State.copyCmd]
  (try dsimp only); (repeat' split) <;> simp_all (maxDischargeDepth := 12)
@[simp] theorem execCopy_keeps (p : BitVec 6) (n : BitVec 32) (s : State) (hs : s.mem.wf = true) : KeepsMem (execCopy p n s) := by
  rw [execCopy]
  simp (maxDischargeDepth := 12) [hs]
@[simp] theorem State.releaseFrames_keeps (s : State) (q : Pool) (hs : s.mem.wf = true) : (State.releaseFrames s q).mem.wf = true := by
  rw [State.releaseFrames]
  (try dsimp only); (repeat' split) <;> simp_all (maxDischargeDepth := 12)
@[simp] theorem State.configurePool_keeps (s : State) (c : Cmd) (r : Region) (hs : s.mem.wf = true) : (State.configurePool s c r).mem.wf = true := by
  have ht : (match s.pools.find? (fun (q : Pool) => q.rgn == r.id && q.num == BitVec.ofNat 4 (c.f 199 192)) with
      | some q => s.releaseFrames q
      | none => s).mem.wf = true := by
    split
    · exact State.releaseFrames_keeps _ _ hs
    · exact hs
  rw [State.configurePool]
  split
  · exact State.endCmd_keeps _ _ _ _ _ _ hs
  · exact State.endCmd_keeps _ _ _ _ _ _ ht
@[simp] theorem State.keypoolCmd_keeps (s : State) (c : Cmd) (hs : s.mem.wf = true) : (State.keypoolCmd s c).mem.wf = true := by
  rw [State.keypoolCmd]
  (try dsimp only); (repeat' split) <;> simp (maxDischargeDepth := 12) [hs]
@[simp] theorem execKeypool_keeps (p : BitVec 6) (n : BitVec 32) (s : State) (hs : s.mem.wf = true) : KeepsMem (execKeypool p n s) := by
  rw [execKeypool]
  simp (maxDischargeDepth := 12) [hs]
@[simp] theorem execKeypoolRelease_keeps (p : BitVec 6) (n : BitVec 32) (s : State) (hs : s.mem.wf = true) : KeepsMem (execKeypoolRelease p n s) := by
  rw [execKeypoolRelease]
  simp (maxDischargeDepth := 12) [hs]
@[simp] theorem execConfigPower_keeps (p : BitVec 6) (n : BitVec 32) (s : State) (hs : s.mem.wf = true) : KeepsMem (execConfigPower p n s) := by
  rw [execConfigPower]
  simp (maxDischargeDepth := 12) [hs]
@[simp] theorem execConfigDescriptor_keeps (p : BitVec 6) (n : BitVec 32) (s : State)
    (hs : s.mem.wf = true) : KeepsMem (execConfigDescriptor p n s) := by
  rw [execConfigDescriptor]
  simp (maxDischargeDepth := 12) [hs]
@[simp] theorem execConfigRevoke_keeps (p : BitVec 6) (n : BitVec 32) (s : State) (hs : s.mem.wf = true) : KeepsMem (execConfigRevoke p n s) := by
  rw [execConfigRevoke]
  simp (maxDischargeDepth := 12) [hs]
@[simp] theorem execConfigInterrupt_keeps (p : BitVec 6) (n : BitVec 32) (s : State)
    (hs : s.mem.wf = true) : KeepsMem (execConfigInterrupt p n s) := by
  rw [execConfigInterrupt]
  simp (maxDischargeDepth := 12) [hs]
@[simp] theorem execConfigRetireStack_keeps (p : BitVec 6) (n : BitVec 32) (s : State)
    (hs : s.mem.wf = true) : KeepsMem (execConfigRetireStack p n s) := by
  rw [execConfigRetireStack]
  simp (maxDischargeDepth := 12) [hs]
@[simp] theorem State.revokes_keeps (s : State) (c : Cmd) (hs : s.mem.wf = true) : (State.revokes s c).mem.wf = true := by
  rw [State.revokes]
  exact memWf_ite _ _ _ hs hs
@[simp] theorem State.completeCmd_keeps (s : State) (c : Cmd) (r : BitVec 8 × BitVec 8 × Word × Word) (hs : s.mem.wf = true) :
    (State.completeCmd s c r).mem.wf = true := by
  simp only [State.completeCmd]
  have ht := State.revokes_keeps ({ s with cmds := s.cmds.filter (fun (e : Cmd) => !(e.p == c.p && e.n == c.n)) } : State) c hs
  revert ht
  generalize State.revokes ({ s with cmds := s.cmds.filter (fun (e : Cmd) => !(e.p == c.p && e.n == c.n)) } : State) c = t
  intro ht
  split <;> rename_i heq <;> have hu := fst_wf heq (State.ringKey_keeps _ _ _ _ _ ht)
  · simp (maxDischargeDepth := 12) [hu]
  · split
    · exact State.interrupt_keeps _ _ (by simp (maxDischargeDepth := 12) [hu])
    · simp (maxDischargeDepth := 12) [hu]
@[simp] theorem execCommandCompletion_keeps (p : BitVec 6) (n : BitVec 32) (s : State)
    (hs : s.mem.wf = true) : KeepsMem (execCommandCompletion p n s) := by
  rw [execCommandCompletion]
  split
  · trivial
  · rename_i c _
    split
    · trivial
    · exact State.completeCmd_keeps _ _ _ hs

/-! ## Module -/

@[simp] theorem State.loadPumps_keeps (s : State) (image : List Byte) (hs : s.mem.wf = true) : (State.loadPumps s image).mem.wf = true := by
  rw [State.loadPumps]
  (try dsimp only); (repeat' split) <;> simp_all (maxDischargeDepth := 12)
@[simp] theorem State.loadBlock_keeps (s : State) (b : ConfigBlock) (image : List Byte) (hs : s.mem.wf = true) :
    (State.loadBlock s b image).mem.wf = true := by
  rw [State.loadBlock]
  simp (maxDischargeDepth := 12) [hs]
@[simp] theorem execPowerUp_keeps (b : ConfigBlock) (failed : List (BitVec 6)) (image : List Byte) (s : State)
    (hs : s.mem.wf = true) : KeepsMem (execPowerUp b failed image s) := by
  rw [execPowerUp]
  exact State.loadBlock_keeps _ _ _ (show State.reset.mem.wf = true from rfl)
@[simp] theorem execMgmtImageReload_keeps (b : ConfigBlock) (image : List Byte) (s : State)
    (hs : s.mem.wf = true) : KeepsMem (execMgmtImageReload b image s) := by
  rw [execMgmtImageReload]
  split <;> simp (maxDischargeDepth := 12) [hs]
@[simp] theorem execSlabJoin_keeps (slab : BitVec 6) (s : State) (hs : s.mem.wf = true) : KeepsMem (execSlabJoin slab s) := by
  rw [execSlabJoin]
  split <;> simp (maxDischargeDepth := 12) [hs]
@[simp] theorem State.stackError_keeps (s : State) (key : Nat) (hs : s.mem.wf = true) : (State.stackError s key).mem.wf = true := by
  unfold State.stackError
  split
  · exact hs
  · exact hs
@[simp] theorem execDoubleBitError_keeps (slab : BitVec 6) (e : SoftError) (s : State) (hs : s.mem.wf = true) :
    KeepsMem (execDoubleBitError slab e s) := by
  unfold execDoubleBitError
  split
  · exact (keepsMem_next _).mpr (State.bump_keeps _ _ _ (State.stackError_keeps _ _ hs))
  · exact (keepsMem_next _).mpr (State.bump_keeps _ _ _ hs)
@[simp] theorem execStackRetirement_keeps (stack : BitVec 6) (map : List (BitVec 40 × BitVec 40)) (s : State)
    (hs : s.mem.wf = true) : KeepsMem (execStackRetirement stack map s) := by
  rw [execStackRetirement]
  split
  · trivial
  · exact hs
@[simp] theorem execStackFrameCopy_keeps (frame : BitVec 40) (s : State) (hs : s.mem.wf = true) : KeepsMem (execStackFrameCopy frame s) := by
  rw [execStackFrameCopy]
  split <;> simp (maxDischargeDepth := 12) [hs]
@[simp] theorem execModuleRemoval_keeps (m : BitVec 12) (s : State) (hs : s.mem.wf = true) : KeepsMem (execModuleRemoval m s) := by
  rw [execModuleRemoval]
  simp (maxDischargeDepth := 12) [hs]
@[simp] theorem execModuleJoin_keeps (pace : Word) (pos : Nat) (s : State) (hs : s.mem.wf = true) : KeepsMem (execModuleJoin pace pos s) := by
  rw [execModuleJoin]
  simp (maxDischargeDepth := 12) [hs]
@[simp] theorem State.writePageEntry_keeps (s : State) (frame : BitVec 40) (n : BitVec 15) (v : Word) (hs : s.mem.wf = true) :
    (State.writePageEntry s frame n v).mem.wf = true := by
  rw [State.writePageEntry]
  exact memWf_ite _ _ _ hs (State.framesEnter_keeps _ _ (State.putGood_keeps _ _ _ _ hs))
@[simp] theorem State.rootRead_keeps (s : State) (hs : s.mem.wf = true) : (State.rootRead s).mem.wf = true := hs
@[simp] theorem execRegisterWrite_keeps (w : TableWrite) (s : State) (hs : s.mem.wf = true) : KeepsMem (execRegisterWrite w s) := by
  unfold execRegisterWrite
  split <;> simp (maxDischargeDepth := 12) [hs]
@[simp] theorem State.tickStart_keeps (s : State) (hs : s.mem.wf = true) : (State.tickStart s).mem.wf = true := by
  rw [State.tickStart]
  simp (maxDischargeDepth := 12) [hs]
@[simp] theorem execPaceTick_keeps (s : State) (hs : s.mem.wf = true) : KeepsMem (execPaceTick s) := by
  rw [execPaceTick]
  split <;> simp (maxDischargeDepth := 12) [hs]

/-! ## Debug -/

@[simp] theorem State.waitExpires_keeps (s : State) (w : Waiting) (hs : s.mem.wf = true) : (State.waitExpires s w).mem.wf = true := by
  rw [State.waitExpires]
  split <;> simp (maxDischargeDepth := 12) [hs]
@[simp] theorem execBoundedWaitExpiry_keeps (co : CoreId) (i : Fin 16) (c : Fin 11) (s : State)
    (hs : s.mem.wf = true) : KeepsMem (execBoundedWaitExpiry co i c s) := by
  rw [execBoundedWaitExpiry]
  (try dsimp only); (repeat' split) <;> simp_all (maxDischargeDepth := 12)
@[simp] theorem execKrabexAttach_keeps (co : CoreId) (i : Fin 16) (s : State) (hs : s.mem.wf = true) : KeepsMem (execKrabexAttach co i s) := by
  rw [execKrabexAttach]
  simp (maxDischargeDepth := 12) [hs]
@[simp] theorem execKrabexDetach_keeps (co : CoreId) (i : Fin 16) (s : State) (hs : s.mem.wf = true) : KeepsMem (execKrabexDetach co i s) := by
  rw [execKrabexDetach]
  simp (maxDischargeDepth := 12) [hs]
@[simp] theorem execBreakpointWrite_keeps (co : CoreId) (n : Fin 4) (v : Word) (s : State)
    (hs : s.mem.wf = true) : KeepsMem (execBreakpointWrite co n v s) := by
  rw [execBreakpointWrite]
  simp (maxDischargeDepth := 12) [hs]
@[simp] theorem execWatchpointWrite_keeps (co : CoreId) (n : Fin 2) (v : Word) (s : State)
    (hs : s.mem.wf = true) : KeepsMem (execWatchpointWrite co n v s) := by
  rw [execWatchpointWrite]
  simp (maxDischargeDepth := 12) [hs]
@[simp] theorem State.krabexHalt_keeps (s : State) (co : CoreId) (i : Fin 16) (hs : s.mem.wf = true) : (State.krabexHalt s co i).mem.wf = true := by
  rw [State.krabexHalt]
  (try dsimp only); (repeat' split) <;> simp_all (maxDischargeDepth := 12)
@[simp] theorem execKrabexHalt_keeps (co : CoreId) (i : Fin 16) (s : State) (hs : s.mem.wf = true) : KeepsMem (execKrabexHalt co i s) := by
  rw [execKrabexHalt]
  split <;> simp (maxDischargeDepth := 12) [hs]
@[simp] theorem State.krabexResume_keeps (s : State) (co : CoreId) (i : Fin 16) (hs : s.mem.wf = true) :
    (State.krabexResume s co i).mem.wf = true := by
  rw [State.krabexResume]
  (try dsimp only); (repeat' split) <;> simp_all (maxDischargeDepth := 12)
@[simp] theorem execKrabexResume_keeps (co : CoreId) (i : Fin 16) (s : State) (hs : s.mem.wf = true) : KeepsMem (execKrabexResume co i s) := by
  rw [execKrabexResume]
  split <;> simp (maxDischargeDepth := 12) [hs]
@[simp] theorem execKrabexStep_keeps (co : CoreId) (i : Fin 16) (c : Fin 11) (on : Bool) (s : State)
    (hs : s.mem.wf = true) : KeepsMem (execKrabexStep co i c on s) := by
  rw [execKrabexStep]
  simp (maxDischargeDepth := 12) [hs]
@[simp] theorem execTraceEnable_keeps (co : CoreId) (on : Bool) (s : State) (hs : s.mem.wf = true) : KeepsMem (execTraceEnable co on s) := by
  rw [execTraceEnable]
  simp (maxDischargeDepth := 12) [hs]
@[simp] theorem execKrabexStateAccess_keeps (a : DebugAccess) (s : State) (hs : s.mem.wf = true) : KeepsMem (execKrabexStateAccess a s) := by
  unfold execKrabexStateAccess
  (try dsimp only); (repeat' split) <;> simp_all (maxDischargeDepth := 12)

end Sys2Proof.Machine
end

