-- ==== Sys2Proof/Laws/PerInstr.lean ====
section
/-! SUPPORT. Laws.PerInstr: decoding what the encoder gives, instruction by instruction. -/

namespace Sys2Proof.Laws.RoundTrip
set_option Elab.async false
set_option linter.all false

/-- An instruction of word C, encoded with any stall count and a lone bit it fits, is read back from word C, with X beside it where it is
lone and with any word A where it is not; one of word A is read back from word A. Events have no encoding. -/
def Statement (i : Instr) : Prop :=
  (i.isC = true → i.wf = true → ∀ lone : Bool, i.fitsLone lone = true → ∀ stl : Nat, stl < 8 → ∀ x : Nat,
    (lone = true → x = encodeX i) → decodeC (encodeC i + stl * 268435456 + lone.toNat * 2147483648) x = .instr i) ∧
  (i.isA = true → i.wf = true → decodeA (encodeA i) = .instr i)

theorem event {i : Instr} (hc : i.isC = false) (ha : i.isA = false) : Statement i :=
  ⟨fun h => Bool.noConfusion (hc.symm.trans h), fun h => Bool.noConfusion (ha.symm.trans h)⟩

theorem tyBits_eq (t : Nat) (ty : BitVec 4) (h : t = ty.toNat) : tyBits t = 2 ^ lgBits ty := by
  subst h; revert ty; decide
theorem pow_ratio (a b k : Nat) : ((2 ^ a : Nat) == 2 ^ k * 2 ^ b) = (a == b + k) := by
  rw [← Nat.pow_add, Bool.eq_iff_iff]
  simp only [beq_iff_eq]
  constructor
  · intro h; have := (Nat.pow_right_inj (a := 2) (by decide)).mp h; omega
  · intro h; subst h; rw [Nat.add_comm]
theorem cvtOk_of_form {ty src : BitVec 4} {vd va : VReg} (h : cvtForm ty src vd va = true) :
    cvtOk ty.toNat src.toNat vd.toNat va.toNat = true := by
  have h0 := pow_ratio (lgBits ty) (lgBits src) 0
  have h1 := pow_ratio (lgBits ty) (lgBits src) 1
  have h2 := pow_ratio (lgBits ty) (lgBits src) 2
  have h3 := pow_ratio (lgBits src) (lgBits ty) 1
  have h4 := pow_ratio (lgBits src) (lgBits ty) 2
  simp only [Nat.pow_zero, Nat.one_mul, Nat.add_zero, Nat.reducePow] at h0 h1 h2 h3 h4
  unfold cvtOk
  rw [tyBits_eq _ ty rfl, tyBits_eq _ src rfl, h0, h1, h2, h3, h4]
  exact h


theorem powerUp (_b : ConfigBlock) (_failed : List (BitVec 6)) (_image : List Byte) : Statement (.powerUp _b _failed _image) := event rfl rfl
theorem slabJoin (_slab : BitVec 6) : Statement (.slabJoin _slab) := event rfl rfl
theorem mgmtImageReload (_b : ConfigBlock) (_image : List Byte) : Statement (.mgmtImageReload _b _image) := event rfl rfl
theorem powerMeasurement (_hot : Bool) (_fit : BitVec 6) : Statement (.powerMeasurement _hot _fit) := event rfl rfl
theorem stepRaise : Statement .stepRaise := event rfl rfl
theorem stepChangeForced : Statement .stepChangeForced := event rfl rfl
theorem thermalTrip (_slab : BitVec 6) : Statement (.thermalTrip _slab) := event rfl rfl
theorem thermalRecovery (_slab : BitVec 6) : Statement (.thermalRecovery _slab) := event rfl rfl
theorem supplyFault : Statement .supplyFault := event rfl rfl
theorem supplyFaultHalt : Statement .supplyFaultHalt := event rfl rfl
theorem fullServiceEntry : Statement .fullServiceEntry := event rfl rfl
theorem doubleBitError (_slab : BitVec 6) (_e : SoftError) : Statement (.doubleBitError _slab _e) := event rfl rfl
theorem stackRetirement (_stack : BitVec 6) (_map : List (BitVec 40 × BitVec 40)) : Statement (.stackRetirement _stack _map) := event rfl rfl
theorem stackFrameCopy (_frame : BitVec 40) : Statement (.stackFrameCopy _frame) := event rfl rfl
theorem moduleRemoval (_m : BitVec 12) : Statement (.moduleRemoval _m) := event rfl rfl
theorem moduleJoin (_pace : Word) (_pos : Nat) : Statement (.moduleJoin _pace _pos) := event rfl rfl
theorem laneSparing (_slab : BitVec 6) : Statement (.laneSparing _slab) := event rfl rfl
theorem paceTick : Statement .paceTick := event rfl rfl
theorem routerForward (_k : Nat) : Statement (.routerForward _k) := event rfl rfl
theorem moduleIngress (_p : Packet) (_port : BitVec 6) (_rq : Option Ask) : Statement (.moduleIngress _p _port _rq) := event rfl rfl
theorem flitReplay (_slab : BitVec 6) (_k : Nat) : Statement (.flitReplay _slab _k) := event rfl rfl
theorem linkControlFlit (_port : BitVec 6) (_credits : CreditReturn) : Statement (.linkControlFlit _port _credits) := event rfl rfl
theorem scheduledDelivery (_k : Nat) : Statement (.scheduledDelivery _k) := event rfl rfl
theorem messageArrival (_k : Nat) : Statement (.messageArrival _k) := event rfl rfl
theorem startMessage (_k : Nat) : Statement (.startMessage _k) := event rfl rfl
theorem coreSpaceRequest (_k : Nat) : Statement (.coreSpaceRequest _k) := event rfl rfl
theorem globalRequestTranslation (_k : Nat) : Statement (.globalRequestTranslation _k) := event rfl rfl
theorem homeRequest (_k : Nat) : Statement (.homeRequest _k) := event rfl rfl
theorem replicaStore (_k : Nat) : Statement (.replicaStore _k) := event rfl rfl
theorem splitPhaseCompletion (_k : Nat) (_ext : Answer) : Statement (.splitPhaseCompletion _k _ext) := event rfl rfl
theorem translationInvalidation (_k : Nat) : Statement (.translationInvalidation _k) := event rfl rfl
theorem syncMessage (_m : PtpSync) : Statement (.syncMessage _m) := event rfl rfl
theorem announceMessage (_src : PtpSource) (_rank : Nat) : Statement (.announceMessage _src _rank) := event rfl rfl
theorem pdelayReq (_src : PtpSource) (_seq : BitVec 16) (_t2 : Nat) (_t3 : Nat) : Statement (.pdelayReq _src _seq _t2 _t3) := event rfl rfl
theorem announceReceiptTimeout : Statement .announceReceiptTimeout := event rfl rfl
theorem frequencyTrim (_ppb : Int) : Statement (.frequencyTrim _ppb) := event rfl rfl
theorem frequencyLoss : Statement .frequencyLoss := event rfl rfl
theorem relock (_pace : Word) (_pos : Nat) : Statement (.relock _pace _pos) := event rfl rfl
theorem timedAction (_n : Nat) : Statement (.timedAction _n) := event rfl rfl
theorem straggler (_n : Nat) : Statement (.straggler _n) := event rfl rfl
theorem starterNotice (_k : Nat) : Statement (.starterNotice _k) := event rfl rfl
theorem coordCollectTimeout (_n : Nat) : Statement (.coordCollectTimeout _n) := event rfl rfl
theorem undo (_n : Nat) : Statement (.undo _n) := event rfl rfl
theorem armEntryFree (_n : Nat) : Statement (.armEntryFree _n) := event rfl rfl
theorem notifyWrite (_k : Nat) : Statement (.notifyWrite _k) := event rfl rfl
theorem resetNotify (_k : Nat) : Statement (.resetNotify _k) := event rfl rfl
theorem commandFetch (_p : BitVec 6) : Statement (.commandFetch _p) := event rfl rfl
theorem launch (_p : BitVec 6) (_n : BitVec 32) : Statement (.launch _p _n) := event rfl rfl
theorem arm (_p : BitVec 6) (_n : BitVec 32) : Statement (.arm _p _n) := event rfl rfl
theorem killSubtree (_p : BitVec 6) (_n : BitVec 32) : Statement (.killSubtree _p _n) := event rfl rfl
theorem killGang (_p : BitVec 6) (_n : BitVec 32) : Statement (.killGang _p _n) := event rfl rfl
theorem queryStarterStatus (_p : BitVec 6) (_n : BitVec 32) : Statement (.queryStarterStatus _p _n) := event rfl rfl
theorem queryPower (_p : BitVec 6) (_n : BitVec 32) : Statement (.queryPower _p _n) := event rfl rfl
theorem queryDescriptor (_p : BitVec 6) (_n : BitVec 32) : Statement (.queryDescriptor _p _n) := event rfl rfl
theorem queryRegion (_p : BitVec 6) (_n : BitVec 32) : Statement (.queryRegion _p _n) := event rfl rfl
theorem copy (_p : BitVec 6) (_n : BitVec 32) : Statement (.copy _p _n) := event rfl rfl
theorem keypool (_p : BitVec 6) (_n : BitVec 32) : Statement (.keypool _p _n) := event rfl rfl
theorem keypoolRelease (_p : BitVec 6) (_n : BitVec 32) : Statement (.keypoolRelease _p _n) := event rfl rfl
theorem configPower (_p : BitVec 6) (_n : BitVec 32) : Statement (.configPower _p _n) := event rfl rfl
theorem configDescriptor (_p : BitVec 6) (_n : BitVec 32) : Statement (.configDescriptor _p _n) := event rfl rfl
theorem configRevoke (_p : BitVec 6) (_n : BitVec 32) : Statement (.configRevoke _p _n) := event rfl rfl
theorem configInterrupt (_p : BitVec 6) (_n : BitVec 32) : Statement (.configInterrupt _p _n) := event rfl rfl
theorem configRetireStack (_p : BitVec 6) (_n : BitVec 32) : Statement (.configRetireStack _p _n) := event rfl rfl
theorem resume (_p : BitVec 6) (_n : BitVec 32) : Statement (.resume _p _n) := event rfl rfl
theorem commandCompletion (_p : BitVec 6) (_n : BitVec 32) : Statement (.commandCompletion _p _n) := event rfl rfl
theorem sliceRelease (_co : CoreId) (_i : Fin 16) : Statement (.sliceRelease _co _i) := event rfl rfl
theorem budgetExhaustion (_co : CoreId) (_i : Fin 16) : Statement (.budgetExhaustion _co _i) := event rfl rfl
theorem switchComplete (_co : CoreId) : Statement (.switchComplete _co) := event rfl rfl
theorem sliceLeave (_co : CoreId) (_i : Fin 16) : Statement (.sliceLeave _co _i) := event rfl rfl
theorem bShareClear (_co : CoreId) : Statement (.bShareClear _co) := event rfl rfl
theorem sbarArrival (_k : Nat) : Statement (.sbarArrival _k) := event rfl rfl
theorem goMessage (_k : Nat) : Statement (.goMessage _k) := event rfl rfl
theorem exchangeWindowOpen (_co : CoreId) (_i : Fin 16) : Statement (.exchangeWindowOpen _co _i) := event rfl rfl
theorem exchangeWindowClose (_co : CoreId) (_i : Fin 16) : Statement (.exchangeWindowClose _co _i) := event rfl rfl
theorem xsendDeparture (_co : CoreId) : Statement (.xsendDeparture _co) := event rfl rfl
theorem cisternTstRequest (_k : Nat) : Statement (.cisternTstRequest _k) := event rfl rfl
theorem cisternTadvRequest (_k : Nat) : Statement (.cisternTadvRequest _k) := event rfl rfl
theorem cisternTldRequest (_k : Nat) : Statement (.cisternTldRequest _k) := event rfl rfl
theorem cisternTlowRequest (_k : Nat) : Statement (.cisternTlowRequest _k) := event rfl rfl
theorem cisternCancel (_k : Nat) : Statement (.cisternCancel _k) := event rfl rfl
theorem mmaExecution (_co : CoreId) : Statement (.mmaExecution _co) := event rfl rfl
theorem mldbExecution (_co : CoreId) : Statement (.mldbExecution _co) := event rfl rfl
theorem mzeroExecution (_co : CoreId) : Statement (.mzeroExecution _co) := event rfl rfl
theorem mdrainExecution (_co : CoreId) : Statement (.mdrainExecution _co) := event rfl rfl
theorem kickWordStore (_k : Nat) : Statement (.kickWordStore _k) := event rfl rfl
theorem pumpCopy (_u : PumpId) : Statement (.pumpCopy _u) := event rfl rfl
theorem pumpGather (_u : PumpId) : Statement (.pumpGather _u) := event rfl rfl
theorem pumpScatter (_u : PumpId) : Statement (.pumpScatter _u) := event rfl rfl
theorem pumpFill (_u : PumpId) : Statement (.pumpFill _u) := event rfl rfl
theorem pumpAddReduce (_u : PumpId) : Statement (.pumpAddReduce _u) := event rfl rfl
theorem pumpCisternStore (_u : PumpId) : Statement (.pumpCisternStore _u) := event rfl rfl
theorem pumpCisternLoad (_u : PumpId) : Statement (.pumpCisternLoad _u) := event rfl rfl
theorem pumpMicrocodeRead (_u : PumpId) : Statement (.pumpMicrocodeRead _u) := event rfl rfl
theorem pumpJobCompletion (_u : PumpId) : Statement (.pumpJobCompletion _u) := event rfl rfl
theorem boundedWaitExpiry (_co : CoreId) (_i : Fin 16) (_c : Fin 11) : Statement (.boundedWaitExpiry _co _i _c) := event rfl rfl
theorem krabexAttach (_co : CoreId) (_i : Fin 16) : Statement (.krabexAttach _co _i) := event rfl rfl
theorem krabexDetach (_co : CoreId) (_i : Fin 16) : Statement (.krabexDetach _co _i) := event rfl rfl
theorem breakpointWrite (_co : CoreId) (_n : Fin 4) (_v : Word) : Statement (.breakpointWrite _co _n _v) := event rfl rfl
theorem watchpointWrite (_co : CoreId) (_n : Fin 2) (_v : Word) : Statement (.watchpointWrite _co _n _v) := event rfl rfl
theorem krabexHalt (_co : CoreId) (_i : Fin 16) : Statement (.krabexHalt _co _i) := event rfl rfl
theorem krabexResume (_co : CoreId) (_i : Fin 16) : Statement (.krabexResume _co _i) := event rfl rfl
theorem krabexStep (_co : CoreId) (_i : Fin 16) (_c : Fin 11) (_on : Bool) : Statement (.krabexStep _co _i _c _on) := event rfl rfl
theorem traceEnable (_co : CoreId) (_on : Bool) : Statement (.traceEnable _co _on) := event rfl rfl
theorem krabexStateAccess (_a : DebugAccess) : Statement (.krabexStateAccess _a) := event rfl rfl
theorem registerWrite (_w : TableWrite) : Statement (.registerWrite _w) := event rfl rfl
theorem supplyRecovery : Statement .supplyRecovery := event rfl rfl
theorem cisternCompletion (_k : Nat) (_ext : Answer) : Statement (.cisternCompletion _k _ext) := event rfl rfl
theorem armedRecordPlacement (_n : Nat) : Statement (.armedRecordPlacement _n) := event rfl rfl
theorem offModulePortTraining (_port : BitVec 6) (_lp : Nat) : Statement (.offModulePortTraining _port _lp) := event rfl rfl
theorem nopC : Statement .nopC := by
  refine ⟨fun _ hw lone hl stl hn x hx => ?_, fun h => Bool.noConfusion (show false = true from h)⟩
  rw [show encodeC .nopC = 0 from rfl]
  obtain ⟨w, hW⟩ : ∃ w, w = 0 + stl * 268435456 + lone.toNat * 2147483648 := ⟨_, rfl⟩
  rw [← hW]
  have h_l := lone.toNat_lt
  have e1 : fld w 27 22 = 0 := by simp only [fld, Nat.reducePow, Nat.reduceSub, Nat.reduceAdd]; omega
  have f1 : decodeC w x = .instr .nopC := by unfold decodeC; rw [e1]; try rfl
  rw [f1]
theorem hintC (v : BitVec 22) : Statement (.hintC v) := by
  refine ⟨fun _ hw lone hl stl hn x hx => ?_, fun h => Bool.noConfusion (show false = true from h)⟩
  have h_v := v.isLt
  rw [show encodeC (.hintC v) = 260046848 + v.toNat from rfl]
  obtain ⟨w, hW⟩ : ∃ w, w = 260046848 + v.toNat + stl * 268435456 + lone.toNat * 2147483648 := ⟨_, rfl⟩
  rw [← hW]
  have h_l := lone.toNat_lt
  have e1 : fld w 27 22 = 62 := by simp only [fld, Nat.reducePow, Nat.reduceSub, Nat.reduceAdd]; omega
  have f1 : decodeC w x = .instr (.hintC (bv 22 w 0)) := by unfold decodeC; rw [e1]; try rfl
  rw [f1]
  have e2 : bv 22 w 0 = v := by apply BitVec.eq_of_toNat_eq; simp only [bv, BitVec.toNat_ofNat, Nat.reducePow]; omega
  rw [e2]
theorem br (d : BitVec 22) : Statement (.br d) := by
  refine ⟨fun _ hw lone hl stl hn x hx => ?_, fun h => Bool.noConfusion (show false = true from h)⟩
  have h_d := d.isLt
  rw [show encodeC (.br d) = 4194304 + d.toNat from rfl]
  obtain ⟨w, hW⟩ : ∃ w, w = 4194304 + d.toNat + stl * 268435456 + lone.toNat * 2147483648 := ⟨_, rfl⟩
  rw [← hW]
  have h_l := lone.toNat_lt
  have e1 : fld w 27 22 = 1 := by simp only [fld, Nat.reducePow, Nat.reduceSub, Nat.reduceAdd]; omega
  have f1 : decodeC w x = .instr (.br (bv 22 w 0)) := by unfold decodeC; rw [e1]; try rfl
  rw [f1]
  have e2 : bv 22 w 0 = d := by apply BitVec.eq_of_toNat_eq; simp only [bv, BitVec.toNat_ofNat, Nat.reducePow]; omega
  rw [e2]
theorem call (d : BitVec 22) : Statement (.call d) := by
  refine ⟨fun _ hw lone hl stl hn x hx => ?_, fun h => Bool.noConfusion (show false = true from h)⟩
  have h_d := d.isLt
  rw [show encodeC (.call d) = 8388608 + d.toNat from rfl]
  obtain ⟨w, hW⟩ : ∃ w, w = 8388608 + d.toNat + stl * 268435456 + lone.toNat * 2147483648 := ⟨_, rfl⟩
  rw [← hW]
  have h_l := lone.toNat_lt
  have e1 : fld w 27 22 = 2 := by simp only [fld, Nat.reducePow, Nat.reduceSub, Nat.reduceAdd]; omega
  have f1 : decodeC w x = .instr (.call (bv 22 w 0)) := by unfold decodeC; rw [e1]; try rfl
  rw [f1]
  have e2 : bv 22 w 0 = d := by apply BitVec.eq_of_toNat_eq; simp only [bv, BitVec.toNat_ofNat, Nat.reducePow]; omega
  rw [e2]
theorem bt (r : GReg) (b : BitVec 6) (d : Imm 10) : Statement (.bt r b d) := by
  refine ⟨fun _ hw lone hl stl hn x hx => ?_, fun h => Bool.noConfusion (show false = true from h)⟩
  have h_r := r.isLt
  have h_b := b.isLt
  cases d with
  | short d =>
    have h_d := d.isLt
    obtain rfl : lone = false := by cases lone <;> first | rfl | exact Bool.noConfusion (show false = true from hl)
    rw [show encodeC (.bt r b (.short d)) = 12582912 + 1024 + r.toNat * 131072 + b.toNat * 2048 + immLow (.short d) from rfl]
    rw [show immLow (.short d) = d.toNat from rfl]
    rw [show Bool.toNat false = 0 from rfl]
    obtain ⟨w, hW⟩ : ∃ w, w = 12582912 + 1024 + r.toNat * 131072 + b.toNat * 2048 + d.toNat + stl * 268435456 + 0 * 2147483648 := ⟨_, rfl⟩
    rw [← hW]
    have e1 : fld w 27 22 = 3 := by simp only [fld, Nat.reducePow, Nat.reduceSub, Nat.reduceAdd]; omega
    have f1 : decodeC w x = decC03 w x := by unfold decodeC; rw [e1]; try rfl
    have e2 : fld w 10 10 = 1 := by simp only [fld, Nat.reducePow, Nat.reduceSub, Nat.reduceAdd]; omega
    have f2 : decC03 w x = .instr (.bt (bv 5 w 17) (bv 6 w 11) (imm10 w x)) := by unfold decC03; rw [e2]; try rfl
    rw [f1, f2]
    have e4 : fld w 31 31 = 0 := by simp only [fld, Nat.reducePow, Nat.reduceSub, Nat.reduceAdd]; omega
    have e3 : loneBit w = false := by unfold loneBit; rw [e4]; rfl
    have e5 : bv 10 w 0 = d := by apply BitVec.eq_of_toNat_eq; simp only [bv, BitVec.toNat_ofNat, Nat.reducePow]; omega
    have ei : imm10 w x = .short d := by unfold imm10; rw [e3, e5]; rfl
    have e6 : bv 5 w 17 = r := by apply BitVec.eq_of_toNat_eq; simp only [bv, BitVec.toNat_ofNat, Nat.reducePow]; omega
    have e7 : bv 6 w 11 = b := by apply BitVec.eq_of_toNat_eq; simp only [bv, BitVec.toNat_ofNat, Nat.reducePow]; omega
    rw [e6, e7, ei]
  | ext d =>
    have h_d := d.isLt
    obtain rfl : lone = true := by cases lone <;> first | rfl | exact Bool.noConfusion (show false = true from hl)
    replace hx : x = d.toNat := hx rfl
    rw [show encodeC (.bt r b (.ext d)) = 12582912 + 1024 + r.toNat * 131072 + b.toNat * 2048 + immLow (.ext d) from rfl]
    rw [show immLow (.ext d) = 0 from rfl]
    rw [show Bool.toNat true = 1 from rfl]
    obtain ⟨w, hW⟩ : ∃ w, w = 12582912 + 1024 + r.toNat * 131072 + b.toNat * 2048 + 0 + stl * 268435456 + 1 * 2147483648 := ⟨_, rfl⟩
    rw [← hW]
    have e1 : fld w 27 22 = 3 := by simp only [fld, Nat.reducePow, Nat.reduceSub, Nat.reduceAdd]; omega
    have f1 : decodeC w x = decC03 w x := by unfold decodeC; rw [e1]; try rfl
    have e2 : fld w 10 10 = 1 := by simp only [fld, Nat.reducePow, Nat.reduceSub, Nat.reduceAdd]; omega
    have f2 : decC03 w x = .instr (.bt (bv 5 w 17) (bv 6 w 11) (imm10 w x)) := by unfold decC03; rw [e2]; try rfl
    rw [f1, f2]
    have e4 : fld w 31 31 = 1 := by simp only [fld, Nat.reducePow, Nat.reduceSub, Nat.reduceAdd]; omega
    have e3 : loneBit w = true := by unfold loneBit; rw [e4]; rfl
    have e5 : bv 32 x 0 = d := by apply BitVec.eq_of_toNat_eq; simp only [bv, BitVec.toNat_ofNat, Nat.reducePow]; omega
    have ei : imm10 w x = .ext d := by unfold imm10; rw [e3, e5]; rfl
    have e6 : bv 5 w 17 = r := by apply BitVec.eq_of_toNat_eq; simp only [bv, BitVec.toNat_ofNat, Nat.reducePow]; omega
    have e7 : bv 6 w 11 = b := by apply BitVec.eq_of_toNat_eq; simp only [bv, BitVec.toNat_ofNat, Nat.reducePow]; omega
    rw [e6, e7, ei]
theorem bf (r : GReg) (b : BitVec 6) (d : Imm 10) : Statement (.bf r b d) := by
  refine ⟨fun _ hw lone hl stl hn x hx => ?_, fun h => Bool.noConfusion (show false = true from h)⟩
  have h_r := r.isLt
  have h_b := b.isLt
  cases d with
  | short d =>
    have h_d := d.isLt
    obtain rfl : lone = false := by cases lone <;> first | rfl | exact Bool.noConfusion (show false = true from hl)
    rw [show encodeC (.bf r b (.short d)) = 12582912 + r.toNat * 131072 + b.toNat * 2048 + immLow (.short d) from rfl]
    rw [show immLow (.short d) = d.toNat from rfl]
    rw [show Bool.toNat false = 0 from rfl]
    obtain ⟨w, hW⟩ : ∃ w, w = 12582912 + r.toNat * 131072 + b.toNat * 2048 + d.toNat + stl * 268435456 + 0 * 2147483648 := ⟨_, rfl⟩
    rw [← hW]
    have e1 : fld w 27 22 = 3 := by simp only [fld, Nat.reducePow, Nat.reduceSub, Nat.reduceAdd]; omega
    have f1 : decodeC w x = decC03 w x := by unfold decodeC; rw [e1]; try rfl
    have e2 : fld w 10 10 = 0 := by simp only [fld, Nat.reducePow, Nat.reduceSub, Nat.reduceAdd]; omega
    have f2 : decC03 w x = .instr (.bf (bv 5 w 17) (bv 6 w 11) (imm10 w x)) := by unfold decC03; rw [e2]; try rfl
    rw [f1, f2]
    have e4 : fld w 31 31 = 0 := by simp only [fld, Nat.reducePow, Nat.reduceSub, Nat.reduceAdd]; omega
    have e3 : loneBit w = false := by unfold loneBit; rw [e4]; rfl
    have e5 : bv 10 w 0 = d := by apply BitVec.eq_of_toNat_eq; simp only [bv, BitVec.toNat_ofNat, Nat.reducePow]; omega
    have ei : imm10 w x = .short d := by unfold imm10; rw [e3, e5]; rfl
    have e6 : bv 5 w 17 = r := by apply BitVec.eq_of_toNat_eq; simp only [bv, BitVec.toNat_ofNat, Nat.reducePow]; omega
    have e7 : bv 6 w 11 = b := by apply BitVec.eq_of_toNat_eq; simp only [bv, BitVec.toNat_ofNat, Nat.reducePow]; omega
    rw [e6, e7, ei]
  | ext d =>
    have h_d := d.isLt
    obtain rfl : lone = true := by cases lone <;> first | rfl | exact Bool.noConfusion (show false = true from hl)
    replace hx : x = d.toNat := hx rfl
    rw [show encodeC (.bf r b (.ext d)) = 12582912 + r.toNat * 131072 + b.toNat * 2048 + immLow (.ext d) from rfl]
    rw [show immLow (.ext d) = 0 from rfl]
    rw [show Bool.toNat true = 1 from rfl]
    obtain ⟨w, hW⟩ : ∃ w, w = 12582912 + r.toNat * 131072 + b.toNat * 2048 + 0 + stl * 268435456 + 1 * 2147483648 := ⟨_, rfl⟩
    rw [← hW]
    have e1 : fld w 27 22 = 3 := by simp only [fld, Nat.reducePow, Nat.reduceSub, Nat.reduceAdd]; omega
    have f1 : decodeC w x = decC03 w x := by unfold decodeC; rw [e1]; try rfl
    have e2 : fld w 10 10 = 0 := by simp only [fld, Nat.reducePow, Nat.reduceSub, Nat.reduceAdd]; omega
    have f2 : decC03 w x = .instr (.bf (bv 5 w 17) (bv 6 w 11) (imm10 w x)) := by unfold decC03; rw [e2]; try rfl
    rw [f1, f2]
    have e4 : fld w 31 31 = 1 := by simp only [fld, Nat.reducePow, Nat.reduceSub, Nat.reduceAdd]; omega
    have e3 : loneBit w = true := by unfold loneBit; rw [e4]; rfl
    have e5 : bv 32 x 0 = d := by apply BitVec.eq_of_toNat_eq; simp only [bv, BitVec.toNat_ofNat, Nat.reducePow]; omega
    have ei : imm10 w x = .ext d := by unfold imm10; rw [e3, e5]; rfl
    have e6 : bv 5 w 17 = r := by apply BitVec.eq_of_toNat_eq; simp only [bv, BitVec.toNat_ofNat, Nat.reducePow]; omega
    have e7 : bv 6 w 11 = b := by apply BitVec.eq_of_toNat_eq; simp only [bv, BitVec.toNat_ofNat, Nat.reducePow]; omega
    rw [e6, e7, ei]
theorem bnz (r : GReg) (d : Imm 10) : Statement (.bnz r d) := by
  refine ⟨fun _ hw lone hl stl hn x hx => ?_, fun h => Bool.noConfusion (show false = true from h)⟩
  have h_r := r.isLt
  cases d with
  | short d =>
    have h_d := d.isLt
    obtain rfl : lone = false := by cases lone <;> first | rfl | exact Bool.noConfusion (show false = true from hl)
    rw [show encodeC (.bnz r (.short d)) = 16777216 + 1024 + r.toNat * 131072 + immLow (.short d) from rfl]
    rw [show immLow (.short d) = d.toNat from rfl]
    rw [show Bool.toNat false = 0 from rfl]
    obtain ⟨w, hW⟩ : ∃ w, w = 16777216 + 1024 + r.toNat * 131072 + d.toNat + stl * 268435456 + 0 * 2147483648 := ⟨_, rfl⟩
    rw [← hW]
    have e1 : fld w 27 22 = 4 := by simp only [fld, Nat.reducePow, Nat.reduceSub, Nat.reduceAdd]; omega
    have f1 : decodeC w x = decC04 w x := by unfold decodeC; rw [e1]; try rfl
    have e2 : fld w 10 10 = 1 := by simp only [fld, Nat.reducePow, Nat.reduceSub, Nat.reduceAdd]; omega
    have f2 : decC04 w x = .instr (.bnz (bv 5 w 17) (imm10 w x)) := by unfold decC04; rw [e2]; try rfl
    rw [f1, f2]
    have e4 : fld w 31 31 = 0 := by simp only [fld, Nat.reducePow, Nat.reduceSub, Nat.reduceAdd]; omega
    have e3 : loneBit w = false := by unfold loneBit; rw [e4]; rfl
    have e5 : bv 10 w 0 = d := by apply BitVec.eq_of_toNat_eq; simp only [bv, BitVec.toNat_ofNat, Nat.reducePow]; omega
    have ei : imm10 w x = .short d := by unfold imm10; rw [e3, e5]; rfl
    have e6 : bv 5 w 17 = r := by apply BitVec.eq_of_toNat_eq; simp only [bv, BitVec.toNat_ofNat, Nat.reducePow]; omega
    rw [e6, ei]
  | ext d =>
    have h_d := d.isLt
    obtain rfl : lone = true := by cases lone <;> first | rfl | exact Bool.noConfusion (show false = true from hl)
    replace hx : x = d.toNat := hx rfl
    rw [show encodeC (.bnz r (.ext d)) = 16777216 + 1024 + r.toNat * 131072 + immLow (.ext d) from rfl]
    rw [show immLow (.ext d) = 0 from rfl]
    rw [show Bool.toNat true = 1 from rfl]
    obtain ⟨w, hW⟩ : ∃ w, w = 16777216 + 1024 + r.toNat * 131072 + 0 + stl * 268435456 + 1 * 2147483648 := ⟨_, rfl⟩
    rw [← hW]
    have e1 : fld w 27 22 = 4 := by simp only [fld, Nat.reducePow, Nat.reduceSub, Nat.reduceAdd]; omega
    have f1 : decodeC w x = decC04 w x := by unfold decodeC; rw [e1]; try rfl
    have e2 : fld w 10 10 = 1 := by simp only [fld, Nat.reducePow, Nat.reduceSub, Nat.reduceAdd]; omega
    have f2 : decC04 w x = .instr (.bnz (bv 5 w 17) (imm10 w x)) := by unfold decC04; rw [e2]; try rfl
    rw [f1, f2]
    have e4 : fld w 31 31 = 1 := by simp only [fld, Nat.reducePow, Nat.reduceSub, Nat.reduceAdd]; omega
    have e3 : loneBit w = true := by unfold loneBit; rw [e4]; rfl
    have e5 : bv 32 x 0 = d := by apply BitVec.eq_of_toNat_eq; simp only [bv, BitVec.toNat_ofNat, Nat.reducePow]; omega
    have ei : imm10 w x = .ext d := by unfold imm10; rw [e3, e5]; rfl
    have e6 : bv 5 w 17 = r := by apply BitVec.eq_of_toNat_eq; simp only [bv, BitVec.toNat_ofNat, Nat.reducePow]; omega
    rw [e6, ei]
theorem bz (r : GReg) (d : Imm 10) : Statement (.bz r d) := by
  refine ⟨fun _ hw lone hl stl hn x hx => ?_, fun h => Bool.noConfusion (show false = true from h)⟩
  have h_r := r.isLt
  cases d with
  | short d =>
    have h_d := d.isLt
    obtain rfl : lone = false := by cases lone <;> first | rfl | exact Bool.noConfusion (show false = true from hl)
    rw [show encodeC (.bz r (.short d)) = 16777216 + r.toNat * 131072 + immLow (.short d) from rfl]
    rw [show immLow (.short d) = d.toNat from rfl]
    rw [show Bool.toNat false = 0 from rfl]
    obtain ⟨w, hW⟩ : ∃ w, w = 16777216 + r.toNat * 131072 + d.toNat + stl * 268435456 + 0 * 2147483648 := ⟨_, rfl⟩
    rw [← hW]
    have e1 : fld w 27 22 = 4 := by simp only [fld, Nat.reducePow, Nat.reduceSub, Nat.reduceAdd]; omega
    have f1 : decodeC w x = decC04 w x := by unfold decodeC; rw [e1]; try rfl
    have e2 : fld w 10 10 = 0 := by simp only [fld, Nat.reducePow, Nat.reduceSub, Nat.reduceAdd]; omega
    have f2 : decC04 w x = .instr (.bz (bv 5 w 17) (imm10 w x)) := by unfold decC04; rw [e2]; try rfl
    rw [f1, f2]
    have e4 : fld w 31 31 = 0 := by simp only [fld, Nat.reducePow, Nat.reduceSub, Nat.reduceAdd]; omega
    have e3 : loneBit w = false := by unfold loneBit; rw [e4]; rfl
    have e5 : bv 10 w 0 = d := by apply BitVec.eq_of_toNat_eq; simp only [bv, BitVec.toNat_ofNat, Nat.reducePow]; omega
    have ei : imm10 w x = .short d := by unfold imm10; rw [e3, e5]; rfl
    have e6 : bv 5 w 17 = r := by apply BitVec.eq_of_toNat_eq; simp only [bv, BitVec.toNat_ofNat, Nat.reducePow]; omega
    rw [e6, ei]
  | ext d =>
    have h_d := d.isLt
    obtain rfl : lone = true := by cases lone <;> first | rfl | exact Bool.noConfusion (show false = true from hl)
    replace hx : x = d.toNat := hx rfl
    rw [show encodeC (.bz r (.ext d)) = 16777216 + r.toNat * 131072 + immLow (.ext d) from rfl]
    rw [show immLow (.ext d) = 0 from rfl]
    rw [show Bool.toNat true = 1 from rfl]
    obtain ⟨w, hW⟩ : ∃ w, w = 16777216 + r.toNat * 131072 + 0 + stl * 268435456 + 1 * 2147483648 := ⟨_, rfl⟩
    rw [← hW]
    have e1 : fld w 27 22 = 4 := by simp only [fld, Nat.reducePow, Nat.reduceSub, Nat.reduceAdd]; omega
    have f1 : decodeC w x = decC04 w x := by unfold decodeC; rw [e1]; try rfl
    have e2 : fld w 10 10 = 0 := by simp only [fld, Nat.reducePow, Nat.reduceSub, Nat.reduceAdd]; omega
    have f2 : decC04 w x = .instr (.bz (bv 5 w 17) (imm10 w x)) := by unfold decC04; rw [e2]; try rfl
    rw [f1, f2]
    have e4 : fld w 31 31 = 1 := by simp only [fld, Nat.reducePow, Nat.reduceSub, Nat.reduceAdd]; omega
    have e3 : loneBit w = true := by unfold loneBit; rw [e4]; rfl
    have e5 : bv 32 x 0 = d := by apply BitVec.eq_of_toNat_eq; simp only [bv, BitVec.toNat_ofNat, Nat.reducePow]; omega
    have ei : imm10 w x = .ext d := by unfold imm10; rw [e3, e5]; rfl
    have e6 : bv 5 w 17 = r := by apply BitVec.eq_of_toNat_eq; simp only [bv, BitVec.toNat_ofNat, Nat.reducePow]; omega
    rw [e6, ei]
theorem bse (b : BitVec 6) (d : Imm 10) : Statement (.bse b d) := by
  refine ⟨fun _ hw lone hl stl hn x hx => ?_, fun h => Bool.noConfusion (show false = true from h)⟩
  have h_b := b.isLt
  cases d with
  | short d =>
    have h_d := d.isLt
    obtain rfl : lone = false := by cases lone <;> first | rfl | exact Bool.noConfusion (show false = true from hl)
    rw [show encodeC (.bse b (.short d)) = 20971520 + 1024 + b.toNat * 2048 + immLow (.short d) from rfl]
    rw [show immLow (.short d) = d.toNat from rfl]
    rw [show Bool.toNat false = 0 from rfl]
    obtain ⟨w, hW⟩ : ∃ w, w = 20971520 + 1024 + b.toNat * 2048 + d.toNat + stl * 268435456 + 0 * 2147483648 := ⟨_, rfl⟩
    rw [← hW]
    have e1 : fld w 27 22 = 5 := by simp only [fld, Nat.reducePow, Nat.reduceSub, Nat.reduceAdd]; omega
    have f1 : decodeC w x = decC05 w x := by unfold decodeC; rw [e1]; try rfl
    have e2 : fld w 10 10 = 1 := by simp only [fld, Nat.reducePow, Nat.reduceSub, Nat.reduceAdd]; omega
    have f2 : decC05 w x = .instr (.bse (bv 6 w 11) (imm10 w x)) := by unfold decC05; rw [e2]; try rfl
    rw [f1, f2]
    have e4 : fld w 31 31 = 0 := by simp only [fld, Nat.reducePow, Nat.reduceSub, Nat.reduceAdd]; omega
    have e3 : loneBit w = false := by unfold loneBit; rw [e4]; rfl
    have e5 : bv 10 w 0 = d := by apply BitVec.eq_of_toNat_eq; simp only [bv, BitVec.toNat_ofNat, Nat.reducePow]; omega
    have ei : imm10 w x = .short d := by unfold imm10; rw [e3, e5]; rfl
    have e6 : bv 6 w 11 = b := by apply BitVec.eq_of_toNat_eq; simp only [bv, BitVec.toNat_ofNat, Nat.reducePow]; omega
    rw [e6, ei]
  | ext d =>
    have h_d := d.isLt
    obtain rfl : lone = true := by cases lone <;> first | rfl | exact Bool.noConfusion (show false = true from hl)
    replace hx : x = d.toNat := hx rfl
    rw [show encodeC (.bse b (.ext d)) = 20971520 + 1024 + b.toNat * 2048 + immLow (.ext d) from rfl]
    rw [show immLow (.ext d) = 0 from rfl]
    rw [show Bool.toNat true = 1 from rfl]
    obtain ⟨w, hW⟩ : ∃ w, w = 20971520 + 1024 + b.toNat * 2048 + 0 + stl * 268435456 + 1 * 2147483648 := ⟨_, rfl⟩
    rw [← hW]
    have e1 : fld w 27 22 = 5 := by simp only [fld, Nat.reducePow, Nat.reduceSub, Nat.reduceAdd]; omega
    have f1 : decodeC w x = decC05 w x := by unfold decodeC; rw [e1]; try rfl
    have e2 : fld w 10 10 = 1 := by simp only [fld, Nat.reducePow, Nat.reduceSub, Nat.reduceAdd]; omega
    have f2 : decC05 w x = .instr (.bse (bv 6 w 11) (imm10 w x)) := by unfold decC05; rw [e2]; try rfl
    rw [f1, f2]
    have e4 : fld w 31 31 = 1 := by simp only [fld, Nat.reducePow, Nat.reduceSub, Nat.reduceAdd]; omega
    have e3 : loneBit w = true := by unfold loneBit; rw [e4]; rfl
    have e5 : bv 32 x 0 = d := by apply BitVec.eq_of_toNat_eq; simp only [bv, BitVec.toNat_ofNat, Nat.reducePow]; omega
    have ei : imm10 w x = .ext d := by unfold imm10; rw [e3, e5]; rfl
    have e6 : bv 6 w 11 = b := by apply BitVec.eq_of_toNat_eq; simp only [bv, BitVec.toNat_ofNat, Nat.reducePow]; omega
    rw [e6, ei]
theorem bsc (b : BitVec 6) (d : Imm 10) : Statement (.bsc b d) := by
  refine ⟨fun _ hw lone hl stl hn x hx => ?_, fun h => Bool.noConfusion (show false = true from h)⟩
  have h_b := b.isLt
  cases d with
  | short d =>
    have h_d := d.isLt
    obtain rfl : lone = false := by cases lone <;> first | rfl | exact Bool.noConfusion (show false = true from hl)
    rw [show encodeC (.bsc b (.short d)) = 20971520 + b.toNat * 2048 + immLow (.short d) from rfl]
    rw [show immLow (.short d) = d.toNat from rfl]
    rw [show Bool.toNat false = 0 from rfl]
    obtain ⟨w, hW⟩ : ∃ w, w = 20971520 + b.toNat * 2048 + d.toNat + stl * 268435456 + 0 * 2147483648 := ⟨_, rfl⟩
    rw [← hW]
    have e1 : fld w 27 22 = 5 := by simp only [fld, Nat.reducePow, Nat.reduceSub, Nat.reduceAdd]; omega
    have f1 : decodeC w x = decC05 w x := by unfold decodeC; rw [e1]; try rfl
    have e2 : fld w 10 10 = 0 := by simp only [fld, Nat.reducePow, Nat.reduceSub, Nat.reduceAdd]; omega
    have f2 : decC05 w x = .instr (.bsc (bv 6 w 11) (imm10 w x)) := by unfold decC05; rw [e2]; try rfl
    rw [f1, f2]
    have e4 : fld w 31 31 = 0 := by simp only [fld, Nat.reducePow, Nat.reduceSub, Nat.reduceAdd]; omega
    have e3 : loneBit w = false := by unfold loneBit; rw [e4]; rfl
    have e5 : bv 10 w 0 = d := by apply BitVec.eq_of_toNat_eq; simp only [bv, BitVec.toNat_ofNat, Nat.reducePow]; omega
    have ei : imm10 w x = .short d := by unfold imm10; rw [e3, e5]; rfl
    have e6 : bv 6 w 11 = b := by apply BitVec.eq_of_toNat_eq; simp only [bv, BitVec.toNat_ofNat, Nat.reducePow]; omega
    rw [e6, ei]
  | ext d =>
    have h_d := d.isLt
    obtain rfl : lone = true := by cases lone <;> first | rfl | exact Bool.noConfusion (show false = true from hl)
    replace hx : x = d.toNat := hx rfl
    rw [show encodeC (.bsc b (.ext d)) = 20971520 + b.toNat * 2048 + immLow (.ext d) from rfl]
    rw [show immLow (.ext d) = 0 from rfl]
    rw [show Bool.toNat true = 1 from rfl]
    obtain ⟨w, hW⟩ : ∃ w, w = 20971520 + b.toNat * 2048 + 0 + stl * 268435456 + 1 * 2147483648 := ⟨_, rfl⟩
    rw [← hW]
    have e1 : fld w 27 22 = 5 := by simp only [fld, Nat.reducePow, Nat.reduceSub, Nat.reduceAdd]; omega
    have f1 : decodeC w x = decC05 w x := by unfold decodeC; rw [e1]; try rfl
    have e2 : fld w 10 10 = 0 := by simp only [fld, Nat.reducePow, Nat.reduceSub, Nat.reduceAdd]; omega
    have f2 : decC05 w x = .instr (.bsc (bv 6 w 11) (imm10 w x)) := by unfold decC05; rw [e2]; try rfl
    rw [f1, f2]
    have e4 : fld w 31 31 = 1 := by simp only [fld, Nat.reducePow, Nat.reduceSub, Nat.reduceAdd]; omega
    have e3 : loneBit w = true := by unfold loneBit; rw [e4]; rfl
    have e5 : bv 32 x 0 = d := by apply BitVec.eq_of_toNat_eq; simp only [bv, BitVec.toNat_ofNat, Nat.reducePow]; omega
    have ei : imm10 w x = .ext d := by unfold imm10; rw [e3, e5]; rfl
    have e6 : bv 6 w 11 = b := by apply BitVec.eq_of_toNat_eq; simp only [bv, BitVec.toNat_ofNat, Nat.reducePow]; omega
    rw [e6, ei]
theorem guard (r : GReg) (b : BitVec 6) : Statement (.guard r b) := by
  refine ⟨fun _ hw lone hl stl hn x hx => ?_, fun h => Bool.noConfusion (show false = true from h)⟩
  have h_r := r.isLt
  have h_b := b.isLt
  rw [show encodeC (.guard r b) = 25165824 + 1024 + r.toNat * 131072 + b.toNat * 2048 from rfl]
  obtain ⟨w, hW⟩ : ∃ w, w = 25165824 + 1024 + r.toNat * 131072 + b.toNat * 2048 + stl * 268435456 + lone.toNat * 2147483648 := ⟨_, rfl⟩
  rw [← hW]
  have h_l := lone.toNat_lt
  have e1 : fld w 27 22 = 6 := by simp only [fld, Nat.reducePow, Nat.reduceSub, Nat.reduceAdd]; omega
  have f1 : decodeC w x = decC06 w := by unfold decodeC; rw [e1]; try rfl
  have e2 : fld w 10 10 = 1 := by simp only [fld, Nat.reducePow, Nat.reduceSub, Nat.reduceAdd]; omega
  have f2 : decC06 w = .instr (.guard (bv 5 w 17) (bv 6 w 11)) := by unfold decC06; rw [e2]; try rfl
  rw [f1, f2]
  have e3 : bv 5 w 17 = r := by apply BitVec.eq_of_toNat_eq; simp only [bv, BitVec.toNat_ofNat, Nat.reducePow]; omega
  have e4 : bv 6 w 11 = b := by apply BitVec.eq_of_toNat_eq; simp only [bv, BitVec.toNat_ofNat, Nat.reducePow]; omega
  rw [e3, e4]
theorem guardn (r : GReg) (b : BitVec 6) : Statement (.guardn r b) := by
  refine ⟨fun _ hw lone hl stl hn x hx => ?_, fun h => Bool.noConfusion (show false = true from h)⟩
  have h_r := r.isLt
  have h_b := b.isLt
  rw [show encodeC (.guardn r b) = 25165824 + r.toNat * 131072 + b.toNat * 2048 from rfl]
  obtain ⟨w, hW⟩ : ∃ w, w = 25165824 + r.toNat * 131072 + b.toNat * 2048 + stl * 268435456 + lone.toNat * 2147483648 := ⟨_, rfl⟩
  rw [← hW]
  have h_l := lone.toNat_lt
  have e1 : fld w 27 22 = 6 := by simp only [fld, Nat.reducePow, Nat.reduceSub, Nat.reduceAdd]; omega
  have f1 : decodeC w x = decC06 w := by unfold decodeC; rw [e1]; try rfl
  have e2 : fld w 10 10 = 0 := by simp only [fld, Nat.reducePow, Nat.reduceSub, Nat.reduceAdd]; omega
  have f2 : decC06 w = .instr (.guardn (bv 5 w 17) (bv 6 w 11)) := by unfold decC06; rw [e2]; try rfl
  rw [f1, f2]
  have e3 : bv 5 w 17 = r := by apply BitVec.eq_of_toNat_eq; simp only [bv, BitVec.toNat_ofNat, Nat.reducePow]; omega
  have e4 : bv 6 w 11 = b := by apply BitVec.eq_of_toNat_eq; simp only [bv, BitVec.toNat_ofNat, Nat.reducePow]; omega
  rw [e3, e4]
theorem rept (n : BitVec 3) (c : BitVec 8) (k : BitVec 5) : Statement (.rept n c k) := by
  refine ⟨fun _ hw lone hl stl hn x hx => ?_, fun h => Bool.noConfusion (show false = true from h)⟩
  have h_n := n.isLt
  have h_c := c.isLt
  have h_k := k.isLt
  rw [show encodeC (.rept n c k) = 29360128 + n.toNat * 524288 + c.toNat * 2048 + k.toNat * 64 from rfl]
  obtain ⟨w, hW⟩ : ∃ w, w = 29360128 + n.toNat * 524288 + c.toNat * 2048 + k.toNat * 64 + stl * 268435456 + lone.toNat * 2147483648 := ⟨_, rfl⟩
  rw [← hW]
  have h_l := lone.toNat_lt
  have e1 : fld w 27 22 = 7 := by simp only [fld, Nat.reducePow, Nat.reduceSub, Nat.reduceAdd]; omega
  have f1 : decodeC w x = .instr (.rept (bv 3 w 19) (bv 8 w 11) (bv 5 w 6)) := by unfold decodeC; rw [e1]; try rfl
  rw [f1]
  have e2 : bv 3 w 19 = n := by apply BitVec.eq_of_toNat_eq; simp only [bv, BitVec.toNat_ofNat, Nat.reducePow]; omega
  have e3 : bv 8 w 11 = c := by apply BitVec.eq_of_toNat_eq; simp only [bv, BitVec.toNat_ofNat, Nat.reducePow]; omega
  have e4 : bv 5 w 6 = k := by apply BitVec.eq_of_toNat_eq; simp only [bv, BitVec.toNat_ofNat, Nat.reducePow]; omega
  rw [e2, e3, e4]
theorem li (rd : GReg) (v : Imm 17) : Statement (.li rd v) := by
  refine ⟨fun _ hw lone hl stl hn x hx => ?_, fun h => Bool.noConfusion (show false = true from h)⟩
  have h_rd := rd.isLt
  cases v with
  | short v =>
    have h_v := v.isLt
    obtain rfl : lone = false := by cases lone <;> first | rfl | exact Bool.noConfusion (show false = true from hl)
    rw [show encodeC (.li rd (.short v)) = 33554432 + rd.toNat * 131072 + immLow (.short v) from rfl]
    rw [show immLow (.short v) = v.toNat from rfl]
    rw [show Bool.toNat false = 0 from rfl]
    obtain ⟨w, hW⟩ : ∃ w, w = 33554432 + rd.toNat * 131072 + v.toNat + stl * 268435456 + 0 * 2147483648 := ⟨_, rfl⟩
    rw [← hW]
    have e1 : fld w 27 22 = 8 := by simp only [fld, Nat.reducePow, Nat.reduceSub, Nat.reduceAdd]; omega
    have f1 : decodeC w x = .instr (.li (bv 5 w 17) (imm17 w x)) := by unfold decodeC; rw [e1]; try rfl
    rw [f1]
    have e3 : fld w 31 31 = 0 := by simp only [fld, Nat.reducePow, Nat.reduceSub, Nat.reduceAdd]; omega
    have e2 : loneBit w = false := by unfold loneBit; rw [e3]; rfl
    have e4 : bv 17 w 0 = v := by apply BitVec.eq_of_toNat_eq; simp only [bv, BitVec.toNat_ofNat, Nat.reducePow]; omega
    have ei : imm17 w x = .short v := by unfold imm17; rw [e2, e4]; rfl
    have e5 : bv 5 w 17 = rd := by apply BitVec.eq_of_toNat_eq; simp only [bv, BitVec.toNat_ofNat, Nat.reducePow]; omega
    rw [e5, ei]
  | ext v =>
    have h_v := v.isLt
    obtain rfl : lone = true := by cases lone <;> first | rfl | exact Bool.noConfusion (show false = true from hl)
    replace hx : x = v.toNat := hx rfl
    rw [show encodeC (.li rd (.ext v)) = 33554432 + rd.toNat * 131072 + immLow (.ext v) from rfl]
    rw [show immLow (.ext v) = 0 from rfl]
    rw [show Bool.toNat true = 1 from rfl]
    obtain ⟨w, hW⟩ : ∃ w, w = 33554432 + rd.toNat * 131072 + 0 + stl * 268435456 + 1 * 2147483648 := ⟨_, rfl⟩
    rw [← hW]
    have e1 : fld w 27 22 = 8 := by simp only [fld, Nat.reducePow, Nat.reduceSub, Nat.reduceAdd]; omega
    have f1 : decodeC w x = .instr (.li (bv 5 w 17) (imm17 w x)) := by unfold decodeC; rw [e1]; try rfl
    rw [f1]
    have e3 : fld w 31 31 = 1 := by simp only [fld, Nat.reducePow, Nat.reduceSub, Nat.reduceAdd]; omega
    have e2 : loneBit w = true := by unfold loneBit; rw [e3]; rfl
    have e4 : bv 32 x 0 = v := by apply BitVec.eq_of_toNat_eq; simp only [bv, BitVec.toNat_ofNat, Nat.reducePow]; omega
    have ei : imm17 w x = .ext v := by unfold imm17; rw [e2, e4]; rfl
    have e5 : bv 5 w 17 = rd := by apply BitVec.eq_of_toNat_eq; simp only [bv, BitVec.toNat_ofNat, Nat.reducePow]; omega
    rw [e5, ei]
theorem lih (rd : GReg) (ix : BitVec 32) : Statement (.lih rd ix) := by
  refine ⟨fun _ hw lone hl stl hn x hx => ?_, fun h => Bool.noConfusion (show false = true from h)⟩
  have h_rd := rd.isLt
  have h_ix := ix.isLt
  obtain rfl : lone = true := by cases lone <;> first | rfl | exact Bool.noConfusion (show false = true from hl)
  replace hx : x = ix.toNat := hx rfl
  rw [show encodeC (.lih rd ix) = 37748736 + rd.toNat * 131072 from rfl]
  rw [show Bool.toNat true = 1 from rfl]
  obtain ⟨w, hW⟩ : ∃ w, w = 37748736 + rd.toNat * 131072 + stl * 268435456 + 1 * 2147483648 := ⟨_, rfl⟩
  rw [← hW]
  have e1 : fld w 27 22 = 9 := by simp only [fld, Nat.reducePow, Nat.reduceSub, Nat.reduceAdd]; omega
  have f1 : decodeC w x = if loneBit w then (.instr (.lih (bv 5 w 17) (bv 32 x 0))) else .bad .needsX := by unfold decodeC; rw [e1]; try rfl
  rw [f1]
  have e3 : fld w 31 31 = 1 := by simp only [fld, Nat.reducePow, Nat.reduceSub, Nat.reduceAdd]; omega
  have e2 : loneBit w = true := by unfold loneBit; rw [e3]; rfl
  rw [if_pos (show loneBit w from by rw [e2]; first | done | decide | (simp at hw ⊢; omega) | (simp [tyBF] at hw ⊢; omega))]
  have e4 : bv 5 w 17 = rd := by apply BitVec.eq_of_toNat_eq; simp only [bv, BitVec.toNat_ofNat, Nat.reducePow]; omega
  have e5 : bv 32 x 0 = ix := by apply BitVec.eq_of_toNat_eq; simp only [bv, BitVec.toNat_ofNat, Nat.reducePow]; omega
  rw [e4, e5]
theorem start (h : BitVec 5) (d : Imm 17) : Statement (.start h d) := by
  refine ⟨fun _ hw lone hl stl hn x hx => ?_, fun h => Bool.noConfusion (show false = true from h)⟩
  have h_h := h.isLt
  replace hw : (1 ≤ h.toNat && h.toNat ≤ 10 : Bool) = true := hw
  cases d with
  | short d =>
    have h_d := d.isLt
    obtain rfl : lone = false := by cases lone <;> first | rfl | exact Bool.noConfusion (show false = true from hl)
    rw [show encodeC (.start h (.short d)) = 41943040 + h.toNat * 131072 + immLow (.short d) from rfl]
    rw [show immLow (.short d) = d.toNat from rfl]
    rw [show Bool.toNat false = 0 from rfl]
    obtain ⟨w, hW⟩ : ∃ w, w = 41943040 + h.toNat * 131072 + d.toNat + stl * 268435456 + 0 * 2147483648 := ⟨_, rfl⟩
    rw [← hW]
    have e1 : fld w 27 22 = 10 := by simp only [fld, Nat.reducePow, Nat.reduceSub, Nat.reduceAdd]; omega
    have f1 : decodeC w x = if 1 ≤ fld w 21 17 ∧ fld w 21 17 ≤ 10 then .instr (.start (bv 5 w 17) (imm17 w x)) else .bad .operand := by unfold decodeC; rw [e1]; try rfl
    rw [f1]
    have e2 : fld w 21 17 = h.toNat := by simp only [fld, Nat.reducePow, Nat.reduceSub, Nat.reduceAdd]; omega
    rw [if_pos (show 1 ≤ fld w 21 17 ∧ fld w 21 17 ≤ 10 from by rw [e2]; first | done | decide | (simp at hw ⊢; omega) | (simp [tyBF] at hw ⊢; omega))]
    have e4 : fld w 31 31 = 0 := by simp only [fld, Nat.reducePow, Nat.reduceSub, Nat.reduceAdd]; omega
    have e3 : loneBit w = false := by unfold loneBit; rw [e4]; rfl
    have e5 : bv 17 w 0 = d := by apply BitVec.eq_of_toNat_eq; simp only [bv, BitVec.toNat_ofNat, Nat.reducePow]; omega
    have ei : imm17 w x = .short d := by unfold imm17; rw [e3, e5]; rfl
    have e6 : bv 5 w 17 = h := by apply BitVec.eq_of_toNat_eq; simp only [bv, BitVec.toNat_ofNat, Nat.reducePow]; omega
    rw [e6, ei]
  | ext d =>
    have h_d := d.isLt
    obtain rfl : lone = true := by cases lone <;> first | rfl | exact Bool.noConfusion (show false = true from hl)
    replace hx : x = d.toNat := hx rfl
    rw [show encodeC (.start h (.ext d)) = 41943040 + h.toNat * 131072 + immLow (.ext d) from rfl]
    rw [show immLow (.ext d) = 0 from rfl]
    rw [show Bool.toNat true = 1 from rfl]
    obtain ⟨w, hW⟩ : ∃ w, w = 41943040 + h.toNat * 131072 + 0 + stl * 268435456 + 1 * 2147483648 := ⟨_, rfl⟩
    rw [← hW]
    have e1 : fld w 27 22 = 10 := by simp only [fld, Nat.reducePow, Nat.reduceSub, Nat.reduceAdd]; omega
    have f1 : decodeC w x = if 1 ≤ fld w 21 17 ∧ fld w 21 17 ≤ 10 then .instr (.start (bv 5 w 17) (imm17 w x)) else .bad .operand := by unfold decodeC; rw [e1]; try rfl
    rw [f1]
    have e2 : fld w 21 17 = h.toNat := by simp only [fld, Nat.reducePow, Nat.reduceSub, Nat.reduceAdd]; omega
    rw [if_pos (show 1 ≤ fld w 21 17 ∧ fld w 21 17 ≤ 10 from by rw [e2]; first | done | decide | (simp at hw ⊢; omega) | (simp [tyBF] at hw ⊢; omega))]
    have e4 : fld w 31 31 = 1 := by simp only [fld, Nat.reducePow, Nat.reduceSub, Nat.reduceAdd]; omega
    have e3 : loneBit w = true := by unfold loneBit; rw [e4]; rfl
    have e5 : bv 32 x 0 = d := by apply BitVec.eq_of_toNat_eq; simp only [bv, BitVec.toNat_ofNat, Nat.reducePow]; omega
    have ei : imm17 w x = .ext d := by unfold imm17; rw [e3, e5]; rfl
    have e6 : bv 5 w 17 = h := by apply BitVec.eq_of_toNat_eq; simp only [bv, BitVec.toNat_ofNat, Nat.reducePow]; omega
    rw [e6, ei]
theorem cwait (rd : GReg) (ra : GReg) (rb : GReg) : Statement (.cwait rd ra rb) := by
  refine ⟨fun _ hw lone hl stl hn x hx => ?_, fun h => Bool.noConfusion (show false = true from h)⟩
  have h_rd := rd.isLt
  have h_ra := ra.isLt
  have h_rb := rb.isLt
  rw [show encodeC (.cwait rd ra rb) = 46137344 + rd.toNat * 131072 + ra.toNat * 4096 + rb.toNat * 128 from rfl]
  obtain ⟨w, hW⟩ : ∃ w, w = 46137344 + rd.toNat * 131072 + ra.toNat * 4096 + rb.toNat * 128 + stl * 268435456 + lone.toNat * 2147483648 := ⟨_, rfl⟩
  rw [← hW]
  have h_l := lone.toNat_lt
  have e1 : fld w 27 22 = 11 := by simp only [fld, Nat.reducePow, Nat.reduceSub, Nat.reduceAdd]; omega
  have f1 : decodeC w x = decC11 w := by unfold decodeC; rw [e1]; try rfl
  have e2 : fld w 6 0 = 0 := by simp only [fld, Nat.reducePow, Nat.reduceSub, Nat.reduceAdd]; omega
  have f2 : decC11 w = .instr (.cwait (bv 5 w 17) (bv 5 w 12) (bv 5 w 7)) := by unfold decC11; rw [e2]; try rfl
  rw [f1, f2]
  have e3 : bv 5 w 17 = rd := by apply BitVec.eq_of_toNat_eq; simp only [bv, BitVec.toNat_ofNat, Nat.reducePow]; omega
  have e4 : bv 5 w 12 = ra := by apply BitVec.eq_of_toNat_eq; simp only [bv, BitVec.toNat_ofNat, Nat.reducePow]; omega
  have e5 : bv 5 w 7 = rb := by apply BitVec.eq_of_toNat_eq; simp only [bv, BitVec.toNat_ofNat, Nat.reducePow]; omega
  rw [e3, e4, e5]
theorem qwait (rd : GReg) (rb : GReg) : Statement (.qwait rd rb) := by
  refine ⟨fun _ hw lone hl stl hn x hx => ?_, fun h => Bool.noConfusion (show false = true from h)⟩
  have h_rd := rd.isLt
  have h_rb := rb.isLt
  rw [show encodeC (.qwait rd rb) = 46137344 + 1 + rd.toNat * 131072 + rb.toNat * 128 from rfl]
  obtain ⟨w, hW⟩ : ∃ w, w = 46137344 + 1 + rd.toNat * 131072 + rb.toNat * 128 + stl * 268435456 + lone.toNat * 2147483648 := ⟨_, rfl⟩
  rw [← hW]
  have h_l := lone.toNat_lt
  have e1 : fld w 27 22 = 11 := by simp only [fld, Nat.reducePow, Nat.reduceSub, Nat.reduceAdd]; omega
  have f1 : decodeC w x = decC11 w := by unfold decodeC; rw [e1]; try rfl
  have e2 : fld w 6 0 = 1 := by simp only [fld, Nat.reducePow, Nat.reduceSub, Nat.reduceAdd]; omega
  have f2 : decC11 w = .instr (.qwait (bv 5 w 17) (bv 5 w 7)) := by unfold decC11; rw [e2]; try rfl
  rw [f1, f2]
  have e3 : bv 5 w 17 = rd := by apply BitVec.eq_of_toNat_eq; simp only [bv, BitVec.toNat_ofNat, Nat.reducePow]; omega
  have e4 : bv 5 w 7 = rb := by apply BitVec.eq_of_toNat_eq; simp only [bv, BitVec.toNat_ofNat, Nat.reducePow]; omega
  rw [e3, e4]
theorem hjoin (ra : GReg) (rb : GReg) : Statement (.hjoin ra rb) := by
  refine ⟨fun _ hw lone hl stl hn x hx => ?_, fun h => Bool.noConfusion (show false = true from h)⟩
  have h_ra := ra.isLt
  have h_rb := rb.isLt
  rw [show encodeC (.hjoin ra rb) = 46137344 + 2 + ra.toNat * 4096 + rb.toNat * 128 from rfl]
  obtain ⟨w, hW⟩ : ∃ w, w = 46137344 + 2 + ra.toNat * 4096 + rb.toNat * 128 + stl * 268435456 + lone.toNat * 2147483648 := ⟨_, rfl⟩
  rw [← hW]
  have h_l := lone.toNat_lt
  have e1 : fld w 27 22 = 11 := by simp only [fld, Nat.reducePow, Nat.reduceSub, Nat.reduceAdd]; omega
  have f1 : decodeC w x = decC11 w := by unfold decodeC; rw [e1]; try rfl
  have e2 : fld w 6 0 = 2 := by simp only [fld, Nat.reducePow, Nat.reduceSub, Nat.reduceAdd]; omega
  have f2 : decC11 w = .instr (.hjoin (bv 5 w 12) (bv 5 w 7)) := by unfold decC11; rw [e2]; try rfl
  rw [f1, f2]
  have e3 : bv 5 w 12 = ra := by apply BitVec.eq_of_toNat_eq; simp only [bv, BitVec.toNat_ofNat, Nat.reducePow]; omega
  have e4 : bv 5 w 7 = rb := by apply BitVec.eq_of_toNat_eq; simp only [bv, BitVec.toNat_ofNat, Nat.reducePow]; omega
  rw [e3, e4]
theorem xend (rb : GReg) : Statement (.xend rb) := by
  refine ⟨fun _ hw lone hl stl hn x hx => ?_, fun h => Bool.noConfusion (show false = true from h)⟩
  have h_rb := rb.isLt
  rw [show encodeC (.xend rb) = 46137344 + 3 + rb.toNat * 128 from rfl]
  obtain ⟨w, hW⟩ : ∃ w, w = 46137344 + 3 + rb.toNat * 128 + stl * 268435456 + lone.toNat * 2147483648 := ⟨_, rfl⟩
  rw [← hW]
  have h_l := lone.toNat_lt
  have e1 : fld w 27 22 = 11 := by simp only [fld, Nat.reducePow, Nat.reduceSub, Nat.reduceAdd]; omega
  have f1 : decodeC w x = decC11 w := by unfold decodeC; rw [e1]; try rfl
  have e2 : fld w 6 0 = 3 := by simp only [fld, Nat.reducePow, Nat.reduceSub, Nat.reduceAdd]; omega
  have f2 : decC11 w = .instr (.xend (bv 5 w 7)) := by unfold decC11; rw [e2]; try rfl
  rw [f1, f2]
  have e3 : bv 5 w 7 = rb := by apply BitVec.eq_of_toNat_eq; simp only [bv, BitVec.toNat_ofNat, Nat.reducePow]; omega
  rw [e3]
theorem mwait (rb : GReg) : Statement (.mwait rb) := by
  refine ⟨fun _ hw lone hl stl hn x hx => ?_, fun h => Bool.noConfusion (show false = true from h)⟩
  have h_rb := rb.isLt
  rw [show encodeC (.mwait rb) = 46137344 + 4 + rb.toNat * 128 from rfl]
  obtain ⟨w, hW⟩ : ∃ w, w = 46137344 + 4 + rb.toNat * 128 + stl * 268435456 + lone.toNat * 2147483648 := ⟨_, rfl⟩
  rw [← hW]
  have h_l := lone.toNat_lt
  have e1 : fld w 27 22 = 11 := by simp only [fld, Nat.reducePow, Nat.reduceSub, Nat.reduceAdd]; omega
  have f1 : decodeC w x = decC11 w := by unfold decodeC; rw [e1]; try rfl
  have e2 : fld w 6 0 = 4 := by simp only [fld, Nat.reducePow, Nat.reduceSub, Nat.reduceAdd]; omega
  have f2 : decC11 w = .instr (.mwait (bv 5 w 7)) := by unfold decC11; rw [e2]; try rfl
  rw [f1, f2]
  have e3 : bv 5 w 7 = rb := by apply BitVec.eq_of_toNat_eq; simp only [bv, BitVec.toNat_ofNat, Nat.reducePow]; omega
  rw [e3]
theorem sbarOr (rd : GReg) (ra : GReg) (rb : GReg) : Statement (.sbarOr rd ra rb) := by
  refine ⟨fun _ hw lone hl stl hn x hx => ?_, fun h => Bool.noConfusion (show false = true from h)⟩
  have h_rd := rd.isLt
  have h_ra := ra.isLt
  have h_rb := rb.isLt
  rw [show encodeC (.sbarOr rd ra rb) = 46137344 + 8 + rd.toNat * 131072 + ra.toNat * 4096 + rb.toNat * 128 from rfl]
  obtain ⟨w, hW⟩ : ∃ w, w = 46137344 + 8 + rd.toNat * 131072 + ra.toNat * 4096 + rb.toNat * 128 + stl * 268435456 + lone.toNat * 2147483648 := ⟨_, rfl⟩
  rw [← hW]
  have h_l := lone.toNat_lt
  have e1 : fld w 27 22 = 11 := by simp only [fld, Nat.reducePow, Nat.reduceSub, Nat.reduceAdd]; omega
  have f1 : decodeC w x = decC11 w := by unfold decodeC; rw [e1]; try rfl
  have e2 : fld w 6 0 = 8 := by simp only [fld, Nat.reducePow, Nat.reduceSub, Nat.reduceAdd]; omega
  have f2 : decC11 w = .instr (.sbarOr (bv 5 w 17) (bv 5 w 12) (bv 5 w 7)) := by unfold decC11; rw [e2]; try rfl
  rw [f1, f2]
  have e3 : bv 5 w 17 = rd := by apply BitVec.eq_of_toNat_eq; simp only [bv, BitVec.toNat_ofNat, Nat.reducePow]; omega
  have e4 : bv 5 w 12 = ra := by apply BitVec.eq_of_toNat_eq; simp only [bv, BitVec.toNat_ofNat, Nat.reducePow]; omega
  have e5 : bv 5 w 7 = rb := by apply BitVec.eq_of_toNat_eq; simp only [bv, BitVec.toNat_ofNat, Nat.reducePow]; omega
  rw [e3, e4, e5]
theorem sbarAnd (rd : GReg) (ra : GReg) (rb : GReg) : Statement (.sbarAnd rd ra rb) := by
  refine ⟨fun _ hw lone hl stl hn x hx => ?_, fun h => Bool.noConfusion (show false = true from h)⟩
  have h_rd := rd.isLt
  have h_ra := ra.isLt
  have h_rb := rb.isLt
  rw [show encodeC (.sbarAnd rd ra rb) = 46137344 + 9 + rd.toNat * 131072 + ra.toNat * 4096 + rb.toNat * 128 from rfl]
  obtain ⟨w, hW⟩ : ∃ w, w = 46137344 + 9 + rd.toNat * 131072 + ra.toNat * 4096 + rb.toNat * 128 + stl * 268435456 + lone.toNat * 2147483648 := ⟨_, rfl⟩
  rw [← hW]
  have h_l := lone.toNat_lt
  have e1 : fld w 27 22 = 11 := by simp only [fld, Nat.reducePow, Nat.reduceSub, Nat.reduceAdd]; omega
  have f1 : decodeC w x = decC11 w := by unfold decodeC; rw [e1]; try rfl
  have e2 : fld w 6 0 = 9 := by simp only [fld, Nat.reducePow, Nat.reduceSub, Nat.reduceAdd]; omega
  have f2 : decC11 w = .instr (.sbarAnd (bv 5 w 17) (bv 5 w 12) (bv 5 w 7)) := by unfold decC11; rw [e2]; try rfl
  rw [f1, f2]
  have e3 : bv 5 w 17 = rd := by apply BitVec.eq_of_toNat_eq; simp only [bv, BitVec.toNat_ofNat, Nat.reducePow]; omega
  have e4 : bv 5 w 12 = ra := by apply BitVec.eq_of_toNat_eq; simp only [bv, BitVec.toNat_ofNat, Nat.reducePow]; omega
  have e5 : bv 5 w 7 = rb := by apply BitVec.eq_of_toNat_eq; simp only [bv, BitVec.toNat_ofNat, Nat.reducePow]; omega
  rw [e3, e4, e5]
theorem sbarMax (rd : GReg) (ra : GReg) (rb : GReg) : Statement (.sbarMax rd ra rb) := by
  refine ⟨fun _ hw lone hl stl hn x hx => ?_, fun h => Bool.noConfusion (show false = true from h)⟩
  have h_rd := rd.isLt
  have h_ra := ra.isLt
  have h_rb := rb.isLt
  rw [show encodeC (.sbarMax rd ra rb) = 46137344 + 10 + rd.toNat * 131072 + ra.toNat * 4096 + rb.toNat * 128 from rfl]
  obtain ⟨w, hW⟩ : ∃ w, w = 46137344 + 10 + rd.toNat * 131072 + ra.toNat * 4096 + rb.toNat * 128 + stl * 268435456 + lone.toNat * 2147483648 := ⟨_, rfl⟩
  rw [← hW]
  have h_l := lone.toNat_lt
  have e1 : fld w 27 22 = 11 := by simp only [fld, Nat.reducePow, Nat.reduceSub, Nat.reduceAdd]; omega
  have f1 : decodeC w x = decC11 w := by unfold decodeC; rw [e1]; try rfl
  have e2 : fld w 6 0 = 10 := by simp only [fld, Nat.reducePow, Nat.reduceSub, Nat.reduceAdd]; omega
  have f2 : decC11 w = .instr (.sbarMax (bv 5 w 17) (bv 5 w 12) (bv 5 w 7)) := by unfold decC11; rw [e2]; try rfl
  rw [f1, f2]
  have e3 : bv 5 w 17 = rd := by apply BitVec.eq_of_toNat_eq; simp only [bv, BitVec.toNat_ofNat, Nat.reducePow]; omega
  have e4 : bv 5 w 12 = ra := by apply BitVec.eq_of_toNat_eq; simp only [bv, BitVec.toNat_ofNat, Nat.reducePow]; omega
  have e5 : bv 5 w 7 = rb := by apply BitVec.eq_of_toNat_eq; simp only [bv, BitVec.toNat_ofNat, Nat.reducePow]; omega
  rw [e3, e4, e5]
theorem callr (ra : GReg) : Statement (.callr ra) := by
  refine ⟨fun _ hw lone hl stl hn x hx => ?_, fun h => Bool.noConfusion (show false = true from h)⟩
  have h_ra := ra.isLt
  rw [show encodeC (.callr ra) = 50331648 + ra.toNat * 4096 from rfl]
  obtain ⟨w, hW⟩ : ∃ w, w = 50331648 + ra.toNat * 4096 + stl * 268435456 + lone.toNat * 2147483648 := ⟨_, rfl⟩
  rw [← hW]
  have h_l := lone.toNat_lt
  have e1 : fld w 27 22 = 12 := by simp only [fld, Nat.reducePow, Nat.reduceSub, Nat.reduceAdd]; omega
  have f1 : decodeC w x = decC12 w := by unfold decodeC; rw [e1]; try rfl
  have e2 : fld w 6 0 = 0 := by simp only [fld, Nat.reducePow, Nat.reduceSub, Nat.reduceAdd]; omega
  have f2 : decC12 w = .instr (.callr (bv 5 w 12)) := by unfold decC12; rw [e2]; try rfl
  rw [f1, f2]
  have e3 : bv 5 w 12 = ra := by apply BitVec.eq_of_toNat_eq; simp only [bv, BitVec.toNat_ofNat, Nat.reducePow]; omega
  rw [e3]
theorem jr (ra : GReg) : Statement (.jr ra) := by
  refine ⟨fun _ hw lone hl stl hn x hx => ?_, fun h => Bool.noConfusion (show false = true from h)⟩
  have h_ra := ra.isLt
  rw [show encodeC (.jr ra) = 50331648 + 1 + ra.toNat * 4096 from rfl]
  obtain ⟨w, hW⟩ : ∃ w, w = 50331648 + 1 + ra.toNat * 4096 + stl * 268435456 + lone.toNat * 2147483648 := ⟨_, rfl⟩
  rw [← hW]
  have h_l := lone.toNat_lt
  have e1 : fld w 27 22 = 12 := by simp only [fld, Nat.reducePow, Nat.reduceSub, Nat.reduceAdd]; omega
  have f1 : decodeC w x = decC12 w := by unfold decodeC; rw [e1]; try rfl
  have e2 : fld w 6 0 = 1 := by simp only [fld, Nat.reducePow, Nat.reduceSub, Nat.reduceAdd]; omega
  have f2 : decC12 w = .instr (.jr (bv 5 w 12)) := by unfold decC12; rw [e2]; try rfl
  rw [f1, f2]
  have e3 : bv 5 w 12 = ra := by apply BitVec.eq_of_toNat_eq; simp only [bv, BitVec.toNat_ofNat, Nat.reducePow]; omega
  rw [e3]
theorem ret : Statement .ret := by
  refine ⟨fun _ hw lone hl stl hn x hx => ?_, fun h => Bool.noConfusion (show false = true from h)⟩
  rw [show encodeC .ret = 50331648 + 2 from rfl]
  obtain ⟨w, hW⟩ : ∃ w, w = 50331648 + 2 + stl * 268435456 + lone.toNat * 2147483648 := ⟨_, rfl⟩
  rw [← hW]
  have h_l := lone.toNat_lt
  have e1 : fld w 27 22 = 12 := by simp only [fld, Nat.reducePow, Nat.reduceSub, Nat.reduceAdd]; omega
  have f1 : decodeC w x = decC12 w := by unfold decodeC; rw [e1]; try rfl
  have e2 : fld w 6 0 = 2 := by simp only [fld, Nat.reducePow, Nat.reduceSub, Nat.reduceAdd]; omega
  have f2 : decC12 w = .instr .ret := by unfold decC12; rw [e2]; try rfl
  rw [f1, f2]
theorem hend : Statement .hend := by
  refine ⟨fun _ hw lone hl stl hn x hx => ?_, fun h => Bool.noConfusion (show false = true from h)⟩
  rw [show encodeC .hend = 50331648 + 3 from rfl]
  obtain ⟨w, hW⟩ : ∃ w, w = 50331648 + 3 + stl * 268435456 + lone.toNat * 2147483648 := ⟨_, rfl⟩
  rw [← hW]
  have h_l := lone.toNat_lt
  have e1 : fld w 27 22 = 12 := by simp only [fld, Nat.reducePow, Nat.reduceSub, Nat.reduceAdd]; omega
  have f1 : decodeC w x = decC12 w := by unfold decodeC; rw [e1]; try rfl
  have e2 : fld w 6 0 = 3 := by simp only [fld, Nat.reducePow, Nat.reduceSub, Nat.reduceAdd]; omega
  have f2 : decC12 w = .instr .hend := by unfold decC12; rw [e2]; try rfl
  rw [f1, f2]
theorem yield : Statement .yield := by
  refine ⟨fun _ hw lone hl stl hn x hx => ?_, fun h => Bool.noConfusion (show false = true from h)⟩
  rw [show encodeC .yield = 50331648 + 4 from rfl]
  obtain ⟨w, hW⟩ : ∃ w, w = 50331648 + 4 + stl * 268435456 + lone.toNat * 2147483648 := ⟨_, rfl⟩
  rw [← hW]
  have h_l := lone.toNat_lt
  have e1 : fld w 27 22 = 12 := by simp only [fld, Nat.reducePow, Nat.reduceSub, Nat.reduceAdd]; omega
  have f1 : decodeC w x = decC12 w := by unfold decodeC; rw [e1]; try rfl
  have e2 : fld w 6 0 = 4 := by simp only [fld, Nat.reducePow, Nat.reduceSub, Nat.reduceAdd]; omega
  have f2 : decC12 w = .instr .yield := by unfold decC12; rw [e2]; try rfl
  rw [f1, f2]
theorem sexit : Statement .sexit := by
  refine ⟨fun _ hw lone hl stl hn x hx => ?_, fun h => Bool.noConfusion (show false = true from h)⟩
  rw [show encodeC .sexit = 50331648 + 5 from rfl]
  obtain ⟨w, hW⟩ : ∃ w, w = 50331648 + 5 + stl * 268435456 + lone.toNat * 2147483648 := ⟨_, rfl⟩
  rw [← hW]
  have h_l := lone.toNat_lt
  have e1 : fld w 27 22 = 12 := by simp only [fld, Nat.reducePow, Nat.reduceSub, Nat.reduceAdd]; omega
  have f1 : decodeC w x = decC12 w := by unfold decodeC; rw [e1]; try rfl
  have e2 : fld w 6 0 = 5 := by simp only [fld, Nat.reducePow, Nat.reduceSub, Nat.reduceAdd]; omega
  have f2 : decC12 w = .instr .sexit := by unfold decC12; rw [e2]; try rfl
  rw [f1, f2]
theorem vote (rd : GReg) : Statement (.vote rd) := by
  refine ⟨fun _ hw lone hl stl hn x hx => ?_, fun h => Bool.noConfusion (show false = true from h)⟩
  have h_rd := rd.isLt
  rw [show encodeC (.vote rd) = 50331648 + 6 + rd.toNat * 131072 from rfl]
  obtain ⟨w, hW⟩ : ∃ w, w = 50331648 + 6 + rd.toNat * 131072 + stl * 268435456 + lone.toNat * 2147483648 := ⟨_, rfl⟩
  rw [← hW]
  have h_l := lone.toNat_lt
  have e1 : fld w 27 22 = 12 := by simp only [fld, Nat.reducePow, Nat.reduceSub, Nat.reduceAdd]; omega
  have f1 : decodeC w x = decC12 w := by unfold decodeC; rw [e1]; try rfl
  have e2 : fld w 6 0 = 6 := by simp only [fld, Nat.reducePow, Nat.reduceSub, Nat.reduceAdd]; omega
  have f2 : decC12 w = .instr (.vote (bv 5 w 17)) := by unfold decC12; rw [e2]; try rfl
  rw [f1, f2]
  have e3 : bv 5 w 17 = rd := by apply BitVec.eq_of_toNat_eq; simp only [bv, BitVec.toNat_ofNat, Nat.reducePow]; omega
  rw [e3]
theorem rfe : Statement .rfe := by
  refine ⟨fun _ hw lone hl stl hn x hx => ?_, fun h => Bool.noConfusion (show false = true from h)⟩
  rw [show encodeC .rfe = 50331648 + 7 from rfl]
  obtain ⟨w, hW⟩ : ∃ w, w = 50331648 + 7 + stl * 268435456 + lone.toNat * 2147483648 := ⟨_, rfl⟩
  rw [← hW]
  have h_l := lone.toNat_lt
  have e1 : fld w 27 22 = 12 := by simp only [fld, Nat.reducePow, Nat.reduceSub, Nat.reduceAdd]; omega
  have f1 : decodeC w x = decC12 w := by unfold decodeC; rw [e1]; try rfl
  have e2 : fld w 6 0 = 7 := by simp only [fld, Nat.reducePow, Nat.reduceSub, Nat.reduceAdd]; omega
  have f2 : decC12 w = .instr .rfe := by unfold decC12; rw [e2]; try rfl
  rw [f1, f2]
theorem swp (rd : GReg) (ra : GReg) : Statement (.swp rd ra) := by
  refine ⟨fun _ hw lone hl stl hn x hx => ?_, fun h => Bool.noConfusion (show false = true from h)⟩
  have h_rd := rd.isLt
  have h_ra := ra.isLt
  rw [show encodeC (.swp rd ra) = 50331648 + 8 + rd.toNat * 131072 + ra.toNat * 4096 from rfl]
  obtain ⟨w, hW⟩ : ∃ w, w = 50331648 + 8 + rd.toNat * 131072 + ra.toNat * 4096 + stl * 268435456 + lone.toNat * 2147483648 := ⟨_, rfl⟩
  rw [← hW]
  have h_l := lone.toNat_lt
  have e1 : fld w 27 22 = 12 := by simp only [fld, Nat.reducePow, Nat.reduceSub, Nat.reduceAdd]; omega
  have f1 : decodeC w x = decC12 w := by unfold decodeC; rw [e1]; try rfl
  have e2 : fld w 6 0 = 8 := by simp only [fld, Nat.reducePow, Nat.reduceSub, Nat.reduceAdd]; omega
  have f2 : decC12 w = .instr (.swp (bv 5 w 17) (bv 5 w 12)) := by unfold decC12; rw [e2]; try rfl
  rw [f1, f2]
  have e3 : bv 5 w 17 = rd := by apply BitVec.eq_of_toNat_eq; simp only [bv, BitVec.toNat_ofNat, Nat.reducePow]; omega
  have e4 : bv 5 w 12 = ra := by apply BitVec.eq_of_toNat_eq; simp only [bv, BitVec.toNat_ofNat, Nat.reducePow]; omega
  rw [e3, e4]
theorem brk : Statement .brk := by
  refine ⟨fun _ hw lone hl stl hn x hx => ?_, fun h => Bool.noConfusion (show false = true from h)⟩
  rw [show encodeC .brk = 50331648 + 9 from rfl]
  obtain ⟨w, hW⟩ : ∃ w, w = 50331648 + 9 + stl * 268435456 + lone.toNat * 2147483648 := ⟨_, rfl⟩
  rw [← hW]
  have h_l := lone.toNat_lt
  have e1 : fld w 27 22 = 12 := by simp only [fld, Nat.reducePow, Nat.reduceSub, Nat.reduceAdd]; omega
  have f1 : decodeC w x = decC12 w := by unfold decodeC; rw [e1]; try rfl
  have e2 : fld w 6 0 = 9 := by simp only [fld, Nat.reducePow, Nat.reduceSub, Nat.reduceAdd]; omega
  have f2 : decC12 w = .instr .brk := by unfold decC12; rw [e2]; try rfl
  rw [f1, f2]
theorem halt : Statement .halt := by
  refine ⟨fun _ hw lone hl stl hn x hx => ?_, fun h => Bool.noConfusion (show false = true from h)⟩
  rw [show encodeC .halt = 50331648 + 10 from rfl]
  obtain ⟨w, hW⟩ : ∃ w, w = 50331648 + 10 + stl * 268435456 + lone.toNat * 2147483648 := ⟨_, rfl⟩
  rw [← hW]
  have h_l := lone.toNat_lt
  have e1 : fld w 27 22 = 12 := by simp only [fld, Nat.reducePow, Nat.reduceSub, Nat.reduceAdd]; omega
  have f1 : decodeC w x = decC12 w := by unfold decodeC; rw [e1]; try rfl
  have e2 : fld w 6 0 = 10 := by simp only [fld, Nat.reducePow, Nat.reduceSub, Nat.reduceAdd]; omega
  have f2 : decC12 w = .instr .halt := by unfold decC12; rw [e2]; try rfl
  rw [f1, f2]
theorem trap (k : BitVec 16) : Statement (.trap k) := by
  refine ⟨fun _ hw lone hl stl hn x hx => ?_, fun h => Bool.noConfusion (show false = true from h)⟩
  have h_k := k.isLt
  rw [show encodeC (.trap k) = 54525952 + k.toNat from rfl]
  obtain ⟨w, hW⟩ : ∃ w, w = 54525952 + k.toNat + stl * 268435456 + lone.toNat * 2147483648 := ⟨_, rfl⟩
  rw [← hW]
  have h_l := lone.toNat_lt
  have e1 : fld w 27 22 = 13 := by simp only [fld, Nat.reducePow, Nat.reduceSub, Nat.reduceAdd]; omega
  have f1 : decodeC w x = .instr (.trap (bv 16 w 0)) := by unfold decodeC; rw [e1]; try rfl
  rw [f1]
  have e2 : bv 16 w 0 = k := by apply BitVec.eq_of_toNat_eq; simp only [bv, BitVec.toNat_ofNat, Nat.reducePow]; omega
  rw [e2]
theorem mark (ix : BitVec 32) : Statement (.mark ix) := by
  refine ⟨fun _ hw lone hl stl hn x hx => ?_, fun h => Bool.noConfusion (show false = true from h)⟩
  have h_ix := ix.isLt
  obtain rfl : lone = true := by cases lone <;> first | rfl | exact Bool.noConfusion (show false = true from hl)
  replace hx : x = ix.toNat := hx rfl
  rw [show encodeC (.mark ix) = 58720256 from rfl]
  rw [show Bool.toNat true = 1 from rfl]
  obtain ⟨w, hW⟩ : ∃ w, w = 58720256 + stl * 268435456 + 1 * 2147483648 := ⟨_, rfl⟩
  rw [← hW]
  have e1 : fld w 27 22 = 14 := by simp only [fld, Nat.reducePow, Nat.reduceSub, Nat.reduceAdd]; omega
  have f1 : decodeC w x = if loneBit w then (.instr (.mark (bv 32 x 0))) else .bad .needsX := by unfold decodeC; rw [e1]; try rfl
  rw [f1]
  have e3 : fld w 31 31 = 1 := by simp only [fld, Nat.reducePow, Nat.reduceSub, Nat.reduceAdd]; omega
  have e2 : loneBit w = true := by unfold loneBit; rw [e3]; rfl
  rw [if_pos (show loneBit w from by rw [e2]; first | done | decide | (simp at hw ⊢; omega) | (simp [tyBF] at hw ⊢; omega))]
  have e4 : bv 32 x 0 = ix := by apply BitVec.eq_of_toNat_eq; simp only [bv, BitVec.toNat_ofNat, Nat.reducePow]; omega
  rw [e4]
theorem getsr (rd : GReg) (n : BitVec 12) : Statement (.getsr rd n) := by
  refine ⟨fun _ hw lone hl stl hn x hx => ?_, fun h => Bool.noConfusion (show false = true from h)⟩
  have h_rd := rd.isLt
  have h_n := n.isLt
  replace hw : (n.toNat ≤ 21 : Bool) = true := hw
  rw [show encodeC (.getsr rd n) = 62914560 + rd.toNat * 131072 + n.toNat from rfl]
  obtain ⟨w, hW⟩ : ∃ w, w = 62914560 + rd.toNat * 131072 + n.toNat + stl * 268435456 + lone.toNat * 2147483648 := ⟨_, rfl⟩
  rw [← hW]
  have h_l := lone.toNat_lt
  have e1 : fld w 27 22 = 15 := by simp only [fld, Nat.reducePow, Nat.reduceSub, Nat.reduceAdd]; omega
  have f1 : decodeC w x = if fld w 11 0 ≤ 21 then .instr (.getsr (bv 5 w 17) (bv 12 w 0)) else .bad .operand := by unfold decodeC; rw [e1]; try rfl
  rw [f1]
  have e2 : fld w 11 0 = n.toNat := by simp only [fld, Nat.reducePow, Nat.reduceSub, Nat.reduceAdd]; omega
  rw [if_pos (show fld w 11 0 ≤ 21 from by rw [e2]; first | done | decide | (simp at hw ⊢; omega) | (simp [tyBF] at hw ⊢; omega))]
  have e3 : bv 5 w 17 = rd := by apply BitVec.eq_of_toNat_eq; simp only [bv, BitVec.toNat_ofNat, Nat.reducePow]; omega
  have e4 : bv 12 w 0 = n := by apply BitVec.eq_of_toNat_eq; simp only [bv, BitVec.toNat_ofNat, Nat.reducePow]; omega
  rw [e3, e4]
theorem setsr (ra : GReg) (n : BitVec 12) : Statement (.setsr ra n) := by
  refine ⟨fun _ hw lone hl stl hn x hx => ?_, fun h => Bool.noConfusion (show false = true from h)⟩
  have h_ra := ra.isLt
  have h_n := n.isLt
  replace hw : (n.toNat ≤ 21 : Bool) = true := hw
  rw [show encodeC (.setsr ra n) = 67108864 + ra.toNat * 4096 + n.toNat from rfl]
  obtain ⟨w, hW⟩ : ∃ w, w = 67108864 + ra.toNat * 4096 + n.toNat + stl * 268435456 + lone.toNat * 2147483648 := ⟨_, rfl⟩
  rw [← hW]
  have h_l := lone.toNat_lt
  have e1 : fld w 27 22 = 16 := by simp only [fld, Nat.reducePow, Nat.reduceSub, Nat.reduceAdd]; omega
  have f1 : decodeC w x = if fld w 11 0 ≤ 21 then .instr (.setsr (bv 5 w 12) (bv 12 w 0)) else .bad .operand := by unfold decodeC; rw [e1]; try rfl
  rw [f1]
  have e2 : fld w 11 0 = n.toNat := by simp only [fld, Nat.reducePow, Nat.reduceSub, Nat.reduceAdd]; omega
  rw [if_pos (show fld w 11 0 ≤ 21 from by rw [e2]; first | done | decide | (simp at hw ⊢; omega) | (simp [tyBF] at hw ⊢; omega))]
  have e3 : bv 5 w 12 = ra := by apply BitVec.eq_of_toNat_eq; simp only [bv, BitVec.toNat_ofNat, Nat.reducePow]; omega
  have e4 : bv 12 w 0 = n := by apply BitVec.eq_of_toNat_eq; simp only [bv, BitVec.toNat_ofNat, Nat.reducePow]; omega
  rw [e3, e4]
theorem wait (n : BitVec 12) : Statement (.wait n) := by
  refine ⟨fun _ hw lone hl stl hn x hx => ?_, fun h => Bool.noConfusion (show false = true from h)⟩
  have h_n := n.isLt
  rw [show encodeC (.wait n) = 71303168 + n.toNat from rfl]
  obtain ⟨w, hW⟩ : ∃ w, w = 71303168 + n.toNat + stl * 268435456 + lone.toNat * 2147483648 := ⟨_, rfl⟩
  rw [← hW]
  have h_l := lone.toNat_lt
  have e1 : fld w 27 22 = 17 := by simp only [fld, Nat.reducePow, Nat.reduceSub, Nat.reduceAdd]; omega
  have f1 : decodeC w x = .instr (.wait (bv 12 w 0)) := by unfold decodeC; rw [e1]; try rfl
  rw [f1]
  have e2 : bv 12 w 0 = n := by apply BitVec.eq_of_toNat_eq; simp only [bv, BitVec.toNat_ofNat, Nat.reducePow]; omega
  rw [e2]
theorem ldI8 (rd : GReg) (ra : GReg) (o : BitVec 2) (sc : BitVec 3) (off : Imm 7) : Statement (.ldI8 rd ra o sc off) := by
  refine ⟨fun _ hw lone hl stl hn x hx => ?_, fun h => Bool.noConfusion (show false = true from h)⟩
  have h_rd := rd.isLt
  have h_ra := ra.isLt
  have h_o := o.isLt
  have h_sc := sc.isLt
  cases off with
  | short off =>
    have h_off := off.isLt
    obtain rfl : lone = false := by cases lone <;> first | rfl | exact Bool.noConfusion (show false = true from hl)
    rw [show encodeC (.ldI8 rd ra o sc (.short off)) = 75497472 + rd.toNat * 131072 + ra.toNat * 4096 + o.toNat * 1024 + sc.toNat * 128 + immLow (.short off) from rfl]
    rw [show immLow (.short off) = off.toNat from rfl]
    rw [show Bool.toNat false = 0 from rfl]
    obtain ⟨w, hW⟩ : ∃ w, w = 75497472 + rd.toNat * 131072 + ra.toNat * 4096 + o.toNat * 1024 + sc.toNat * 128 + off.toNat + stl * 268435456 + 0 * 2147483648 := ⟨_, rfl⟩
    rw [← hW]
    have e1 : fld w 27 22 = 18 := by simp only [fld, Nat.reducePow, Nat.reduceSub, Nat.reduceAdd]; omega
    have f1 : decodeC w x = .instr (.ldI8 (bv 5 w 17) (bv 5 w 12) (bv 2 w 10) (bv 3 w 7) (imm7 w x)) := by unfold decodeC; rw [e1]; try rfl
    rw [f1]
    have e3 : fld w 31 31 = 0 := by simp only [fld, Nat.reducePow, Nat.reduceSub, Nat.reduceAdd]; omega
    have e2 : loneBit w = false := by unfold loneBit; rw [e3]; rfl
    have e4 : bv 7 w 0 = off := by apply BitVec.eq_of_toNat_eq; simp only [bv, BitVec.toNat_ofNat, Nat.reducePow]; omega
    have ei : imm7 w x = .short off := by unfold imm7; rw [e2, e4]; rfl
    have e5 : bv 5 w 17 = rd := by apply BitVec.eq_of_toNat_eq; simp only [bv, BitVec.toNat_ofNat, Nat.reducePow]; omega
    have e6 : bv 5 w 12 = ra := by apply BitVec.eq_of_toNat_eq; simp only [bv, BitVec.toNat_ofNat, Nat.reducePow]; omega
    have e7 : bv 2 w 10 = o := by apply BitVec.eq_of_toNat_eq; simp only [bv, BitVec.toNat_ofNat, Nat.reducePow]; omega
    have e8 : bv 3 w 7 = sc := by apply BitVec.eq_of_toNat_eq; simp only [bv, BitVec.toNat_ofNat, Nat.reducePow]; omega
    rw [e5, e6, e7, e8, ei]
  | ext off =>
    have h_off := off.isLt
    obtain rfl : lone = true := by cases lone <;> first | rfl | exact Bool.noConfusion (show false = true from hl)
    replace hx : x = off.toNat := hx rfl
    rw [show encodeC (.ldI8 rd ra o sc (.ext off)) = 75497472 + rd.toNat * 131072 + ra.toNat * 4096 + o.toNat * 1024 + sc.toNat * 128 + immLow (.ext off) from rfl]
    rw [show immLow (.ext off) = 0 from rfl]
    rw [show Bool.toNat true = 1 from rfl]
    obtain ⟨w, hW⟩ : ∃ w, w = 75497472 + rd.toNat * 131072 + ra.toNat * 4096 + o.toNat * 1024 + sc.toNat * 128 + 0 + stl * 268435456 + 1 * 2147483648 := ⟨_, rfl⟩
    rw [← hW]
    have e1 : fld w 27 22 = 18 := by simp only [fld, Nat.reducePow, Nat.reduceSub, Nat.reduceAdd]; omega
    have f1 : decodeC w x = .instr (.ldI8 (bv 5 w 17) (bv 5 w 12) (bv 2 w 10) (bv 3 w 7) (imm7 w x)) := by unfold decodeC; rw [e1]; try rfl
    rw [f1]
    have e3 : fld w 31 31 = 1 := by simp only [fld, Nat.reducePow, Nat.reduceSub, Nat.reduceAdd]; omega
    have e2 : loneBit w = true := by unfold loneBit; rw [e3]; rfl
    have e4 : bv 32 x 0 = off := by apply BitVec.eq_of_toNat_eq; simp only [bv, BitVec.toNat_ofNat, Nat.reducePow]; omega
    have ei : imm7 w x = .ext off := by unfold imm7; rw [e2, e4]; rfl
    have e5 : bv 5 w 17 = rd := by apply BitVec.eq_of_toNat_eq; simp only [bv, BitVec.toNat_ofNat, Nat.reducePow]; omega
    have e6 : bv 5 w 12 = ra := by apply BitVec.eq_of_toNat_eq; simp only [bv, BitVec.toNat_ofNat, Nat.reducePow]; omega
    have e7 : bv 2 w 10 = o := by apply BitVec.eq_of_toNat_eq; simp only [bv, BitVec.toNat_ofNat, Nat.reducePow]; omega
    have e8 : bv 3 w 7 = sc := by apply BitVec.eq_of_toNat_eq; simp only [bv, BitVec.toNat_ofNat, Nat.reducePow]; omega
    rw [e5, e6, e7, e8, ei]
theorem ldN8 (rd : GReg) (ra : GReg) (o : BitVec 2) (sc : BitVec 3) (off : Imm 7) : Statement (.ldN8 rd ra o sc off) := by
  refine ⟨fun _ hw lone hl stl hn x hx => ?_, fun h => Bool.noConfusion (show false = true from h)⟩
  have h_rd := rd.isLt
  have h_ra := ra.isLt
  have h_o := o.isLt
  have h_sc := sc.isLt
  cases off with
  | short off =>
    have h_off := off.isLt
    obtain rfl : lone = false := by cases lone <;> first | rfl | exact Bool.noConfusion (show false = true from hl)
    rw [show encodeC (.ldN8 rd ra o sc (.short off)) = 79691776 + rd.toNat * 131072 + ra.toNat * 4096 + o.toNat * 1024 + sc.toNat * 128 + immLow (.short off) from rfl]
    rw [show immLow (.short off) = off.toNat from rfl]
    rw [show Bool.toNat false = 0 from rfl]
    obtain ⟨w, hW⟩ : ∃ w, w = 79691776 + rd.toNat * 131072 + ra.toNat * 4096 + o.toNat * 1024 + sc.toNat * 128 + off.toNat + stl * 268435456 + 0 * 2147483648 := ⟨_, rfl⟩
    rw [← hW]
    have e1 : fld w 27 22 = 19 := by simp only [fld, Nat.reducePow, Nat.reduceSub, Nat.reduceAdd]; omega
    have f1 : decodeC w x = .instr (.ldN8 (bv 5 w 17) (bv 5 w 12) (bv 2 w 10) (bv 3 w 7) (imm7 w x)) := by unfold decodeC; rw [e1]; try rfl
    rw [f1]
    have e3 : fld w 31 31 = 0 := by simp only [fld, Nat.reducePow, Nat.reduceSub, Nat.reduceAdd]; omega
    have e2 : loneBit w = false := by unfold loneBit; rw [e3]; rfl
    have e4 : bv 7 w 0 = off := by apply BitVec.eq_of_toNat_eq; simp only [bv, BitVec.toNat_ofNat, Nat.reducePow]; omega
    have ei : imm7 w x = .short off := by unfold imm7; rw [e2, e4]; rfl
    have e5 : bv 5 w 17 = rd := by apply BitVec.eq_of_toNat_eq; simp only [bv, BitVec.toNat_ofNat, Nat.reducePow]; omega
    have e6 : bv 5 w 12 = ra := by apply BitVec.eq_of_toNat_eq; simp only [bv, BitVec.toNat_ofNat, Nat.reducePow]; omega
    have e7 : bv 2 w 10 = o := by apply BitVec.eq_of_toNat_eq; simp only [bv, BitVec.toNat_ofNat, Nat.reducePow]; omega
    have e8 : bv 3 w 7 = sc := by apply BitVec.eq_of_toNat_eq; simp only [bv, BitVec.toNat_ofNat, Nat.reducePow]; omega
    rw [e5, e6, e7, e8, ei]
  | ext off =>
    have h_off := off.isLt
    obtain rfl : lone = true := by cases lone <;> first | rfl | exact Bool.noConfusion (show false = true from hl)
    replace hx : x = off.toNat := hx rfl
    rw [show encodeC (.ldN8 rd ra o sc (.ext off)) = 79691776 + rd.toNat * 131072 + ra.toNat * 4096 + o.toNat * 1024 + sc.toNat * 128 + immLow (.ext off) from rfl]
    rw [show immLow (.ext off) = 0 from rfl]
    rw [show Bool.toNat true = 1 from rfl]
    obtain ⟨w, hW⟩ : ∃ w, w = 79691776 + rd.toNat * 131072 + ra.toNat * 4096 + o.toNat * 1024 + sc.toNat * 128 + 0 + stl * 268435456 + 1 * 2147483648 := ⟨_, rfl⟩
    rw [← hW]
    have e1 : fld w 27 22 = 19 := by simp only [fld, Nat.reducePow, Nat.reduceSub, Nat.reduceAdd]; omega
    have f1 : decodeC w x = .instr (.ldN8 (bv 5 w 17) (bv 5 w 12) (bv 2 w 10) (bv 3 w 7) (imm7 w x)) := by unfold decodeC; rw [e1]; try rfl
    rw [f1]
    have e3 : fld w 31 31 = 1 := by simp only [fld, Nat.reducePow, Nat.reduceSub, Nat.reduceAdd]; omega
    have e2 : loneBit w = true := by unfold loneBit; rw [e3]; rfl
    have e4 : bv 32 x 0 = off := by apply BitVec.eq_of_toNat_eq; simp only [bv, BitVec.toNat_ofNat, Nat.reducePow]; omega
    have ei : imm7 w x = .ext off := by unfold imm7; rw [e2, e4]; rfl
    have e5 : bv 5 w 17 = rd := by apply BitVec.eq_of_toNat_eq; simp only [bv, BitVec.toNat_ofNat, Nat.reducePow]; omega
    have e6 : bv 5 w 12 = ra := by apply BitVec.eq_of_toNat_eq; simp only [bv, BitVec.toNat_ofNat, Nat.reducePow]; omega
    have e7 : bv 2 w 10 = o := by apply BitVec.eq_of_toNat_eq; simp only [bv, BitVec.toNat_ofNat, Nat.reducePow]; omega
    have e8 : bv 3 w 7 = sc := by apply BitVec.eq_of_toNat_eq; simp only [bv, BitVec.toNat_ofNat, Nat.reducePow]; omega
    rw [e5, e6, e7, e8, ei]
theorem ldI16 (rd : GReg) (ra : GReg) (o : BitVec 2) (sc : BitVec 3) (off : Imm 7) : Statement (.ldI16 rd ra o sc off) := by
  refine ⟨fun _ hw lone hl stl hn x hx => ?_, fun h => Bool.noConfusion (show false = true from h)⟩
  have h_rd := rd.isLt
  have h_ra := ra.isLt
  have h_o := o.isLt
  have h_sc := sc.isLt
  cases off with
  | short off =>
    have h_off := off.isLt
    obtain rfl : lone = false := by cases lone <;> first | rfl | exact Bool.noConfusion (show false = true from hl)
    rw [show encodeC (.ldI16 rd ra o sc (.short off)) = 83886080 + rd.toNat * 131072 + ra.toNat * 4096 + o.toNat * 1024 + sc.toNat * 128 + immLow (.short off) from rfl]
    rw [show immLow (.short off) = off.toNat from rfl]
    rw [show Bool.toNat false = 0 from rfl]
    obtain ⟨w, hW⟩ : ∃ w, w = 83886080 + rd.toNat * 131072 + ra.toNat * 4096 + o.toNat * 1024 + sc.toNat * 128 + off.toNat + stl * 268435456 + 0 * 2147483648 := ⟨_, rfl⟩
    rw [← hW]
    have e1 : fld w 27 22 = 20 := by simp only [fld, Nat.reducePow, Nat.reduceSub, Nat.reduceAdd]; omega
    have f1 : decodeC w x = .instr (.ldI16 (bv 5 w 17) (bv 5 w 12) (bv 2 w 10) (bv 3 w 7) (imm7 w x)) := by unfold decodeC; rw [e1]; try rfl
    rw [f1]
    have e3 : fld w 31 31 = 0 := by simp only [fld, Nat.reducePow, Nat.reduceSub, Nat.reduceAdd]; omega
    have e2 : loneBit w = false := by unfold loneBit; rw [e3]; rfl
    have e4 : bv 7 w 0 = off := by apply BitVec.eq_of_toNat_eq; simp only [bv, BitVec.toNat_ofNat, Nat.reducePow]; omega
    have ei : imm7 w x = .short off := by unfold imm7; rw [e2, e4]; rfl
    have e5 : bv 5 w 17 = rd := by apply BitVec.eq_of_toNat_eq; simp only [bv, BitVec.toNat_ofNat, Nat.reducePow]; omega
    have e6 : bv 5 w 12 = ra := by apply BitVec.eq_of_toNat_eq; simp only [bv, BitVec.toNat_ofNat, Nat.reducePow]; omega
    have e7 : bv 2 w 10 = o := by apply BitVec.eq_of_toNat_eq; simp only [bv, BitVec.toNat_ofNat, Nat.reducePow]; omega
    have e8 : bv 3 w 7 = sc := by apply BitVec.eq_of_toNat_eq; simp only [bv, BitVec.toNat_ofNat, Nat.reducePow]; omega
    rw [e5, e6, e7, e8, ei]
  | ext off =>
    have h_off := off.isLt
    obtain rfl : lone = true := by cases lone <;> first | rfl | exact Bool.noConfusion (show false = true from hl)
    replace hx : x = off.toNat := hx rfl
    rw [show encodeC (.ldI16 rd ra o sc (.ext off)) = 83886080 + rd.toNat * 131072 + ra.toNat * 4096 + o.toNat * 1024 + sc.toNat * 128 + immLow (.ext off) from rfl]
    rw [show immLow (.ext off) = 0 from rfl]
    rw [show Bool.toNat true = 1 from rfl]
    obtain ⟨w, hW⟩ : ∃ w, w = 83886080 + rd.toNat * 131072 + ra.toNat * 4096 + o.toNat * 1024 + sc.toNat * 128 + 0 + stl * 268435456 + 1 * 2147483648 := ⟨_, rfl⟩
    rw [← hW]
    have e1 : fld w 27 22 = 20 := by simp only [fld, Nat.reducePow, Nat.reduceSub, Nat.reduceAdd]; omega
    have f1 : decodeC w x = .instr (.ldI16 (bv 5 w 17) (bv 5 w 12) (bv 2 w 10) (bv 3 w 7) (imm7 w x)) := by unfold decodeC; rw [e1]; try rfl
    rw [f1]
    have e3 : fld w 31 31 = 1 := by simp only [fld, Nat.reducePow, Nat.reduceSub, Nat.reduceAdd]; omega
    have e2 : loneBit w = true := by unfold loneBit; rw [e3]; rfl
    have e4 : bv 32 x 0 = off := by apply BitVec.eq_of_toNat_eq; simp only [bv, BitVec.toNat_ofNat, Nat.reducePow]; omega
    have ei : imm7 w x = .ext off := by unfold imm7; rw [e2, e4]; rfl
    have e5 : bv 5 w 17 = rd := by apply BitVec.eq_of_toNat_eq; simp only [bv, BitVec.toNat_ofNat, Nat.reducePow]; omega
    have e6 : bv 5 w 12 = ra := by apply BitVec.eq_of_toNat_eq; simp only [bv, BitVec.toNat_ofNat, Nat.reducePow]; omega
    have e7 : bv 2 w 10 = o := by apply BitVec.eq_of_toNat_eq; simp only [bv, BitVec.toNat_ofNat, Nat.reducePow]; omega
    have e8 : bv 3 w 7 = sc := by apply BitVec.eq_of_toNat_eq; simp only [bv, BitVec.toNat_ofNat, Nat.reducePow]; omega
    rw [e5, e6, e7, e8, ei]
theorem ldN16 (rd : GReg) (ra : GReg) (o : BitVec 2) (sc : BitVec 3) (off : Imm 7) : Statement (.ldN16 rd ra o sc off) := by
  refine ⟨fun _ hw lone hl stl hn x hx => ?_, fun h => Bool.noConfusion (show false = true from h)⟩
  have h_rd := rd.isLt
  have h_ra := ra.isLt
  have h_o := o.isLt
  have h_sc := sc.isLt
  cases off with
  | short off =>
    have h_off := off.isLt
    obtain rfl : lone = false := by cases lone <;> first | rfl | exact Bool.noConfusion (show false = true from hl)
    rw [show encodeC (.ldN16 rd ra o sc (.short off)) = 88080384 + rd.toNat * 131072 + ra.toNat * 4096 + o.toNat * 1024 + sc.toNat * 128 + immLow (.short off) from rfl]
    rw [show immLow (.short off) = off.toNat from rfl]
    rw [show Bool.toNat false = 0 from rfl]
    obtain ⟨w, hW⟩ : ∃ w, w = 88080384 + rd.toNat * 131072 + ra.toNat * 4096 + o.toNat * 1024 + sc.toNat * 128 + off.toNat + stl * 268435456 + 0 * 2147483648 := ⟨_, rfl⟩
    rw [← hW]
    have e1 : fld w 27 22 = 21 := by simp only [fld, Nat.reducePow, Nat.reduceSub, Nat.reduceAdd]; omega
    have f1 : decodeC w x = .instr (.ldN16 (bv 5 w 17) (bv 5 w 12) (bv 2 w 10) (bv 3 w 7) (imm7 w x)) := by unfold decodeC; rw [e1]; try rfl
    rw [f1]
    have e3 : fld w 31 31 = 0 := by simp only [fld, Nat.reducePow, Nat.reduceSub, Nat.reduceAdd]; omega
    have e2 : loneBit w = false := by unfold loneBit; rw [e3]; rfl
    have e4 : bv 7 w 0 = off := by apply BitVec.eq_of_toNat_eq; simp only [bv, BitVec.toNat_ofNat, Nat.reducePow]; omega
    have ei : imm7 w x = .short off := by unfold imm7; rw [e2, e4]; rfl
    have e5 : bv 5 w 17 = rd := by apply BitVec.eq_of_toNat_eq; simp only [bv, BitVec.toNat_ofNat, Nat.reducePow]; omega
    have e6 : bv 5 w 12 = ra := by apply BitVec.eq_of_toNat_eq; simp only [bv, BitVec.toNat_ofNat, Nat.reducePow]; omega
    have e7 : bv 2 w 10 = o := by apply BitVec.eq_of_toNat_eq; simp only [bv, BitVec.toNat_ofNat, Nat.reducePow]; omega
    have e8 : bv 3 w 7 = sc := by apply BitVec.eq_of_toNat_eq; simp only [bv, BitVec.toNat_ofNat, Nat.reducePow]; omega
    rw [e5, e6, e7, e8, ei]
  | ext off =>
    have h_off := off.isLt
    obtain rfl : lone = true := by cases lone <;> first | rfl | exact Bool.noConfusion (show false = true from hl)
    replace hx : x = off.toNat := hx rfl
    rw [show encodeC (.ldN16 rd ra o sc (.ext off)) = 88080384 + rd.toNat * 131072 + ra.toNat * 4096 + o.toNat * 1024 + sc.toNat * 128 + immLow (.ext off) from rfl]
    rw [show immLow (.ext off) = 0 from rfl]
    rw [show Bool.toNat true = 1 from rfl]
    obtain ⟨w, hW⟩ : ∃ w, w = 88080384 + rd.toNat * 131072 + ra.toNat * 4096 + o.toNat * 1024 + sc.toNat * 128 + 0 + stl * 268435456 + 1 * 2147483648 := ⟨_, rfl⟩
    rw [← hW]
    have e1 : fld w 27 22 = 21 := by simp only [fld, Nat.reducePow, Nat.reduceSub, Nat.reduceAdd]; omega
    have f1 : decodeC w x = .instr (.ldN16 (bv 5 w 17) (bv 5 w 12) (bv 2 w 10) (bv 3 w 7) (imm7 w x)) := by unfold decodeC; rw [e1]; try rfl
    rw [f1]
    have e3 : fld w 31 31 = 1 := by simp only [fld, Nat.reducePow, Nat.reduceSub, Nat.reduceAdd]; omega
    have e2 : loneBit w = true := by unfold loneBit; rw [e3]; rfl
    have e4 : bv 32 x 0 = off := by apply BitVec.eq_of_toNat_eq; simp only [bv, BitVec.toNat_ofNat, Nat.reducePow]; omega
    have ei : imm7 w x = .ext off := by unfold imm7; rw [e2, e4]; rfl
    have e5 : bv 5 w 17 = rd := by apply BitVec.eq_of_toNat_eq; simp only [bv, BitVec.toNat_ofNat, Nat.reducePow]; omega
    have e6 : bv 5 w 12 = ra := by apply BitVec.eq_of_toNat_eq; simp only [bv, BitVec.toNat_ofNat, Nat.reducePow]; omega
    have e7 : bv 2 w 10 = o := by apply BitVec.eq_of_toNat_eq; simp only [bv, BitVec.toNat_ofNat, Nat.reducePow]; omega
    have e8 : bv 3 w 7 = sc := by apply BitVec.eq_of_toNat_eq; simp only [bv, BitVec.toNat_ofNat, Nat.reducePow]; omega
    rw [e5, e6, e7, e8, ei]
theorem ldI32 (rd : GReg) (ra : GReg) (o : BitVec 2) (sc : BitVec 3) (off : Imm 7) : Statement (.ldI32 rd ra o sc off) := by
  refine ⟨fun _ hw lone hl stl hn x hx => ?_, fun h => Bool.noConfusion (show false = true from h)⟩
  have h_rd := rd.isLt
  have h_ra := ra.isLt
  have h_o := o.isLt
  have h_sc := sc.isLt
  cases off with
  | short off =>
    have h_off := off.isLt
    obtain rfl : lone = false := by cases lone <;> first | rfl | exact Bool.noConfusion (show false = true from hl)
    rw [show encodeC (.ldI32 rd ra o sc (.short off)) = 92274688 + rd.toNat * 131072 + ra.toNat * 4096 + o.toNat * 1024 + sc.toNat * 128 + immLow (.short off) from rfl]
    rw [show immLow (.short off) = off.toNat from rfl]
    rw [show Bool.toNat false = 0 from rfl]
    obtain ⟨w, hW⟩ : ∃ w, w = 92274688 + rd.toNat * 131072 + ra.toNat * 4096 + o.toNat * 1024 + sc.toNat * 128 + off.toNat + stl * 268435456 + 0 * 2147483648 := ⟨_, rfl⟩
    rw [← hW]
    have e1 : fld w 27 22 = 22 := by simp only [fld, Nat.reducePow, Nat.reduceSub, Nat.reduceAdd]; omega
    have f1 : decodeC w x = .instr (.ldI32 (bv 5 w 17) (bv 5 w 12) (bv 2 w 10) (bv 3 w 7) (imm7 w x)) := by unfold decodeC; rw [e1]; try rfl
    rw [f1]
    have e3 : fld w 31 31 = 0 := by simp only [fld, Nat.reducePow, Nat.reduceSub, Nat.reduceAdd]; omega
    have e2 : loneBit w = false := by unfold loneBit; rw [e3]; rfl
    have e4 : bv 7 w 0 = off := by apply BitVec.eq_of_toNat_eq; simp only [bv, BitVec.toNat_ofNat, Nat.reducePow]; omega
    have ei : imm7 w x = .short off := by unfold imm7; rw [e2, e4]; rfl
    have e5 : bv 5 w 17 = rd := by apply BitVec.eq_of_toNat_eq; simp only [bv, BitVec.toNat_ofNat, Nat.reducePow]; omega
    have e6 : bv 5 w 12 = ra := by apply BitVec.eq_of_toNat_eq; simp only [bv, BitVec.toNat_ofNat, Nat.reducePow]; omega
    have e7 : bv 2 w 10 = o := by apply BitVec.eq_of_toNat_eq; simp only [bv, BitVec.toNat_ofNat, Nat.reducePow]; omega
    have e8 : bv 3 w 7 = sc := by apply BitVec.eq_of_toNat_eq; simp only [bv, BitVec.toNat_ofNat, Nat.reducePow]; omega
    rw [e5, e6, e7, e8, ei]
  | ext off =>
    have h_off := off.isLt
    obtain rfl : lone = true := by cases lone <;> first | rfl | exact Bool.noConfusion (show false = true from hl)
    replace hx : x = off.toNat := hx rfl
    rw [show encodeC (.ldI32 rd ra o sc (.ext off)) = 92274688 + rd.toNat * 131072 + ra.toNat * 4096 + o.toNat * 1024 + sc.toNat * 128 + immLow (.ext off) from rfl]
    rw [show immLow (.ext off) = 0 from rfl]
    rw [show Bool.toNat true = 1 from rfl]
    obtain ⟨w, hW⟩ : ∃ w, w = 92274688 + rd.toNat * 131072 + ra.toNat * 4096 + o.toNat * 1024 + sc.toNat * 128 + 0 + stl * 268435456 + 1 * 2147483648 := ⟨_, rfl⟩
    rw [← hW]
    have e1 : fld w 27 22 = 22 := by simp only [fld, Nat.reducePow, Nat.reduceSub, Nat.reduceAdd]; omega
    have f1 : decodeC w x = .instr (.ldI32 (bv 5 w 17) (bv 5 w 12) (bv 2 w 10) (bv 3 w 7) (imm7 w x)) := by unfold decodeC; rw [e1]; try rfl
    rw [f1]
    have e3 : fld w 31 31 = 1 := by simp only [fld, Nat.reducePow, Nat.reduceSub, Nat.reduceAdd]; omega
    have e2 : loneBit w = true := by unfold loneBit; rw [e3]; rfl
    have e4 : bv 32 x 0 = off := by apply BitVec.eq_of_toNat_eq; simp only [bv, BitVec.toNat_ofNat, Nat.reducePow]; omega
    have ei : imm7 w x = .ext off := by unfold imm7; rw [e2, e4]; rfl
    have e5 : bv 5 w 17 = rd := by apply BitVec.eq_of_toNat_eq; simp only [bv, BitVec.toNat_ofNat, Nat.reducePow]; omega
    have e6 : bv 5 w 12 = ra := by apply BitVec.eq_of_toNat_eq; simp only [bv, BitVec.toNat_ofNat, Nat.reducePow]; omega
    have e7 : bv 2 w 10 = o := by apply BitVec.eq_of_toNat_eq; simp only [bv, BitVec.toNat_ofNat, Nat.reducePow]; omega
    have e8 : bv 3 w 7 = sc := by apply BitVec.eq_of_toNat_eq; simp only [bv, BitVec.toNat_ofNat, Nat.reducePow]; omega
    rw [e5, e6, e7, e8, ei]
theorem ldN32 (rd : GReg) (ra : GReg) (o : BitVec 2) (sc : BitVec 3) (off : Imm 7) : Statement (.ldN32 rd ra o sc off) := by
  refine ⟨fun _ hw lone hl stl hn x hx => ?_, fun h => Bool.noConfusion (show false = true from h)⟩
  have h_rd := rd.isLt
  have h_ra := ra.isLt
  have h_o := o.isLt
  have h_sc := sc.isLt
  cases off with
  | short off =>
    have h_off := off.isLt
    obtain rfl : lone = false := by cases lone <;> first | rfl | exact Bool.noConfusion (show false = true from hl)
    rw [show encodeC (.ldN32 rd ra o sc (.short off)) = 96468992 + rd.toNat * 131072 + ra.toNat * 4096 + o.toNat * 1024 + sc.toNat * 128 + immLow (.short off) from rfl]
    rw [show immLow (.short off) = off.toNat from rfl]
    rw [show Bool.toNat false = 0 from rfl]
    obtain ⟨w, hW⟩ : ∃ w, w = 96468992 + rd.toNat * 131072 + ra.toNat * 4096 + o.toNat * 1024 + sc.toNat * 128 + off.toNat + stl * 268435456 + 0 * 2147483648 := ⟨_, rfl⟩
    rw [← hW]
    have e1 : fld w 27 22 = 23 := by simp only [fld, Nat.reducePow, Nat.reduceSub, Nat.reduceAdd]; omega
    have f1 : decodeC w x = .instr (.ldN32 (bv 5 w 17) (bv 5 w 12) (bv 2 w 10) (bv 3 w 7) (imm7 w x)) := by unfold decodeC; rw [e1]; try rfl
    rw [f1]
    have e3 : fld w 31 31 = 0 := by simp only [fld, Nat.reducePow, Nat.reduceSub, Nat.reduceAdd]; omega
    have e2 : loneBit w = false := by unfold loneBit; rw [e3]; rfl
    have e4 : bv 7 w 0 = off := by apply BitVec.eq_of_toNat_eq; simp only [bv, BitVec.toNat_ofNat, Nat.reducePow]; omega
    have ei : imm7 w x = .short off := by unfold imm7; rw [e2, e4]; rfl
    have e5 : bv 5 w 17 = rd := by apply BitVec.eq_of_toNat_eq; simp only [bv, BitVec.toNat_ofNat, Nat.reducePow]; omega
    have e6 : bv 5 w 12 = ra := by apply BitVec.eq_of_toNat_eq; simp only [bv, BitVec.toNat_ofNat, Nat.reducePow]; omega
    have e7 : bv 2 w 10 = o := by apply BitVec.eq_of_toNat_eq; simp only [bv, BitVec.toNat_ofNat, Nat.reducePow]; omega
    have e8 : bv 3 w 7 = sc := by apply BitVec.eq_of_toNat_eq; simp only [bv, BitVec.toNat_ofNat, Nat.reducePow]; omega
    rw [e5, e6, e7, e8, ei]
  | ext off =>
    have h_off := off.isLt
    obtain rfl : lone = true := by cases lone <;> first | rfl | exact Bool.noConfusion (show false = true from hl)
    replace hx : x = off.toNat := hx rfl
    rw [show encodeC (.ldN32 rd ra o sc (.ext off)) = 96468992 + rd.toNat * 131072 + ra.toNat * 4096 + o.toNat * 1024 + sc.toNat * 128 + immLow (.ext off) from rfl]
    rw [show immLow (.ext off) = 0 from rfl]
    rw [show Bool.toNat true = 1 from rfl]
    obtain ⟨w, hW⟩ : ∃ w, w = 96468992 + rd.toNat * 131072 + ra.toNat * 4096 + o.toNat * 1024 + sc.toNat * 128 + 0 + stl * 268435456 + 1 * 2147483648 := ⟨_, rfl⟩
    rw [← hW]
    have e1 : fld w 27 22 = 23 := by simp only [fld, Nat.reducePow, Nat.reduceSub, Nat.reduceAdd]; omega
    have f1 : decodeC w x = .instr (.ldN32 (bv 5 w 17) (bv 5 w 12) (bv 2 w 10) (bv 3 w 7) (imm7 w x)) := by unfold decodeC; rw [e1]; try rfl
    rw [f1]
    have e3 : fld w 31 31 = 1 := by simp only [fld, Nat.reducePow, Nat.reduceSub, Nat.reduceAdd]; omega
    have e2 : loneBit w = true := by unfold loneBit; rw [e3]; rfl
    have e4 : bv 32 x 0 = off := by apply BitVec.eq_of_toNat_eq; simp only [bv, BitVec.toNat_ofNat, Nat.reducePow]; omega
    have ei : imm7 w x = .ext off := by unfold imm7; rw [e2, e4]; rfl
    have e5 : bv 5 w 17 = rd := by apply BitVec.eq_of_toNat_eq; simp only [bv, BitVec.toNat_ofNat, Nat.reducePow]; omega
    have e6 : bv 5 w 12 = ra := by apply BitVec.eq_of_toNat_eq; simp only [bv, BitVec.toNat_ofNat, Nat.reducePow]; omega
    have e7 : bv 2 w 10 = o := by apply BitVec.eq_of_toNat_eq; simp only [bv, BitVec.toNat_ofNat, Nat.reducePow]; omega
    have e8 : bv 3 w 7 = sc := by apply BitVec.eq_of_toNat_eq; simp only [bv, BitVec.toNat_ofNat, Nat.reducePow]; omega
    rw [e5, e6, e7, e8, ei]
theorem ldD (rd : GReg) (ra : GReg) (o : BitVec 2) (sc : BitVec 3) (off : Imm 7) : Statement (.ldD rd ra o sc off) := by
  refine ⟨fun _ hw lone hl stl hn x hx => ?_, fun h => Bool.noConfusion (show false = true from h)⟩
  have h_rd := rd.isLt
  have h_ra := ra.isLt
  have h_o := o.isLt
  have h_sc := sc.isLt
  cases off with
  | short off =>
    have h_off := off.isLt
    obtain rfl : lone = false := by cases lone <;> first | rfl | exact Bool.noConfusion (show false = true from hl)
    rw [show encodeC (.ldD rd ra o sc (.short off)) = 100663296 + rd.toNat * 131072 + ra.toNat * 4096 + o.toNat * 1024 + sc.toNat * 128 + immLow (.short off) from rfl]
    rw [show immLow (.short off) = off.toNat from rfl]
    rw [show Bool.toNat false = 0 from rfl]
    obtain ⟨w, hW⟩ : ∃ w, w = 100663296 + rd.toNat * 131072 + ra.toNat * 4096 + o.toNat * 1024 + sc.toNat * 128 + off.toNat + stl * 268435456 + 0 * 2147483648 := ⟨_, rfl⟩
    rw [← hW]
    have e1 : fld w 27 22 = 24 := by simp only [fld, Nat.reducePow, Nat.reduceSub, Nat.reduceAdd]; omega
    have f1 : decodeC w x = .instr (.ldD (bv 5 w 17) (bv 5 w 12) (bv 2 w 10) (bv 3 w 7) (imm7 w x)) := by unfold decodeC; rw [e1]; try rfl
    rw [f1]
    have e3 : fld w 31 31 = 0 := by simp only [fld, Nat.reducePow, Nat.reduceSub, Nat.reduceAdd]; omega
    have e2 : loneBit w = false := by unfold loneBit; rw [e3]; rfl
    have e4 : bv 7 w 0 = off := by apply BitVec.eq_of_toNat_eq; simp only [bv, BitVec.toNat_ofNat, Nat.reducePow]; omega
    have ei : imm7 w x = .short off := by unfold imm7; rw [e2, e4]; rfl
    have e5 : bv 5 w 17 = rd := by apply BitVec.eq_of_toNat_eq; simp only [bv, BitVec.toNat_ofNat, Nat.reducePow]; omega
    have e6 : bv 5 w 12 = ra := by apply BitVec.eq_of_toNat_eq; simp only [bv, BitVec.toNat_ofNat, Nat.reducePow]; omega
    have e7 : bv 2 w 10 = o := by apply BitVec.eq_of_toNat_eq; simp only [bv, BitVec.toNat_ofNat, Nat.reducePow]; omega
    have e8 : bv 3 w 7 = sc := by apply BitVec.eq_of_toNat_eq; simp only [bv, BitVec.toNat_ofNat, Nat.reducePow]; omega
    rw [e5, e6, e7, e8, ei]
  | ext off =>
    have h_off := off.isLt
    obtain rfl : lone = true := by cases lone <;> first | rfl | exact Bool.noConfusion (show false = true from hl)
    replace hx : x = off.toNat := hx rfl
    rw [show encodeC (.ldD rd ra o sc (.ext off)) = 100663296 + rd.toNat * 131072 + ra.toNat * 4096 + o.toNat * 1024 + sc.toNat * 128 + immLow (.ext off) from rfl]
    rw [show immLow (.ext off) = 0 from rfl]
    rw [show Bool.toNat true = 1 from rfl]
    obtain ⟨w, hW⟩ : ∃ w, w = 100663296 + rd.toNat * 131072 + ra.toNat * 4096 + o.toNat * 1024 + sc.toNat * 128 + 0 + stl * 268435456 + 1 * 2147483648 := ⟨_, rfl⟩
    rw [← hW]
    have e1 : fld w 27 22 = 24 := by simp only [fld, Nat.reducePow, Nat.reduceSub, Nat.reduceAdd]; omega
    have f1 : decodeC w x = .instr (.ldD (bv 5 w 17) (bv 5 w 12) (bv 2 w 10) (bv 3 w 7) (imm7 w x)) := by unfold decodeC; rw [e1]; try rfl
    rw [f1]
    have e3 : fld w 31 31 = 1 := by simp only [fld, Nat.reducePow, Nat.reduceSub, Nat.reduceAdd]; omega
    have e2 : loneBit w = true := by unfold loneBit; rw [e3]; rfl
    have e4 : bv 32 x 0 = off := by apply BitVec.eq_of_toNat_eq; simp only [bv, BitVec.toNat_ofNat, Nat.reducePow]; omega
    have ei : imm7 w x = .ext off := by unfold imm7; rw [e2, e4]; rfl
    have e5 : bv 5 w 17 = rd := by apply BitVec.eq_of_toNat_eq; simp only [bv, BitVec.toNat_ofNat, Nat.reducePow]; omega
    have e6 : bv 5 w 12 = ra := by apply BitVec.eq_of_toNat_eq; simp only [bv, BitVec.toNat_ofNat, Nat.reducePow]; omega
    have e7 : bv 2 w 10 = o := by apply BitVec.eq_of_toNat_eq; simp only [bv, BitVec.toNat_ofNat, Nat.reducePow]; omega
    have e8 : bv 3 w 7 = sc := by apply BitVec.eq_of_toNat_eq; simp only [bv, BitVec.toNat_ofNat, Nat.reducePow]; omega
    rw [e5, e6, e7, e8, ei]
theorem stB (rs : GReg) (ra : GReg) (o : BitVec 2) (sc : BitVec 3) (off : Imm 7) : Statement (.stB rs ra o sc off) := by
  refine ⟨fun _ hw lone hl stl hn x hx => ?_, fun h => Bool.noConfusion (show false = true from h)⟩
  have h_rs := rs.isLt
  have h_ra := ra.isLt
  have h_o := o.isLt
  have h_sc := sc.isLt
  cases off with
  | short off =>
    have h_off := off.isLt
    obtain rfl : lone = false := by cases lone <;> first | rfl | exact Bool.noConfusion (show false = true from hl)
    rw [show encodeC (.stB rs ra o sc (.short off)) = 104857600 + rs.toNat * 131072 + ra.toNat * 4096 + o.toNat * 1024 + sc.toNat * 128 + immLow (.short off) from rfl]
    rw [show immLow (.short off) = off.toNat from rfl]
    rw [show Bool.toNat false = 0 from rfl]
    obtain ⟨w, hW⟩ : ∃ w, w = 104857600 + rs.toNat * 131072 + ra.toNat * 4096 + o.toNat * 1024 + sc.toNat * 128 + off.toNat + stl * 268435456 + 0 * 2147483648 := ⟨_, rfl⟩
    rw [← hW]
    have e1 : fld w 27 22 = 25 := by simp only [fld, Nat.reducePow, Nat.reduceSub, Nat.reduceAdd]; omega
    have f1 : decodeC w x = .instr (.stB (bv 5 w 17) (bv 5 w 12) (bv 2 w 10) (bv 3 w 7) (imm7 w x)) := by unfold decodeC; rw [e1]; try rfl
    rw [f1]
    have e3 : fld w 31 31 = 0 := by simp only [fld, Nat.reducePow, Nat.reduceSub, Nat.reduceAdd]; omega
    have e2 : loneBit w = false := by unfold loneBit; rw [e3]; rfl
    have e4 : bv 7 w 0 = off := by apply BitVec.eq_of_toNat_eq; simp only [bv, BitVec.toNat_ofNat, Nat.reducePow]; omega
    have ei : imm7 w x = .short off := by unfold imm7; rw [e2, e4]; rfl
    have e5 : bv 5 w 17 = rs := by apply BitVec.eq_of_toNat_eq; simp only [bv, BitVec.toNat_ofNat, Nat.reducePow]; omega
    have e6 : bv 5 w 12 = ra := by apply BitVec.eq_of_toNat_eq; simp only [bv, BitVec.toNat_ofNat, Nat.reducePow]; omega
    have e7 : bv 2 w 10 = o := by apply BitVec.eq_of_toNat_eq; simp only [bv, BitVec.toNat_ofNat, Nat.reducePow]; omega
    have e8 : bv 3 w 7 = sc := by apply BitVec.eq_of_toNat_eq; simp only [bv, BitVec.toNat_ofNat, Nat.reducePow]; omega
    rw [e5, e6, e7, e8, ei]
  | ext off =>
    have h_off := off.isLt
    obtain rfl : lone = true := by cases lone <;> first | rfl | exact Bool.noConfusion (show false = true from hl)
    replace hx : x = off.toNat := hx rfl
    rw [show encodeC (.stB rs ra o sc (.ext off)) = 104857600 + rs.toNat * 131072 + ra.toNat * 4096 + o.toNat * 1024 + sc.toNat * 128 + immLow (.ext off) from rfl]
    rw [show immLow (.ext off) = 0 from rfl]
    rw [show Bool.toNat true = 1 from rfl]
    obtain ⟨w, hW⟩ : ∃ w, w = 104857600 + rs.toNat * 131072 + ra.toNat * 4096 + o.toNat * 1024 + sc.toNat * 128 + 0 + stl * 268435456 + 1 * 2147483648 := ⟨_, rfl⟩
    rw [← hW]
    have e1 : fld w 27 22 = 25 := by simp only [fld, Nat.reducePow, Nat.reduceSub, Nat.reduceAdd]; omega
    have f1 : decodeC w x = .instr (.stB (bv 5 w 17) (bv 5 w 12) (bv 2 w 10) (bv 3 w 7) (imm7 w x)) := by unfold decodeC; rw [e1]; try rfl
    rw [f1]
    have e3 : fld w 31 31 = 1 := by simp only [fld, Nat.reducePow, Nat.reduceSub, Nat.reduceAdd]; omega
    have e2 : loneBit w = true := by unfold loneBit; rw [e3]; rfl
    have e4 : bv 32 x 0 = off := by apply BitVec.eq_of_toNat_eq; simp only [bv, BitVec.toNat_ofNat, Nat.reducePow]; omega
    have ei : imm7 w x = .ext off := by unfold imm7; rw [e2, e4]; rfl
    have e5 : bv 5 w 17 = rs := by apply BitVec.eq_of_toNat_eq; simp only [bv, BitVec.toNat_ofNat, Nat.reducePow]; omega
    have e6 : bv 5 w 12 = ra := by apply BitVec.eq_of_toNat_eq; simp only [bv, BitVec.toNat_ofNat, Nat.reducePow]; omega
    have e7 : bv 2 w 10 = o := by apply BitVec.eq_of_toNat_eq; simp only [bv, BitVec.toNat_ofNat, Nat.reducePow]; omega
    have e8 : bv 3 w 7 = sc := by apply BitVec.eq_of_toNat_eq; simp only [bv, BitVec.toNat_ofNat, Nat.reducePow]; omega
    rw [e5, e6, e7, e8, ei]
theorem stH (rs : GReg) (ra : GReg) (o : BitVec 2) (sc : BitVec 3) (off : Imm 7) : Statement (.stH rs ra o sc off) := by
  refine ⟨fun _ hw lone hl stl hn x hx => ?_, fun h => Bool.noConfusion (show false = true from h)⟩
  have h_rs := rs.isLt
  have h_ra := ra.isLt
  have h_o := o.isLt
  have h_sc := sc.isLt
  cases off with
  | short off =>
    have h_off := off.isLt
    obtain rfl : lone = false := by cases lone <;> first | rfl | exact Bool.noConfusion (show false = true from hl)
    rw [show encodeC (.stH rs ra o sc (.short off)) = 109051904 + rs.toNat * 131072 + ra.toNat * 4096 + o.toNat * 1024 + sc.toNat * 128 + immLow (.short off) from rfl]
    rw [show immLow (.short off) = off.toNat from rfl]
    rw [show Bool.toNat false = 0 from rfl]
    obtain ⟨w, hW⟩ : ∃ w, w = 109051904 + rs.toNat * 131072 + ra.toNat * 4096 + o.toNat * 1024 + sc.toNat * 128 + off.toNat + stl * 268435456 + 0 * 2147483648 := ⟨_, rfl⟩
    rw [← hW]
    have e1 : fld w 27 22 = 26 := by simp only [fld, Nat.reducePow, Nat.reduceSub, Nat.reduceAdd]; omega
    have f1 : decodeC w x = .instr (.stH (bv 5 w 17) (bv 5 w 12) (bv 2 w 10) (bv 3 w 7) (imm7 w x)) := by unfold decodeC; rw [e1]; try rfl
    rw [f1]
    have e3 : fld w 31 31 = 0 := by simp only [fld, Nat.reducePow, Nat.reduceSub, Nat.reduceAdd]; omega
    have e2 : loneBit w = false := by unfold loneBit; rw [e3]; rfl
    have e4 : bv 7 w 0 = off := by apply BitVec.eq_of_toNat_eq; simp only [bv, BitVec.toNat_ofNat, Nat.reducePow]; omega
    have ei : imm7 w x = .short off := by unfold imm7; rw [e2, e4]; rfl
    have e5 : bv 5 w 17 = rs := by apply BitVec.eq_of_toNat_eq; simp only [bv, BitVec.toNat_ofNat, Nat.reducePow]; omega
    have e6 : bv 5 w 12 = ra := by apply BitVec.eq_of_toNat_eq; simp only [bv, BitVec.toNat_ofNat, Nat.reducePow]; omega
    have e7 : bv 2 w 10 = o := by apply BitVec.eq_of_toNat_eq; simp only [bv, BitVec.toNat_ofNat, Nat.reducePow]; omega
    have e8 : bv 3 w 7 = sc := by apply BitVec.eq_of_toNat_eq; simp only [bv, BitVec.toNat_ofNat, Nat.reducePow]; omega
    rw [e5, e6, e7, e8, ei]
  | ext off =>
    have h_off := off.isLt
    obtain rfl : lone = true := by cases lone <;> first | rfl | exact Bool.noConfusion (show false = true from hl)
    replace hx : x = off.toNat := hx rfl
    rw [show encodeC (.stH rs ra o sc (.ext off)) = 109051904 + rs.toNat * 131072 + ra.toNat * 4096 + o.toNat * 1024 + sc.toNat * 128 + immLow (.ext off) from rfl]
    rw [show immLow (.ext off) = 0 from rfl]
    rw [show Bool.toNat true = 1 from rfl]
    obtain ⟨w, hW⟩ : ∃ w, w = 109051904 + rs.toNat * 131072 + ra.toNat * 4096 + o.toNat * 1024 + sc.toNat * 128 + 0 + stl * 268435456 + 1 * 2147483648 := ⟨_, rfl⟩
    rw [← hW]
    have e1 : fld w 27 22 = 26 := by simp only [fld, Nat.reducePow, Nat.reduceSub, Nat.reduceAdd]; omega
    have f1 : decodeC w x = .instr (.stH (bv 5 w 17) (bv 5 w 12) (bv 2 w 10) (bv 3 w 7) (imm7 w x)) := by unfold decodeC; rw [e1]; try rfl
    rw [f1]
    have e3 : fld w 31 31 = 1 := by simp only [fld, Nat.reducePow, Nat.reduceSub, Nat.reduceAdd]; omega
    have e2 : loneBit w = true := by unfold loneBit; rw [e3]; rfl
    have e4 : bv 32 x 0 = off := by apply BitVec.eq_of_toNat_eq; simp only [bv, BitVec.toNat_ofNat, Nat.reducePow]; omega
    have ei : imm7 w x = .ext off := by unfold imm7; rw [e2, e4]; rfl
    have e5 : bv 5 w 17 = rs := by apply BitVec.eq_of_toNat_eq; simp only [bv, BitVec.toNat_ofNat, Nat.reducePow]; omega
    have e6 : bv 5 w 12 = ra := by apply BitVec.eq_of_toNat_eq; simp only [bv, BitVec.toNat_ofNat, Nat.reducePow]; omega
    have e7 : bv 2 w 10 = o := by apply BitVec.eq_of_toNat_eq; simp only [bv, BitVec.toNat_ofNat, Nat.reducePow]; omega
    have e8 : bv 3 w 7 = sc := by apply BitVec.eq_of_toNat_eq; simp only [bv, BitVec.toNat_ofNat, Nat.reducePow]; omega
    rw [e5, e6, e7, e8, ei]
theorem stW (rs : GReg) (ra : GReg) (o : BitVec 2) (sc : BitVec 3) (off : Imm 7) : Statement (.stW rs ra o sc off) := by
  refine ⟨fun _ hw lone hl stl hn x hx => ?_, fun h => Bool.noConfusion (show false = true from h)⟩
  have h_rs := rs.isLt
  have h_ra := ra.isLt
  have h_o := o.isLt
  have h_sc := sc.isLt
  cases off with
  | short off =>
    have h_off := off.isLt
    obtain rfl : lone = false := by cases lone <;> first | rfl | exact Bool.noConfusion (show false = true from hl)
    rw [show encodeC (.stW rs ra o sc (.short off)) = 113246208 + rs.toNat * 131072 + ra.toNat * 4096 + o.toNat * 1024 + sc.toNat * 128 + immLow (.short off) from rfl]
    rw [show immLow (.short off) = off.toNat from rfl]
    rw [show Bool.toNat false = 0 from rfl]
    obtain ⟨w, hW⟩ : ∃ w, w = 113246208 + rs.toNat * 131072 + ra.toNat * 4096 + o.toNat * 1024 + sc.toNat * 128 + off.toNat + stl * 268435456 + 0 * 2147483648 := ⟨_, rfl⟩
    rw [← hW]
    have e1 : fld w 27 22 = 27 := by simp only [fld, Nat.reducePow, Nat.reduceSub, Nat.reduceAdd]; omega
    have f1 : decodeC w x = .instr (.stW (bv 5 w 17) (bv 5 w 12) (bv 2 w 10) (bv 3 w 7) (imm7 w x)) := by unfold decodeC; rw [e1]; try rfl
    rw [f1]
    have e3 : fld w 31 31 = 0 := by simp only [fld, Nat.reducePow, Nat.reduceSub, Nat.reduceAdd]; omega
    have e2 : loneBit w = false := by unfold loneBit; rw [e3]; rfl
    have e4 : bv 7 w 0 = off := by apply BitVec.eq_of_toNat_eq; simp only [bv, BitVec.toNat_ofNat, Nat.reducePow]; omega
    have ei : imm7 w x = .short off := by unfold imm7; rw [e2, e4]; rfl
    have e5 : bv 5 w 17 = rs := by apply BitVec.eq_of_toNat_eq; simp only [bv, BitVec.toNat_ofNat, Nat.reducePow]; omega
    have e6 : bv 5 w 12 = ra := by apply BitVec.eq_of_toNat_eq; simp only [bv, BitVec.toNat_ofNat, Nat.reducePow]; omega
    have e7 : bv 2 w 10 = o := by apply BitVec.eq_of_toNat_eq; simp only [bv, BitVec.toNat_ofNat, Nat.reducePow]; omega
    have e8 : bv 3 w 7 = sc := by apply BitVec.eq_of_toNat_eq; simp only [bv, BitVec.toNat_ofNat, Nat.reducePow]; omega
    rw [e5, e6, e7, e8, ei]
  | ext off =>
    have h_off := off.isLt
    obtain rfl : lone = true := by cases lone <;> first | rfl | exact Bool.noConfusion (show false = true from hl)
    replace hx : x = off.toNat := hx rfl
    rw [show encodeC (.stW rs ra o sc (.ext off)) = 113246208 + rs.toNat * 131072 + ra.toNat * 4096 + o.toNat * 1024 + sc.toNat * 128 + immLow (.ext off) from rfl]
    rw [show immLow (.ext off) = 0 from rfl]
    rw [show Bool.toNat true = 1 from rfl]
    obtain ⟨w, hW⟩ : ∃ w, w = 113246208 + rs.toNat * 131072 + ra.toNat * 4096 + o.toNat * 1024 + sc.toNat * 128 + 0 + stl * 268435456 + 1 * 2147483648 := ⟨_, rfl⟩
    rw [← hW]
    have e1 : fld w 27 22 = 27 := by simp only [fld, Nat.reducePow, Nat.reduceSub, Nat.reduceAdd]; omega
    have f1 : decodeC w x = .instr (.stW (bv 5 w 17) (bv 5 w 12) (bv 2 w 10) (bv 3 w 7) (imm7 w x)) := by unfold decodeC; rw [e1]; try rfl
    rw [f1]
    have e3 : fld w 31 31 = 1 := by simp only [fld, Nat.reducePow, Nat.reduceSub, Nat.reduceAdd]; omega
    have e2 : loneBit w = true := by unfold loneBit; rw [e3]; rfl
    have e4 : bv 32 x 0 = off := by apply BitVec.eq_of_toNat_eq; simp only [bv, BitVec.toNat_ofNat, Nat.reducePow]; omega
    have ei : imm7 w x = .ext off := by unfold imm7; rw [e2, e4]; rfl
    have e5 : bv 5 w 17 = rs := by apply BitVec.eq_of_toNat_eq; simp only [bv, BitVec.toNat_ofNat, Nat.reducePow]; omega
    have e6 : bv 5 w 12 = ra := by apply BitVec.eq_of_toNat_eq; simp only [bv, BitVec.toNat_ofNat, Nat.reducePow]; omega
    have e7 : bv 2 w 10 = o := by apply BitVec.eq_of_toNat_eq; simp only [bv, BitVec.toNat_ofNat, Nat.reducePow]; omega
    have e8 : bv 3 w 7 = sc := by apply BitVec.eq_of_toNat_eq; simp only [bv, BitVec.toNat_ofNat, Nat.reducePow]; omega
    rw [e5, e6, e7, e8, ei]
theorem stD (rs : GReg) (ra : GReg) (o : BitVec 2) (sc : BitVec 3) (off : Imm 7) : Statement (.stD rs ra o sc off) := by
  refine ⟨fun _ hw lone hl stl hn x hx => ?_, fun h => Bool.noConfusion (show false = true from h)⟩
  have h_rs := rs.isLt
  have h_ra := ra.isLt
  have h_o := o.isLt
  have h_sc := sc.isLt
  cases off with
  | short off =>
    have h_off := off.isLt
    obtain rfl : lone = false := by cases lone <;> first | rfl | exact Bool.noConfusion (show false = true from hl)
    rw [show encodeC (.stD rs ra o sc (.short off)) = 117440512 + rs.toNat * 131072 + ra.toNat * 4096 + o.toNat * 1024 + sc.toNat * 128 + immLow (.short off) from rfl]
    rw [show immLow (.short off) = off.toNat from rfl]
    rw [show Bool.toNat false = 0 from rfl]
    obtain ⟨w, hW⟩ : ∃ w, w = 117440512 + rs.toNat * 131072 + ra.toNat * 4096 + o.toNat * 1024 + sc.toNat * 128 + off.toNat + stl * 268435456 + 0 * 2147483648 := ⟨_, rfl⟩
    rw [← hW]
    have e1 : fld w 27 22 = 28 := by simp only [fld, Nat.reducePow, Nat.reduceSub, Nat.reduceAdd]; omega
    have f1 : decodeC w x = .instr (.stD (bv 5 w 17) (bv 5 w 12) (bv 2 w 10) (bv 3 w 7) (imm7 w x)) := by unfold decodeC; rw [e1]; try rfl
    rw [f1]
    have e3 : fld w 31 31 = 0 := by simp only [fld, Nat.reducePow, Nat.reduceSub, Nat.reduceAdd]; omega
    have e2 : loneBit w = false := by unfold loneBit; rw [e3]; rfl
    have e4 : bv 7 w 0 = off := by apply BitVec.eq_of_toNat_eq; simp only [bv, BitVec.toNat_ofNat, Nat.reducePow]; omega
    have ei : imm7 w x = .short off := by unfold imm7; rw [e2, e4]; rfl
    have e5 : bv 5 w 17 = rs := by apply BitVec.eq_of_toNat_eq; simp only [bv, BitVec.toNat_ofNat, Nat.reducePow]; omega
    have e6 : bv 5 w 12 = ra := by apply BitVec.eq_of_toNat_eq; simp only [bv, BitVec.toNat_ofNat, Nat.reducePow]; omega
    have e7 : bv 2 w 10 = o := by apply BitVec.eq_of_toNat_eq; simp only [bv, BitVec.toNat_ofNat, Nat.reducePow]; omega
    have e8 : bv 3 w 7 = sc := by apply BitVec.eq_of_toNat_eq; simp only [bv, BitVec.toNat_ofNat, Nat.reducePow]; omega
    rw [e5, e6, e7, e8, ei]
  | ext off =>
    have h_off := off.isLt
    obtain rfl : lone = true := by cases lone <;> first | rfl | exact Bool.noConfusion (show false = true from hl)
    replace hx : x = off.toNat := hx rfl
    rw [show encodeC (.stD rs ra o sc (.ext off)) = 117440512 + rs.toNat * 131072 + ra.toNat * 4096 + o.toNat * 1024 + sc.toNat * 128 + immLow (.ext off) from rfl]
    rw [show immLow (.ext off) = 0 from rfl]
    rw [show Bool.toNat true = 1 from rfl]
    obtain ⟨w, hW⟩ : ∃ w, w = 117440512 + rs.toNat * 131072 + ra.toNat * 4096 + o.toNat * 1024 + sc.toNat * 128 + 0 + stl * 268435456 + 1 * 2147483648 := ⟨_, rfl⟩
    rw [← hW]
    have e1 : fld w 27 22 = 28 := by simp only [fld, Nat.reducePow, Nat.reduceSub, Nat.reduceAdd]; omega
    have f1 : decodeC w x = .instr (.stD (bv 5 w 17) (bv 5 w 12) (bv 2 w 10) (bv 3 w 7) (imm7 w x)) := by unfold decodeC; rw [e1]; try rfl
    rw [f1]
    have e3 : fld w 31 31 = 1 := by simp only [fld, Nat.reducePow, Nat.reduceSub, Nat.reduceAdd]; omega
    have e2 : loneBit w = true := by unfold loneBit; rw [e3]; rfl
    have e4 : bv 32 x 0 = off := by apply BitVec.eq_of_toNat_eq; simp only [bv, BitVec.toNat_ofNat, Nat.reducePow]; omega
    have ei : imm7 w x = .ext off := by unfold imm7; rw [e2, e4]; rfl
    have e5 : bv 5 w 17 = rs := by apply BitVec.eq_of_toNat_eq; simp only [bv, BitVec.toNat_ofNat, Nat.reducePow]; omega
    have e6 : bv 5 w 12 = ra := by apply BitVec.eq_of_toNat_eq; simp only [bv, BitVec.toNat_ofNat, Nat.reducePow]; omega
    have e7 : bv 2 w 10 = o := by apply BitVec.eq_of_toNat_eq; simp only [bv, BitVec.toNat_ofNat, Nat.reducePow]; omega
    have e8 : bv 3 w 7 = sc := by apply BitVec.eq_of_toNat_eq; simp only [bv, BitVec.toNat_ofNat, Nat.reducePow]; omega
    rw [e5, e6, e7, e8, ei]
theorem ldxI8 (rd : GReg) (ra : GReg) (rb : GReg) (o : BitVec 2) : Statement (.ldxI8 rd ra rb o) := by
  refine ⟨fun _ hw lone hl stl hn x hx => ?_, fun h => Bool.noConfusion (show false = true from h)⟩
  have h_rd := rd.isLt
  have h_ra := ra.isLt
  have h_rb := rb.isLt
  have h_o := o.isLt
  rw [show encodeC (.ldxI8 rd ra rb o) = 121634816 + rd.toNat * 131072 + ra.toNat * 4096 + rb.toNat * 128 + o.toNat * 2 from rfl]
  obtain ⟨w, hW⟩ : ∃ w, w = 121634816 + rd.toNat * 131072 + ra.toNat * 4096 + rb.toNat * 128 + o.toNat * 2 + stl * 268435456 + lone.toNat * 2147483648 := ⟨_, rfl⟩
  rw [← hW]
  have h_l := lone.toNat_lt
  have e1 : fld w 27 22 = 29 := by simp only [fld, Nat.reducePow, Nat.reduceSub, Nat.reduceAdd]; omega
  have f1 : decodeC w x = decC29 w := by unfold decodeC; rw [e1]; try rfl
  have e2 : fld w 6 3 = 0 := by simp only [fld, Nat.reducePow, Nat.reduceSub, Nat.reduceAdd]; omega
  have f2 : decC29 w = .instr (.ldxI8 (bv 5 w 17) (bv 5 w 12) (bv 5 w 7) (bv 2 w 1)) := by unfold decC29; rw [e2]; try rfl
  rw [f1, f2]
  have e3 : bv 5 w 17 = rd := by apply BitVec.eq_of_toNat_eq; simp only [bv, BitVec.toNat_ofNat, Nat.reducePow]; omega
  have e4 : bv 5 w 12 = ra := by apply BitVec.eq_of_toNat_eq; simp only [bv, BitVec.toNat_ofNat, Nat.reducePow]; omega
  have e5 : bv 5 w 7 = rb := by apply BitVec.eq_of_toNat_eq; simp only [bv, BitVec.toNat_ofNat, Nat.reducePow]; omega
  have e6 : bv 2 w 1 = o := by apply BitVec.eq_of_toNat_eq; simp only [bv, BitVec.toNat_ofNat, Nat.reducePow]; omega
  rw [e3, e4, e5, e6]
theorem ldxN8 (rd : GReg) (ra : GReg) (rb : GReg) (o : BitVec 2) : Statement (.ldxN8 rd ra rb o) := by
  refine ⟨fun _ hw lone hl stl hn x hx => ?_, fun h => Bool.noConfusion (show false = true from h)⟩
  have h_rd := rd.isLt
  have h_ra := ra.isLt
  have h_rb := rb.isLt
  have h_o := o.isLt
  rw [show encodeC (.ldxN8 rd ra rb o) = 121634816 + 8 + rd.toNat * 131072 + ra.toNat * 4096 + rb.toNat * 128 + o.toNat * 2 from rfl]
  obtain ⟨w, hW⟩ : ∃ w, w = 121634816 + 8 + rd.toNat * 131072 + ra.toNat * 4096 + rb.toNat * 128 + o.toNat * 2 + stl * 268435456 + lone.toNat * 2147483648 := ⟨_, rfl⟩
  rw [← hW]
  have h_l := lone.toNat_lt
  have e1 : fld w 27 22 = 29 := by simp only [fld, Nat.reducePow, Nat.reduceSub, Nat.reduceAdd]; omega
  have f1 : decodeC w x = decC29 w := by unfold decodeC; rw [e1]; try rfl
  have e2 : fld w 6 3 = 1 := by simp only [fld, Nat.reducePow, Nat.reduceSub, Nat.reduceAdd]; omega
  have f2 : decC29 w = .instr (.ldxN8 (bv 5 w 17) (bv 5 w 12) (bv 5 w 7) (bv 2 w 1)) := by unfold decC29; rw [e2]; try rfl
  rw [f1, f2]
  have e3 : bv 5 w 17 = rd := by apply BitVec.eq_of_toNat_eq; simp only [bv, BitVec.toNat_ofNat, Nat.reducePow]; omega
  have e4 : bv 5 w 12 = ra := by apply BitVec.eq_of_toNat_eq; simp only [bv, BitVec.toNat_ofNat, Nat.reducePow]; omega
  have e5 : bv 5 w 7 = rb := by apply BitVec.eq_of_toNat_eq; simp only [bv, BitVec.toNat_ofNat, Nat.reducePow]; omega
  have e6 : bv 2 w 1 = o := by apply BitVec.eq_of_toNat_eq; simp only [bv, BitVec.toNat_ofNat, Nat.reducePow]; omega
  rw [e3, e4, e5, e6]
theorem ldxI16 (rd : GReg) (ra : GReg) (rb : GReg) (o : BitVec 2) : Statement (.ldxI16 rd ra rb o) := by
  refine ⟨fun _ hw lone hl stl hn x hx => ?_, fun h => Bool.noConfusion (show false = true from h)⟩
  have h_rd := rd.isLt
  have h_ra := ra.isLt
  have h_rb := rb.isLt
  have h_o := o.isLt
  rw [show encodeC (.ldxI16 rd ra rb o) = 121634816 + 16 + rd.toNat * 131072 + ra.toNat * 4096 + rb.toNat * 128 + o.toNat * 2 from rfl]
  obtain ⟨w, hW⟩ : ∃ w, w = 121634816 + 16 + rd.toNat * 131072 + ra.toNat * 4096 + rb.toNat * 128 + o.toNat * 2 + stl * 268435456 + lone.toNat * 2147483648 := ⟨_, rfl⟩
  rw [← hW]
  have h_l := lone.toNat_lt
  have e1 : fld w 27 22 = 29 := by simp only [fld, Nat.reducePow, Nat.reduceSub, Nat.reduceAdd]; omega
  have f1 : decodeC w x = decC29 w := by unfold decodeC; rw [e1]; try rfl
  have e2 : fld w 6 3 = 2 := by simp only [fld, Nat.reducePow, Nat.reduceSub, Nat.reduceAdd]; omega
  have f2 : decC29 w = .instr (.ldxI16 (bv 5 w 17) (bv 5 w 12) (bv 5 w 7) (bv 2 w 1)) := by unfold decC29; rw [e2]; try rfl
  rw [f1, f2]
  have e3 : bv 5 w 17 = rd := by apply BitVec.eq_of_toNat_eq; simp only [bv, BitVec.toNat_ofNat, Nat.reducePow]; omega
  have e4 : bv 5 w 12 = ra := by apply BitVec.eq_of_toNat_eq; simp only [bv, BitVec.toNat_ofNat, Nat.reducePow]; omega
  have e5 : bv 5 w 7 = rb := by apply BitVec.eq_of_toNat_eq; simp only [bv, BitVec.toNat_ofNat, Nat.reducePow]; omega
  have e6 : bv 2 w 1 = o := by apply BitVec.eq_of_toNat_eq; simp only [bv, BitVec.toNat_ofNat, Nat.reducePow]; omega
  rw [e3, e4, e5, e6]
theorem ldxN16 (rd : GReg) (ra : GReg) (rb : GReg) (o : BitVec 2) : Statement (.ldxN16 rd ra rb o) := by
  refine ⟨fun _ hw lone hl stl hn x hx => ?_, fun h => Bool.noConfusion (show false = true from h)⟩
  have h_rd := rd.isLt
  have h_ra := ra.isLt
  have h_rb := rb.isLt
  have h_o := o.isLt
  rw [show encodeC (.ldxN16 rd ra rb o) = 121634816 + 24 + rd.toNat * 131072 + ra.toNat * 4096 + rb.toNat * 128 + o.toNat * 2 from rfl]
  obtain ⟨w, hW⟩ : ∃ w, w = 121634816 + 24 + rd.toNat * 131072 + ra.toNat * 4096 + rb.toNat * 128 + o.toNat * 2 + stl * 268435456 + lone.toNat * 2147483648 := ⟨_, rfl⟩
  rw [← hW]
  have h_l := lone.toNat_lt
  have e1 : fld w 27 22 = 29 := by simp only [fld, Nat.reducePow, Nat.reduceSub, Nat.reduceAdd]; omega
  have f1 : decodeC w x = decC29 w := by unfold decodeC; rw [e1]; try rfl
  have e2 : fld w 6 3 = 3 := by simp only [fld, Nat.reducePow, Nat.reduceSub, Nat.reduceAdd]; omega
  have f2 : decC29 w = .instr (.ldxN16 (bv 5 w 17) (bv 5 w 12) (bv 5 w 7) (bv 2 w 1)) := by unfold decC29; rw [e2]; try rfl
  rw [f1, f2]
  have e3 : bv 5 w 17 = rd := by apply BitVec.eq_of_toNat_eq; simp only [bv, BitVec.toNat_ofNat, Nat.reducePow]; omega
  have e4 : bv 5 w 12 = ra := by apply BitVec.eq_of_toNat_eq; simp only [bv, BitVec.toNat_ofNat, Nat.reducePow]; omega
  have e5 : bv 5 w 7 = rb := by apply BitVec.eq_of_toNat_eq; simp only [bv, BitVec.toNat_ofNat, Nat.reducePow]; omega
  have e6 : bv 2 w 1 = o := by apply BitVec.eq_of_toNat_eq; simp only [bv, BitVec.toNat_ofNat, Nat.reducePow]; omega
  rw [e3, e4, e5, e6]
theorem ldxI32 (rd : GReg) (ra : GReg) (rb : GReg) (o : BitVec 2) : Statement (.ldxI32 rd ra rb o) := by
  refine ⟨fun _ hw lone hl stl hn x hx => ?_, fun h => Bool.noConfusion (show false = true from h)⟩
  have h_rd := rd.isLt
  have h_ra := ra.isLt
  have h_rb := rb.isLt
  have h_o := o.isLt
  rw [show encodeC (.ldxI32 rd ra rb o) = 121634816 + 32 + rd.toNat * 131072 + ra.toNat * 4096 + rb.toNat * 128 + o.toNat * 2 from rfl]
  obtain ⟨w, hW⟩ : ∃ w, w = 121634816 + 32 + rd.toNat * 131072 + ra.toNat * 4096 + rb.toNat * 128 + o.toNat * 2 + stl * 268435456 + lone.toNat * 2147483648 := ⟨_, rfl⟩
  rw [← hW]
  have h_l := lone.toNat_lt
  have e1 : fld w 27 22 = 29 := by simp only [fld, Nat.reducePow, Nat.reduceSub, Nat.reduceAdd]; omega
  have f1 : decodeC w x = decC29 w := by unfold decodeC; rw [e1]; try rfl
  have e2 : fld w 6 3 = 4 := by simp only [fld, Nat.reducePow, Nat.reduceSub, Nat.reduceAdd]; omega
  have f2 : decC29 w = .instr (.ldxI32 (bv 5 w 17) (bv 5 w 12) (bv 5 w 7) (bv 2 w 1)) := by unfold decC29; rw [e2]; try rfl
  rw [f1, f2]
  have e3 : bv 5 w 17 = rd := by apply BitVec.eq_of_toNat_eq; simp only [bv, BitVec.toNat_ofNat, Nat.reducePow]; omega
  have e4 : bv 5 w 12 = ra := by apply BitVec.eq_of_toNat_eq; simp only [bv, BitVec.toNat_ofNat, Nat.reducePow]; omega
  have e5 : bv 5 w 7 = rb := by apply BitVec.eq_of_toNat_eq; simp only [bv, BitVec.toNat_ofNat, Nat.reducePow]; omega
  have e6 : bv 2 w 1 = o := by apply BitVec.eq_of_toNat_eq; simp only [bv, BitVec.toNat_ofNat, Nat.reducePow]; omega
  rw [e3, e4, e5, e6]
theorem ldxN32 (rd : GReg) (ra : GReg) (rb : GReg) (o : BitVec 2) : Statement (.ldxN32 rd ra rb o) := by
  refine ⟨fun _ hw lone hl stl hn x hx => ?_, fun h => Bool.noConfusion (show false = true from h)⟩
  have h_rd := rd.isLt
  have h_ra := ra.isLt
  have h_rb := rb.isLt
  have h_o := o.isLt
  rw [show encodeC (.ldxN32 rd ra rb o) = 121634816 + 40 + rd.toNat * 131072 + ra.toNat * 4096 + rb.toNat * 128 + o.toNat * 2 from rfl]
  obtain ⟨w, hW⟩ : ∃ w, w = 121634816 + 40 + rd.toNat * 131072 + ra.toNat * 4096 + rb.toNat * 128 + o.toNat * 2 + stl * 268435456 + lone.toNat * 2147483648 := ⟨_, rfl⟩
  rw [← hW]
  have h_l := lone.toNat_lt
  have e1 : fld w 27 22 = 29 := by simp only [fld, Nat.reducePow, Nat.reduceSub, Nat.reduceAdd]; omega
  have f1 : decodeC w x = decC29 w := by unfold decodeC; rw [e1]; try rfl
  have e2 : fld w 6 3 = 5 := by simp only [fld, Nat.reducePow, Nat.reduceSub, Nat.reduceAdd]; omega
  have f2 : decC29 w = .instr (.ldxN32 (bv 5 w 17) (bv 5 w 12) (bv 5 w 7) (bv 2 w 1)) := by unfold decC29; rw [e2]; try rfl
  rw [f1, f2]
  have e3 : bv 5 w 17 = rd := by apply BitVec.eq_of_toNat_eq; simp only [bv, BitVec.toNat_ofNat, Nat.reducePow]; omega
  have e4 : bv 5 w 12 = ra := by apply BitVec.eq_of_toNat_eq; simp only [bv, BitVec.toNat_ofNat, Nat.reducePow]; omega
  have e5 : bv 5 w 7 = rb := by apply BitVec.eq_of_toNat_eq; simp only [bv, BitVec.toNat_ofNat, Nat.reducePow]; omega
  have e6 : bv 2 w 1 = o := by apply BitVec.eq_of_toNat_eq; simp only [bv, BitVec.toNat_ofNat, Nat.reducePow]; omega
  rw [e3, e4, e5, e6]
theorem ldxD (rd : GReg) (ra : GReg) (rb : GReg) (o : BitVec 2) : Statement (.ldxD rd ra rb o) := by
  refine ⟨fun _ hw lone hl stl hn x hx => ?_, fun h => Bool.noConfusion (show false = true from h)⟩
  have h_rd := rd.isLt
  have h_ra := ra.isLt
  have h_rb := rb.isLt
  have h_o := o.isLt
  rw [show encodeC (.ldxD rd ra rb o) = 121634816 + 48 + rd.toNat * 131072 + ra.toNat * 4096 + rb.toNat * 128 + o.toNat * 2 from rfl]
  obtain ⟨w, hW⟩ : ∃ w, w = 121634816 + 48 + rd.toNat * 131072 + ra.toNat * 4096 + rb.toNat * 128 + o.toNat * 2 + stl * 268435456 + lone.toNat * 2147483648 := ⟨_, rfl⟩
  rw [← hW]
  have h_l := lone.toNat_lt
  have e1 : fld w 27 22 = 29 := by simp only [fld, Nat.reducePow, Nat.reduceSub, Nat.reduceAdd]; omega
  have f1 : decodeC w x = decC29 w := by unfold decodeC; rw [e1]; try rfl
  have e2 : fld w 6 3 = 6 := by simp only [fld, Nat.reducePow, Nat.reduceSub, Nat.reduceAdd]; omega
  have f2 : decC29 w = .instr (.ldxD (bv 5 w 17) (bv 5 w 12) (bv 5 w 7) (bv 2 w 1)) := by unfold decC29; rw [e2]; try rfl
  rw [f1, f2]
  have e3 : bv 5 w 17 = rd := by apply BitVec.eq_of_toNat_eq; simp only [bv, BitVec.toNat_ofNat, Nat.reducePow]; omega
  have e4 : bv 5 w 12 = ra := by apply BitVec.eq_of_toNat_eq; simp only [bv, BitVec.toNat_ofNat, Nat.reducePow]; omega
  have e5 : bv 5 w 7 = rb := by apply BitVec.eq_of_toNat_eq; simp only [bv, BitVec.toNat_ofNat, Nat.reducePow]; omega
  have e6 : bv 2 w 1 = o := by apply BitVec.eq_of_toNat_eq; simp only [bv, BitVec.toNat_ofNat, Nat.reducePow]; omega
  rw [e3, e4, e5, e6]
theorem stxB (rs : GReg) (ra : GReg) (rb : GReg) (o : BitVec 2) : Statement (.stxB rs ra rb o) := by
  refine ⟨fun _ hw lone hl stl hn x hx => ?_, fun h => Bool.noConfusion (show false = true from h)⟩
  have h_rs := rs.isLt
  have h_ra := ra.isLt
  have h_rb := rb.isLt
  have h_o := o.isLt
  rw [show encodeC (.stxB rs ra rb o) = 121634816 + 64 + rs.toNat * 131072 + ra.toNat * 4096 + rb.toNat * 128 + o.toNat * 2 from rfl]
  obtain ⟨w, hW⟩ : ∃ w, w = 121634816 + 64 + rs.toNat * 131072 + ra.toNat * 4096 + rb.toNat * 128 + o.toNat * 2 + stl * 268435456 + lone.toNat * 2147483648 := ⟨_, rfl⟩
  rw [← hW]
  have h_l := lone.toNat_lt
  have e1 : fld w 27 22 = 29 := by simp only [fld, Nat.reducePow, Nat.reduceSub, Nat.reduceAdd]; omega
  have f1 : decodeC w x = decC29 w := by unfold decodeC; rw [e1]; try rfl
  have e2 : fld w 6 3 = 8 := by simp only [fld, Nat.reducePow, Nat.reduceSub, Nat.reduceAdd]; omega
  have f2 : decC29 w = .instr (.stxB (bv 5 w 17) (bv 5 w 12) (bv 5 w 7) (bv 2 w 1)) := by unfold decC29; rw [e2]; try rfl
  rw [f1, f2]
  have e3 : bv 5 w 17 = rs := by apply BitVec.eq_of_toNat_eq; simp only [bv, BitVec.toNat_ofNat, Nat.reducePow]; omega
  have e4 : bv 5 w 12 = ra := by apply BitVec.eq_of_toNat_eq; simp only [bv, BitVec.toNat_ofNat, Nat.reducePow]; omega
  have e5 : bv 5 w 7 = rb := by apply BitVec.eq_of_toNat_eq; simp only [bv, BitVec.toNat_ofNat, Nat.reducePow]; omega
  have e6 : bv 2 w 1 = o := by apply BitVec.eq_of_toNat_eq; simp only [bv, BitVec.toNat_ofNat, Nat.reducePow]; omega
  rw [e3, e4, e5, e6]
theorem stxH (rs : GReg) (ra : GReg) (rb : GReg) (o : BitVec 2) : Statement (.stxH rs ra rb o) := by
  refine ⟨fun _ hw lone hl stl hn x hx => ?_, fun h => Bool.noConfusion (show false = true from h)⟩
  have h_rs := rs.isLt
  have h_ra := ra.isLt
  have h_rb := rb.isLt
  have h_o := o.isLt
  rw [show encodeC (.stxH rs ra rb o) = 121634816 + 72 + rs.toNat * 131072 + ra.toNat * 4096 + rb.toNat * 128 + o.toNat * 2 from rfl]
  obtain ⟨w, hW⟩ : ∃ w, w = 121634816 + 72 + rs.toNat * 131072 + ra.toNat * 4096 + rb.toNat * 128 + o.toNat * 2 + stl * 268435456 + lone.toNat * 2147483648 := ⟨_, rfl⟩
  rw [← hW]
  have h_l := lone.toNat_lt
  have e1 : fld w 27 22 = 29 := by simp only [fld, Nat.reducePow, Nat.reduceSub, Nat.reduceAdd]; omega
  have f1 : decodeC w x = decC29 w := by unfold decodeC; rw [e1]; try rfl
  have e2 : fld w 6 3 = 9 := by simp only [fld, Nat.reducePow, Nat.reduceSub, Nat.reduceAdd]; omega
  have f2 : decC29 w = .instr (.stxH (bv 5 w 17) (bv 5 w 12) (bv 5 w 7) (bv 2 w 1)) := by unfold decC29; rw [e2]; try rfl
  rw [f1, f2]
  have e3 : bv 5 w 17 = rs := by apply BitVec.eq_of_toNat_eq; simp only [bv, BitVec.toNat_ofNat, Nat.reducePow]; omega
  have e4 : bv 5 w 12 = ra := by apply BitVec.eq_of_toNat_eq; simp only [bv, BitVec.toNat_ofNat, Nat.reducePow]; omega
  have e5 : bv 5 w 7 = rb := by apply BitVec.eq_of_toNat_eq; simp only [bv, BitVec.toNat_ofNat, Nat.reducePow]; omega
  have e6 : bv 2 w 1 = o := by apply BitVec.eq_of_toNat_eq; simp only [bv, BitVec.toNat_ofNat, Nat.reducePow]; omega
  rw [e3, e4, e5, e6]
theorem stxW (rs : GReg) (ra : GReg) (rb : GReg) (o : BitVec 2) : Statement (.stxW rs ra rb o) := by
  refine ⟨fun _ hw lone hl stl hn x hx => ?_, fun h => Bool.noConfusion (show false = true from h)⟩
  have h_rs := rs.isLt
  have h_ra := ra.isLt
  have h_rb := rb.isLt
  have h_o := o.isLt
  rw [show encodeC (.stxW rs ra rb o) = 121634816 + 80 + rs.toNat * 131072 + ra.toNat * 4096 + rb.toNat * 128 + o.toNat * 2 from rfl]
  obtain ⟨w, hW⟩ : ∃ w, w = 121634816 + 80 + rs.toNat * 131072 + ra.toNat * 4096 + rb.toNat * 128 + o.toNat * 2 + stl * 268435456 + lone.toNat * 2147483648 := ⟨_, rfl⟩
  rw [← hW]
  have h_l := lone.toNat_lt
  have e1 : fld w 27 22 = 29 := by simp only [fld, Nat.reducePow, Nat.reduceSub, Nat.reduceAdd]; omega
  have f1 : decodeC w x = decC29 w := by unfold decodeC; rw [e1]; try rfl
  have e2 : fld w 6 3 = 10 := by simp only [fld, Nat.reducePow, Nat.reduceSub, Nat.reduceAdd]; omega
  have f2 : decC29 w = .instr (.stxW (bv 5 w 17) (bv 5 w 12) (bv 5 w 7) (bv 2 w 1)) := by unfold decC29; rw [e2]; try rfl
  rw [f1, f2]
  have e3 : bv 5 w 17 = rs := by apply BitVec.eq_of_toNat_eq; simp only [bv, BitVec.toNat_ofNat, Nat.reducePow]; omega
  have e4 : bv 5 w 12 = ra := by apply BitVec.eq_of_toNat_eq; simp only [bv, BitVec.toNat_ofNat, Nat.reducePow]; omega
  have e5 : bv 5 w 7 = rb := by apply BitVec.eq_of_toNat_eq; simp only [bv, BitVec.toNat_ofNat, Nat.reducePow]; omega
  have e6 : bv 2 w 1 = o := by apply BitVec.eq_of_toNat_eq; simp only [bv, BitVec.toNat_ofNat, Nat.reducePow]; omega
  rw [e3, e4, e5, e6]
theorem stxD (rs : GReg) (ra : GReg) (rb : GReg) (o : BitVec 2) : Statement (.stxD rs ra rb o) := by
  refine ⟨fun _ hw lone hl stl hn x hx => ?_, fun h => Bool.noConfusion (show false = true from h)⟩
  have h_rs := rs.isLt
  have h_ra := ra.isLt
  have h_rb := rb.isLt
  have h_o := o.isLt
  rw [show encodeC (.stxD rs ra rb o) = 121634816 + 88 + rs.toNat * 131072 + ra.toNat * 4096 + rb.toNat * 128 + o.toNat * 2 from rfl]
  obtain ⟨w, hW⟩ : ∃ w, w = 121634816 + 88 + rs.toNat * 131072 + ra.toNat * 4096 + rb.toNat * 128 + o.toNat * 2 + stl * 268435456 + lone.toNat * 2147483648 := ⟨_, rfl⟩
  rw [← hW]
  have h_l := lone.toNat_lt
  have e1 : fld w 27 22 = 29 := by simp only [fld, Nat.reducePow, Nat.reduceSub, Nat.reduceAdd]; omega
  have f1 : decodeC w x = decC29 w := by unfold decodeC; rw [e1]; try rfl
  have e2 : fld w 6 3 = 11 := by simp only [fld, Nat.reducePow, Nat.reduceSub, Nat.reduceAdd]; omega
  have f2 : decC29 w = .instr (.stxD (bv 5 w 17) (bv 5 w 12) (bv 5 w 7) (bv 2 w 1)) := by unfold decC29; rw [e2]; try rfl
  rw [f1, f2]
  have e3 : bv 5 w 17 = rs := by apply BitVec.eq_of_toNat_eq; simp only [bv, BitVec.toNat_ofNat, Nat.reducePow]; omega
  have e4 : bv 5 w 12 = ra := by apply BitVec.eq_of_toNat_eq; simp only [bv, BitVec.toNat_ofNat, Nat.reducePow]; omega
  have e5 : bv 5 w 7 = rb := by apply BitVec.eq_of_toNat_eq; simp only [bv, BitVec.toNat_ofNat, Nat.reducePow]; omega
  have e6 : bv 2 w 1 = o := by apply BitVec.eq_of_toNat_eq; simp only [bv, BitVec.toNat_ofNat, Nat.reducePow]; omega
  rw [e3, e4, e5, e6]
theorem vld (vd : VReg) (ra : GReg) (o : BitVec 2) (sc : BitVec 3) (off : Option (BitVec 32)) : Statement (.vld vd ra o sc off) := by
  refine ⟨fun _ hw lone hl stl hn x hx => ?_, fun h => Bool.noConfusion (show false = true from h)⟩
  have h_vd := vd.isLt
  have h_ra := ra.isLt
  have h_o := o.isLt
  have h_sc := sc.isLt
  cases off with
  | none =>
    obtain rfl : lone = false := by cases lone <;> first | rfl | exact Bool.noConfusion (show false = true from hl)
    rw [show encodeC (.vld vd ra o sc none) = 125829120 + vd.toNat * 262144 + ra.toNat * 8192 + o.toNat * 64 + sc.toNat * 8 from rfl]
    rw [show Bool.toNat false = 0 from rfl]
    obtain ⟨w, hW⟩ : ∃ w, w = 125829120 + vd.toNat * 262144 + ra.toNat * 8192 + o.toNat * 64 + sc.toNat * 8 + stl * 268435456 + 0 * 2147483648 := ⟨_, rfl⟩
    rw [← hW]
    have e1 : fld w 27 22 = 30 := by simp only [fld, Nat.reducePow, Nat.reduceSub, Nat.reduceAdd]; omega
    have f1 : decodeC w x = .instr (.vld (bv 4 w 18) (bv 5 w 13) (bv 2 w 6) (bv 3 w 3) (offX w x)) := by unfold decodeC; rw [e1]; try rfl
    rw [f1]
    have e3 : fld w 31 31 = 0 := by simp only [fld, Nat.reducePow, Nat.reduceSub, Nat.reduceAdd]; omega
    have e2 : loneBit w = false := by unfold loneBit; rw [e3]; rfl
    have ei : offX w x = none := by unfold offX; rw [e2]; rfl
    have e4 : bv 4 w 18 = vd := by apply BitVec.eq_of_toNat_eq; simp only [bv, BitVec.toNat_ofNat, Nat.reducePow]; omega
    have e5 : bv 5 w 13 = ra := by apply BitVec.eq_of_toNat_eq; simp only [bv, BitVec.toNat_ofNat, Nat.reducePow]; omega
    have e6 : bv 2 w 6 = o := by apply BitVec.eq_of_toNat_eq; simp only [bv, BitVec.toNat_ofNat, Nat.reducePow]; omega
    have e7 : bv 3 w 3 = sc := by apply BitVec.eq_of_toNat_eq; simp only [bv, BitVec.toNat_ofNat, Nat.reducePow]; omega
    rw [e4, e5, e6, e7, ei]
  | some off =>
    have h_off := off.isLt
    obtain rfl : lone = true := by cases lone <;> first | rfl | exact Bool.noConfusion (show false = true from hl)
    replace hx : x = off.toNat := hx rfl
    rw [show encodeC (.vld vd ra o sc (some off)) = 125829120 + vd.toNat * 262144 + ra.toNat * 8192 + o.toNat * 64 + sc.toNat * 8 from rfl]
    rw [show Bool.toNat true = 1 from rfl]
    obtain ⟨w, hW⟩ : ∃ w, w = 125829120 + vd.toNat * 262144 + ra.toNat * 8192 + o.toNat * 64 + sc.toNat * 8 + stl * 268435456 + 1 * 2147483648 := ⟨_, rfl⟩
    rw [← hW]
    have e1 : fld w 27 22 = 30 := by simp only [fld, Nat.reducePow, Nat.reduceSub, Nat.reduceAdd]; omega
    have f1 : decodeC w x = .instr (.vld (bv 4 w 18) (bv 5 w 13) (bv 2 w 6) (bv 3 w 3) (offX w x)) := by unfold decodeC; rw [e1]; try rfl
    rw [f1]
    have e3 : fld w 31 31 = 1 := by simp only [fld, Nat.reducePow, Nat.reduceSub, Nat.reduceAdd]; omega
    have e2 : loneBit w = true := by unfold loneBit; rw [e3]; rfl
    have e4 : bv 32 x 0 = off := by apply BitVec.eq_of_toNat_eq; simp only [bv, BitVec.toNat_ofNat, Nat.reducePow]; omega
    have ei : offX w x = some off := by unfold offX; rw [e2, e4]; rfl
    have e5 : bv 4 w 18 = vd := by apply BitVec.eq_of_toNat_eq; simp only [bv, BitVec.toNat_ofNat, Nat.reducePow]; omega
    have e6 : bv 5 w 13 = ra := by apply BitVec.eq_of_toNat_eq; simp only [bv, BitVec.toNat_ofNat, Nat.reducePow]; omega
    have e7 : bv 2 w 6 = o := by apply BitVec.eq_of_toNat_eq; simp only [bv, BitVec.toNat_ofNat, Nat.reducePow]; omega
    have e8 : bv 3 w 3 = sc := by apply BitVec.eq_of_toNat_eq; simp only [bv, BitVec.toNat_ofNat, Nat.reducePow]; omega
    rw [e5, e6, e7, e8, ei]
theorem vst (vs : VReg) (ra : GReg) (o : BitVec 2) (sc : BitVec 3) (off : Option (BitVec 32)) : Statement (.vst vs ra o sc off) := by
  refine ⟨fun _ hw lone hl stl hn x hx => ?_, fun h => Bool.noConfusion (show false = true from h)⟩
  have h_vs := vs.isLt
  have h_ra := ra.isLt
  have h_o := o.isLt
  have h_sc := sc.isLt
  cases off with
  | none =>
    obtain rfl : lone = false := by cases lone <;> first | rfl | exact Bool.noConfusion (show false = true from hl)
    rw [show encodeC (.vst vs ra o sc none) = 130023424 + vs.toNat * 262144 + ra.toNat * 8192 + o.toNat * 64 + sc.toNat * 8 from rfl]
    rw [show Bool.toNat false = 0 from rfl]
    obtain ⟨w, hW⟩ : ∃ w, w = 130023424 + vs.toNat * 262144 + ra.toNat * 8192 + o.toNat * 64 + sc.toNat * 8 + stl * 268435456 + 0 * 2147483648 := ⟨_, rfl⟩
    rw [← hW]
    have e1 : fld w 27 22 = 31 := by simp only [fld, Nat.reducePow, Nat.reduceSub, Nat.reduceAdd]; omega
    have f1 : decodeC w x = .instr (.vst (bv 4 w 18) (bv 5 w 13) (bv 2 w 6) (bv 3 w 3) (offX w x)) := by unfold decodeC; rw [e1]; try rfl
    rw [f1]
    have e3 : fld w 31 31 = 0 := by simp only [fld, Nat.reducePow, Nat.reduceSub, Nat.reduceAdd]; omega
    have e2 : loneBit w = false := by unfold loneBit; rw [e3]; rfl
    have ei : offX w x = none := by unfold offX; rw [e2]; rfl
    have e4 : bv 4 w 18 = vs := by apply BitVec.eq_of_toNat_eq; simp only [bv, BitVec.toNat_ofNat, Nat.reducePow]; omega
    have e5 : bv 5 w 13 = ra := by apply BitVec.eq_of_toNat_eq; simp only [bv, BitVec.toNat_ofNat, Nat.reducePow]; omega
    have e6 : bv 2 w 6 = o := by apply BitVec.eq_of_toNat_eq; simp only [bv, BitVec.toNat_ofNat, Nat.reducePow]; omega
    have e7 : bv 3 w 3 = sc := by apply BitVec.eq_of_toNat_eq; simp only [bv, BitVec.toNat_ofNat, Nat.reducePow]; omega
    rw [e4, e5, e6, e7, ei]
  | some off =>
    have h_off := off.isLt
    obtain rfl : lone = true := by cases lone <;> first | rfl | exact Bool.noConfusion (show false = true from hl)
    replace hx : x = off.toNat := hx rfl
    rw [show encodeC (.vst vs ra o sc (some off)) = 130023424 + vs.toNat * 262144 + ra.toNat * 8192 + o.toNat * 64 + sc.toNat * 8 from rfl]
    rw [show Bool.toNat true = 1 from rfl]
    obtain ⟨w, hW⟩ : ∃ w, w = 130023424 + vs.toNat * 262144 + ra.toNat * 8192 + o.toNat * 64 + sc.toNat * 8 + stl * 268435456 + 1 * 2147483648 := ⟨_, rfl⟩
    rw [← hW]
    have e1 : fld w 27 22 = 31 := by simp only [fld, Nat.reducePow, Nat.reduceSub, Nat.reduceAdd]; omega
    have f1 : decodeC w x = .instr (.vst (bv 4 w 18) (bv 5 w 13) (bv 2 w 6) (bv 3 w 3) (offX w x)) := by unfold decodeC; rw [e1]; try rfl
    rw [f1]
    have e3 : fld w 31 31 = 1 := by simp only [fld, Nat.reducePow, Nat.reduceSub, Nat.reduceAdd]; omega
    have e2 : loneBit w = true := by unfold loneBit; rw [e3]; rfl
    have e4 : bv 32 x 0 = off := by apply BitVec.eq_of_toNat_eq; simp only [bv, BitVec.toNat_ofNat, Nat.reducePow]; omega
    have ei : offX w x = some off := by unfold offX; rw [e2, e4]; rfl
    have e5 : bv 4 w 18 = vs := by apply BitVec.eq_of_toNat_eq; simp only [bv, BitVec.toNat_ofNat, Nat.reducePow]; omega
    have e6 : bv 5 w 13 = ra := by apply BitVec.eq_of_toNat_eq; simp only [bv, BitVec.toNat_ofNat, Nat.reducePow]; omega
    have e7 : bv 2 w 6 = o := by apply BitVec.eq_of_toNat_eq; simp only [bv, BitVec.toNat_ofNat, Nat.reducePow]; omega
    have e8 : bv 3 w 3 = sc := by apply BitVec.eq_of_toNat_eq; simp only [bv, BitVec.toNat_ofNat, Nat.reducePow]; omega
    rw [e5, e6, e7, e8, ei]
theorem vldm (vd : VReg) (ra : GReg) (vm : VReg) (o : BitVec 2) (sc : BitVec 3) (off : Option (BitVec 32)) : Statement (.vldm vd ra vm o sc off) := by
  refine ⟨fun _ hw lone hl stl hn x hx => ?_, fun h => Bool.noConfusion (show false = true from h)⟩
  have h_vd := vd.isLt
  have h_ra := ra.isLt
  have h_vm := vm.isLt
  have h_o := o.isLt
  have h_sc := sc.isLt
  cases off with
  | none =>
    obtain rfl : lone = false := by cases lone <;> first | rfl | exact Bool.noConfusion (show false = true from hl)
    rw [show encodeC (.vldm vd ra vm o sc none) = 134217728 + vd.toNat * 262144 + ra.toNat * 8192 + vm.toNat * 256 + o.toNat * 64 + sc.toNat * 8 from rfl]
    rw [show Bool.toNat false = 0 from rfl]
    obtain ⟨w, hW⟩ : ∃ w, w = 134217728 + vd.toNat * 262144 + ra.toNat * 8192 + vm.toNat * 256 + o.toNat * 64 + sc.toNat * 8 + stl * 268435456 + 0 * 2147483648 := ⟨_, rfl⟩
    rw [← hW]
    have e1 : fld w 27 22 = 32 := by simp only [fld, Nat.reducePow, Nat.reduceSub, Nat.reduceAdd]; omega
    have f1 : decodeC w x = .instr (.vldm (bv 4 w 18) (bv 5 w 13) (bv 4 w 8) (bv 2 w 6) (bv 3 w 3) (offX w x)) := by unfold decodeC; rw [e1]; try rfl
    rw [f1]
    have e3 : fld w 31 31 = 0 := by simp only [fld, Nat.reducePow, Nat.reduceSub, Nat.reduceAdd]; omega
    have e2 : loneBit w = false := by unfold loneBit; rw [e3]; rfl
    have ei : offX w x = none := by unfold offX; rw [e2]; rfl
    have e4 : bv 4 w 18 = vd := by apply BitVec.eq_of_toNat_eq; simp only [bv, BitVec.toNat_ofNat, Nat.reducePow]; omega
    have e5 : bv 5 w 13 = ra := by apply BitVec.eq_of_toNat_eq; simp only [bv, BitVec.toNat_ofNat, Nat.reducePow]; omega
    have e6 : bv 4 w 8 = vm := by apply BitVec.eq_of_toNat_eq; simp only [bv, BitVec.toNat_ofNat, Nat.reducePow]; omega
    have e7 : bv 2 w 6 = o := by apply BitVec.eq_of_toNat_eq; simp only [bv, BitVec.toNat_ofNat, Nat.reducePow]; omega
    have e8 : bv 3 w 3 = sc := by apply BitVec.eq_of_toNat_eq; simp only [bv, BitVec.toNat_ofNat, Nat.reducePow]; omega
    rw [e4, e5, e6, e7, e8, ei]
  | some off =>
    have h_off := off.isLt
    obtain rfl : lone = true := by cases lone <;> first | rfl | exact Bool.noConfusion (show false = true from hl)
    replace hx : x = off.toNat := hx rfl
    rw [show encodeC (.vldm vd ra vm o sc (some off)) = 134217728 + vd.toNat * 262144 + ra.toNat * 8192 + vm.toNat * 256 + o.toNat * 64 + sc.toNat * 8 from rfl]
    rw [show Bool.toNat true = 1 from rfl]
    obtain ⟨w, hW⟩ : ∃ w, w = 134217728 + vd.toNat * 262144 + ra.toNat * 8192 + vm.toNat * 256 + o.toNat * 64 + sc.toNat * 8 + stl * 268435456 + 1 * 2147483648 := ⟨_, rfl⟩
    rw [← hW]
    have e1 : fld w 27 22 = 32 := by simp only [fld, Nat.reducePow, Nat.reduceSub, Nat.reduceAdd]; omega
    have f1 : decodeC w x = .instr (.vldm (bv 4 w 18) (bv 5 w 13) (bv 4 w 8) (bv 2 w 6) (bv 3 w 3) (offX w x)) := by unfold decodeC; rw [e1]; try rfl
    rw [f1]
    have e3 : fld w 31 31 = 1 := by simp only [fld, Nat.reducePow, Nat.reduceSub, Nat.reduceAdd]; omega
    have e2 : loneBit w = true := by unfold loneBit; rw [e3]; rfl
    have e4 : bv 32 x 0 = off := by apply BitVec.eq_of_toNat_eq; simp only [bv, BitVec.toNat_ofNat, Nat.reducePow]; omega
    have ei : offX w x = some off := by unfold offX; rw [e2, e4]; rfl
    have e5 : bv 4 w 18 = vd := by apply BitVec.eq_of_toNat_eq; simp only [bv, BitVec.toNat_ofNat, Nat.reducePow]; omega
    have e6 : bv 5 w 13 = ra := by apply BitVec.eq_of_toNat_eq; simp only [bv, BitVec.toNat_ofNat, Nat.reducePow]; omega
    have e7 : bv 4 w 8 = vm := by apply BitVec.eq_of_toNat_eq; simp only [bv, BitVec.toNat_ofNat, Nat.reducePow]; omega
    have e8 : bv 2 w 6 = o := by apply BitVec.eq_of_toNat_eq; simp only [bv, BitVec.toNat_ofNat, Nat.reducePow]; omega
    have e9 : bv 3 w 3 = sc := by apply BitVec.eq_of_toNat_eq; simp only [bv, BitVec.toNat_ofNat, Nat.reducePow]; omega
    rw [e5, e6, e7, e8, e9, ei]
theorem vstm (vs : VReg) (ra : GReg) (vm : VReg) (o : BitVec 2) (sc : BitVec 3) (off : Option (BitVec 32)) : Statement (.vstm vs ra vm o sc off) := by
  refine ⟨fun _ hw lone hl stl hn x hx => ?_, fun h => Bool.noConfusion (show false = true from h)⟩
  have h_vs := vs.isLt
  have h_ra := ra.isLt
  have h_vm := vm.isLt
  have h_o := o.isLt
  have h_sc := sc.isLt
  cases off with
  | none =>
    obtain rfl : lone = false := by cases lone <;> first | rfl | exact Bool.noConfusion (show false = true from hl)
    rw [show encodeC (.vstm vs ra vm o sc none) = 138412032 + vs.toNat * 262144 + ra.toNat * 8192 + vm.toNat * 256 + o.toNat * 64 + sc.toNat * 8 from rfl]
    rw [show Bool.toNat false = 0 from rfl]
    obtain ⟨w, hW⟩ : ∃ w, w = 138412032 + vs.toNat * 262144 + ra.toNat * 8192 + vm.toNat * 256 + o.toNat * 64 + sc.toNat * 8 + stl * 268435456 + 0 * 2147483648 := ⟨_, rfl⟩
    rw [← hW]
    have e1 : fld w 27 22 = 33 := by simp only [fld, Nat.reducePow, Nat.reduceSub, Nat.reduceAdd]; omega
    have f1 : decodeC w x = .instr (.vstm (bv 4 w 18) (bv 5 w 13) (bv 4 w 8) (bv 2 w 6) (bv 3 w 3) (offX w x)) := by unfold decodeC; rw [e1]; try rfl
    rw [f1]
    have e3 : fld w 31 31 = 0 := by simp only [fld, Nat.reducePow, Nat.reduceSub, Nat.reduceAdd]; omega
    have e2 : loneBit w = false := by unfold loneBit; rw [e3]; rfl
    have ei : offX w x = none := by unfold offX; rw [e2]; rfl
    have e4 : bv 4 w 18 = vs := by apply BitVec.eq_of_toNat_eq; simp only [bv, BitVec.toNat_ofNat, Nat.reducePow]; omega
    have e5 : bv 5 w 13 = ra := by apply BitVec.eq_of_toNat_eq; simp only [bv, BitVec.toNat_ofNat, Nat.reducePow]; omega
    have e6 : bv 4 w 8 = vm := by apply BitVec.eq_of_toNat_eq; simp only [bv, BitVec.toNat_ofNat, Nat.reducePow]; omega
    have e7 : bv 2 w 6 = o := by apply BitVec.eq_of_toNat_eq; simp only [bv, BitVec.toNat_ofNat, Nat.reducePow]; omega
    have e8 : bv 3 w 3 = sc := by apply BitVec.eq_of_toNat_eq; simp only [bv, BitVec.toNat_ofNat, Nat.reducePow]; omega
    rw [e4, e5, e6, e7, e8, ei]
  | some off =>
    have h_off := off.isLt
    obtain rfl : lone = true := by cases lone <;> first | rfl | exact Bool.noConfusion (show false = true from hl)
    replace hx : x = off.toNat := hx rfl
    rw [show encodeC (.vstm vs ra vm o sc (some off)) = 138412032 + vs.toNat * 262144 + ra.toNat * 8192 + vm.toNat * 256 + o.toNat * 64 + sc.toNat * 8 from rfl]
    rw [show Bool.toNat true = 1 from rfl]
    obtain ⟨w, hW⟩ : ∃ w, w = 138412032 + vs.toNat * 262144 + ra.toNat * 8192 + vm.toNat * 256 + o.toNat * 64 + sc.toNat * 8 + stl * 268435456 + 1 * 2147483648 := ⟨_, rfl⟩
    rw [← hW]
    have e1 : fld w 27 22 = 33 := by simp only [fld, Nat.reducePow, Nat.reduceSub, Nat.reduceAdd]; omega
    have f1 : decodeC w x = .instr (.vstm (bv 4 w 18) (bv 5 w 13) (bv 4 w 8) (bv 2 w 6) (bv 3 w 3) (offX w x)) := by unfold decodeC; rw [e1]; try rfl
    rw [f1]
    have e3 : fld w 31 31 = 1 := by simp only [fld, Nat.reducePow, Nat.reduceSub, Nat.reduceAdd]; omega
    have e2 : loneBit w = true := by unfold loneBit; rw [e3]; rfl
    have e4 : bv 32 x 0 = off := by apply BitVec.eq_of_toNat_eq; simp only [bv, BitVec.toNat_ofNat, Nat.reducePow]; omega
    have ei : offX w x = some off := by unfold offX; rw [e2, e4]; rfl
    have e5 : bv 4 w 18 = vs := by apply BitVec.eq_of_toNat_eq; simp only [bv, BitVec.toNat_ofNat, Nat.reducePow]; omega
    have e6 : bv 5 w 13 = ra := by apply BitVec.eq_of_toNat_eq; simp only [bv, BitVec.toNat_ofNat, Nat.reducePow]; omega
    have e7 : bv 4 w 8 = vm := by apply BitVec.eq_of_toNat_eq; simp only [bv, BitVec.toNat_ofNat, Nat.reducePow]; omega
    have e8 : bv 2 w 6 = o := by apply BitVec.eq_of_toNat_eq; simp only [bv, BitVec.toNat_ofNat, Nat.reducePow]; omega
    have e9 : bv 3 w 3 = sc := by apply BitVec.eq_of_toNat_eq; simp only [bv, BitVec.toNat_ofNat, Nat.reducePow]; omega
    rw [e5, e6, e7, e8, e9, ei]
theorem vldt (vd : VReg) (ra : GReg) (gt : GReg) (o : BitVec 2) (sc : BitVec 3) (off : Option (BitVec 32)) : Statement (.vldt vd ra gt o sc off) := by
  refine ⟨fun _ hw lone hl stl hn x hx => ?_, fun h => Bool.noConfusion (show false = true from h)⟩
  have h_vd := vd.isLt
  have h_ra := ra.isLt
  have h_gt := gt.isLt
  have h_o := o.isLt
  have h_sc := sc.isLt
  cases off with
  | none =>
    obtain rfl : lone = false := by cases lone <;> first | rfl | exact Bool.noConfusion (show false = true from hl)
    rw [show encodeC (.vldt vd ra gt o sc none) = 142606336 + vd.toNat * 262144 + ra.toNat * 8192 + gt.toNat * 256 + o.toNat * 64 + sc.toNat * 8 from rfl]
    rw [show Bool.toNat false = 0 from rfl]
    obtain ⟨w, hW⟩ : ∃ w, w = 142606336 + vd.toNat * 262144 + ra.toNat * 8192 + gt.toNat * 256 + o.toNat * 64 + sc.toNat * 8 + stl * 268435456 + 0 * 2147483648 := ⟨_, rfl⟩
    rw [← hW]
    have e1 : fld w 27 22 = 34 := by simp only [fld, Nat.reducePow, Nat.reduceSub, Nat.reduceAdd]; omega
    have f1 : decodeC w x = .instr (.vldt (bv 4 w 18) (bv 5 w 13) (bv 5 w 8) (bv 2 w 6) (bv 3 w 3) (offX w x)) := by unfold decodeC; rw [e1]; try rfl
    rw [f1]
    have e3 : fld w 31 31 = 0 := by simp only [fld, Nat.reducePow, Nat.reduceSub, Nat.reduceAdd]; omega
    have e2 : loneBit w = false := by unfold loneBit; rw [e3]; rfl
    have ei : offX w x = none := by unfold offX; rw [e2]; rfl
    have e4 : bv 4 w 18 = vd := by apply BitVec.eq_of_toNat_eq; simp only [bv, BitVec.toNat_ofNat, Nat.reducePow]; omega
    have e5 : bv 5 w 13 = ra := by apply BitVec.eq_of_toNat_eq; simp only [bv, BitVec.toNat_ofNat, Nat.reducePow]; omega
    have e6 : bv 5 w 8 = gt := by apply BitVec.eq_of_toNat_eq; simp only [bv, BitVec.toNat_ofNat, Nat.reducePow]; omega
    have e7 : bv 2 w 6 = o := by apply BitVec.eq_of_toNat_eq; simp only [bv, BitVec.toNat_ofNat, Nat.reducePow]; omega
    have e8 : bv 3 w 3 = sc := by apply BitVec.eq_of_toNat_eq; simp only [bv, BitVec.toNat_ofNat, Nat.reducePow]; omega
    rw [e4, e5, e6, e7, e8, ei]
  | some off =>
    have h_off := off.isLt
    obtain rfl : lone = true := by cases lone <;> first | rfl | exact Bool.noConfusion (show false = true from hl)
    replace hx : x = off.toNat := hx rfl
    rw [show encodeC (.vldt vd ra gt o sc (some off)) = 142606336 + vd.toNat * 262144 + ra.toNat * 8192 + gt.toNat * 256 + o.toNat * 64 + sc.toNat * 8 from rfl]
    rw [show Bool.toNat true = 1 from rfl]
    obtain ⟨w, hW⟩ : ∃ w, w = 142606336 + vd.toNat * 262144 + ra.toNat * 8192 + gt.toNat * 256 + o.toNat * 64 + sc.toNat * 8 + stl * 268435456 + 1 * 2147483648 := ⟨_, rfl⟩
    rw [← hW]
    have e1 : fld w 27 22 = 34 := by simp only [fld, Nat.reducePow, Nat.reduceSub, Nat.reduceAdd]; omega
    have f1 : decodeC w x = .instr (.vldt (bv 4 w 18) (bv 5 w 13) (bv 5 w 8) (bv 2 w 6) (bv 3 w 3) (offX w x)) := by unfold decodeC; rw [e1]; try rfl
    rw [f1]
    have e3 : fld w 31 31 = 1 := by simp only [fld, Nat.reducePow, Nat.reduceSub, Nat.reduceAdd]; omega
    have e2 : loneBit w = true := by unfold loneBit; rw [e3]; rfl
    have e4 : bv 32 x 0 = off := by apply BitVec.eq_of_toNat_eq; simp only [bv, BitVec.toNat_ofNat, Nat.reducePow]; omega
    have ei : offX w x = some off := by unfold offX; rw [e2, e4]; rfl
    have e5 : bv 4 w 18 = vd := by apply BitVec.eq_of_toNat_eq; simp only [bv, BitVec.toNat_ofNat, Nat.reducePow]; omega
    have e6 : bv 5 w 13 = ra := by apply BitVec.eq_of_toNat_eq; simp only [bv, BitVec.toNat_ofNat, Nat.reducePow]; omega
    have e7 : bv 5 w 8 = gt := by apply BitVec.eq_of_toNat_eq; simp only [bv, BitVec.toNat_ofNat, Nat.reducePow]; omega
    have e8 : bv 2 w 6 = o := by apply BitVec.eq_of_toNat_eq; simp only [bv, BitVec.toNat_ofNat, Nat.reducePow]; omega
    have e9 : bv 3 w 3 = sc := by apply BitVec.eq_of_toNat_eq; simp only [bv, BitVec.toNat_ofNat, Nat.reducePow]; omega
    rw [e5, e6, e7, e8, e9, ei]
theorem vstt (vs : VReg) (ra : GReg) (gt : GReg) (o : BitVec 2) (sc : BitVec 3) (off : Option (BitVec 32)) : Statement (.vstt vs ra gt o sc off) := by
  refine ⟨fun _ hw lone hl stl hn x hx => ?_, fun h => Bool.noConfusion (show false = true from h)⟩
  have h_vs := vs.isLt
  have h_ra := ra.isLt
  have h_gt := gt.isLt
  have h_o := o.isLt
  have h_sc := sc.isLt
  cases off with
  | none =>
    obtain rfl : lone = false := by cases lone <;> first | rfl | exact Bool.noConfusion (show false = true from hl)
    rw [show encodeC (.vstt vs ra gt o sc none) = 146800640 + vs.toNat * 262144 + ra.toNat * 8192 + gt.toNat * 256 + o.toNat * 64 + sc.toNat * 8 from rfl]
    rw [show Bool.toNat false = 0 from rfl]
    obtain ⟨w, hW⟩ : ∃ w, w = 146800640 + vs.toNat * 262144 + ra.toNat * 8192 + gt.toNat * 256 + o.toNat * 64 + sc.toNat * 8 + stl * 268435456 + 0 * 2147483648 := ⟨_, rfl⟩
    rw [← hW]
    have e1 : fld w 27 22 = 35 := by simp only [fld, Nat.reducePow, Nat.reduceSub, Nat.reduceAdd]; omega
    have f1 : decodeC w x = .instr (.vstt (bv 4 w 18) (bv 5 w 13) (bv 5 w 8) (bv 2 w 6) (bv 3 w 3) (offX w x)) := by unfold decodeC; rw [e1]; try rfl
    rw [f1]
    have e3 : fld w 31 31 = 0 := by simp only [fld, Nat.reducePow, Nat.reduceSub, Nat.reduceAdd]; omega
    have e2 : loneBit w = false := by unfold loneBit; rw [e3]; rfl
    have ei : offX w x = none := by unfold offX; rw [e2]; rfl
    have e4 : bv 4 w 18 = vs := by apply BitVec.eq_of_toNat_eq; simp only [bv, BitVec.toNat_ofNat, Nat.reducePow]; omega
    have e5 : bv 5 w 13 = ra := by apply BitVec.eq_of_toNat_eq; simp only [bv, BitVec.toNat_ofNat, Nat.reducePow]; omega
    have e6 : bv 5 w 8 = gt := by apply BitVec.eq_of_toNat_eq; simp only [bv, BitVec.toNat_ofNat, Nat.reducePow]; omega
    have e7 : bv 2 w 6 = o := by apply BitVec.eq_of_toNat_eq; simp only [bv, BitVec.toNat_ofNat, Nat.reducePow]; omega
    have e8 : bv 3 w 3 = sc := by apply BitVec.eq_of_toNat_eq; simp only [bv, BitVec.toNat_ofNat, Nat.reducePow]; omega
    rw [e4, e5, e6, e7, e8, ei]
  | some off =>
    have h_off := off.isLt
    obtain rfl : lone = true := by cases lone <;> first | rfl | exact Bool.noConfusion (show false = true from hl)
    replace hx : x = off.toNat := hx rfl
    rw [show encodeC (.vstt vs ra gt o sc (some off)) = 146800640 + vs.toNat * 262144 + ra.toNat * 8192 + gt.toNat * 256 + o.toNat * 64 + sc.toNat * 8 from rfl]
    rw [show Bool.toNat true = 1 from rfl]
    obtain ⟨w, hW⟩ : ∃ w, w = 146800640 + vs.toNat * 262144 + ra.toNat * 8192 + gt.toNat * 256 + o.toNat * 64 + sc.toNat * 8 + stl * 268435456 + 1 * 2147483648 := ⟨_, rfl⟩
    rw [← hW]
    have e1 : fld w 27 22 = 35 := by simp only [fld, Nat.reducePow, Nat.reduceSub, Nat.reduceAdd]; omega
    have f1 : decodeC w x = .instr (.vstt (bv 4 w 18) (bv 5 w 13) (bv 5 w 8) (bv 2 w 6) (bv 3 w 3) (offX w x)) := by unfold decodeC; rw [e1]; try rfl
    rw [f1]
    have e3 : fld w 31 31 = 1 := by simp only [fld, Nat.reducePow, Nat.reduceSub, Nat.reduceAdd]; omega
    have e2 : loneBit w = true := by unfold loneBit; rw [e3]; rfl
    have e4 : bv 32 x 0 = off := by apply BitVec.eq_of_toNat_eq; simp only [bv, BitVec.toNat_ofNat, Nat.reducePow]; omega
    have ei : offX w x = some off := by unfold offX; rw [e2, e4]; rfl
    have e5 : bv 4 w 18 = vs := by apply BitVec.eq_of_toNat_eq; simp only [bv, BitVec.toNat_ofNat, Nat.reducePow]; omega
    have e6 : bv 5 w 13 = ra := by apply BitVec.eq_of_toNat_eq; simp only [bv, BitVec.toNat_ofNat, Nat.reducePow]; omega
    have e7 : bv 5 w 8 = gt := by apply BitVec.eq_of_toNat_eq; simp only [bv, BitVec.toNat_ofNat, Nat.reducePow]; omega
    have e8 : bv 2 w 6 = o := by apply BitVec.eq_of_toNat_eq; simp only [bv, BitVec.toNat_ofNat, Nat.reducePow]; omega
    have e9 : bv 3 w 3 = sc := by apply BitVec.eq_of_toNat_eq; simp only [bv, BitVec.toNat_ofNat, Nat.reducePow]; omega
    rw [e5, e6, e7, e8, e9, ei]
theorem vgather (vd : VReg) (ra : GReg) (vi : VReg) (o : BitVec 2) (sc : BitVec 3) (el : BitVec 2) (off : Option (BitVec 32)) : Statement (.vgather vd ra vi o sc el off) := by
  refine ⟨fun _ hw lone hl stl hn x hx => ?_, fun h => Bool.noConfusion (show false = true from h)⟩
  have h_vd := vd.isLt
  have h_ra := ra.isLt
  have h_vi := vi.isLt
  have h_o := o.isLt
  have h_sc := sc.isLt
  have h_el := el.isLt
  cases off with
  | none =>
    obtain rfl : lone = false := by cases lone <;> first | rfl | exact Bool.noConfusion (show false = true from hl)
    rw [show encodeC (.vgather vd ra vi o sc el none) = 150994944 + vd.toNat * 262144 + ra.toNat * 8192 + vi.toNat * 256 + o.toNat * 64 + sc.toNat * 8 + el.toNat from rfl]
    rw [show Bool.toNat false = 0 from rfl]
    obtain ⟨w, hW⟩ : ∃ w, w = 150994944 + vd.toNat * 262144 + ra.toNat * 8192 + vi.toNat * 256 + o.toNat * 64 + sc.toNat * 8 + el.toNat + stl * 268435456 + 0 * 2147483648 := ⟨_, rfl⟩
    rw [← hW]
    have e1 : fld w 27 22 = 36 := by simp only [fld, Nat.reducePow, Nat.reduceSub, Nat.reduceAdd]; omega
    have f1 : decodeC w x = decC36 w x := by unfold decodeC; rw [e1]; try rfl
    have e2 : fld w 2 2 = 0 := by simp only [fld, Nat.reducePow, Nat.reduceSub, Nat.reduceAdd]; omega
    have f2 : decC36 w x = .instr (.vgather (bv 4 w 18) (bv 5 w 13) (bv 4 w 8) (bv 2 w 6) (bv 3 w 3) (bv 2 w 0) (offX w x)) := by unfold decC36; rw [e2]; try rfl
    rw [f1, f2]
    have e4 : fld w 31 31 = 0 := by simp only [fld, Nat.reducePow, Nat.reduceSub, Nat.reduceAdd]; omega
    have e3 : loneBit w = false := by unfold loneBit; rw [e4]; rfl
    have ei : offX w x = none := by unfold offX; rw [e3]; rfl
    have e5 : bv 4 w 18 = vd := by apply BitVec.eq_of_toNat_eq; simp only [bv, BitVec.toNat_ofNat, Nat.reducePow]; omega
    have e6 : bv 5 w 13 = ra := by apply BitVec.eq_of_toNat_eq; simp only [bv, BitVec.toNat_ofNat, Nat.reducePow]; omega
    have e7 : bv 4 w 8 = vi := by apply BitVec.eq_of_toNat_eq; simp only [bv, BitVec.toNat_ofNat, Nat.reducePow]; omega
    have e8 : bv 2 w 6 = o := by apply BitVec.eq_of_toNat_eq; simp only [bv, BitVec.toNat_ofNat, Nat.reducePow]; omega
    have e9 : bv 3 w 3 = sc := by apply BitVec.eq_of_toNat_eq; simp only [bv, BitVec.toNat_ofNat, Nat.reducePow]; omega
    have e10 : bv 2 w 0 = el := by apply BitVec.eq_of_toNat_eq; simp only [bv, BitVec.toNat_ofNat, Nat.reducePow]; omega
    rw [e5, e6, e7, e8, e9, e10, ei]
  | some off =>
    have h_off := off.isLt
    obtain rfl : lone = true := by cases lone <;> first | rfl | exact Bool.noConfusion (show false = true from hl)
    replace hx : x = off.toNat := hx rfl
    rw [show encodeC (.vgather vd ra vi o sc el (some off)) = 150994944 + vd.toNat * 262144 + ra.toNat * 8192 + vi.toNat * 256 + o.toNat * 64 + sc.toNat * 8 + el.toNat from rfl]
    rw [show Bool.toNat true = 1 from rfl]
    obtain ⟨w, hW⟩ : ∃ w, w = 150994944 + vd.toNat * 262144 + ra.toNat * 8192 + vi.toNat * 256 + o.toNat * 64 + sc.toNat * 8 + el.toNat + stl * 268435456 + 1 * 2147483648 := ⟨_, rfl⟩
    rw [← hW]
    have e1 : fld w 27 22 = 36 := by simp only [fld, Nat.reducePow, Nat.reduceSub, Nat.reduceAdd]; omega
    have f1 : decodeC w x = decC36 w x := by unfold decodeC; rw [e1]; try rfl
    have e2 : fld w 2 2 = 0 := by simp only [fld, Nat.reducePow, Nat.reduceSub, Nat.reduceAdd]; omega
    have f2 : decC36 w x = .instr (.vgather (bv 4 w 18) (bv 5 w 13) (bv 4 w 8) (bv 2 w 6) (bv 3 w 3) (bv 2 w 0) (offX w x)) := by unfold decC36; rw [e2]; try rfl
    rw [f1, f2]
    have e4 : fld w 31 31 = 1 := by simp only [fld, Nat.reducePow, Nat.reduceSub, Nat.reduceAdd]; omega
    have e3 : loneBit w = true := by unfold loneBit; rw [e4]; rfl
    have e5 : bv 32 x 0 = off := by apply BitVec.eq_of_toNat_eq; simp only [bv, BitVec.toNat_ofNat, Nat.reducePow]; omega
    have ei : offX w x = some off := by unfold offX; rw [e3, e5]; rfl
    have e6 : bv 4 w 18 = vd := by apply BitVec.eq_of_toNat_eq; simp only [bv, BitVec.toNat_ofNat, Nat.reducePow]; omega
    have e7 : bv 5 w 13 = ra := by apply BitVec.eq_of_toNat_eq; simp only [bv, BitVec.toNat_ofNat, Nat.reducePow]; omega
    have e8 : bv 4 w 8 = vi := by apply BitVec.eq_of_toNat_eq; simp only [bv, BitVec.toNat_ofNat, Nat.reducePow]; omega
    have e9 : bv 2 w 6 = o := by apply BitVec.eq_of_toNat_eq; simp only [bv, BitVec.toNat_ofNat, Nat.reducePow]; omega
    have e10 : bv 3 w 3 = sc := by apply BitVec.eq_of_toNat_eq; simp only [bv, BitVec.toNat_ofNat, Nat.reducePow]; omega
    have e11 : bv 2 w 0 = el := by apply BitVec.eq_of_toNat_eq; simp only [bv, BitVec.toNat_ofNat, Nat.reducePow]; omega
    rw [e6, e7, e8, e9, e10, e11, ei]
theorem vscatter (vs : VReg) (ra : GReg) (vi : VReg) (o : BitVec 2) (sc : BitVec 3) (el : BitVec 2) (off : Option (BitVec 32)) : Statement (.vscatter vs ra vi o sc el off) := by
  refine ⟨fun _ hw lone hl stl hn x hx => ?_, fun h => Bool.noConfusion (show false = true from h)⟩
  have h_vs := vs.isLt
  have h_ra := ra.isLt
  have h_vi := vi.isLt
  have h_o := o.isLt
  have h_sc := sc.isLt
  have h_el := el.isLt
  cases off with
  | none =>
    obtain rfl : lone = false := by cases lone <;> first | rfl | exact Bool.noConfusion (show false = true from hl)
    rw [show encodeC (.vscatter vs ra vi o sc el none) = 155189248 + vs.toNat * 262144 + ra.toNat * 8192 + vi.toNat * 256 + o.toNat * 64 + sc.toNat * 8 + el.toNat from rfl]
    rw [show Bool.toNat false = 0 from rfl]
    obtain ⟨w, hW⟩ : ∃ w, w = 155189248 + vs.toNat * 262144 + ra.toNat * 8192 + vi.toNat * 256 + o.toNat * 64 + sc.toNat * 8 + el.toNat + stl * 268435456 + 0 * 2147483648 := ⟨_, rfl⟩
    rw [← hW]
    have e1 : fld w 27 22 = 37 := by simp only [fld, Nat.reducePow, Nat.reduceSub, Nat.reduceAdd]; omega
    have f1 : decodeC w x = decC37 w x := by unfold decodeC; rw [e1]; try rfl
    have e2 : fld w 2 2 = 0 := by simp only [fld, Nat.reducePow, Nat.reduceSub, Nat.reduceAdd]; omega
    have f2 : decC37 w x = .instr (.vscatter (bv 4 w 18) (bv 5 w 13) (bv 4 w 8) (bv 2 w 6) (bv 3 w 3) (bv 2 w 0) (offX w x)) := by unfold decC37; rw [e2]; try rfl
    rw [f1, f2]
    have e4 : fld w 31 31 = 0 := by simp only [fld, Nat.reducePow, Nat.reduceSub, Nat.reduceAdd]; omega
    have e3 : loneBit w = false := by unfold loneBit; rw [e4]; rfl
    have ei : offX w x = none := by unfold offX; rw [e3]; rfl
    have e5 : bv 4 w 18 = vs := by apply BitVec.eq_of_toNat_eq; simp only [bv, BitVec.toNat_ofNat, Nat.reducePow]; omega
    have e6 : bv 5 w 13 = ra := by apply BitVec.eq_of_toNat_eq; simp only [bv, BitVec.toNat_ofNat, Nat.reducePow]; omega
    have e7 : bv 4 w 8 = vi := by apply BitVec.eq_of_toNat_eq; simp only [bv, BitVec.toNat_ofNat, Nat.reducePow]; omega
    have e8 : bv 2 w 6 = o := by apply BitVec.eq_of_toNat_eq; simp only [bv, BitVec.toNat_ofNat, Nat.reducePow]; omega
    have e9 : bv 3 w 3 = sc := by apply BitVec.eq_of_toNat_eq; simp only [bv, BitVec.toNat_ofNat, Nat.reducePow]; omega
    have e10 : bv 2 w 0 = el := by apply BitVec.eq_of_toNat_eq; simp only [bv, BitVec.toNat_ofNat, Nat.reducePow]; omega
    rw [e5, e6, e7, e8, e9, e10, ei]
  | some off =>
    have h_off := off.isLt
    obtain rfl : lone = true := by cases lone <;> first | rfl | exact Bool.noConfusion (show false = true from hl)
    replace hx : x = off.toNat := hx rfl
    rw [show encodeC (.vscatter vs ra vi o sc el (some off)) = 155189248 + vs.toNat * 262144 + ra.toNat * 8192 + vi.toNat * 256 + o.toNat * 64 + sc.toNat * 8 + el.toNat from rfl]
    rw [show Bool.toNat true = 1 from rfl]
    obtain ⟨w, hW⟩ : ∃ w, w = 155189248 + vs.toNat * 262144 + ra.toNat * 8192 + vi.toNat * 256 + o.toNat * 64 + sc.toNat * 8 + el.toNat + stl * 268435456 + 1 * 2147483648 := ⟨_, rfl⟩
    rw [← hW]
    have e1 : fld w 27 22 = 37 := by simp only [fld, Nat.reducePow, Nat.reduceSub, Nat.reduceAdd]; omega
    have f1 : decodeC w x = decC37 w x := by unfold decodeC; rw [e1]; try rfl
    have e2 : fld w 2 2 = 0 := by simp only [fld, Nat.reducePow, Nat.reduceSub, Nat.reduceAdd]; omega
    have f2 : decC37 w x = .instr (.vscatter (bv 4 w 18) (bv 5 w 13) (bv 4 w 8) (bv 2 w 6) (bv 3 w 3) (bv 2 w 0) (offX w x)) := by unfold decC37; rw [e2]; try rfl
    rw [f1, f2]
    have e4 : fld w 31 31 = 1 := by simp only [fld, Nat.reducePow, Nat.reduceSub, Nat.reduceAdd]; omega
    have e3 : loneBit w = true := by unfold loneBit; rw [e4]; rfl
    have e5 : bv 32 x 0 = off := by apply BitVec.eq_of_toNat_eq; simp only [bv, BitVec.toNat_ofNat, Nat.reducePow]; omega
    have ei : offX w x = some off := by unfold offX; rw [e3, e5]; rfl
    have e6 : bv 4 w 18 = vs := by apply BitVec.eq_of_toNat_eq; simp only [bv, BitVec.toNat_ofNat, Nat.reducePow]; omega
    have e7 : bv 5 w 13 = ra := by apply BitVec.eq_of_toNat_eq; simp only [bv, BitVec.toNat_ofNat, Nat.reducePow]; omega
    have e8 : bv 4 w 8 = vi := by apply BitVec.eq_of_toNat_eq; simp only [bv, BitVec.toNat_ofNat, Nat.reducePow]; omega
    have e9 : bv 2 w 6 = o := by apply BitVec.eq_of_toNat_eq; simp only [bv, BitVec.toNat_ofNat, Nat.reducePow]; omega
    have e10 : bv 3 w 3 = sc := by apply BitVec.eq_of_toNat_eq; simp only [bv, BitVec.toNat_ofNat, Nat.reducePow]; omega
    have e11 : bv 2 w 0 = el := by apply BitVec.eq_of_toNat_eq; simp only [bv, BitVec.toNat_ofNat, Nat.reducePow]; omega
    rw [e6, e7, e8, e9, e10, e11, ei]
theorem amoAdd (rd : GReg) (ra : GReg) (rb : GReg) (o : BitVec 2) (dw : Bool) : Statement (.amoAdd rd ra rb o dw) := by
  refine ⟨fun _ hw lone hl stl hn x hx => ?_, fun h => Bool.noConfusion (show false = true from h)⟩
  have h_rd := rd.isLt
  have h_ra := ra.isLt
  have h_rb := rb.isLt
  have h_o := o.isLt
  have h_dw := dw.toNat_lt
  rw [show encodeC (.amoAdd rd ra rb o dw) = 159383552 + rd.toNat * 131072 + ra.toNat * 4096 + rb.toNat * 128 + o.toNat * 2 + dw.toNat from rfl]
  obtain ⟨w, hW⟩ : ∃ w, w = 159383552 + rd.toNat * 131072 + ra.toNat * 4096 + rb.toNat * 128 + o.toNat * 2 + dw.toNat + stl * 268435456 + lone.toNat * 2147483648 := ⟨_, rfl⟩
  rw [← hW]
  have h_l := lone.toNat_lt
  have e1 : fld w 27 22 = 38 := by simp only [fld, Nat.reducePow, Nat.reduceSub, Nat.reduceAdd]; omega
  have f1 : decodeC w x = decC38 w := by unfold decodeC; rw [e1]; try rfl
  have e2 : fld w 6 3 = 0 := by simp only [fld, Nat.reducePow, Nat.reduceSub, Nat.reduceAdd]; omega
  have f2 : decC38 w = .instr (.amoAdd (bv 5 w 17) (bv 5 w 12) (bv 5 w 7) (bv 2 w 1) (fld w 0 0 == 1)) := by unfold decC38; rw [e2]; try rfl
  rw [f1, f2]
  have e3 : bv 5 w 17 = rd := by apply BitVec.eq_of_toNat_eq; simp only [bv, BitVec.toNat_ofNat, Nat.reducePow]; omega
  have e4 : bv 5 w 12 = ra := by apply BitVec.eq_of_toNat_eq; simp only [bv, BitVec.toNat_ofNat, Nat.reducePow]; omega
  have e5 : bv 5 w 7 = rb := by apply BitVec.eq_of_toNat_eq; simp only [bv, BitVec.toNat_ofNat, Nat.reducePow]; omega
  have e6 : bv 2 w 1 = o := by apply BitVec.eq_of_toNat_eq; simp only [bv, BitVec.toNat_ofNat, Nat.reducePow]; omega
  have e7 : fld w 0 0 = dw.toNat := by simp only [fld, Nat.reducePow, Nat.reduceSub, Nat.reduceAdd]; omega
  rw [e3, e4, e5, e6, e7]
  cases dw <;> rfl
theorem amoAnd (rd : GReg) (ra : GReg) (rb : GReg) (o : BitVec 2) (dw : Bool) : Statement (.amoAnd rd ra rb o dw) := by
  refine ⟨fun _ hw lone hl stl hn x hx => ?_, fun h => Bool.noConfusion (show false = true from h)⟩
  have h_rd := rd.isLt
  have h_ra := ra.isLt
  have h_rb := rb.isLt
  have h_o := o.isLt
  have h_dw := dw.toNat_lt
  rw [show encodeC (.amoAnd rd ra rb o dw) = 159383552 + 8 + rd.toNat * 131072 + ra.toNat * 4096 + rb.toNat * 128 + o.toNat * 2 + dw.toNat from rfl]
  obtain ⟨w, hW⟩ : ∃ w, w = 159383552 + 8 + rd.toNat * 131072 + ra.toNat * 4096 + rb.toNat * 128 + o.toNat * 2 + dw.toNat + stl * 268435456 + lone.toNat * 2147483648 := ⟨_, rfl⟩
  rw [← hW]
  have h_l := lone.toNat_lt
  have e1 : fld w 27 22 = 38 := by simp only [fld, Nat.reducePow, Nat.reduceSub, Nat.reduceAdd]; omega
  have f1 : decodeC w x = decC38 w := by unfold decodeC; rw [e1]; try rfl
  have e2 : fld w 6 3 = 1 := by simp only [fld, Nat.reducePow, Nat.reduceSub, Nat.reduceAdd]; omega
  have f2 : decC38 w = .instr (.amoAnd (bv 5 w 17) (bv 5 w 12) (bv 5 w 7) (bv 2 w 1) (fld w 0 0 == 1)) := by unfold decC38; rw [e2]; try rfl
  rw [f1, f2]
  have e3 : bv 5 w 17 = rd := by apply BitVec.eq_of_toNat_eq; simp only [bv, BitVec.toNat_ofNat, Nat.reducePow]; omega
  have e4 : bv 5 w 12 = ra := by apply BitVec.eq_of_toNat_eq; simp only [bv, BitVec.toNat_ofNat, Nat.reducePow]; omega
  have e5 : bv 5 w 7 = rb := by apply BitVec.eq_of_toNat_eq; simp only [bv, BitVec.toNat_ofNat, Nat.reducePow]; omega
  have e6 : bv 2 w 1 = o := by apply BitVec.eq_of_toNat_eq; simp only [bv, BitVec.toNat_ofNat, Nat.reducePow]; omega
  have e7 : fld w 0 0 = dw.toNat := by simp only [fld, Nat.reducePow, Nat.reduceSub, Nat.reduceAdd]; omega
  rw [e3, e4, e5, e6, e7]
  cases dw <;> rfl
theorem amoOr (rd : GReg) (ra : GReg) (rb : GReg) (o : BitVec 2) (dw : Bool) : Statement (.amoOr rd ra rb o dw) := by
  refine ⟨fun _ hw lone hl stl hn x hx => ?_, fun h => Bool.noConfusion (show false = true from h)⟩
  have h_rd := rd.isLt
  have h_ra := ra.isLt
  have h_rb := rb.isLt
  have h_o := o.isLt
  have h_dw := dw.toNat_lt
  rw [show encodeC (.amoOr rd ra rb o dw) = 159383552 + 16 + rd.toNat * 131072 + ra.toNat * 4096 + rb.toNat * 128 + o.toNat * 2 + dw.toNat from rfl]
  obtain ⟨w, hW⟩ : ∃ w, w = 159383552 + 16 + rd.toNat * 131072 + ra.toNat * 4096 + rb.toNat * 128 + o.toNat * 2 + dw.toNat + stl * 268435456 + lone.toNat * 2147483648 := ⟨_, rfl⟩
  rw [← hW]
  have h_l := lone.toNat_lt
  have e1 : fld w 27 22 = 38 := by simp only [fld, Nat.reducePow, Nat.reduceSub, Nat.reduceAdd]; omega
  have f1 : decodeC w x = decC38 w := by unfold decodeC; rw [e1]; try rfl
  have e2 : fld w 6 3 = 2 := by simp only [fld, Nat.reducePow, Nat.reduceSub, Nat.reduceAdd]; omega
  have f2 : decC38 w = .instr (.amoOr (bv 5 w 17) (bv 5 w 12) (bv 5 w 7) (bv 2 w 1) (fld w 0 0 == 1)) := by unfold decC38; rw [e2]; try rfl
  rw [f1, f2]
  have e3 : bv 5 w 17 = rd := by apply BitVec.eq_of_toNat_eq; simp only [bv, BitVec.toNat_ofNat, Nat.reducePow]; omega
  have e4 : bv 5 w 12 = ra := by apply BitVec.eq_of_toNat_eq; simp only [bv, BitVec.toNat_ofNat, Nat.reducePow]; omega
  have e5 : bv 5 w 7 = rb := by apply BitVec.eq_of_toNat_eq; simp only [bv, BitVec.toNat_ofNat, Nat.reducePow]; omega
  have e6 : bv 2 w 1 = o := by apply BitVec.eq_of_toNat_eq; simp only [bv, BitVec.toNat_ofNat, Nat.reducePow]; omega
  have e7 : fld w 0 0 = dw.toNat := by simp only [fld, Nat.reducePow, Nat.reduceSub, Nat.reduceAdd]; omega
  rw [e3, e4, e5, e6, e7]
  cases dw <;> rfl
theorem amoXor (rd : GReg) (ra : GReg) (rb : GReg) (o : BitVec 2) (dw : Bool) : Statement (.amoXor rd ra rb o dw) := by
  refine ⟨fun _ hw lone hl stl hn x hx => ?_, fun h => Bool.noConfusion (show false = true from h)⟩
  have h_rd := rd.isLt
  have h_ra := ra.isLt
  have h_rb := rb.isLt
  have h_o := o.isLt
  have h_dw := dw.toNat_lt
  rw [show encodeC (.amoXor rd ra rb o dw) = 159383552 + 24 + rd.toNat * 131072 + ra.toNat * 4096 + rb.toNat * 128 + o.toNat * 2 + dw.toNat from rfl]
  obtain ⟨w, hW⟩ : ∃ w, w = 159383552 + 24 + rd.toNat * 131072 + ra.toNat * 4096 + rb.toNat * 128 + o.toNat * 2 + dw.toNat + stl * 268435456 + lone.toNat * 2147483648 := ⟨_, rfl⟩
  rw [← hW]
  have h_l := lone.toNat_lt
  have e1 : fld w 27 22 = 38 := by simp only [fld, Nat.reducePow, Nat.reduceSub, Nat.reduceAdd]; omega
  have f1 : decodeC w x = decC38 w := by unfold decodeC; rw [e1]; try rfl
  have e2 : fld w 6 3 = 3 := by simp only [fld, Nat.reducePow, Nat.reduceSub, Nat.reduceAdd]; omega
  have f2 : decC38 w = .instr (.amoXor (bv 5 w 17) (bv 5 w 12) (bv 5 w 7) (bv 2 w 1) (fld w 0 0 == 1)) := by unfold decC38; rw [e2]; try rfl
  rw [f1, f2]
  have e3 : bv 5 w 17 = rd := by apply BitVec.eq_of_toNat_eq; simp only [bv, BitVec.toNat_ofNat, Nat.reducePow]; omega
  have e4 : bv 5 w 12 = ra := by apply BitVec.eq_of_toNat_eq; simp only [bv, BitVec.toNat_ofNat, Nat.reducePow]; omega
  have e5 : bv 5 w 7 = rb := by apply BitVec.eq_of_toNat_eq; simp only [bv, BitVec.toNat_ofNat, Nat.reducePow]; omega
  have e6 : bv 2 w 1 = o := by apply BitVec.eq_of_toNat_eq; simp only [bv, BitVec.toNat_ofNat, Nat.reducePow]; omega
  have e7 : fld w 0 0 = dw.toNat := by simp only [fld, Nat.reducePow, Nat.reduceSub, Nat.reduceAdd]; omega
  rw [e3, e4, e5, e6, e7]
  cases dw <;> rfl
theorem amoMin (rd : GReg) (ra : GReg) (rb : GReg) (o : BitVec 2) (dw : Bool) : Statement (.amoMin rd ra rb o dw) := by
  refine ⟨fun _ hw lone hl stl hn x hx => ?_, fun h => Bool.noConfusion (show false = true from h)⟩
  have h_rd := rd.isLt
  have h_ra := ra.isLt
  have h_rb := rb.isLt
  have h_o := o.isLt
  have h_dw := dw.toNat_lt
  rw [show encodeC (.amoMin rd ra rb o dw) = 159383552 + 32 + rd.toNat * 131072 + ra.toNat * 4096 + rb.toNat * 128 + o.toNat * 2 + dw.toNat from rfl]
  obtain ⟨w, hW⟩ : ∃ w, w = 159383552 + 32 + rd.toNat * 131072 + ra.toNat * 4096 + rb.toNat * 128 + o.toNat * 2 + dw.toNat + stl * 268435456 + lone.toNat * 2147483648 := ⟨_, rfl⟩
  rw [← hW]
  have h_l := lone.toNat_lt
  have e1 : fld w 27 22 = 38 := by simp only [fld, Nat.reducePow, Nat.reduceSub, Nat.reduceAdd]; omega
  have f1 : decodeC w x = decC38 w := by unfold decodeC; rw [e1]; try rfl
  have e2 : fld w 6 3 = 4 := by simp only [fld, Nat.reducePow, Nat.reduceSub, Nat.reduceAdd]; omega
  have f2 : decC38 w = .instr (.amoMin (bv 5 w 17) (bv 5 w 12) (bv 5 w 7) (bv 2 w 1) (fld w 0 0 == 1)) := by unfold decC38; rw [e2]; try rfl
  rw [f1, f2]
  have e3 : bv 5 w 17 = rd := by apply BitVec.eq_of_toNat_eq; simp only [bv, BitVec.toNat_ofNat, Nat.reducePow]; omega
  have e4 : bv 5 w 12 = ra := by apply BitVec.eq_of_toNat_eq; simp only [bv, BitVec.toNat_ofNat, Nat.reducePow]; omega
  have e5 : bv 5 w 7 = rb := by apply BitVec.eq_of_toNat_eq; simp only [bv, BitVec.toNat_ofNat, Nat.reducePow]; omega
  have e6 : bv 2 w 1 = o := by apply BitVec.eq_of_toNat_eq; simp only [bv, BitVec.toNat_ofNat, Nat.reducePow]; omega
  have e7 : fld w 0 0 = dw.toNat := by simp only [fld, Nat.reducePow, Nat.reduceSub, Nat.reduceAdd]; omega
  rw [e3, e4, e5, e6, e7]
  cases dw <;> rfl
theorem amoMax (rd : GReg) (ra : GReg) (rb : GReg) (o : BitVec 2) (dw : Bool) : Statement (.amoMax rd ra rb o dw) := by
  refine ⟨fun _ hw lone hl stl hn x hx => ?_, fun h => Bool.noConfusion (show false = true from h)⟩
  have h_rd := rd.isLt
  have h_ra := ra.isLt
  have h_rb := rb.isLt
  have h_o := o.isLt
  have h_dw := dw.toNat_lt
  rw [show encodeC (.amoMax rd ra rb o dw) = 159383552 + 40 + rd.toNat * 131072 + ra.toNat * 4096 + rb.toNat * 128 + o.toNat * 2 + dw.toNat from rfl]
  obtain ⟨w, hW⟩ : ∃ w, w = 159383552 + 40 + rd.toNat * 131072 + ra.toNat * 4096 + rb.toNat * 128 + o.toNat * 2 + dw.toNat + stl * 268435456 + lone.toNat * 2147483648 := ⟨_, rfl⟩
  rw [← hW]
  have h_l := lone.toNat_lt
  have e1 : fld w 27 22 = 38 := by simp only [fld, Nat.reducePow, Nat.reduceSub, Nat.reduceAdd]; omega
  have f1 : decodeC w x = decC38 w := by unfold decodeC; rw [e1]; try rfl
  have e2 : fld w 6 3 = 5 := by simp only [fld, Nat.reducePow, Nat.reduceSub, Nat.reduceAdd]; omega
  have f2 : decC38 w = .instr (.amoMax (bv 5 w 17) (bv 5 w 12) (bv 5 w 7) (bv 2 w 1) (fld w 0 0 == 1)) := by unfold decC38; rw [e2]; try rfl
  rw [f1, f2]
  have e3 : bv 5 w 17 = rd := by apply BitVec.eq_of_toNat_eq; simp only [bv, BitVec.toNat_ofNat, Nat.reducePow]; omega
  have e4 : bv 5 w 12 = ra := by apply BitVec.eq_of_toNat_eq; simp only [bv, BitVec.toNat_ofNat, Nat.reducePow]; omega
  have e5 : bv 5 w 7 = rb := by apply BitVec.eq_of_toNat_eq; simp only [bv, BitVec.toNat_ofNat, Nat.reducePow]; omega
  have e6 : bv 2 w 1 = o := by apply BitVec.eq_of_toNat_eq; simp only [bv, BitVec.toNat_ofNat, Nat.reducePow]; omega
  have e7 : fld w 0 0 = dw.toNat := by simp only [fld, Nat.reducePow, Nat.reduceSub, Nat.reduceAdd]; omega
  rw [e3, e4, e5, e6, e7]
  cases dw <;> rfl
theorem amoMinn (rd : GReg) (ra : GReg) (rb : GReg) (o : BitVec 2) (dw : Bool) : Statement (.amoMinn rd ra rb o dw) := by
  refine ⟨fun _ hw lone hl stl hn x hx => ?_, fun h => Bool.noConfusion (show false = true from h)⟩
  have h_rd := rd.isLt
  have h_ra := ra.isLt
  have h_rb := rb.isLt
  have h_o := o.isLt
  have h_dw := dw.toNat_lt
  rw [show encodeC (.amoMinn rd ra rb o dw) = 159383552 + 48 + rd.toNat * 131072 + ra.toNat * 4096 + rb.toNat * 128 + o.toNat * 2 + dw.toNat from rfl]
  obtain ⟨w, hW⟩ : ∃ w, w = 159383552 + 48 + rd.toNat * 131072 + ra.toNat * 4096 + rb.toNat * 128 + o.toNat * 2 + dw.toNat + stl * 268435456 + lone.toNat * 2147483648 := ⟨_, rfl⟩
  rw [← hW]
  have h_l := lone.toNat_lt
  have e1 : fld w 27 22 = 38 := by simp only [fld, Nat.reducePow, Nat.reduceSub, Nat.reduceAdd]; omega
  have f1 : decodeC w x = decC38 w := by unfold decodeC; rw [e1]; try rfl
  have e2 : fld w 6 3 = 6 := by simp only [fld, Nat.reducePow, Nat.reduceSub, Nat.reduceAdd]; omega
  have f2 : decC38 w = .instr (.amoMinn (bv 5 w 17) (bv 5 w 12) (bv 5 w 7) (bv 2 w 1) (fld w 0 0 == 1)) := by unfold decC38; rw [e2]; try rfl
  rw [f1, f2]
  have e3 : bv 5 w 17 = rd := by apply BitVec.eq_of_toNat_eq; simp only [bv, BitVec.toNat_ofNat, Nat.reducePow]; omega
  have e4 : bv 5 w 12 = ra := by apply BitVec.eq_of_toNat_eq; simp only [bv, BitVec.toNat_ofNat, Nat.reducePow]; omega
  have e5 : bv 5 w 7 = rb := by apply BitVec.eq_of_toNat_eq; simp only [bv, BitVec.toNat_ofNat, Nat.reducePow]; omega
  have e6 : bv 2 w 1 = o := by apply BitVec.eq_of_toNat_eq; simp only [bv, BitVec.toNat_ofNat, Nat.reducePow]; omega
  have e7 : fld w 0 0 = dw.toNat := by simp only [fld, Nat.reducePow, Nat.reduceSub, Nat.reduceAdd]; omega
  rw [e3, e4, e5, e6, e7]
  cases dw <;> rfl
theorem amoMaxn (rd : GReg) (ra : GReg) (rb : GReg) (o : BitVec 2) (dw : Bool) : Statement (.amoMaxn rd ra rb o dw) := by
  refine ⟨fun _ hw lone hl stl hn x hx => ?_, fun h => Bool.noConfusion (show false = true from h)⟩
  have h_rd := rd.isLt
  have h_ra := ra.isLt
  have h_rb := rb.isLt
  have h_o := o.isLt
  have h_dw := dw.toNat_lt
  rw [show encodeC (.amoMaxn rd ra rb o dw) = 159383552 + 56 + rd.toNat * 131072 + ra.toNat * 4096 + rb.toNat * 128 + o.toNat * 2 + dw.toNat from rfl]
  obtain ⟨w, hW⟩ : ∃ w, w = 159383552 + 56 + rd.toNat * 131072 + ra.toNat * 4096 + rb.toNat * 128 + o.toNat * 2 + dw.toNat + stl * 268435456 + lone.toNat * 2147483648 := ⟨_, rfl⟩
  rw [← hW]
  have h_l := lone.toNat_lt
  have e1 : fld w 27 22 = 38 := by simp only [fld, Nat.reducePow, Nat.reduceSub, Nat.reduceAdd]; omega
  have f1 : decodeC w x = decC38 w := by unfold decodeC; rw [e1]; try rfl
  have e2 : fld w 6 3 = 7 := by simp only [fld, Nat.reducePow, Nat.reduceSub, Nat.reduceAdd]; omega
  have f2 : decC38 w = .instr (.amoMaxn (bv 5 w 17) (bv 5 w 12) (bv 5 w 7) (bv 2 w 1) (fld w 0 0 == 1)) := by unfold decC38; rw [e2]; try rfl
  rw [f1, f2]
  have e3 : bv 5 w 17 = rd := by apply BitVec.eq_of_toNat_eq; simp only [bv, BitVec.toNat_ofNat, Nat.reducePow]; omega
  have e4 : bv 5 w 12 = ra := by apply BitVec.eq_of_toNat_eq; simp only [bv, BitVec.toNat_ofNat, Nat.reducePow]; omega
  have e5 : bv 5 w 7 = rb := by apply BitVec.eq_of_toNat_eq; simp only [bv, BitVec.toNat_ofNat, Nat.reducePow]; omega
  have e6 : bv 2 w 1 = o := by apply BitVec.eq_of_toNat_eq; simp only [bv, BitVec.toNat_ofNat, Nat.reducePow]; omega
  have e7 : fld w 0 0 = dw.toNat := by simp only [fld, Nat.reducePow, Nat.reduceSub, Nat.reduceAdd]; omega
  rw [e3, e4, e5, e6, e7]
  cases dw <;> rfl
theorem amoSwap (rd : GReg) (ra : GReg) (rb : GReg) (o : BitVec 2) (dw : Bool) : Statement (.amoSwap rd ra rb o dw) := by
  refine ⟨fun _ hw lone hl stl hn x hx => ?_, fun h => Bool.noConfusion (show false = true from h)⟩
  have h_rd := rd.isLt
  have h_ra := ra.isLt
  have h_rb := rb.isLt
  have h_o := o.isLt
  have h_dw := dw.toNat_lt
  rw [show encodeC (.amoSwap rd ra rb o dw) = 159383552 + 64 + rd.toNat * 131072 + ra.toNat * 4096 + rb.toNat * 128 + o.toNat * 2 + dw.toNat from rfl]
  obtain ⟨w, hW⟩ : ∃ w, w = 159383552 + 64 + rd.toNat * 131072 + ra.toNat * 4096 + rb.toNat * 128 + o.toNat * 2 + dw.toNat + stl * 268435456 + lone.toNat * 2147483648 := ⟨_, rfl⟩
  rw [← hW]
  have h_l := lone.toNat_lt
  have e1 : fld w 27 22 = 38 := by simp only [fld, Nat.reducePow, Nat.reduceSub, Nat.reduceAdd]; omega
  have f1 : decodeC w x = decC38 w := by unfold decodeC; rw [e1]; try rfl
  have e2 : fld w 6 3 = 8 := by simp only [fld, Nat.reducePow, Nat.reduceSub, Nat.reduceAdd]; omega
  have f2 : decC38 w = .instr (.amoSwap (bv 5 w 17) (bv 5 w 12) (bv 5 w 7) (bv 2 w 1) (fld w 0 0 == 1)) := by unfold decC38; rw [e2]; try rfl
  rw [f1, f2]
  have e3 : bv 5 w 17 = rd := by apply BitVec.eq_of_toNat_eq; simp only [bv, BitVec.toNat_ofNat, Nat.reducePow]; omega
  have e4 : bv 5 w 12 = ra := by apply BitVec.eq_of_toNat_eq; simp only [bv, BitVec.toNat_ofNat, Nat.reducePow]; omega
  have e5 : bv 5 w 7 = rb := by apply BitVec.eq_of_toNat_eq; simp only [bv, BitVec.toNat_ofNat, Nat.reducePow]; omega
  have e6 : bv 2 w 1 = o := by apply BitVec.eq_of_toNat_eq; simp only [bv, BitVec.toNat_ofNat, Nat.reducePow]; omega
  have e7 : fld w 0 0 = dw.toNat := by simp only [fld, Nat.reducePow, Nat.reduceSub, Nat.reduceAdd]; omega
  rw [e3, e4, e5, e6, e7]
  cases dw <;> rfl
theorem amoFadd (rd : GReg) (ra : GReg) (rb : GReg) (o : BitVec 2) (dw : Bool) : Statement (.amoFadd rd ra rb o dw) := by
  refine ⟨fun _ hw lone hl stl hn x hx => ?_, fun h => Bool.noConfusion (show false = true from h)⟩
  have h_rd := rd.isLt
  have h_ra := ra.isLt
  have h_rb := rb.isLt
  have h_o := o.isLt
  have h_dw := dw.toNat_lt
  rw [show encodeC (.amoFadd rd ra rb o dw) = 159383552 + 72 + rd.toNat * 131072 + ra.toNat * 4096 + rb.toNat * 128 + o.toNat * 2 + dw.toNat from rfl]
  obtain ⟨w, hW⟩ : ∃ w, w = 159383552 + 72 + rd.toNat * 131072 + ra.toNat * 4096 + rb.toNat * 128 + o.toNat * 2 + dw.toNat + stl * 268435456 + lone.toNat * 2147483648 := ⟨_, rfl⟩
  rw [← hW]
  have h_l := lone.toNat_lt
  have e1 : fld w 27 22 = 38 := by simp only [fld, Nat.reducePow, Nat.reduceSub, Nat.reduceAdd]; omega
  have f1 : decodeC w x = decC38 w := by unfold decodeC; rw [e1]; try rfl
  have e2 : fld w 6 3 = 9 := by simp only [fld, Nat.reducePow, Nat.reduceSub, Nat.reduceAdd]; omega
  have f2 : decC38 w = .instr (.amoFadd (bv 5 w 17) (bv 5 w 12) (bv 5 w 7) (bv 2 w 1) (fld w 0 0 == 1)) := by unfold decC38; rw [e2]; try rfl
  rw [f1, f2]
  have e3 : bv 5 w 17 = rd := by apply BitVec.eq_of_toNat_eq; simp only [bv, BitVec.toNat_ofNat, Nat.reducePow]; omega
  have e4 : bv 5 w 12 = ra := by apply BitVec.eq_of_toNat_eq; simp only [bv, BitVec.toNat_ofNat, Nat.reducePow]; omega
  have e5 : bv 5 w 7 = rb := by apply BitVec.eq_of_toNat_eq; simp only [bv, BitVec.toNat_ofNat, Nat.reducePow]; omega
  have e6 : bv 2 w 1 = o := by apply BitVec.eq_of_toNat_eq; simp only [bv, BitVec.toNat_ofNat, Nat.reducePow]; omega
  have e7 : fld w 0 0 = dw.toNat := by simp only [fld, Nat.reducePow, Nat.reduceSub, Nat.reduceAdd]; omega
  rw [e3, e4, e5, e6, e7]
  cases dw <;> rfl
theorem cas (rd : GReg) (ra : GReg) (rb : GReg) (o : BitVec 2) (dw : Bool) : Statement (.cas rd ra rb o dw) := by
  refine ⟨fun _ hw lone hl stl hn x hx => ?_, fun h => Bool.noConfusion (show false = true from h)⟩
  have h_rd := rd.isLt
  have h_ra := ra.isLt
  have h_rb := rb.isLt
  have h_o := o.isLt
  have h_dw := dw.toNat_lt
  rw [show encodeC (.cas rd ra rb o dw) = 159383552 + 80 + rd.toNat * 131072 + ra.toNat * 4096 + rb.toNat * 128 + o.toNat * 2 + dw.toNat from rfl]
  obtain ⟨w, hW⟩ : ∃ w, w = 159383552 + 80 + rd.toNat * 131072 + ra.toNat * 4096 + rb.toNat * 128 + o.toNat * 2 + dw.toNat + stl * 268435456 + lone.toNat * 2147483648 := ⟨_, rfl⟩
  rw [← hW]
  have h_l := lone.toNat_lt
  have e1 : fld w 27 22 = 38 := by simp only [fld, Nat.reducePow, Nat.reduceSub, Nat.reduceAdd]; omega
  have f1 : decodeC w x = decC38 w := by unfold decodeC; rw [e1]; try rfl
  have e2 : fld w 6 3 = 10 := by simp only [fld, Nat.reducePow, Nat.reduceSub, Nat.reduceAdd]; omega
  have f2 : decC38 w = .instr (.cas (bv 5 w 17) (bv 5 w 12) (bv 5 w 7) (bv 2 w 1) (fld w 0 0 == 1)) := by unfold decC38; rw [e2]; try rfl
  rw [f1, f2]
  have e3 : bv 5 w 17 = rd := by apply BitVec.eq_of_toNat_eq; simp only [bv, BitVec.toNat_ofNat, Nat.reducePow]; omega
  have e4 : bv 5 w 12 = ra := by apply BitVec.eq_of_toNat_eq; simp only [bv, BitVec.toNat_ofNat, Nat.reducePow]; omega
  have e5 : bv 5 w 7 = rb := by apply BitVec.eq_of_toNat_eq; simp only [bv, BitVec.toNat_ofNat, Nat.reducePow]; omega
  have e6 : bv 2 w 1 = o := by apply BitVec.eq_of_toNat_eq; simp only [bv, BitVec.toNat_ofNat, Nat.reducePow]; omega
  have e7 : fld w 0 0 = dw.toNat := by simp only [fld, Nat.reducePow, Nat.reduceSub, Nat.reduceAdd]; omega
  rw [e3, e4, e5, e6, e7]
  cases dw <;> rfl
theorem fence (sc : BitVec 3) : Statement (.fence sc) := by
  refine ⟨fun _ hw lone hl stl hn x hx => ?_, fun h => Bool.noConfusion (show false = true from h)⟩
  have h_sc := sc.isLt
  rw [show encodeC (.fence sc) = 163577856 + sc.toNat * 128 from rfl]
  obtain ⟨w, hW⟩ : ∃ w, w = 163577856 + sc.toNat * 128 + stl * 268435456 + lone.toNat * 2147483648 := ⟨_, rfl⟩
  rw [← hW]
  have h_l := lone.toNat_lt
  have e1 : fld w 27 22 = 39 := by simp only [fld, Nat.reducePow, Nat.reduceSub, Nat.reduceAdd]; omega
  have f1 : decodeC w x = decC39 w := by unfold decodeC; rw [e1]; try rfl
  have e2 : fld w 6 0 = 0 := by simp only [fld, Nat.reducePow, Nat.reduceSub, Nat.reduceAdd]; omega
  have f2 : decC39 w = .instr (.fence (bv 3 w 7)) := by unfold decC39; rw [e2]; try rfl
  rw [f1, f2]
  have e3 : bv 3 w 7 = sc := by apply BitVec.eq_of_toNat_eq; simp only [bv, BitVec.toNat_ofNat, Nat.reducePow]; omega
  rw [e3]
theorem fenceSc (sc : BitVec 3) : Statement (.fenceSc sc) := by
  refine ⟨fun _ hw lone hl stl hn x hx => ?_, fun h => Bool.noConfusion (show false = true from h)⟩
  have h_sc := sc.isLt
  rw [show encodeC (.fenceSc sc) = 163577856 + 1 + sc.toNat * 128 from rfl]
  obtain ⟨w, hW⟩ : ∃ w, w = 163577856 + 1 + sc.toNat * 128 + stl * 268435456 + lone.toNat * 2147483648 := ⟨_, rfl⟩
  rw [← hW]
  have h_l := lone.toNat_lt
  have e1 : fld w 27 22 = 39 := by simp only [fld, Nat.reducePow, Nat.reduceSub, Nat.reduceAdd]; omega
  have f1 : decodeC w x = decC39 w := by unfold decodeC; rw [e1]; try rfl
  have e2 : fld w 6 0 = 1 := by simp only [fld, Nat.reducePow, Nat.reduceSub, Nat.reduceAdd]; omega
  have f2 : decC39 w = .instr (.fenceSc (bv 3 w 7)) := by unfold decC39; rw [e2]; try rfl
  rw [f1, f2]
  have e3 : bv 3 w 7 = sc := by apply BitVec.eq_of_toNat_eq; simp only [bv, BitVec.toNat_ofNat, Nat.reducePow]; omega
  rw [e3]
theorem xld (ra : GReg) (rc : GReg) (o : BitVec 2) (sc : BitVec 3) (sz : BitVec 2) : Statement (.xld ra rc o sc sz) := by
  refine ⟨fun _ hw lone hl stl hn x hx => ?_, fun h => Bool.noConfusion (show false = true from h)⟩
  have h_ra := ra.isLt
  have h_rc := rc.isLt
  have h_o := o.isLt
  have h_sc := sc.isLt
  have h_sz := sz.isLt
  rw [show encodeC (.xld ra rc o sc sz) = 167772160 + ra.toNat * 4096 + rc.toNat * 128 + o.toNat * 32 + sc.toNat * 4 + sz.toNat from rfl]
  obtain ⟨w, hW⟩ : ∃ w, w = 167772160 + ra.toNat * 4096 + rc.toNat * 128 + o.toNat * 32 + sc.toNat * 4 + sz.toNat + stl * 268435456 + lone.toNat * 2147483648 := ⟨_, rfl⟩
  rw [← hW]
  have h_l := lone.toNat_lt
  have e1 : fld w 27 22 = 40 := by simp only [fld, Nat.reducePow, Nat.reduceSub, Nat.reduceAdd]; omega
  have f1 : decodeC w x = .instr (.xld (bv 5 w 12) (bv 5 w 7) (bv 2 w 5) (bv 3 w 2) (bv 2 w 0)) := by unfold decodeC; rw [e1]; try rfl
  rw [f1]
  have e2 : bv 5 w 12 = ra := by apply BitVec.eq_of_toNat_eq; simp only [bv, BitVec.toNat_ofNat, Nat.reducePow]; omega
  have e3 : bv 5 w 7 = rc := by apply BitVec.eq_of_toNat_eq; simp only [bv, BitVec.toNat_ofNat, Nat.reducePow]; omega
  have e4 : bv 2 w 5 = o := by apply BitVec.eq_of_toNat_eq; simp only [bv, BitVec.toNat_ofNat, Nat.reducePow]; omega
  have e5 : bv 3 w 2 = sc := by apply BitVec.eq_of_toNat_eq; simp only [bv, BitVec.toNat_ofNat, Nat.reducePow]; omega
  have e6 : bv 2 w 0 = sz := by apply BitVec.eq_of_toNat_eq; simp only [bv, BitVec.toNat_ofNat, Nat.reducePow]; omega
  rw [e2, e3, e4, e5, e6]
theorem xst (rv : GReg) (ra : GReg) (rc : GReg) (o : BitVec 2) (sc : BitVec 3) (sz : BitVec 2) : Statement (.xst rv ra rc o sc sz) := by
  refine ⟨fun _ hw lone hl stl hn x hx => ?_, fun h => Bool.noConfusion (show false = true from h)⟩
  have h_rv := rv.isLt
  have h_ra := ra.isLt
  have h_rc := rc.isLt
  have h_o := o.isLt
  have h_sc := sc.isLt
  have h_sz := sz.isLt
  rw [show encodeC (.xst rv ra rc o sc sz) = 171966464 + rv.toNat * 131072 + ra.toNat * 4096 + rc.toNat * 128 + o.toNat * 32 + sc.toNat * 4 + sz.toNat from rfl]
  obtain ⟨w, hW⟩ : ∃ w, w = 171966464 + rv.toNat * 131072 + ra.toNat * 4096 + rc.toNat * 128 + o.toNat * 32 + sc.toNat * 4 + sz.toNat + stl * 268435456 + lone.toNat * 2147483648 := ⟨_, rfl⟩
  rw [← hW]
  have h_l := lone.toNat_lt
  have e1 : fld w 27 22 = 41 := by simp only [fld, Nat.reducePow, Nat.reduceSub, Nat.reduceAdd]; omega
  have f1 : decodeC w x = .instr (.xst (bv 5 w 17) (bv 5 w 12) (bv 5 w 7) (bv 2 w 5) (bv 3 w 2) (bv 2 w 0)) := by unfold decodeC; rw [e1]; try rfl
  rw [f1]
  have e2 : bv 5 w 17 = rv := by apply BitVec.eq_of_toNat_eq; simp only [bv, BitVec.toNat_ofNat, Nat.reducePow]; omega
  have e3 : bv 5 w 12 = ra := by apply BitVec.eq_of_toNat_eq; simp only [bv, BitVec.toNat_ofNat, Nat.reducePow]; omega
  have e4 : bv 5 w 7 = rc := by apply BitVec.eq_of_toNat_eq; simp only [bv, BitVec.toNat_ofNat, Nat.reducePow]; omega
  have e5 : bv 2 w 5 = o := by apply BitVec.eq_of_toNat_eq; simp only [bv, BitVec.toNat_ofNat, Nat.reducePow]; omega
  have e6 : bv 3 w 2 = sc := by apply BitVec.eq_of_toNat_eq; simp only [bv, BitVec.toNat_ofNat, Nat.reducePow]; omega
  have e7 : bv 2 w 0 = sz := by apply BitVec.eq_of_toNat_eq; simp only [bv, BitVec.toNat_ofNat, Nat.reducePow]; omega
  rw [e2, e3, e4, e5, e6, e7]
theorem xvld (rv : GReg) (ra : GReg) (rc : GReg) (o : BitVec 2) (sc : BitVec 3) : Statement (.xvld rv ra rc o sc) := by
  refine ⟨fun _ hw lone hl stl hn x hx => ?_, fun h => Bool.noConfusion (show false = true from h)⟩
  have h_rv := rv.isLt
  have h_ra := ra.isLt
  have h_rc := rc.isLt
  have h_o := o.isLt
  have h_sc := sc.isLt
  rw [show encodeC (.xvld rv ra rc o sc) = 176160768 + rv.toNat * 131072 + ra.toNat * 4096 + rc.toNat * 128 + o.toNat * 32 + sc.toNat * 4 from rfl]
  obtain ⟨w, hW⟩ : ∃ w, w = 176160768 + rv.toNat * 131072 + ra.toNat * 4096 + rc.toNat * 128 + o.toNat * 32 + sc.toNat * 4 + stl * 268435456 + lone.toNat * 2147483648 := ⟨_, rfl⟩
  rw [← hW]
  have h_l := lone.toNat_lt
  have e1 : fld w 27 22 = 42 := by simp only [fld, Nat.reducePow, Nat.reduceSub, Nat.reduceAdd]; omega
  have f1 : decodeC w x = .instr (.xvld (bv 5 w 17) (bv 5 w 12) (bv 5 w 7) (bv 2 w 5) (bv 3 w 2)) := by unfold decodeC; rw [e1]; try rfl
  rw [f1]
  have e2 : bv 5 w 17 = rv := by apply BitVec.eq_of_toNat_eq; simp only [bv, BitVec.toNat_ofNat, Nat.reducePow]; omega
  have e3 : bv 5 w 12 = ra := by apply BitVec.eq_of_toNat_eq; simp only [bv, BitVec.toNat_ofNat, Nat.reducePow]; omega
  have e4 : bv 5 w 7 = rc := by apply BitVec.eq_of_toNat_eq; simp only [bv, BitVec.toNat_ofNat, Nat.reducePow]; omega
  have e5 : bv 2 w 5 = o := by apply BitVec.eq_of_toNat_eq; simp only [bv, BitVec.toNat_ofNat, Nat.reducePow]; omega
  have e6 : bv 3 w 2 = sc := by apply BitVec.eq_of_toNat_eq; simp only [bv, BitVec.toNat_ofNat, Nat.reducePow]; omega
  rw [e2, e3, e4, e5, e6]
theorem xvst (rv : GReg) (ra : GReg) (rc : GReg) (o : BitVec 2) (sc : BitVec 3) : Statement (.xvst rv ra rc o sc) := by
  refine ⟨fun _ hw lone hl stl hn x hx => ?_, fun h => Bool.noConfusion (show false = true from h)⟩
  have h_rv := rv.isLt
  have h_ra := ra.isLt
  have h_rc := rc.isLt
  have h_o := o.isLt
  have h_sc := sc.isLt
  rw [show encodeC (.xvst rv ra rc o sc) = 180355072 + rv.toNat * 131072 + ra.toNat * 4096 + rc.toNat * 128 + o.toNat * 32 + sc.toNat * 4 from rfl]
  obtain ⟨w, hW⟩ : ∃ w, w = 180355072 + rv.toNat * 131072 + ra.toNat * 4096 + rc.toNat * 128 + o.toNat * 32 + sc.toNat * 4 + stl * 268435456 + lone.toNat * 2147483648 := ⟨_, rfl⟩
  rw [← hW]
  have h_l := lone.toNat_lt
  have e1 : fld w 27 22 = 43 := by simp only [fld, Nat.reducePow, Nat.reduceSub, Nat.reduceAdd]; omega
  have f1 : decodeC w x = .instr (.xvst (bv 5 w 17) (bv 5 w 12) (bv 5 w 7) (bv 2 w 5) (bv 3 w 2)) := by unfold decodeC; rw [e1]; try rfl
  rw [f1]
  have e2 : bv 5 w 17 = rv := by apply BitVec.eq_of_toNat_eq; simp only [bv, BitVec.toNat_ofNat, Nat.reducePow]; omega
  have e3 : bv 5 w 12 = ra := by apply BitVec.eq_of_toNat_eq; simp only [bv, BitVec.toNat_ofNat, Nat.reducePow]; omega
  have e4 : bv 5 w 7 = rc := by apply BitVec.eq_of_toNat_eq; simp only [bv, BitVec.toNat_ofNat, Nat.reducePow]; omega
  have e5 : bv 2 w 5 = o := by apply BitVec.eq_of_toNat_eq; simp only [bv, BitVec.toNat_ofNat, Nat.reducePow]; omega
  have e6 : bv 3 w 2 = sc := by apply BitVec.eq_of_toNat_eq; simp only [bv, BitVec.toNat_ofNat, Nat.reducePow]; omega
  rw [e2, e3, e4, e5, e6]
theorem xamoAdd (rv : GReg) (ra : GReg) (rc : GReg) (o : BitVec 2) (sc : BitVec 3) (dw : Bool) : Statement (.xamoAdd rv ra rc o sc dw) := by
  refine ⟨fun _ hw lone hl stl hn x hx => ?_, fun h => Bool.noConfusion (show false = true from h)⟩
  have h_rv := rv.isLt
  have h_ra := ra.isLt
  have h_rc := rc.isLt
  have h_o := o.isLt
  have h_sc := sc.isLt
  have h_dw := dw.toNat_lt
  obtain rfl : lone = true := by cases lone <;> first | rfl | exact Bool.noConfusion (show false = true from hl)
  replace hx : x = 0 := hx rfl
  rw [show encodeC (.xamoAdd rv ra rc o sc dw) = 184549376 + 2 + rv.toNat * 131072 + ra.toNat * 4096 + rc.toNat * 128 + o.toNat * 32 + sc.toNat * 4 + dw.toNat from rfl]
  rw [show Bool.toNat true = 1 from rfl]
  obtain ⟨w, hW⟩ : ∃ w, w = 184549376 + 2 + rv.toNat * 131072 + ra.toNat * 4096 + rc.toNat * 128 + o.toNat * 32 + sc.toNat * 4 + dw.toNat + stl * 268435456 + 1 * 2147483648 := ⟨_, rfl⟩
  rw [← hW]
  have e1 : fld w 27 22 = 44 := by simp only [fld, Nat.reducePow, Nat.reduceSub, Nat.reduceAdd]; omega
  have f1 : decodeC w x = decC44 w x := by unfold decodeC; rw [e1]; try rfl
  have e3 : fld w 31 31 = 1 := by simp only [fld, Nat.reducePow, Nat.reduceSub, Nat.reduceAdd]; omega
  have e2 : loneBit w = true := by unfold loneBit; rw [e3]; rfl
  have e4 : fld w 1 1 = 1 := by simp only [fld, Nat.reducePow, Nat.reduceSub, Nat.reduceAdd]; omega
  have e5 : fld x 3 0 = 0 := by simp only [fld, Nat.reducePow, Nat.reduceSub, Nat.reduceAdd]; omega
  have f2 : decC44 w x = .instr (.xamoAdd (bv 5 w 17) (bv 5 w 12) (bv 5 w 7) (bv 2 w 5) (bv 3 w 2) (fld w 0 0 == 1)) := by unfold decC44; rw [e2, if_pos rfl, e4, if_pos rfl, e5]; try rfl
  rw [f1, f2]
  have e6 : bv 5 w 17 = rv := by apply BitVec.eq_of_toNat_eq; simp only [bv, BitVec.toNat_ofNat, Nat.reducePow]; omega
  have e7 : bv 5 w 12 = ra := by apply BitVec.eq_of_toNat_eq; simp only [bv, BitVec.toNat_ofNat, Nat.reducePow]; omega
  have e8 : bv 5 w 7 = rc := by apply BitVec.eq_of_toNat_eq; simp only [bv, BitVec.toNat_ofNat, Nat.reducePow]; omega
  have e9 : bv 2 w 5 = o := by apply BitVec.eq_of_toNat_eq; simp only [bv, BitVec.toNat_ofNat, Nat.reducePow]; omega
  have e10 : bv 3 w 2 = sc := by apply BitVec.eq_of_toNat_eq; simp only [bv, BitVec.toNat_ofNat, Nat.reducePow]; omega
  have e11 : fld w 0 0 = dw.toNat := by simp only [fld, Nat.reducePow, Nat.reduceSub, Nat.reduceAdd]; omega
  rw [e6, e7, e8, e9, e10, e11]
  cases dw <;> rfl
theorem xamoAnd (rv : GReg) (ra : GReg) (rc : GReg) (o : BitVec 2) (sc : BitVec 3) (dw : Bool) : Statement (.xamoAnd rv ra rc o sc dw) := by
  refine ⟨fun _ hw lone hl stl hn x hx => ?_, fun h => Bool.noConfusion (show false = true from h)⟩
  have h_rv := rv.isLt
  have h_ra := ra.isLt
  have h_rc := rc.isLt
  have h_o := o.isLt
  have h_sc := sc.isLt
  have h_dw := dw.toNat_lt
  obtain rfl : lone = true := by cases lone <;> first | rfl | exact Bool.noConfusion (show false = true from hl)
  replace hx : x = 1 := hx rfl
  rw [show encodeC (.xamoAnd rv ra rc o sc dw) = 184549376 + 2 + rv.toNat * 131072 + ra.toNat * 4096 + rc.toNat * 128 + o.toNat * 32 + sc.toNat * 4 + dw.toNat from rfl]
  rw [show Bool.toNat true = 1 from rfl]
  obtain ⟨w, hW⟩ : ∃ w, w = 184549376 + 2 + rv.toNat * 131072 + ra.toNat * 4096 + rc.toNat * 128 + o.toNat * 32 + sc.toNat * 4 + dw.toNat + stl * 268435456 + 1 * 2147483648 := ⟨_, rfl⟩
  rw [← hW]
  have e1 : fld w 27 22 = 44 := by simp only [fld, Nat.reducePow, Nat.reduceSub, Nat.reduceAdd]; omega
  have f1 : decodeC w x = decC44 w x := by unfold decodeC; rw [e1]; try rfl
  have e3 : fld w 31 31 = 1 := by simp only [fld, Nat.reducePow, Nat.reduceSub, Nat.reduceAdd]; omega
  have e2 : loneBit w = true := by unfold loneBit; rw [e3]; rfl
  have e4 : fld w 1 1 = 1 := by simp only [fld, Nat.reducePow, Nat.reduceSub, Nat.reduceAdd]; omega
  have e5 : fld x 3 0 = 1 := by simp only [fld, Nat.reducePow, Nat.reduceSub, Nat.reduceAdd]; omega
  have f2 : decC44 w x = .instr (.xamoAnd (bv 5 w 17) (bv 5 w 12) (bv 5 w 7) (bv 2 w 5) (bv 3 w 2) (fld w 0 0 == 1)) := by unfold decC44; rw [e2, if_pos rfl, e4, if_pos rfl, e5]; try rfl
  rw [f1, f2]
  have e6 : bv 5 w 17 = rv := by apply BitVec.eq_of_toNat_eq; simp only [bv, BitVec.toNat_ofNat, Nat.reducePow]; omega
  have e7 : bv 5 w 12 = ra := by apply BitVec.eq_of_toNat_eq; simp only [bv, BitVec.toNat_ofNat, Nat.reducePow]; omega
  have e8 : bv 5 w 7 = rc := by apply BitVec.eq_of_toNat_eq; simp only [bv, BitVec.toNat_ofNat, Nat.reducePow]; omega
  have e9 : bv 2 w 5 = o := by apply BitVec.eq_of_toNat_eq; simp only [bv, BitVec.toNat_ofNat, Nat.reducePow]; omega
  have e10 : bv 3 w 2 = sc := by apply BitVec.eq_of_toNat_eq; simp only [bv, BitVec.toNat_ofNat, Nat.reducePow]; omega
  have e11 : fld w 0 0 = dw.toNat := by simp only [fld, Nat.reducePow, Nat.reduceSub, Nat.reduceAdd]; omega
  rw [e6, e7, e8, e9, e10, e11]
  cases dw <;> rfl
theorem xamoOr (rv : GReg) (ra : GReg) (rc : GReg) (o : BitVec 2) (sc : BitVec 3) (dw : Bool) : Statement (.xamoOr rv ra rc o sc dw) := by
  refine ⟨fun _ hw lone hl stl hn x hx => ?_, fun h => Bool.noConfusion (show false = true from h)⟩
  have h_rv := rv.isLt
  have h_ra := ra.isLt
  have h_rc := rc.isLt
  have h_o := o.isLt
  have h_sc := sc.isLt
  have h_dw := dw.toNat_lt
  obtain rfl : lone = true := by cases lone <;> first | rfl | exact Bool.noConfusion (show false = true from hl)
  replace hx : x = 2 := hx rfl
  rw [show encodeC (.xamoOr rv ra rc o sc dw) = 184549376 + 2 + rv.toNat * 131072 + ra.toNat * 4096 + rc.toNat * 128 + o.toNat * 32 + sc.toNat * 4 + dw.toNat from rfl]
  rw [show Bool.toNat true = 1 from rfl]
  obtain ⟨w, hW⟩ : ∃ w, w = 184549376 + 2 + rv.toNat * 131072 + ra.toNat * 4096 + rc.toNat * 128 + o.toNat * 32 + sc.toNat * 4 + dw.toNat + stl * 268435456 + 1 * 2147483648 := ⟨_, rfl⟩
  rw [← hW]
  have e1 : fld w 27 22 = 44 := by simp only [fld, Nat.reducePow, Nat.reduceSub, Nat.reduceAdd]; omega
  have f1 : decodeC w x = decC44 w x := by unfold decodeC; rw [e1]; try rfl
  have e3 : fld w 31 31 = 1 := by simp only [fld, Nat.reducePow, Nat.reduceSub, Nat.reduceAdd]; omega
  have e2 : loneBit w = true := by unfold loneBit; rw [e3]; rfl
  have e4 : fld w 1 1 = 1 := by simp only [fld, Nat.reducePow, Nat.reduceSub, Nat.reduceAdd]; omega
  have e5 : fld x 3 0 = 2 := by simp only [fld, Nat.reducePow, Nat.reduceSub, Nat.reduceAdd]; omega
  have f2 : decC44 w x = .instr (.xamoOr (bv 5 w 17) (bv 5 w 12) (bv 5 w 7) (bv 2 w 5) (bv 3 w 2) (fld w 0 0 == 1)) := by unfold decC44; rw [e2, if_pos rfl, e4, if_pos rfl, e5]; try rfl
  rw [f1, f2]
  have e6 : bv 5 w 17 = rv := by apply BitVec.eq_of_toNat_eq; simp only [bv, BitVec.toNat_ofNat, Nat.reducePow]; omega
  have e7 : bv 5 w 12 = ra := by apply BitVec.eq_of_toNat_eq; simp only [bv, BitVec.toNat_ofNat, Nat.reducePow]; omega
  have e8 : bv 5 w 7 = rc := by apply BitVec.eq_of_toNat_eq; simp only [bv, BitVec.toNat_ofNat, Nat.reducePow]; omega
  have e9 : bv 2 w 5 = o := by apply BitVec.eq_of_toNat_eq; simp only [bv, BitVec.toNat_ofNat, Nat.reducePow]; omega
  have e10 : bv 3 w 2 = sc := by apply BitVec.eq_of_toNat_eq; simp only [bv, BitVec.toNat_ofNat, Nat.reducePow]; omega
  have e11 : fld w 0 0 = dw.toNat := by simp only [fld, Nat.reducePow, Nat.reduceSub, Nat.reduceAdd]; omega
  rw [e6, e7, e8, e9, e10, e11]
  cases dw <;> rfl
theorem xamoXor (rv : GReg) (ra : GReg) (rc : GReg) (o : BitVec 2) (sc : BitVec 3) (dw : Bool) : Statement (.xamoXor rv ra rc o sc dw) := by
  refine ⟨fun _ hw lone hl stl hn x hx => ?_, fun h => Bool.noConfusion (show false = true from h)⟩
  have h_rv := rv.isLt
  have h_ra := ra.isLt
  have h_rc := rc.isLt
  have h_o := o.isLt
  have h_sc := sc.isLt
  have h_dw := dw.toNat_lt
  obtain rfl : lone = true := by cases lone <;> first | rfl | exact Bool.noConfusion (show false = true from hl)
  replace hx : x = 3 := hx rfl
  rw [show encodeC (.xamoXor rv ra rc o sc dw) = 184549376 + 2 + rv.toNat * 131072 + ra.toNat * 4096 + rc.toNat * 128 + o.toNat * 32 + sc.toNat * 4 + dw.toNat from rfl]
  rw [show Bool.toNat true = 1 from rfl]
  obtain ⟨w, hW⟩ : ∃ w, w = 184549376 + 2 + rv.toNat * 131072 + ra.toNat * 4096 + rc.toNat * 128 + o.toNat * 32 + sc.toNat * 4 + dw.toNat + stl * 268435456 + 1 * 2147483648 := ⟨_, rfl⟩
  rw [← hW]
  have e1 : fld w 27 22 = 44 := by simp only [fld, Nat.reducePow, Nat.reduceSub, Nat.reduceAdd]; omega
  have f1 : decodeC w x = decC44 w x := by unfold decodeC; rw [e1]; try rfl
  have e3 : fld w 31 31 = 1 := by simp only [fld, Nat.reducePow, Nat.reduceSub, Nat.reduceAdd]; omega
  have e2 : loneBit w = true := by unfold loneBit; rw [e3]; rfl
  have e4 : fld w 1 1 = 1 := by simp only [fld, Nat.reducePow, Nat.reduceSub, Nat.reduceAdd]; omega
  have e5 : fld x 3 0 = 3 := by simp only [fld, Nat.reducePow, Nat.reduceSub, Nat.reduceAdd]; omega
  have f2 : decC44 w x = .instr (.xamoXor (bv 5 w 17) (bv 5 w 12) (bv 5 w 7) (bv 2 w 5) (bv 3 w 2) (fld w 0 0 == 1)) := by unfold decC44; rw [e2, if_pos rfl, e4, if_pos rfl, e5]; try rfl
  rw [f1, f2]
  have e6 : bv 5 w 17 = rv := by apply BitVec.eq_of_toNat_eq; simp only [bv, BitVec.toNat_ofNat, Nat.reducePow]; omega
  have e7 : bv 5 w 12 = ra := by apply BitVec.eq_of_toNat_eq; simp only [bv, BitVec.toNat_ofNat, Nat.reducePow]; omega
  have e8 : bv 5 w 7 = rc := by apply BitVec.eq_of_toNat_eq; simp only [bv, BitVec.toNat_ofNat, Nat.reducePow]; omega
  have e9 : bv 2 w 5 = o := by apply BitVec.eq_of_toNat_eq; simp only [bv, BitVec.toNat_ofNat, Nat.reducePow]; omega
  have e10 : bv 3 w 2 = sc := by apply BitVec.eq_of_toNat_eq; simp only [bv, BitVec.toNat_ofNat, Nat.reducePow]; omega
  have e11 : fld w 0 0 = dw.toNat := by simp only [fld, Nat.reducePow, Nat.reduceSub, Nat.reduceAdd]; omega
  rw [e6, e7, e8, e9, e10, e11]
  cases dw <;> rfl
theorem xamoMin (rv : GReg) (ra : GReg) (rc : GReg) (o : BitVec 2) (sc : BitVec 3) (dw : Bool) : Statement (.xamoMin rv ra rc o sc dw) := by
  refine ⟨fun _ hw lone hl stl hn x hx => ?_, fun h => Bool.noConfusion (show false = true from h)⟩
  have h_rv := rv.isLt
  have h_ra := ra.isLt
  have h_rc := rc.isLt
  have h_o := o.isLt
  have h_sc := sc.isLt
  have h_dw := dw.toNat_lt
  obtain rfl : lone = true := by cases lone <;> first | rfl | exact Bool.noConfusion (show false = true from hl)
  replace hx : x = 4 := hx rfl
  rw [show encodeC (.xamoMin rv ra rc o sc dw) = 184549376 + 2 + rv.toNat * 131072 + ra.toNat * 4096 + rc.toNat * 128 + o.toNat * 32 + sc.toNat * 4 + dw.toNat from rfl]
  rw [show Bool.toNat true = 1 from rfl]
  obtain ⟨w, hW⟩ : ∃ w, w = 184549376 + 2 + rv.toNat * 131072 + ra.toNat * 4096 + rc.toNat * 128 + o.toNat * 32 + sc.toNat * 4 + dw.toNat + stl * 268435456 + 1 * 2147483648 := ⟨_, rfl⟩
  rw [← hW]
  have e1 : fld w 27 22 = 44 := by simp only [fld, Nat.reducePow, Nat.reduceSub, Nat.reduceAdd]; omega
  have f1 : decodeC w x = decC44 w x := by unfold decodeC; rw [e1]; try rfl
  have e3 : fld w 31 31 = 1 := by simp only [fld, Nat.reducePow, Nat.reduceSub, Nat.reduceAdd]; omega
  have e2 : loneBit w = true := by unfold loneBit; rw [e3]; rfl
  have e4 : fld w 1 1 = 1 := by simp only [fld, Nat.reducePow, Nat.reduceSub, Nat.reduceAdd]; omega
  have e5 : fld x 3 0 = 4 := by simp only [fld, Nat.reducePow, Nat.reduceSub, Nat.reduceAdd]; omega
  have f2 : decC44 w x = .instr (.xamoMin (bv 5 w 17) (bv 5 w 12) (bv 5 w 7) (bv 2 w 5) (bv 3 w 2) (fld w 0 0 == 1)) := by unfold decC44; rw [e2, if_pos rfl, e4, if_pos rfl, e5]; try rfl
  rw [f1, f2]
  have e6 : bv 5 w 17 = rv := by apply BitVec.eq_of_toNat_eq; simp only [bv, BitVec.toNat_ofNat, Nat.reducePow]; omega
  have e7 : bv 5 w 12 = ra := by apply BitVec.eq_of_toNat_eq; simp only [bv, BitVec.toNat_ofNat, Nat.reducePow]; omega
  have e8 : bv 5 w 7 = rc := by apply BitVec.eq_of_toNat_eq; simp only [bv, BitVec.toNat_ofNat, Nat.reducePow]; omega
  have e9 : bv 2 w 5 = o := by apply BitVec.eq_of_toNat_eq; simp only [bv, BitVec.toNat_ofNat, Nat.reducePow]; omega
  have e10 : bv 3 w 2 = sc := by apply BitVec.eq_of_toNat_eq; simp only [bv, BitVec.toNat_ofNat, Nat.reducePow]; omega
  have e11 : fld w 0 0 = dw.toNat := by simp only [fld, Nat.reducePow, Nat.reduceSub, Nat.reduceAdd]; omega
  rw [e6, e7, e8, e9, e10, e11]
  cases dw <;> rfl
theorem xamoMax (rv : GReg) (ra : GReg) (rc : GReg) (o : BitVec 2) (sc : BitVec 3) (dw : Bool) : Statement (.xamoMax rv ra rc o sc dw) := by
  refine ⟨fun _ hw lone hl stl hn x hx => ?_, fun h => Bool.noConfusion (show false = true from h)⟩
  have h_rv := rv.isLt
  have h_ra := ra.isLt
  have h_rc := rc.isLt
  have h_o := o.isLt
  have h_sc := sc.isLt
  have h_dw := dw.toNat_lt
  obtain rfl : lone = true := by cases lone <;> first | rfl | exact Bool.noConfusion (show false = true from hl)
  replace hx : x = 5 := hx rfl
  rw [show encodeC (.xamoMax rv ra rc o sc dw) = 184549376 + 2 + rv.toNat * 131072 + ra.toNat * 4096 + rc.toNat * 128 + o.toNat * 32 + sc.toNat * 4 + dw.toNat from rfl]
  rw [show Bool.toNat true = 1 from rfl]
  obtain ⟨w, hW⟩ : ∃ w, w = 184549376 + 2 + rv.toNat * 131072 + ra.toNat * 4096 + rc.toNat * 128 + o.toNat * 32 + sc.toNat * 4 + dw.toNat + stl * 268435456 + 1 * 2147483648 := ⟨_, rfl⟩
  rw [← hW]
  have e1 : fld w 27 22 = 44 := by simp only [fld, Nat.reducePow, Nat.reduceSub, Nat.reduceAdd]; omega
  have f1 : decodeC w x = decC44 w x := by unfold decodeC; rw [e1]; try rfl
  have e3 : fld w 31 31 = 1 := by simp only [fld, Nat.reducePow, Nat.reduceSub, Nat.reduceAdd]; omega
  have e2 : loneBit w = true := by unfold loneBit; rw [e3]; rfl
  have e4 : fld w 1 1 = 1 := by simp only [fld, Nat.reducePow, Nat.reduceSub, Nat.reduceAdd]; omega
  have e5 : fld x 3 0 = 5 := by simp only [fld, Nat.reducePow, Nat.reduceSub, Nat.reduceAdd]; omega
  have f2 : decC44 w x = .instr (.xamoMax (bv 5 w 17) (bv 5 w 12) (bv 5 w 7) (bv 2 w 5) (bv 3 w 2) (fld w 0 0 == 1)) := by unfold decC44; rw [e2, if_pos rfl, e4, if_pos rfl, e5]; try rfl
  rw [f1, f2]
  have e6 : bv 5 w 17 = rv := by apply BitVec.eq_of_toNat_eq; simp only [bv, BitVec.toNat_ofNat, Nat.reducePow]; omega
  have e7 : bv 5 w 12 = ra := by apply BitVec.eq_of_toNat_eq; simp only [bv, BitVec.toNat_ofNat, Nat.reducePow]; omega
  have e8 : bv 5 w 7 = rc := by apply BitVec.eq_of_toNat_eq; simp only [bv, BitVec.toNat_ofNat, Nat.reducePow]; omega
  have e9 : bv 2 w 5 = o := by apply BitVec.eq_of_toNat_eq; simp only [bv, BitVec.toNat_ofNat, Nat.reducePow]; omega
  have e10 : bv 3 w 2 = sc := by apply BitVec.eq_of_toNat_eq; simp only [bv, BitVec.toNat_ofNat, Nat.reducePow]; omega
  have e11 : fld w 0 0 = dw.toNat := by simp only [fld, Nat.reducePow, Nat.reduceSub, Nat.reduceAdd]; omega
  rw [e6, e7, e8, e9, e10, e11]
  cases dw <;> rfl
theorem xamoMinn (rv : GReg) (ra : GReg) (rc : GReg) (o : BitVec 2) (sc : BitVec 3) (dw : Bool) : Statement (.xamoMinn rv ra rc o sc dw) := by
  refine ⟨fun _ hw lone hl stl hn x hx => ?_, fun h => Bool.noConfusion (show false = true from h)⟩
  have h_rv := rv.isLt
  have h_ra := ra.isLt
  have h_rc := rc.isLt
  have h_o := o.isLt
  have h_sc := sc.isLt
  have h_dw := dw.toNat_lt
  obtain rfl : lone = true := by cases lone <;> first | rfl | exact Bool.noConfusion (show false = true from hl)
  replace hx : x = 6 := hx rfl
  rw [show encodeC (.xamoMinn rv ra rc o sc dw) = 184549376 + 2 + rv.toNat * 131072 + ra.toNat * 4096 + rc.toNat * 128 + o.toNat * 32 + sc.toNat * 4 + dw.toNat from rfl]
  rw [show Bool.toNat true = 1 from rfl]
  obtain ⟨w, hW⟩ : ∃ w, w = 184549376 + 2 + rv.toNat * 131072 + ra.toNat * 4096 + rc.toNat * 128 + o.toNat * 32 + sc.toNat * 4 + dw.toNat + stl * 268435456 + 1 * 2147483648 := ⟨_, rfl⟩
  rw [← hW]
  have e1 : fld w 27 22 = 44 := by simp only [fld, Nat.reducePow, Nat.reduceSub, Nat.reduceAdd]; omega
  have f1 : decodeC w x = decC44 w x := by unfold decodeC; rw [e1]; try rfl
  have e3 : fld w 31 31 = 1 := by simp only [fld, Nat.reducePow, Nat.reduceSub, Nat.reduceAdd]; omega
  have e2 : loneBit w = true := by unfold loneBit; rw [e3]; rfl
  have e4 : fld w 1 1 = 1 := by simp only [fld, Nat.reducePow, Nat.reduceSub, Nat.reduceAdd]; omega
  have e5 : fld x 3 0 = 6 := by simp only [fld, Nat.reducePow, Nat.reduceSub, Nat.reduceAdd]; omega
  have f2 : decC44 w x = .instr (.xamoMinn (bv 5 w 17) (bv 5 w 12) (bv 5 w 7) (bv 2 w 5) (bv 3 w 2) (fld w 0 0 == 1)) := by unfold decC44; rw [e2, if_pos rfl, e4, if_pos rfl, e5]; try rfl
  rw [f1, f2]
  have e6 : bv 5 w 17 = rv := by apply BitVec.eq_of_toNat_eq; simp only [bv, BitVec.toNat_ofNat, Nat.reducePow]; omega
  have e7 : bv 5 w 12 = ra := by apply BitVec.eq_of_toNat_eq; simp only [bv, BitVec.toNat_ofNat, Nat.reducePow]; omega
  have e8 : bv 5 w 7 = rc := by apply BitVec.eq_of_toNat_eq; simp only [bv, BitVec.toNat_ofNat, Nat.reducePow]; omega
  have e9 : bv 2 w 5 = o := by apply BitVec.eq_of_toNat_eq; simp only [bv, BitVec.toNat_ofNat, Nat.reducePow]; omega
  have e10 : bv 3 w 2 = sc := by apply BitVec.eq_of_toNat_eq; simp only [bv, BitVec.toNat_ofNat, Nat.reducePow]; omega
  have e11 : fld w 0 0 = dw.toNat := by simp only [fld, Nat.reducePow, Nat.reduceSub, Nat.reduceAdd]; omega
  rw [e6, e7, e8, e9, e10, e11]
  cases dw <;> rfl
theorem xamoMaxn (rv : GReg) (ra : GReg) (rc : GReg) (o : BitVec 2) (sc : BitVec 3) (dw : Bool) : Statement (.xamoMaxn rv ra rc o sc dw) := by
  refine ⟨fun _ hw lone hl stl hn x hx => ?_, fun h => Bool.noConfusion (show false = true from h)⟩
  have h_rv := rv.isLt
  have h_ra := ra.isLt
  have h_rc := rc.isLt
  have h_o := o.isLt
  have h_sc := sc.isLt
  have h_dw := dw.toNat_lt
  obtain rfl : lone = true := by cases lone <;> first | rfl | exact Bool.noConfusion (show false = true from hl)
  replace hx : x = 7 := hx rfl
  rw [show encodeC (.xamoMaxn rv ra rc o sc dw) = 184549376 + 2 + rv.toNat * 131072 + ra.toNat * 4096 + rc.toNat * 128 + o.toNat * 32 + sc.toNat * 4 + dw.toNat from rfl]
  rw [show Bool.toNat true = 1 from rfl]
  obtain ⟨w, hW⟩ : ∃ w, w = 184549376 + 2 + rv.toNat * 131072 + ra.toNat * 4096 + rc.toNat * 128 + o.toNat * 32 + sc.toNat * 4 + dw.toNat + stl * 268435456 + 1 * 2147483648 := ⟨_, rfl⟩
  rw [← hW]
  have e1 : fld w 27 22 = 44 := by simp only [fld, Nat.reducePow, Nat.reduceSub, Nat.reduceAdd]; omega
  have f1 : decodeC w x = decC44 w x := by unfold decodeC; rw [e1]; try rfl
  have e3 : fld w 31 31 = 1 := by simp only [fld, Nat.reducePow, Nat.reduceSub, Nat.reduceAdd]; omega
  have e2 : loneBit w = true := by unfold loneBit; rw [e3]; rfl
  have e4 : fld w 1 1 = 1 := by simp only [fld, Nat.reducePow, Nat.reduceSub, Nat.reduceAdd]; omega
  have e5 : fld x 3 0 = 7 := by simp only [fld, Nat.reducePow, Nat.reduceSub, Nat.reduceAdd]; omega
  have f2 : decC44 w x = .instr (.xamoMaxn (bv 5 w 17) (bv 5 w 12) (bv 5 w 7) (bv 2 w 5) (bv 3 w 2) (fld w 0 0 == 1)) := by unfold decC44; rw [e2, if_pos rfl, e4, if_pos rfl, e5]; try rfl
  rw [f1, f2]
  have e6 : bv 5 w 17 = rv := by apply BitVec.eq_of_toNat_eq; simp only [bv, BitVec.toNat_ofNat, Nat.reducePow]; omega
  have e7 : bv 5 w 12 = ra := by apply BitVec.eq_of_toNat_eq; simp only [bv, BitVec.toNat_ofNat, Nat.reducePow]; omega
  have e8 : bv 5 w 7 = rc := by apply BitVec.eq_of_toNat_eq; simp only [bv, BitVec.toNat_ofNat, Nat.reducePow]; omega
  have e9 : bv 2 w 5 = o := by apply BitVec.eq_of_toNat_eq; simp only [bv, BitVec.toNat_ofNat, Nat.reducePow]; omega
  have e10 : bv 3 w 2 = sc := by apply BitVec.eq_of_toNat_eq; simp only [bv, BitVec.toNat_ofNat, Nat.reducePow]; omega
  have e11 : fld w 0 0 = dw.toNat := by simp only [fld, Nat.reducePow, Nat.reduceSub, Nat.reduceAdd]; omega
  rw [e6, e7, e8, e9, e10, e11]
  cases dw <;> rfl
theorem xamoSwap (rv : GReg) (ra : GReg) (rc : GReg) (o : BitVec 2) (sc : BitVec 3) (dw : Bool) : Statement (.xamoSwap rv ra rc o sc dw) := by
  refine ⟨fun _ hw lone hl stl hn x hx => ?_, fun h => Bool.noConfusion (show false = true from h)⟩
  have h_rv := rv.isLt
  have h_ra := ra.isLt
  have h_rc := rc.isLt
  have h_o := o.isLt
  have h_sc := sc.isLt
  have h_dw := dw.toNat_lt
  obtain rfl : lone = true := by cases lone <;> first | rfl | exact Bool.noConfusion (show false = true from hl)
  replace hx : x = 8 := hx rfl
  rw [show encodeC (.xamoSwap rv ra rc o sc dw) = 184549376 + 2 + rv.toNat * 131072 + ra.toNat * 4096 + rc.toNat * 128 + o.toNat * 32 + sc.toNat * 4 + dw.toNat from rfl]
  rw [show Bool.toNat true = 1 from rfl]
  obtain ⟨w, hW⟩ : ∃ w, w = 184549376 + 2 + rv.toNat * 131072 + ra.toNat * 4096 + rc.toNat * 128 + o.toNat * 32 + sc.toNat * 4 + dw.toNat + stl * 268435456 + 1 * 2147483648 := ⟨_, rfl⟩
  rw [← hW]
  have e1 : fld w 27 22 = 44 := by simp only [fld, Nat.reducePow, Nat.reduceSub, Nat.reduceAdd]; omega
  have f1 : decodeC w x = decC44 w x := by unfold decodeC; rw [e1]; try rfl
  have e3 : fld w 31 31 = 1 := by simp only [fld, Nat.reducePow, Nat.reduceSub, Nat.reduceAdd]; omega
  have e2 : loneBit w = true := by unfold loneBit; rw [e3]; rfl
  have e4 : fld w 1 1 = 1 := by simp only [fld, Nat.reducePow, Nat.reduceSub, Nat.reduceAdd]; omega
  have e5 : fld x 3 0 = 8 := by simp only [fld, Nat.reducePow, Nat.reduceSub, Nat.reduceAdd]; omega
  have f2 : decC44 w x = .instr (.xamoSwap (bv 5 w 17) (bv 5 w 12) (bv 5 w 7) (bv 2 w 5) (bv 3 w 2) (fld w 0 0 == 1)) := by unfold decC44; rw [e2, if_pos rfl, e4, if_pos rfl, e5]; try rfl
  rw [f1, f2]
  have e6 : bv 5 w 17 = rv := by apply BitVec.eq_of_toNat_eq; simp only [bv, BitVec.toNat_ofNat, Nat.reducePow]; omega
  have e7 : bv 5 w 12 = ra := by apply BitVec.eq_of_toNat_eq; simp only [bv, BitVec.toNat_ofNat, Nat.reducePow]; omega
  have e8 : bv 5 w 7 = rc := by apply BitVec.eq_of_toNat_eq; simp only [bv, BitVec.toNat_ofNat, Nat.reducePow]; omega
  have e9 : bv 2 w 5 = o := by apply BitVec.eq_of_toNat_eq; simp only [bv, BitVec.toNat_ofNat, Nat.reducePow]; omega
  have e10 : bv 3 w 2 = sc := by apply BitVec.eq_of_toNat_eq; simp only [bv, BitVec.toNat_ofNat, Nat.reducePow]; omega
  have e11 : fld w 0 0 = dw.toNat := by simp only [fld, Nat.reducePow, Nat.reduceSub, Nat.reduceAdd]; omega
  rw [e6, e7, e8, e9, e10, e11]
  cases dw <;> rfl
theorem xamoFadd (rv : GReg) (ra : GReg) (rc : GReg) (o : BitVec 2) (sc : BitVec 3) (dw : Bool) : Statement (.xamoFadd rv ra rc o sc dw) := by
  refine ⟨fun _ hw lone hl stl hn x hx => ?_, fun h => Bool.noConfusion (show false = true from h)⟩
  have h_rv := rv.isLt
  have h_ra := ra.isLt
  have h_rc := rc.isLt
  have h_o := o.isLt
  have h_sc := sc.isLt
  have h_dw := dw.toNat_lt
  obtain rfl : lone = true := by cases lone <;> first | rfl | exact Bool.noConfusion (show false = true from hl)
  replace hx : x = 9 := hx rfl
  rw [show encodeC (.xamoFadd rv ra rc o sc dw) = 184549376 + 2 + rv.toNat * 131072 + ra.toNat * 4096 + rc.toNat * 128 + o.toNat * 32 + sc.toNat * 4 + dw.toNat from rfl]
  rw [show Bool.toNat true = 1 from rfl]
  obtain ⟨w, hW⟩ : ∃ w, w = 184549376 + 2 + rv.toNat * 131072 + ra.toNat * 4096 + rc.toNat * 128 + o.toNat * 32 + sc.toNat * 4 + dw.toNat + stl * 268435456 + 1 * 2147483648 := ⟨_, rfl⟩
  rw [← hW]
  have e1 : fld w 27 22 = 44 := by simp only [fld, Nat.reducePow, Nat.reduceSub, Nat.reduceAdd]; omega
  have f1 : decodeC w x = decC44 w x := by unfold decodeC; rw [e1]; try rfl
  have e3 : fld w 31 31 = 1 := by simp only [fld, Nat.reducePow, Nat.reduceSub, Nat.reduceAdd]; omega
  have e2 : loneBit w = true := by unfold loneBit; rw [e3]; rfl
  have e4 : fld w 1 1 = 1 := by simp only [fld, Nat.reducePow, Nat.reduceSub, Nat.reduceAdd]; omega
  have e5 : fld x 3 0 = 9 := by simp only [fld, Nat.reducePow, Nat.reduceSub, Nat.reduceAdd]; omega
  have f2 : decC44 w x = .instr (.xamoFadd (bv 5 w 17) (bv 5 w 12) (bv 5 w 7) (bv 2 w 5) (bv 3 w 2) (fld w 0 0 == 1)) := by unfold decC44; rw [e2, if_pos rfl, e4, if_pos rfl, e5]; try rfl
  rw [f1, f2]
  have e6 : bv 5 w 17 = rv := by apply BitVec.eq_of_toNat_eq; simp only [bv, BitVec.toNat_ofNat, Nat.reducePow]; omega
  have e7 : bv 5 w 12 = ra := by apply BitVec.eq_of_toNat_eq; simp only [bv, BitVec.toNat_ofNat, Nat.reducePow]; omega
  have e8 : bv 5 w 7 = rc := by apply BitVec.eq_of_toNat_eq; simp only [bv, BitVec.toNat_ofNat, Nat.reducePow]; omega
  have e9 : bv 2 w 5 = o := by apply BitVec.eq_of_toNat_eq; simp only [bv, BitVec.toNat_ofNat, Nat.reducePow]; omega
  have e10 : bv 3 w 2 = sc := by apply BitVec.eq_of_toNat_eq; simp only [bv, BitVec.toNat_ofNat, Nat.reducePow]; omega
  have e11 : fld w 0 0 = dw.toNat := by simp only [fld, Nat.reducePow, Nat.reduceSub, Nat.reduceAdd]; omega
  rw [e6, e7, e8, e9, e10, e11]
  cases dw <;> rfl
theorem xcas (rv : GReg) (ra : GReg) (rc : GReg) (o : BitVec 2) (sc : BitVec 3) (dw : Bool) : Statement (.xcas rv ra rc o sc dw) := by
  refine ⟨fun _ hw lone hl stl hn x hx => ?_, fun h => Bool.noConfusion (show false = true from h)⟩
  have h_rv := rv.isLt
  have h_ra := ra.isLt
  have h_rc := rc.isLt
  have h_o := o.isLt
  have h_sc := sc.isLt
  have h_dw := dw.toNat_lt
  replace hw : (rv.toNat != 31 : Bool) = true := hw
  rw [show encodeC (.xcas rv ra rc o sc dw) = 188743680 + 2 + rv.toNat * 131072 + ra.toNat * 4096 + rc.toNat * 128 + o.toNat * 32 + sc.toNat * 4 + dw.toNat from rfl]
  obtain ⟨w, hW⟩ : ∃ w, w = 188743680 + 2 + rv.toNat * 131072 + ra.toNat * 4096 + rc.toNat * 128 + o.toNat * 32 + sc.toNat * 4 + dw.toNat + stl * 268435456 + lone.toNat * 2147483648 := ⟨_, rfl⟩
  rw [← hW]
  have h_l := lone.toNat_lt
  have e1 : fld w 27 22 = 45 := by simp only [fld, Nat.reducePow, Nat.reduceSub, Nat.reduceAdd]; omega
  have f1 : decodeC w x = decC45 w := by unfold decodeC; rw [e1]; try rfl
  have e2 : fld w 1 1 = 1 := by simp only [fld, Nat.reducePow, Nat.reduceSub, Nat.reduceAdd]; omega
  have f2 : decC45 w = if fld w 21 17 ≠ 31 then .instr (.xcas (bv 5 w 17) (bv 5 w 12) (bv 5 w 7) (bv 2 w 5) (bv 3 w 2) (fld w 0 0 == 1)) else .bad .operand := by unfold decC45; rw [e2]; try rfl
  rw [f1, f2]
  have e3 : fld w 21 17 = rv.toNat := by simp only [fld, Nat.reducePow, Nat.reduceSub, Nat.reduceAdd]; omega
  rw [if_pos (show fld w 21 17 ≠ 31 from by rw [e3]; first | done | decide | (simp at hw ⊢; omega) | (simp [tyBF] at hw ⊢; omega))]
  have e4 : bv 5 w 17 = rv := by apply BitVec.eq_of_toNat_eq; simp only [bv, BitVec.toNat_ofNat, Nat.reducePow]; omega
  have e5 : bv 5 w 12 = ra := by apply BitVec.eq_of_toNat_eq; simp only [bv, BitVec.toNat_ofNat, Nat.reducePow]; omega
  have e6 : bv 5 w 7 = rc := by apply BitVec.eq_of_toNat_eq; simp only [bv, BitVec.toNat_ofNat, Nat.reducePow]; omega
  have e7 : bv 2 w 5 = o := by apply BitVec.eq_of_toNat_eq; simp only [bv, BitVec.toNat_ofNat, Nat.reducePow]; omega
  have e8 : bv 3 w 2 = sc := by apply BitVec.eq_of_toNat_eq; simp only [bv, BitVec.toNat_ofNat, Nat.reducePow]; omega
  have e9 : fld w 0 0 = dw.toNat := by simp only [fld, Nat.reducePow, Nat.reduceSub, Nat.reduceAdd]; omega
  rw [e4, e5, e6, e7, e8, e9]
  cases dw <;> rfl
theorem post (e : BitVec 4) : Statement (.post e) := by
  refine ⟨fun _ hw lone hl stl hn x hx => ?_, fun h => Bool.noConfusion (show false = true from h)⟩
  have h_e := e.isLt
  rw [show encodeC (.post e) = 192937984 + e.toNat * 128 from rfl]
  obtain ⟨w, hW⟩ : ∃ w, w = 192937984 + e.toNat * 128 + stl * 268435456 + lone.toNat * 2147483648 := ⟨_, rfl⟩
  rw [← hW]
  have h_l := lone.toNat_lt
  have e1 : fld w 27 22 = 46 := by simp only [fld, Nat.reducePow, Nat.reduceSub, Nat.reduceAdd]; omega
  have f1 : decodeC w x = decC46 w := by unfold decodeC; rw [e1]; try rfl
  have e2 : fld w 6 0 = 0 := by simp only [fld, Nat.reducePow, Nat.reduceSub, Nat.reduceAdd]; omega
  have f2 : decC46 w = if fld w 11 11 = 0 then (.instr (.post (bv 4 w 7))) else .bad .operand := by unfold decC46; rw [e2]; try rfl
  rw [f1, f2]
  have e3 : fld w 11 11 = 0 := by simp only [fld, Nat.reducePow, Nat.reduceSub, Nat.reduceAdd]; omega
  rw [if_pos (show fld w 11 11 = 0 from by rw [e3]; first | done | decide | (simp at hw ⊢; omega) | (simp [tyBF] at hw ⊢; omega))]
  have e4 : bv 4 w 7 = e := by apply BitVec.eq_of_toNat_eq; simp only [bv, BitVec.toNat_ofNat, Nat.reducePow]; omega
  rw [e4]
theorem qnext (rd : GReg) : Statement (.qnext rd) := by
  refine ⟨fun _ hw lone hl stl hn x hx => ?_, fun h => Bool.noConfusion (show false = true from h)⟩
  have h_rd := rd.isLt
  rw [show encodeC (.qnext rd) = 192937984 + 1 + rd.toNat * 131072 from rfl]
  obtain ⟨w, hW⟩ : ∃ w, w = 192937984 + 1 + rd.toNat * 131072 + stl * 268435456 + lone.toNat * 2147483648 := ⟨_, rfl⟩
  rw [← hW]
  have h_l := lone.toNat_lt
  have e1 : fld w 27 22 = 46 := by simp only [fld, Nat.reducePow, Nat.reduceSub, Nat.reduceAdd]; omega
  have f1 : decodeC w x = decC46 w := by unfold decodeC; rw [e1]; try rfl
  have e2 : fld w 6 0 = 1 := by simp only [fld, Nat.reducePow, Nat.reduceSub, Nat.reduceAdd]; omega
  have f2 : decC46 w = .instr (.qnext (bv 5 w 17)) := by unfold decC46; rw [e2]; try rfl
  rw [f1, f2]
  have e3 : bv 5 w 17 = rd := by apply BitVec.eq_of_toNat_eq; simp only [bv, BitVec.toNat_ofNat, Nat.reducePow]; omega
  rw [e3]
theorem xsend (r1 : GReg) (r2 : GReg) (r3 : GReg) (p : BitVec 8) (n : BitVec 5) (tag : BitVec 16) : Statement (.xsend r1 r2 r3 p n tag) := by
  refine ⟨fun _ hw lone hl stl hn x hx => ?_, fun h => Bool.noConfusion (show false = true from h)⟩
  have h_r1 := r1.isLt
  have h_r2 := r2.isLt
  have h_r3 := r3.isLt
  have h_p := p.isLt
  have h_n := n.isLt
  have h_tag := tag.isLt
  replace hw : (64 ≤ p.toNat && n.toNat ≤ 15 : Bool) = true := hw
  obtain rfl : lone = true := by cases lone <;> first | rfl | exact Bool.noConfusion (show false = true from hl)
  replace hx : x = p.toNat + n.toNat * 256 + tag.toNat * 8192 := hx rfl
  rw [show encodeC (.xsend r1 r2 r3 p n tag) = 197132288 + r1.toNat * 131072 + r2.toNat * 4096 + r3.toNat * 128 from rfl]
  rw [show Bool.toNat true = 1 from rfl]
  obtain ⟨w, hW⟩ : ∃ w, w = 197132288 + r1.toNat * 131072 + r2.toNat * 4096 + r3.toNat * 128 + stl * 268435456 + 1 * 2147483648 := ⟨_, rfl⟩
  rw [← hW]
  have e1 : fld w 27 22 = 47 := by simp only [fld, Nat.reducePow, Nat.reduceSub, Nat.reduceAdd]; omega
  have f1 : decodeC w x = decC47 w x := by unfold decodeC; rw [e1]; try rfl
  have e2 : fld w 1 0 = 0 := by simp only [fld, Nat.reducePow, Nat.reduceSub, Nat.reduceAdd]; omega
  have f2 : decC47 w x = if loneBit w then (if 64 ≤ fld x 7 0 ∧ fld x 12 8 ≤ 15 then .instr (.xsend (bv 5 w 17) (bv 5 w 12) (bv 5 w 7) (bv 8 x 0) (bv 5 x 8) (bv 16 x 13)) else .bad .operand) else .bad .needsX := by unfold decC47; rw [e2]; try rfl
  rw [f1, f2]
  have e4 : fld w 31 31 = 1 := by simp only [fld, Nat.reducePow, Nat.reduceSub, Nat.reduceAdd]; omega
  have e3 : loneBit w = true := by unfold loneBit; rw [e4]; rfl
  rw [if_pos (show loneBit w from by rw [e3]; first | done | decide | (simp at hw ⊢; omega) | (simp [tyBF] at hw ⊢; omega))]
  have e5 : fld x 7 0 = p.toNat := by simp only [fld, Nat.reducePow, Nat.reduceSub, Nat.reduceAdd]; omega
  have e6 : fld x 12 8 = n.toNat := by simp only [fld, Nat.reducePow, Nat.reduceSub, Nat.reduceAdd]; omega
  rw [if_pos (show 64 ≤ fld x 7 0 ∧ fld x 12 8 ≤ 15 from by rw [e5, e6]; first | done | decide | (simp at hw ⊢; omega) | (simp [tyBF] at hw ⊢; omega))]
  have e7 : bv 5 w 17 = r1 := by apply BitVec.eq_of_toNat_eq; simp only [bv, BitVec.toNat_ofNat, Nat.reducePow]; omega
  have e8 : bv 5 w 12 = r2 := by apply BitVec.eq_of_toNat_eq; simp only [bv, BitVec.toNat_ofNat, Nat.reducePow]; omega
  have e9 : bv 5 w 7 = r3 := by apply BitVec.eq_of_toNat_eq; simp only [bv, BitVec.toNat_ofNat, Nat.reducePow]; omega
  have e10 : bv 8 x 0 = p := by apply BitVec.eq_of_toNat_eq; simp only [bv, BitVec.toNat_ofNat, Nat.reducePow]; omega
  have e11 : bv 5 x 8 = n := by apply BitVec.eq_of_toNat_eq; simp only [bv, BitVec.toNat_ofNat, Nat.reducePow]; omega
  have e12 : bv 16 x 13 = tag := by apply BitVec.eq_of_toNat_eq; simp only [bv, BitVec.toNat_ofNat, Nat.reducePow]; omega
  rw [e7, e8, e9, e10, e11, e12]
theorem mmaE4m3E4m3 (ra : GReg) (rb : GReg) (rs : GReg) (kb : BitVec 2) (ba : BitVec 2) (bb : BitVec 2) (ap : Bool) : Statement (.mmaE4m3E4m3 ra rb rs kb ba bb ap) := by
  refine ⟨fun _ hw lone hl stl hn x hx => ?_, fun h => Bool.noConfusion (show false = true from h)⟩
  have h_ra := ra.isLt
  have h_rb := rb.isLt
  have h_rs := rs.isLt
  have h_kb := kb.isLt
  have h_ba := ba.isLt
  have h_bb := bb.isLt
  have h_ap := ap.toNat_lt
  replace hw : (ba.toNat ≤ kb.toNat && bb.toNat ≤ kb.toNat : Bool) = true := hw
  rw [show encodeC (.mmaE4m3E4m3 ra rb rs kb ba bb ap) = 201326592 + ra.toNat * 131072 + rb.toNat * 4096 + rs.toNat * 128 + kb.toNat * 32 + ba.toNat * 8 + bb.toNat * 2 + ap.toNat from rfl]
  obtain ⟨w, hW⟩ : ∃ w, w = 201326592 + ra.toNat * 131072 + rb.toNat * 4096 + rs.toNat * 128 + kb.toNat * 32 + ba.toNat * 8 + bb.toNat * 2 + ap.toNat + stl * 268435456 + lone.toNat * 2147483648 := ⟨_, rfl⟩
  rw [← hW]
  have h_l := lone.toNat_lt
  have e1 : fld w 27 22 = 48 := by simp only [fld, Nat.reducePow, Nat.reduceSub, Nat.reduceAdd]; omega
  have f1 : decodeC w x = if fld w 4 3 ≤ fld w 6 5 ∧ fld w 2 1 ≤ fld w 6 5 then .instr (.mmaE4m3E4m3 (bv 5 w 17) (bv 5 w 12) (bv 5 w 7) (bv 2 w 5) (bv 2 w 3) (bv 2 w 1) (fld w 0 0 == 1)) else .bad .operand := by unfold decodeC; rw [e1]; try rfl
  rw [f1]
  have e2 : fld w 4 3 = ba.toNat := by simp only [fld, Nat.reducePow, Nat.reduceSub, Nat.reduceAdd]; omega
  have e3 : fld w 6 5 = kb.toNat := by simp only [fld, Nat.reducePow, Nat.reduceSub, Nat.reduceAdd]; omega
  have e4 : fld w 2 1 = bb.toNat := by simp only [fld, Nat.reducePow, Nat.reduceSub, Nat.reduceAdd]; omega
  rw [if_pos (show fld w 4 3 ≤ fld w 6 5 ∧ fld w 2 1 ≤ fld w 6 5 from by rw [e2, e3, e4]; first | done | decide | (simp at hw ⊢; omega) | (simp [tyBF] at hw ⊢; omega))]
  have e5 : bv 5 w 17 = ra := by apply BitVec.eq_of_toNat_eq; simp only [bv, BitVec.toNat_ofNat, Nat.reducePow]; omega
  have e6 : bv 5 w 12 = rb := by apply BitVec.eq_of_toNat_eq; simp only [bv, BitVec.toNat_ofNat, Nat.reducePow]; omega
  have e7 : bv 5 w 7 = rs := by apply BitVec.eq_of_toNat_eq; simp only [bv, BitVec.toNat_ofNat, Nat.reducePow]; omega
  have e8 : bv 2 w 5 = kb := by apply BitVec.eq_of_toNat_eq; simp only [bv, BitVec.toNat_ofNat, Nat.reducePow]; omega
  have e9 : bv 2 w 3 = ba := by apply BitVec.eq_of_toNat_eq; simp only [bv, BitVec.toNat_ofNat, Nat.reducePow]; omega
  have e10 : bv 2 w 1 = bb := by apply BitVec.eq_of_toNat_eq; simp only [bv, BitVec.toNat_ofNat, Nat.reducePow]; omega
  have e11 : fld w 0 0 = ap.toNat := by simp only [fld, Nat.reducePow, Nat.reduceSub, Nat.reduceAdd]; omega
  rw [e5, e6, e7, e8, e9, e10, e11]
  cases ap <;> rfl
theorem mmaE4m3E5m2 (ra : GReg) (rb : GReg) (rs : GReg) (kb : BitVec 2) (ba : BitVec 2) (bb : BitVec 2) (ap : Bool) : Statement (.mmaE4m3E5m2 ra rb rs kb ba bb ap) := by
  refine ⟨fun _ hw lone hl stl hn x hx => ?_, fun h => Bool.noConfusion (show false = true from h)⟩
  have h_ra := ra.isLt
  have h_rb := rb.isLt
  have h_rs := rs.isLt
  have h_kb := kb.isLt
  have h_ba := ba.isLt
  have h_bb := bb.isLt
  have h_ap := ap.toNat_lt
  replace hw : (ba.toNat ≤ kb.toNat && bb.toNat ≤ kb.toNat : Bool) = true := hw
  rw [show encodeC (.mmaE4m3E5m2 ra rb rs kb ba bb ap) = 205520896 + ra.toNat * 131072 + rb.toNat * 4096 + rs.toNat * 128 + kb.toNat * 32 + ba.toNat * 8 + bb.toNat * 2 + ap.toNat from rfl]
  obtain ⟨w, hW⟩ : ∃ w, w = 205520896 + ra.toNat * 131072 + rb.toNat * 4096 + rs.toNat * 128 + kb.toNat * 32 + ba.toNat * 8 + bb.toNat * 2 + ap.toNat + stl * 268435456 + lone.toNat * 2147483648 := ⟨_, rfl⟩
  rw [← hW]
  have h_l := lone.toNat_lt
  have e1 : fld w 27 22 = 49 := by simp only [fld, Nat.reducePow, Nat.reduceSub, Nat.reduceAdd]; omega
  have f1 : decodeC w x = if fld w 4 3 ≤ fld w 6 5 ∧ fld w 2 1 ≤ fld w 6 5 then .instr (.mmaE4m3E5m2 (bv 5 w 17) (bv 5 w 12) (bv 5 w 7) (bv 2 w 5) (bv 2 w 3) (bv 2 w 1) (fld w 0 0 == 1)) else .bad .operand := by unfold decodeC; rw [e1]; try rfl
  rw [f1]
  have e2 : fld w 4 3 = ba.toNat := by simp only [fld, Nat.reducePow, Nat.reduceSub, Nat.reduceAdd]; omega
  have e3 : fld w 6 5 = kb.toNat := by simp only [fld, Nat.reducePow, Nat.reduceSub, Nat.reduceAdd]; omega
  have e4 : fld w 2 1 = bb.toNat := by simp only [fld, Nat.reducePow, Nat.reduceSub, Nat.reduceAdd]; omega
  rw [if_pos (show fld w 4 3 ≤ fld w 6 5 ∧ fld w 2 1 ≤ fld w 6 5 from by rw [e2, e3, e4]; first | done | decide | (simp at hw ⊢; omega) | (simp [tyBF] at hw ⊢; omega))]
  have e5 : bv 5 w 17 = ra := by apply BitVec.eq_of_toNat_eq; simp only [bv, BitVec.toNat_ofNat, Nat.reducePow]; omega
  have e6 : bv 5 w 12 = rb := by apply BitVec.eq_of_toNat_eq; simp only [bv, BitVec.toNat_ofNat, Nat.reducePow]; omega
  have e7 : bv 5 w 7 = rs := by apply BitVec.eq_of_toNat_eq; simp only [bv, BitVec.toNat_ofNat, Nat.reducePow]; omega
  have e8 : bv 2 w 5 = kb := by apply BitVec.eq_of_toNat_eq; simp only [bv, BitVec.toNat_ofNat, Nat.reducePow]; omega
  have e9 : bv 2 w 3 = ba := by apply BitVec.eq_of_toNat_eq; simp only [bv, BitVec.toNat_ofNat, Nat.reducePow]; omega
  have e10 : bv 2 w 1 = bb := by apply BitVec.eq_of_toNat_eq; simp only [bv, BitVec.toNat_ofNat, Nat.reducePow]; omega
  have e11 : fld w 0 0 = ap.toNat := by simp only [fld, Nat.reducePow, Nat.reduceSub, Nat.reduceAdd]; omega
  rw [e5, e6, e7, e8, e9, e10, e11]
  cases ap <;> rfl
theorem mmaE5m2E4m3 (ra : GReg) (rb : GReg) (rs : GReg) (kb : BitVec 2) (ba : BitVec 2) (bb : BitVec 2) (ap : Bool) : Statement (.mmaE5m2E4m3 ra rb rs kb ba bb ap) := by
  refine ⟨fun _ hw lone hl stl hn x hx => ?_, fun h => Bool.noConfusion (show false = true from h)⟩
  have h_ra := ra.isLt
  have h_rb := rb.isLt
  have h_rs := rs.isLt
  have h_kb := kb.isLt
  have h_ba := ba.isLt
  have h_bb := bb.isLt
  have h_ap := ap.toNat_lt
  replace hw : (ba.toNat ≤ kb.toNat && bb.toNat ≤ kb.toNat : Bool) = true := hw
  rw [show encodeC (.mmaE5m2E4m3 ra rb rs kb ba bb ap) = 209715200 + ra.toNat * 131072 + rb.toNat * 4096 + rs.toNat * 128 + kb.toNat * 32 + ba.toNat * 8 + bb.toNat * 2 + ap.toNat from rfl]
  obtain ⟨w, hW⟩ : ∃ w, w = 209715200 + ra.toNat * 131072 + rb.toNat * 4096 + rs.toNat * 128 + kb.toNat * 32 + ba.toNat * 8 + bb.toNat * 2 + ap.toNat + stl * 268435456 + lone.toNat * 2147483648 := ⟨_, rfl⟩
  rw [← hW]
  have h_l := lone.toNat_lt
  have e1 : fld w 27 22 = 50 := by simp only [fld, Nat.reducePow, Nat.reduceSub, Nat.reduceAdd]; omega
  have f1 : decodeC w x = if fld w 4 3 ≤ fld w 6 5 ∧ fld w 2 1 ≤ fld w 6 5 then .instr (.mmaE5m2E4m3 (bv 5 w 17) (bv 5 w 12) (bv 5 w 7) (bv 2 w 5) (bv 2 w 3) (bv 2 w 1) (fld w 0 0 == 1)) else .bad .operand := by unfold decodeC; rw [e1]; try rfl
  rw [f1]
  have e2 : fld w 4 3 = ba.toNat := by simp only [fld, Nat.reducePow, Nat.reduceSub, Nat.reduceAdd]; omega
  have e3 : fld w 6 5 = kb.toNat := by simp only [fld, Nat.reducePow, Nat.reduceSub, Nat.reduceAdd]; omega
  have e4 : fld w 2 1 = bb.toNat := by simp only [fld, Nat.reducePow, Nat.reduceSub, Nat.reduceAdd]; omega
  rw [if_pos (show fld w 4 3 ≤ fld w 6 5 ∧ fld w 2 1 ≤ fld w 6 5 from by rw [e2, e3, e4]; first | done | decide | (simp at hw ⊢; omega) | (simp [tyBF] at hw ⊢; omega))]
  have e5 : bv 5 w 17 = ra := by apply BitVec.eq_of_toNat_eq; simp only [bv, BitVec.toNat_ofNat, Nat.reducePow]; omega
  have e6 : bv 5 w 12 = rb := by apply BitVec.eq_of_toNat_eq; simp only [bv, BitVec.toNat_ofNat, Nat.reducePow]; omega
  have e7 : bv 5 w 7 = rs := by apply BitVec.eq_of_toNat_eq; simp only [bv, BitVec.toNat_ofNat, Nat.reducePow]; omega
  have e8 : bv 2 w 5 = kb := by apply BitVec.eq_of_toNat_eq; simp only [bv, BitVec.toNat_ofNat, Nat.reducePow]; omega
  have e9 : bv 2 w 3 = ba := by apply BitVec.eq_of_toNat_eq; simp only [bv, BitVec.toNat_ofNat, Nat.reducePow]; omega
  have e10 : bv 2 w 1 = bb := by apply BitVec.eq_of_toNat_eq; simp only [bv, BitVec.toNat_ofNat, Nat.reducePow]; omega
  have e11 : fld w 0 0 = ap.toNat := by simp only [fld, Nat.reducePow, Nat.reduceSub, Nat.reduceAdd]; omega
  rw [e5, e6, e7, e8, e9, e10, e11]
  cases ap <;> rfl
theorem mmaE5m2E5m2 (ra : GReg) (rb : GReg) (rs : GReg) (kb : BitVec 2) (ba : BitVec 2) (bb : BitVec 2) (ap : Bool) : Statement (.mmaE5m2E5m2 ra rb rs kb ba bb ap) := by
  refine ⟨fun _ hw lone hl stl hn x hx => ?_, fun h => Bool.noConfusion (show false = true from h)⟩
  have h_ra := ra.isLt
  have h_rb := rb.isLt
  have h_rs := rs.isLt
  have h_kb := kb.isLt
  have h_ba := ba.isLt
  have h_bb := bb.isLt
  have h_ap := ap.toNat_lt
  replace hw : (ba.toNat ≤ kb.toNat && bb.toNat ≤ kb.toNat : Bool) = true := hw
  rw [show encodeC (.mmaE5m2E5m2 ra rb rs kb ba bb ap) = 213909504 + ra.toNat * 131072 + rb.toNat * 4096 + rs.toNat * 128 + kb.toNat * 32 + ba.toNat * 8 + bb.toNat * 2 + ap.toNat from rfl]
  obtain ⟨w, hW⟩ : ∃ w, w = 213909504 + ra.toNat * 131072 + rb.toNat * 4096 + rs.toNat * 128 + kb.toNat * 32 + ba.toNat * 8 + bb.toNat * 2 + ap.toNat + stl * 268435456 + lone.toNat * 2147483648 := ⟨_, rfl⟩
  rw [← hW]
  have h_l := lone.toNat_lt
  have e1 : fld w 27 22 = 51 := by simp only [fld, Nat.reducePow, Nat.reduceSub, Nat.reduceAdd]; omega
  have f1 : decodeC w x = if fld w 4 3 ≤ fld w 6 5 ∧ fld w 2 1 ≤ fld w 6 5 then .instr (.mmaE5m2E5m2 (bv 5 w 17) (bv 5 w 12) (bv 5 w 7) (bv 2 w 5) (bv 2 w 3) (bv 2 w 1) (fld w 0 0 == 1)) else .bad .operand := by unfold decodeC; rw [e1]; try rfl
  rw [f1]
  have e2 : fld w 4 3 = ba.toNat := by simp only [fld, Nat.reducePow, Nat.reduceSub, Nat.reduceAdd]; omega
  have e3 : fld w 6 5 = kb.toNat := by simp only [fld, Nat.reducePow, Nat.reduceSub, Nat.reduceAdd]; omega
  have e4 : fld w 2 1 = bb.toNat := by simp only [fld, Nat.reducePow, Nat.reduceSub, Nat.reduceAdd]; omega
  rw [if_pos (show fld w 4 3 ≤ fld w 6 5 ∧ fld w 2 1 ≤ fld w 6 5 from by rw [e2, e3, e4]; first | done | decide | (simp at hw ⊢; omega) | (simp [tyBF] at hw ⊢; omega))]
  have e5 : bv 5 w 17 = ra := by apply BitVec.eq_of_toNat_eq; simp only [bv, BitVec.toNat_ofNat, Nat.reducePow]; omega
  have e6 : bv 5 w 12 = rb := by apply BitVec.eq_of_toNat_eq; simp only [bv, BitVec.toNat_ofNat, Nat.reducePow]; omega
  have e7 : bv 5 w 7 = rs := by apply BitVec.eq_of_toNat_eq; simp only [bv, BitVec.toNat_ofNat, Nat.reducePow]; omega
  have e8 : bv 2 w 5 = kb := by apply BitVec.eq_of_toNat_eq; simp only [bv, BitVec.toNat_ofNat, Nat.reducePow]; omega
  have e9 : bv 2 w 3 = ba := by apply BitVec.eq_of_toNat_eq; simp only [bv, BitVec.toNat_ofNat, Nat.reducePow]; omega
  have e10 : bv 2 w 1 = bb := by apply BitVec.eq_of_toNat_eq; simp only [bv, BitVec.toNat_ofNat, Nat.reducePow]; omega
  have e11 : fld w 0 0 = ap.toNat := by simp only [fld, Nat.reducePow, Nat.reduceSub, Nat.reduceAdd]; omega
  rw [e5, e6, e7, e8, e9, e10, e11]
  cases ap <;> rfl
theorem mmaBf16Bf16 (ra : GReg) (rb : GReg) (rs : GReg) (kb : BitVec 2) (ba : BitVec 2) (bb : BitVec 2) (ap : Bool) : Statement (.mmaBf16Bf16 ra rb rs kb ba bb ap) := by
  refine ⟨fun _ hw lone hl stl hn x hx => ?_, fun h => Bool.noConfusion (show false = true from h)⟩
  have h_ra := ra.isLt
  have h_rb := rb.isLt
  have h_rs := rs.isLt
  have h_kb := kb.isLt
  have h_ba := ba.isLt
  have h_bb := bb.isLt
  have h_ap := ap.toNat_lt
  replace hw : (ba.toNat ≤ kb.toNat && bb.toNat ≤ kb.toNat : Bool) = true := hw
  rw [show encodeC (.mmaBf16Bf16 ra rb rs kb ba bb ap) = 218103808 + ra.toNat * 131072 + rb.toNat * 4096 + rs.toNat * 128 + kb.toNat * 32 + ba.toNat * 8 + bb.toNat * 2 + ap.toNat from rfl]
  obtain ⟨w, hW⟩ : ∃ w, w = 218103808 + ra.toNat * 131072 + rb.toNat * 4096 + rs.toNat * 128 + kb.toNat * 32 + ba.toNat * 8 + bb.toNat * 2 + ap.toNat + stl * 268435456 + lone.toNat * 2147483648 := ⟨_, rfl⟩
  rw [← hW]
  have h_l := lone.toNat_lt
  have e1 : fld w 27 22 = 52 := by simp only [fld, Nat.reducePow, Nat.reduceSub, Nat.reduceAdd]; omega
  have f1 : decodeC w x = if fld w 4 3 ≤ fld w 6 5 ∧ fld w 2 1 ≤ fld w 6 5 then .instr (.mmaBf16Bf16 (bv 5 w 17) (bv 5 w 12) (bv 5 w 7) (bv 2 w 5) (bv 2 w 3) (bv 2 w 1) (fld w 0 0 == 1)) else .bad .operand := by unfold decodeC; rw [e1]; try rfl
  rw [f1]
  have e2 : fld w 4 3 = ba.toNat := by simp only [fld, Nat.reducePow, Nat.reduceSub, Nat.reduceAdd]; omega
  have e3 : fld w 6 5 = kb.toNat := by simp only [fld, Nat.reducePow, Nat.reduceSub, Nat.reduceAdd]; omega
  have e4 : fld w 2 1 = bb.toNat := by simp only [fld, Nat.reducePow, Nat.reduceSub, Nat.reduceAdd]; omega
  rw [if_pos (show fld w 4 3 ≤ fld w 6 5 ∧ fld w 2 1 ≤ fld w 6 5 from by rw [e2, e3, e4]; first | done | decide | (simp at hw ⊢; omega) | (simp [tyBF] at hw ⊢; omega))]
  have e5 : bv 5 w 17 = ra := by apply BitVec.eq_of_toNat_eq; simp only [bv, BitVec.toNat_ofNat, Nat.reducePow]; omega
  have e6 : bv 5 w 12 = rb := by apply BitVec.eq_of_toNat_eq; simp only [bv, BitVec.toNat_ofNat, Nat.reducePow]; omega
  have e7 : bv 5 w 7 = rs := by apply BitVec.eq_of_toNat_eq; simp only [bv, BitVec.toNat_ofNat, Nat.reducePow]; omega
  have e8 : bv 2 w 5 = kb := by apply BitVec.eq_of_toNat_eq; simp only [bv, BitVec.toNat_ofNat, Nat.reducePow]; omega
  have e9 : bv 2 w 3 = ba := by apply BitVec.eq_of_toNat_eq; simp only [bv, BitVec.toNat_ofNat, Nat.reducePow]; omega
  have e10 : bv 2 w 1 = bb := by apply BitVec.eq_of_toNat_eq; simp only [bv, BitVec.toNat_ofNat, Nat.reducePow]; omega
  have e11 : fld w 0 0 = ap.toNat := by simp only [fld, Nat.reducePow, Nat.reduceSub, Nat.reduceAdd]; omega
  rw [e5, e6, e7, e8, e9, e10, e11]
  cases ap <;> rfl
theorem mmaF16F16 (ra : GReg) (rb : GReg) (rs : GReg) (kb : BitVec 2) (ba : BitVec 2) (bb : BitVec 2) (ap : Bool) : Statement (.mmaF16F16 ra rb rs kb ba bb ap) := by
  refine ⟨fun _ hw lone hl stl hn x hx => ?_, fun h => Bool.noConfusion (show false = true from h)⟩
  have h_ra := ra.isLt
  have h_rb := rb.isLt
  have h_rs := rs.isLt
  have h_kb := kb.isLt
  have h_ba := ba.isLt
  have h_bb := bb.isLt
  have h_ap := ap.toNat_lt
  replace hw : (ba.toNat ≤ kb.toNat && bb.toNat ≤ kb.toNat : Bool) = true := hw
  rw [show encodeC (.mmaF16F16 ra rb rs kb ba bb ap) = 222298112 + ra.toNat * 131072 + rb.toNat * 4096 + rs.toNat * 128 + kb.toNat * 32 + ba.toNat * 8 + bb.toNat * 2 + ap.toNat from rfl]
  obtain ⟨w, hW⟩ : ∃ w, w = 222298112 + ra.toNat * 131072 + rb.toNat * 4096 + rs.toNat * 128 + kb.toNat * 32 + ba.toNat * 8 + bb.toNat * 2 + ap.toNat + stl * 268435456 + lone.toNat * 2147483648 := ⟨_, rfl⟩
  rw [← hW]
  have h_l := lone.toNat_lt
  have e1 : fld w 27 22 = 53 := by simp only [fld, Nat.reducePow, Nat.reduceSub, Nat.reduceAdd]; omega
  have f1 : decodeC w x = if fld w 4 3 ≤ fld w 6 5 ∧ fld w 2 1 ≤ fld w 6 5 then .instr (.mmaF16F16 (bv 5 w 17) (bv 5 w 12) (bv 5 w 7) (bv 2 w 5) (bv 2 w 3) (bv 2 w 1) (fld w 0 0 == 1)) else .bad .operand := by unfold decodeC; rw [e1]; try rfl
  rw [f1]
  have e2 : fld w 4 3 = ba.toNat := by simp only [fld, Nat.reducePow, Nat.reduceSub, Nat.reduceAdd]; omega
  have e3 : fld w 6 5 = kb.toNat := by simp only [fld, Nat.reducePow, Nat.reduceSub, Nat.reduceAdd]; omega
  have e4 : fld w 2 1 = bb.toNat := by simp only [fld, Nat.reducePow, Nat.reduceSub, Nat.reduceAdd]; omega
  rw [if_pos (show fld w 4 3 ≤ fld w 6 5 ∧ fld w 2 1 ≤ fld w 6 5 from by rw [e2, e3, e4]; first | done | decide | (simp at hw ⊢; omega) | (simp [tyBF] at hw ⊢; omega))]
  have e5 : bv 5 w 17 = ra := by apply BitVec.eq_of_toNat_eq; simp only [bv, BitVec.toNat_ofNat, Nat.reducePow]; omega
  have e6 : bv 5 w 12 = rb := by apply BitVec.eq_of_toNat_eq; simp only [bv, BitVec.toNat_ofNat, Nat.reducePow]; omega
  have e7 : bv 5 w 7 = rs := by apply BitVec.eq_of_toNat_eq; simp only [bv, BitVec.toNat_ofNat, Nat.reducePow]; omega
  have e8 : bv 2 w 5 = kb := by apply BitVec.eq_of_toNat_eq; simp only [bv, BitVec.toNat_ofNat, Nat.reducePow]; omega
  have e9 : bv 2 w 3 = ba := by apply BitVec.eq_of_toNat_eq; simp only [bv, BitVec.toNat_ofNat, Nat.reducePow]; omega
  have e10 : bv 2 w 1 = bb := by apply BitVec.eq_of_toNat_eq; simp only [bv, BitVec.toNat_ofNat, Nat.reducePow]; omega
  have e11 : fld w 0 0 = ap.toNat := by simp only [fld, Nat.reducePow, Nat.reduceSub, Nat.reduceAdd]; omega
  rw [e5, e6, e7, e8, e9, e10, e11]
  cases ap <;> rfl
theorem mmaI8I8 (ra : GReg) (rb : GReg) (rs : GReg) (kb : BitVec 2) (ba : BitVec 2) (bb : BitVec 2) (ap : Bool) : Statement (.mmaI8I8 ra rb rs kb ba bb ap) := by
  refine ⟨fun _ hw lone hl stl hn x hx => ?_, fun h => Bool.noConfusion (show false = true from h)⟩
  have h_ra := ra.isLt
  have h_rb := rb.isLt
  have h_rs := rs.isLt
  have h_kb := kb.isLt
  have h_ba := ba.isLt
  have h_bb := bb.isLt
  have h_ap := ap.toNat_lt
  replace hw : (ba.toNat ≤ kb.toNat && bb.toNat ≤ kb.toNat : Bool) = true := hw
  rw [show encodeC (.mmaI8I8 ra rb rs kb ba bb ap) = 226492416 + ra.toNat * 131072 + rb.toNat * 4096 + rs.toNat * 128 + kb.toNat * 32 + ba.toNat * 8 + bb.toNat * 2 + ap.toNat from rfl]
  obtain ⟨w, hW⟩ : ∃ w, w = 226492416 + ra.toNat * 131072 + rb.toNat * 4096 + rs.toNat * 128 + kb.toNat * 32 + ba.toNat * 8 + bb.toNat * 2 + ap.toNat + stl * 268435456 + lone.toNat * 2147483648 := ⟨_, rfl⟩
  rw [← hW]
  have h_l := lone.toNat_lt
  have e1 : fld w 27 22 = 54 := by simp only [fld, Nat.reducePow, Nat.reduceSub, Nat.reduceAdd]; omega
  have f1 : decodeC w x = if fld w 4 3 ≤ fld w 6 5 ∧ fld w 2 1 ≤ fld w 6 5 then .instr (.mmaI8I8 (bv 5 w 17) (bv 5 w 12) (bv 5 w 7) (bv 2 w 5) (bv 2 w 3) (bv 2 w 1) (fld w 0 0 == 1)) else .bad .operand := by unfold decodeC; rw [e1]; try rfl
  rw [f1]
  have e2 : fld w 4 3 = ba.toNat := by simp only [fld, Nat.reducePow, Nat.reduceSub, Nat.reduceAdd]; omega
  have e3 : fld w 6 5 = kb.toNat := by simp only [fld, Nat.reducePow, Nat.reduceSub, Nat.reduceAdd]; omega
  have e4 : fld w 2 1 = bb.toNat := by simp only [fld, Nat.reducePow, Nat.reduceSub, Nat.reduceAdd]; omega
  rw [if_pos (show fld w 4 3 ≤ fld w 6 5 ∧ fld w 2 1 ≤ fld w 6 5 from by rw [e2, e3, e4]; first | done | decide | (simp at hw ⊢; omega) | (simp [tyBF] at hw ⊢; omega))]
  have e5 : bv 5 w 17 = ra := by apply BitVec.eq_of_toNat_eq; simp only [bv, BitVec.toNat_ofNat, Nat.reducePow]; omega
  have e6 : bv 5 w 12 = rb := by apply BitVec.eq_of_toNat_eq; simp only [bv, BitVec.toNat_ofNat, Nat.reducePow]; omega
  have e7 : bv 5 w 7 = rs := by apply BitVec.eq_of_toNat_eq; simp only [bv, BitVec.toNat_ofNat, Nat.reducePow]; omega
  have e8 : bv 2 w 5 = kb := by apply BitVec.eq_of_toNat_eq; simp only [bv, BitVec.toNat_ofNat, Nat.reducePow]; omega
  have e9 : bv 2 w 3 = ba := by apply BitVec.eq_of_toNat_eq; simp only [bv, BitVec.toNat_ofNat, Nat.reducePow]; omega
  have e10 : bv 2 w 1 = bb := by apply BitVec.eq_of_toNat_eq; simp only [bv, BitVec.toNat_ofNat, Nat.reducePow]; omega
  have e11 : fld w 0 0 = ap.toNat := by simp only [fld, Nat.reducePow, Nat.reduceSub, Nat.reduceAdd]; omega
  rw [e5, e6, e7, e8, e9, e10, e11]
  cases ap <;> rfl
theorem mmaI8T2 (ra : GReg) (rb : GReg) (rs : GReg) (kb : BitVec 2) (ba : BitVec 2) (bb : BitVec 2) (ap : Bool) : Statement (.mmaI8T2 ra rb rs kb ba bb ap) := by
  refine ⟨fun _ hw lone hl stl hn x hx => ?_, fun h => Bool.noConfusion (show false = true from h)⟩
  have h_ra := ra.isLt
  have h_rb := rb.isLt
  have h_rs := rs.isLt
  have h_kb := kb.isLt
  have h_ba := ba.isLt
  have h_bb := bb.isLt
  have h_ap := ap.toNat_lt
  replace hw : (ba.toNat ≤ kb.toNat && bb.toNat ≤ kb.toNat : Bool) = true := hw
  rw [show encodeC (.mmaI8T2 ra rb rs kb ba bb ap) = 230686720 + ra.toNat * 131072 + rb.toNat * 4096 + rs.toNat * 128 + kb.toNat * 32 + ba.toNat * 8 + bb.toNat * 2 + ap.toNat from rfl]
  obtain ⟨w, hW⟩ : ∃ w, w = 230686720 + ra.toNat * 131072 + rb.toNat * 4096 + rs.toNat * 128 + kb.toNat * 32 + ba.toNat * 8 + bb.toNat * 2 + ap.toNat + stl * 268435456 + lone.toNat * 2147483648 := ⟨_, rfl⟩
  rw [← hW]
  have h_l := lone.toNat_lt
  have e1 : fld w 27 22 = 55 := by simp only [fld, Nat.reducePow, Nat.reduceSub, Nat.reduceAdd]; omega
  have f1 : decodeC w x = if fld w 4 3 ≤ fld w 6 5 ∧ fld w 2 1 ≤ fld w 6 5 then .instr (.mmaI8T2 (bv 5 w 17) (bv 5 w 12) (bv 5 w 7) (bv 2 w 5) (bv 2 w 3) (bv 2 w 1) (fld w 0 0 == 1)) else .bad .operand := by unfold decodeC; rw [e1]; try rfl
  rw [f1]
  have e2 : fld w 4 3 = ba.toNat := by simp only [fld, Nat.reducePow, Nat.reduceSub, Nat.reduceAdd]; omega
  have e3 : fld w 6 5 = kb.toNat := by simp only [fld, Nat.reducePow, Nat.reduceSub, Nat.reduceAdd]; omega
  have e4 : fld w 2 1 = bb.toNat := by simp only [fld, Nat.reducePow, Nat.reduceSub, Nat.reduceAdd]; omega
  rw [if_pos (show fld w 4 3 ≤ fld w 6 5 ∧ fld w 2 1 ≤ fld w 6 5 from by rw [e2, e3, e4]; first | done | decide | (simp at hw ⊢; omega) | (simp [tyBF] at hw ⊢; omega))]
  have e5 : bv 5 w 17 = ra := by apply BitVec.eq_of_toNat_eq; simp only [bv, BitVec.toNat_ofNat, Nat.reducePow]; omega
  have e6 : bv 5 w 12 = rb := by apply BitVec.eq_of_toNat_eq; simp only [bv, BitVec.toNat_ofNat, Nat.reducePow]; omega
  have e7 : bv 5 w 7 = rs := by apply BitVec.eq_of_toNat_eq; simp only [bv, BitVec.toNat_ofNat, Nat.reducePow]; omega
  have e8 : bv 2 w 5 = kb := by apply BitVec.eq_of_toNat_eq; simp only [bv, BitVec.toNat_ofNat, Nat.reducePow]; omega
  have e9 : bv 2 w 3 = ba := by apply BitVec.eq_of_toNat_eq; simp only [bv, BitVec.toNat_ofNat, Nat.reducePow]; omega
  have e10 : bv 2 w 1 = bb := by apply BitVec.eq_of_toNat_eq; simp only [bv, BitVec.toNat_ofNat, Nat.reducePow]; omega
  have e11 : fld w 0 0 = ap.toNat := by simp only [fld, Nat.reducePow, Nat.reduceSub, Nat.reduceAdd]; omega
  rw [e5, e6, e7, e8, e9, e10, e11]
  cases ap <;> rfl
theorem mmaE8oI8 (ra : GReg) (rb : GReg) (rs : GReg) (kb : BitVec 2) (ba : BitVec 2) (bb : BitVec 2) (ap : Bool) : Statement (.mmaE8oI8 ra rb rs kb ba bb ap) := by
  refine ⟨fun _ hw lone hl stl hn x hx => ?_, fun h => Bool.noConfusion (show false = true from h)⟩
  have h_ra := ra.isLt
  have h_rb := rb.isLt
  have h_rs := rs.isLt
  have h_kb := kb.isLt
  have h_ba := ba.isLt
  have h_bb := bb.isLt
  have h_ap := ap.toNat_lt
  replace hw : (ba.toNat ≤ kb.toNat && bb.toNat ≤ kb.toNat : Bool) = true := hw
  rw [show encodeC (.mmaE8oI8 ra rb rs kb ba bb ap) = 234881024 + ra.toNat * 131072 + rb.toNat * 4096 + rs.toNat * 128 + kb.toNat * 32 + ba.toNat * 8 + bb.toNat * 2 + ap.toNat from rfl]
  obtain ⟨w, hW⟩ : ∃ w, w = 234881024 + ra.toNat * 131072 + rb.toNat * 4096 + rs.toNat * 128 + kb.toNat * 32 + ba.toNat * 8 + bb.toNat * 2 + ap.toNat + stl * 268435456 + lone.toNat * 2147483648 := ⟨_, rfl⟩
  rw [← hW]
  have h_l := lone.toNat_lt
  have e1 : fld w 27 22 = 56 := by simp only [fld, Nat.reducePow, Nat.reduceSub, Nat.reduceAdd]; omega
  have f1 : decodeC w x = if fld w 4 3 ≤ fld w 6 5 ∧ fld w 2 1 ≤ fld w 6 5 then .instr (.mmaE8oI8 (bv 5 w 17) (bv 5 w 12) (bv 5 w 7) (bv 2 w 5) (bv 2 w 3) (bv 2 w 1) (fld w 0 0 == 1)) else .bad .operand := by unfold decodeC; rw [e1]; try rfl
  rw [f1]
  have e2 : fld w 4 3 = ba.toNat := by simp only [fld, Nat.reducePow, Nat.reduceSub, Nat.reduceAdd]; omega
  have e3 : fld w 6 5 = kb.toNat := by simp only [fld, Nat.reducePow, Nat.reduceSub, Nat.reduceAdd]; omega
  have e4 : fld w 2 1 = bb.toNat := by simp only [fld, Nat.reducePow, Nat.reduceSub, Nat.reduceAdd]; omega
  rw [if_pos (show fld w 4 3 ≤ fld w 6 5 ∧ fld w 2 1 ≤ fld w 6 5 from by rw [e2, e3, e4]; first | done | decide | (simp at hw ⊢; omega) | (simp [tyBF] at hw ⊢; omega))]
  have e5 : bv 5 w 17 = ra := by apply BitVec.eq_of_toNat_eq; simp only [bv, BitVec.toNat_ofNat, Nat.reducePow]; omega
  have e6 : bv 5 w 12 = rb := by apply BitVec.eq_of_toNat_eq; simp only [bv, BitVec.toNat_ofNat, Nat.reducePow]; omega
  have e7 : bv 5 w 7 = rs := by apply BitVec.eq_of_toNat_eq; simp only [bv, BitVec.toNat_ofNat, Nat.reducePow]; omega
  have e8 : bv 2 w 5 = kb := by apply BitVec.eq_of_toNat_eq; simp only [bv, BitVec.toNat_ofNat, Nat.reducePow]; omega
  have e9 : bv 2 w 3 = ba := by apply BitVec.eq_of_toNat_eq; simp only [bv, BitVec.toNat_ofNat, Nat.reducePow]; omega
  have e10 : bv 2 w 1 = bb := by apply BitVec.eq_of_toNat_eq; simp only [bv, BitVec.toNat_ofNat, Nat.reducePow]; omega
  have e11 : fld w 0 0 = ap.toNat := by simp only [fld, Nat.reducePow, Nat.reduceSub, Nat.reduceAdd]; omega
  rw [e5, e6, e7, e8, e9, e10, e11]
  cases ap <;> rfl
theorem mmaE8oE4m3 (ra : GReg) (rb : GReg) (rs : GReg) (kb : BitVec 2) (ba : BitVec 2) (bb : BitVec 2) (ap : Bool) : Statement (.mmaE8oE4m3 ra rb rs kb ba bb ap) := by
  refine ⟨fun _ hw lone hl stl hn x hx => ?_, fun h => Bool.noConfusion (show false = true from h)⟩
  have h_ra := ra.isLt
  have h_rb := rb.isLt
  have h_rs := rs.isLt
  have h_kb := kb.isLt
  have h_ba := ba.isLt
  have h_bb := bb.isLt
  have h_ap := ap.toNat_lt
  replace hw : (ba.toNat ≤ kb.toNat && bb.toNat ≤ kb.toNat : Bool) = true := hw
  rw [show encodeC (.mmaE8oE4m3 ra rb rs kb ba bb ap) = 239075328 + ra.toNat * 131072 + rb.toNat * 4096 + rs.toNat * 128 + kb.toNat * 32 + ba.toNat * 8 + bb.toNat * 2 + ap.toNat from rfl]
  obtain ⟨w, hW⟩ : ∃ w, w = 239075328 + ra.toNat * 131072 + rb.toNat * 4096 + rs.toNat * 128 + kb.toNat * 32 + ba.toNat * 8 + bb.toNat * 2 + ap.toNat + stl * 268435456 + lone.toNat * 2147483648 := ⟨_, rfl⟩
  rw [← hW]
  have h_l := lone.toNat_lt
  have e1 : fld w 27 22 = 57 := by simp only [fld, Nat.reducePow, Nat.reduceSub, Nat.reduceAdd]; omega
  have f1 : decodeC w x = if fld w 4 3 ≤ fld w 6 5 ∧ fld w 2 1 ≤ fld w 6 5 then .instr (.mmaE8oE4m3 (bv 5 w 17) (bv 5 w 12) (bv 5 w 7) (bv 2 w 5) (bv 2 w 3) (bv 2 w 1) (fld w 0 0 == 1)) else .bad .operand := by unfold decodeC; rw [e1]; try rfl
  rw [f1]
  have e2 : fld w 4 3 = ba.toNat := by simp only [fld, Nat.reducePow, Nat.reduceSub, Nat.reduceAdd]; omega
  have e3 : fld w 6 5 = kb.toNat := by simp only [fld, Nat.reducePow, Nat.reduceSub, Nat.reduceAdd]; omega
  have e4 : fld w 2 1 = bb.toNat := by simp only [fld, Nat.reducePow, Nat.reduceSub, Nat.reduceAdd]; omega
  rw [if_pos (show fld w 4 3 ≤ fld w 6 5 ∧ fld w 2 1 ≤ fld w 6 5 from by rw [e2, e3, e4]; first | done | decide | (simp at hw ⊢; omega) | (simp [tyBF] at hw ⊢; omega))]
  have e5 : bv 5 w 17 = ra := by apply BitVec.eq_of_toNat_eq; simp only [bv, BitVec.toNat_ofNat, Nat.reducePow]; omega
  have e6 : bv 5 w 12 = rb := by apply BitVec.eq_of_toNat_eq; simp only [bv, BitVec.toNat_ofNat, Nat.reducePow]; omega
  have e7 : bv 5 w 7 = rs := by apply BitVec.eq_of_toNat_eq; simp only [bv, BitVec.toNat_ofNat, Nat.reducePow]; omega
  have e8 : bv 2 w 5 = kb := by apply BitVec.eq_of_toNat_eq; simp only [bv, BitVec.toNat_ofNat, Nat.reducePow]; omega
  have e9 : bv 2 w 3 = ba := by apply BitVec.eq_of_toNat_eq; simp only [bv, BitVec.toNat_ofNat, Nat.reducePow]; omega
  have e10 : bv 2 w 1 = bb := by apply BitVec.eq_of_toNat_eq; simp only [bv, BitVec.toNat_ofNat, Nat.reducePow]; omega
  have e11 : fld w 0 0 = ap.toNat := by simp only [fld, Nat.reducePow, Nat.reduceSub, Nat.reduceAdd]; omega
  rw [e5, e6, e7, e8, e9, e10, e11]
  cases ap <;> rfl
theorem mmaE8oBf16 (ra : GReg) (rb : GReg) (rs : GReg) (kb : BitVec 2) (ba : BitVec 2) (bb : BitVec 2) (ap : Bool) : Statement (.mmaE8oBf16 ra rb rs kb ba bb ap) := by
  refine ⟨fun _ hw lone hl stl hn x hx => ?_, fun h => Bool.noConfusion (show false = true from h)⟩
  have h_ra := ra.isLt
  have h_rb := rb.isLt
  have h_rs := rs.isLt
  have h_kb := kb.isLt
  have h_ba := ba.isLt
  have h_bb := bb.isLt
  have h_ap := ap.toNat_lt
  replace hw : (ba.toNat ≤ kb.toNat && bb.toNat ≤ kb.toNat : Bool) = true := hw
  rw [show encodeC (.mmaE8oBf16 ra rb rs kb ba bb ap) = 243269632 + ra.toNat * 131072 + rb.toNat * 4096 + rs.toNat * 128 + kb.toNat * 32 + ba.toNat * 8 + bb.toNat * 2 + ap.toNat from rfl]
  obtain ⟨w, hW⟩ : ∃ w, w = 243269632 + ra.toNat * 131072 + rb.toNat * 4096 + rs.toNat * 128 + kb.toNat * 32 + ba.toNat * 8 + bb.toNat * 2 + ap.toNat + stl * 268435456 + lone.toNat * 2147483648 := ⟨_, rfl⟩
  rw [← hW]
  have h_l := lone.toNat_lt
  have e1 : fld w 27 22 = 58 := by simp only [fld, Nat.reducePow, Nat.reduceSub, Nat.reduceAdd]; omega
  have f1 : decodeC w x = if fld w 4 3 ≤ fld w 6 5 ∧ fld w 2 1 ≤ fld w 6 5 then .instr (.mmaE8oBf16 (bv 5 w 17) (bv 5 w 12) (bv 5 w 7) (bv 2 w 5) (bv 2 w 3) (bv 2 w 1) (fld w 0 0 == 1)) else .bad .operand := by unfold decodeC; rw [e1]; try rfl
  rw [f1]
  have e2 : fld w 4 3 = ba.toNat := by simp only [fld, Nat.reducePow, Nat.reduceSub, Nat.reduceAdd]; omega
  have e3 : fld w 6 5 = kb.toNat := by simp only [fld, Nat.reducePow, Nat.reduceSub, Nat.reduceAdd]; omega
  have e4 : fld w 2 1 = bb.toNat := by simp only [fld, Nat.reducePow, Nat.reduceSub, Nat.reduceAdd]; omega
  rw [if_pos (show fld w 4 3 ≤ fld w 6 5 ∧ fld w 2 1 ≤ fld w 6 5 from by rw [e2, e3, e4]; first | done | decide | (simp at hw ⊢; omega) | (simp [tyBF] at hw ⊢; omega))]
  have e5 : bv 5 w 17 = ra := by apply BitVec.eq_of_toNat_eq; simp only [bv, BitVec.toNat_ofNat, Nat.reducePow]; omega
  have e6 : bv 5 w 12 = rb := by apply BitVec.eq_of_toNat_eq; simp only [bv, BitVec.toNat_ofNat, Nat.reducePow]; omega
  have e7 : bv 5 w 7 = rs := by apply BitVec.eq_of_toNat_eq; simp only [bv, BitVec.toNat_ofNat, Nat.reducePow]; omega
  have e8 : bv 2 w 5 = kb := by apply BitVec.eq_of_toNat_eq; simp only [bv, BitVec.toNat_ofNat, Nat.reducePow]; omega
  have e9 : bv 2 w 3 = ba := by apply BitVec.eq_of_toNat_eq; simp only [bv, BitVec.toNat_ofNat, Nat.reducePow]; omega
  have e10 : bv 2 w 1 = bb := by apply BitVec.eq_of_toNat_eq; simp only [bv, BitVec.toNat_ofNat, Nat.reducePow]; omega
  have e11 : fld w 0 0 = ap.toNat := by simp only [fld, Nat.reducePow, Nat.reduceSub, Nat.reduceAdd]; omega
  rw [e5, e6, e7, e8, e9, e10, e11]
  cases ap <;> rfl
theorem mldb (r1 : GReg) (r2 : GReg) (r3 : GReg) : Statement (.mldb r1 r2 r3) := by
  refine ⟨fun _ hw lone hl stl hn x hx => ?_, fun h => Bool.noConfusion (show false = true from h)⟩
  have h_r1 := r1.isLt
  have h_r2 := r2.isLt
  have h_r3 := r3.isLt
  rw [show encodeC (.mldb r1 r2 r3) = 247463936 + r1.toNat * 131072 + r2.toNat * 4096 + r3.toNat * 128 from rfl]
  obtain ⟨w, hW⟩ : ∃ w, w = 247463936 + r1.toNat * 131072 + r2.toNat * 4096 + r3.toNat * 128 + stl * 268435456 + lone.toNat * 2147483648 := ⟨_, rfl⟩
  rw [← hW]
  have h_l := lone.toNat_lt
  have e1 : fld w 27 22 = 59 := by simp only [fld, Nat.reducePow, Nat.reduceSub, Nat.reduceAdd]; omega
  have f1 : decodeC w x = decC59 w x := by unfold decodeC; rw [e1]; try rfl
  have e2 : fld w 1 0 = 0 := by simp only [fld, Nat.reducePow, Nat.reduceSub, Nat.reduceAdd]; omega
  have f2 : decC59 w x = .instr (.mldb (bv 5 w 17) (bv 5 w 12) (bv 5 w 7)) := by unfold decC59; rw [e2]; try rfl
  rw [f1, f2]
  have e3 : bv 5 w 17 = r1 := by apply BitVec.eq_of_toNat_eq; simp only [bv, BitVec.toNat_ofNat, Nat.reducePow]; omega
  have e4 : bv 5 w 12 = r2 := by apply BitVec.eq_of_toNat_eq; simp only [bv, BitVec.toNat_ofNat, Nat.reducePow]; omega
  have e5 : bv 5 w 7 = r3 := by apply BitVec.eq_of_toNat_eq; simp only [bv, BitVec.toNat_ofNat, Nat.reducePow]; omega
  rw [e3, e4, e5]
theorem mzero : Statement .mzero := by
  refine ⟨fun _ hw lone hl stl hn x hx => ?_, fun h => Bool.noConfusion (show false = true from h)⟩
  rw [show encodeC .mzero = 247463936 + 1 from rfl]
  obtain ⟨w, hW⟩ : ∃ w, w = 247463936 + 1 + stl * 268435456 + lone.toNat * 2147483648 := ⟨_, rfl⟩
  rw [← hW]
  have h_l := lone.toNat_lt
  have e1 : fld w 27 22 = 59 := by simp only [fld, Nat.reducePow, Nat.reduceSub, Nat.reduceAdd]; omega
  have f1 : decodeC w x = decC59 w x := by unfold decodeC; rw [e1]; try rfl
  have e2 : fld w 1 0 = 1 := by simp only [fld, Nat.reducePow, Nat.reduceSub, Nat.reduceAdd]; omega
  have f2 : decC59 w x = .instr .mzero := by unfold decC59; rw [e2]; try rfl
  rw [f1, f2]
theorem mdrain (r1 : GReg) (r2 : GReg) (r3 : GReg) (r4 : GReg) (ty : BitVec 4) (act : BitVec 4) : Statement (.mdrain r1 r2 r3 r4 ty act) := by
  refine ⟨fun _ hw lone hl stl hn x hx => ?_, fun h => Bool.noConfusion (show false = true from h)⟩
  have h_r1 := r1.isLt
  have h_r2 := r2.isLt
  have h_r3 := r3.isLt
  have h_r4 := r4.isLt
  have h_ty := ty.isLt
  have h_act := act.isLt
  replace hw : ((ty.toNat == 15 || (8 ≤ ty.toNat && ty.toNat ≤ 12)) && act.toNat ≤ 3 : Bool) = true := hw
  obtain rfl : lone = true := by cases lone <;> first | rfl | exact Bool.noConfusion (show false = true from hl)
  replace hx : x = ty.toNat + act.toNat * 16 := hx rfl
  rw [show encodeC (.mdrain r1 r2 r3 r4 ty act) = 247463936 + 2 + r1.toNat * 131072 + r2.toNat * 4096 + r3.toNat * 128 + r4.toNat * 4 from rfl]
  rw [show Bool.toNat true = 1 from rfl]
  obtain ⟨w, hW⟩ : ∃ w, w = 247463936 + 2 + r1.toNat * 131072 + r2.toNat * 4096 + r3.toNat * 128 + r4.toNat * 4 + stl * 268435456 + 1 * 2147483648 := ⟨_, rfl⟩
  rw [← hW]
  have e1 : fld w 27 22 = 59 := by simp only [fld, Nat.reducePow, Nat.reduceSub, Nat.reduceAdd]; omega
  have f1 : decodeC w x = decC59 w x := by unfold decodeC; rw [e1]; try rfl
  have e2 : fld w 1 0 = 2 := by simp only [fld, Nat.reducePow, Nat.reduceSub, Nat.reduceAdd]; omega
  have f2 : decC59 w x = if loneBit w then (if drainTy (fld x 3 0) ∧ fld x 7 4 ≤ 3 then .instr (.mdrain (bv 5 w 17) (bv 5 w 12) (bv 5 w 7) (bv 5 w 2) (bv 4 x 0) (bv 4 x 4)) else .bad .operand) else .bad .needsX := by unfold decC59; rw [e2]; try rfl
  rw [f1, f2]
  have e4 : fld w 31 31 = 1 := by simp only [fld, Nat.reducePow, Nat.reduceSub, Nat.reduceAdd]; omega
  have e3 : loneBit w = true := by unfold loneBit; rw [e4]; rfl
  rw [if_pos (show loneBit w from by rw [e3]; first | done | (simp [drainTy] at hw ⊢; omega))]
  have e5 : fld x 3 0 = ty.toNat := by simp only [fld, Nat.reducePow, Nat.reduceSub, Nat.reduceAdd]; omega
  have e6 : fld x 7 4 = act.toNat := by simp only [fld, Nat.reducePow, Nat.reduceSub, Nat.reduceAdd]; omega
  rw [if_pos (show drainTy (fld x 3 0) ∧ fld x 7 4 ≤ 3 from by rw [e5, e6]; first | done | (simp [drainTy] at hw ⊢; omega))]
  have e7 : bv 5 w 17 = r1 := by apply BitVec.eq_of_toNat_eq; simp only [bv, BitVec.toNat_ofNat, Nat.reducePow]; omega
  have e8 : bv 5 w 12 = r2 := by apply BitVec.eq_of_toNat_eq; simp only [bv, BitVec.toNat_ofNat, Nat.reducePow]; omega
  have e9 : bv 5 w 7 = r3 := by apply BitVec.eq_of_toNat_eq; simp only [bv, BitVec.toNat_ofNat, Nat.reducePow]; omega
  have e10 : bv 5 w 2 = r4 := by apply BitVec.eq_of_toNat_eq; simp only [bv, BitVec.toNat_ofNat, Nat.reducePow]; omega
  have e11 : bv 4 x 0 = ty := by apply BitVec.eq_of_toNat_eq; simp only [bv, BitVec.toNat_ofNat, Nat.reducePow]; omega
  have e12 : bv 4 x 4 = act := by apply BitVec.eq_of_toNat_eq; simp only [bv, BitVec.toNat_ofNat, Nat.reducePow]; omega
  rw [e7, e8, e9, e10, e11, e12]
theorem tst (r1 : GReg) (r2 : GReg) (r3 : GReg) (r4 : GReg) : Statement (.tst r1 r2 r3 r4) := by
  refine ⟨fun _ hw lone hl stl hn x hx => ?_, fun h => Bool.noConfusion (show false = true from h)⟩
  have h_r1 := r1.isLt
  have h_r2 := r2.isLt
  have h_r3 := r3.isLt
  have h_r4 := r4.isLt
  rw [show encodeC (.tst r1 r2 r3 r4) = 251658240 + r1.toNat * 131072 + r2.toNat * 4096 + r3.toNat * 128 + r4.toNat * 4 from rfl]
  obtain ⟨w, hW⟩ : ∃ w, w = 251658240 + r1.toNat * 131072 + r2.toNat * 4096 + r3.toNat * 128 + r4.toNat * 4 + stl * 268435456 + lone.toNat * 2147483648 := ⟨_, rfl⟩
  rw [← hW]
  have h_l := lone.toNat_lt
  have e1 : fld w 27 22 = 60 := by simp only [fld, Nat.reducePow, Nat.reduceSub, Nat.reduceAdd]; omega
  have f1 : decodeC w x = decC60 w x := by unfold decodeC; rw [e1]; try rfl
  have e2 : fld w 1 0 = 0 := by simp only [fld, Nat.reducePow, Nat.reduceSub, Nat.reduceAdd]; omega
  have f2 : decC60 w x = .instr (.tst (bv 5 w 17) (bv 5 w 12) (bv 5 w 7) (bv 5 w 2)) := by unfold decC60; rw [e2]; try rfl
  rw [f1, f2]
  have e3 : bv 5 w 17 = r1 := by apply BitVec.eq_of_toNat_eq; simp only [bv, BitVec.toNat_ofNat, Nat.reducePow]; omega
  have e4 : bv 5 w 12 = r2 := by apply BitVec.eq_of_toNat_eq; simp only [bv, BitVec.toNat_ofNat, Nat.reducePow]; omega
  have e5 : bv 5 w 7 = r3 := by apply BitVec.eq_of_toNat_eq; simp only [bv, BitVec.toNat_ofNat, Nat.reducePow]; omega
  have e6 : bv 5 w 2 = r4 := by apply BitVec.eq_of_toNat_eq; simp only [bv, BitVec.toNat_ofNat, Nat.reducePow]; omega
  rw [e3, e4, e5, e6]
theorem tadv (r1 : GReg) (r2 : GReg) (r3 : GReg) : Statement (.tadv r1 r2 r3) := by
  refine ⟨fun _ hw lone hl stl hn x hx => ?_, fun h => Bool.noConfusion (show false = true from h)⟩
  have h_r1 := r1.isLt
  have h_r2 := r2.isLt
  have h_r3 := r3.isLt
  rw [show encodeC (.tadv r1 r2 r3) = 251658240 + 1 + r1.toNat * 131072 + r2.toNat * 4096 + r3.toNat * 128 from rfl]
  obtain ⟨w, hW⟩ : ∃ w, w = 251658240 + 1 + r1.toNat * 131072 + r2.toNat * 4096 + r3.toNat * 128 + stl * 268435456 + lone.toNat * 2147483648 := ⟨_, rfl⟩
  rw [← hW]
  have h_l := lone.toNat_lt
  have e1 : fld w 27 22 = 60 := by simp only [fld, Nat.reducePow, Nat.reduceSub, Nat.reduceAdd]; omega
  have f1 : decodeC w x = decC60 w x := by unfold decodeC; rw [e1]; try rfl
  have e2 : fld w 1 0 = 1 := by simp only [fld, Nat.reducePow, Nat.reduceSub, Nat.reduceAdd]; omega
  have f2 : decC60 w x = .instr (.tadv (bv 5 w 17) (bv 5 w 12) (bv 5 w 7)) := by unfold decC60; rw [e2]; try rfl
  rw [f1, f2]
  have e3 : bv 5 w 17 = r1 := by apply BitVec.eq_of_toNat_eq; simp only [bv, BitVec.toNat_ofNat, Nat.reducePow]; omega
  have e4 : bv 5 w 12 = r2 := by apply BitVec.eq_of_toNat_eq; simp only [bv, BitVec.toNat_ofNat, Nat.reducePow]; omega
  have e5 : bv 5 w 7 = r3 := by apply BitVec.eq_of_toNat_eq; simp only [bv, BitVec.toNat_ofNat, Nat.reducePow]; omega
  rw [e3, e4, e5]
theorem tlow (r1 : GReg) (r2 : GReg) (r3 : GReg) : Statement (.tlow r1 r2 r3) := by
  refine ⟨fun _ hw lone hl stl hn x hx => ?_, fun h => Bool.noConfusion (show false = true from h)⟩
  have h_r1 := r1.isLt
  have h_r2 := r2.isLt
  have h_r3 := r3.isLt
  rw [show encodeC (.tlow r1 r2 r3) = 251658240 + 2 + r1.toNat * 131072 + r2.toNat * 4096 + r3.toNat * 128 from rfl]
  obtain ⟨w, hW⟩ : ∃ w, w = 251658240 + 2 + r1.toNat * 131072 + r2.toNat * 4096 + r3.toNat * 128 + stl * 268435456 + lone.toNat * 2147483648 := ⟨_, rfl⟩
  rw [← hW]
  have h_l := lone.toNat_lt
  have e1 : fld w 27 22 = 60 := by simp only [fld, Nat.reducePow, Nat.reduceSub, Nat.reduceAdd]; omega
  have f1 : decodeC w x = decC60 w x := by unfold decodeC; rw [e1]; try rfl
  have e2 : fld w 1 0 = 2 := by simp only [fld, Nat.reducePow, Nat.reduceSub, Nat.reduceAdd]; omega
  have f2 : decC60 w x = .instr (.tlow (bv 5 w 17) (bv 5 w 12) (bv 5 w 7)) := by unfold decC60; rw [e2]; try rfl
  rw [f1, f2]
  have e3 : bv 5 w 17 = r1 := by apply BitVec.eq_of_toNat_eq; simp only [bv, BitVec.toNat_ofNat, Nat.reducePow]; omega
  have e4 : bv 5 w 12 = r2 := by apply BitVec.eq_of_toNat_eq; simp only [bv, BitVec.toNat_ofNat, Nat.reducePow]; omega
  have e5 : bv 5 w 7 = r3 := by apply BitVec.eq_of_toNat_eq; simp only [bv, BitVec.toNat_ofNat, Nat.reducePow]; omega
  rw [e3, e4, e5]
theorem tld (r1 : GReg) (r2 : GReg) (r3 : GReg) (r4 : GReg) (gc : GReg) (wm : Bool) (ik : Bool) : Statement (.tld r1 r2 r3 r4 gc wm ik) := by
  refine ⟨fun _ hw lone hl stl hn x hx => ?_, fun h => Bool.noConfusion (show false = true from h)⟩
  have h_r1 := r1.isLt
  have h_r2 := r2.isLt
  have h_r3 := r3.isLt
  have h_r4 := r4.isLt
  have h_gc := gc.isLt
  have h_wm := wm.toNat_lt
  have h_ik := ik.toNat_lt
  obtain rfl : lone = true := by cases lone <;> first | rfl | exact Bool.noConfusion (show false = true from hl)
  replace hx : x = gc.toNat + wm.toNat * 32 + ik.toNat * 64 := hx rfl
  rw [show encodeC (.tld r1 r2 r3 r4 gc wm ik) = 251658240 + 3 + r1.toNat * 131072 + r2.toNat * 4096 + r3.toNat * 128 + r4.toNat * 4 from rfl]
  rw [show Bool.toNat true = 1 from rfl]
  obtain ⟨w, hW⟩ : ∃ w, w = 251658240 + 3 + r1.toNat * 131072 + r2.toNat * 4096 + r3.toNat * 128 + r4.toNat * 4 + stl * 268435456 + 1 * 2147483648 := ⟨_, rfl⟩
  rw [← hW]
  have e1 : fld w 27 22 = 60 := by simp only [fld, Nat.reducePow, Nat.reduceSub, Nat.reduceAdd]; omega
  have f1 : decodeC w x = decC60 w x := by unfold decodeC; rw [e1]; try rfl
  have e2 : fld w 1 0 = 3 := by simp only [fld, Nat.reducePow, Nat.reduceSub, Nat.reduceAdd]; omega
  have f2 : decC60 w x = if loneBit w then (.instr (.tld (bv 5 w 17) (bv 5 w 12) (bv 5 w 7) (bv 5 w 2) (bv 5 x 0) (fld x 5 5 == 1) (fld x 6 6 == 1))) else .bad .needsX := by unfold decC60; rw [e2]; try rfl
  rw [f1, f2]
  have e4 : fld w 31 31 = 1 := by simp only [fld, Nat.reducePow, Nat.reduceSub, Nat.reduceAdd]; omega
  have e3 : loneBit w = true := by unfold loneBit; rw [e4]; rfl
  rw [if_pos (show loneBit w from by rw [e3]; first | done | decide | (simp at hw ⊢; omega) | (simp [tyBF] at hw ⊢; omega))]
  have e5 : bv 5 w 17 = r1 := by apply BitVec.eq_of_toNat_eq; simp only [bv, BitVec.toNat_ofNat, Nat.reducePow]; omega
  have e6 : bv 5 w 12 = r2 := by apply BitVec.eq_of_toNat_eq; simp only [bv, BitVec.toNat_ofNat, Nat.reducePow]; omega
  have e7 : bv 5 w 7 = r3 := by apply BitVec.eq_of_toNat_eq; simp only [bv, BitVec.toNat_ofNat, Nat.reducePow]; omega
  have e8 : bv 5 w 2 = r4 := by apply BitVec.eq_of_toNat_eq; simp only [bv, BitVec.toNat_ofNat, Nat.reducePow]; omega
  have e9 : bv 5 x 0 = gc := by apply BitVec.eq_of_toNat_eq; simp only [bv, BitVec.toNat_ofNat, Nat.reducePow]; omega
  have e10 : fld x 5 5 = wm.toNat := by simp only [fld, Nat.reducePow, Nat.reduceSub, Nat.reduceAdd]; omega
  have e11 : fld x 6 6 = ik.toNat := by simp only [fld, Nat.reducePow, Nat.reduceSub, Nat.reduceAdd]; omega
  rw [e5, e6, e7, e8, e9, e10, e11]
  cases wm <;> cases ik <;> rfl
theorem nopA : Statement .nopA := by
  refine ⟨fun h => Bool.noConfusion (show false = true from h), fun _ hw => ?_⟩
  rw [show encodeA .nopA = 0 from rfl]
  obtain ⟨w, hW⟩ : ∃ w, w = 0 := ⟨_, rfl⟩
  rw [← hW]
  have e1 : fld w 31 26 = 0 := by simp only [fld, Nat.reducePow, Nat.reduceSub, Nat.reduceAdd]; omega
  have f1 : decodeA w = .instr .nopA := by unfold decodeA; rw [e1]; try rfl
  rw [f1]
theorem hintA (v : BitVec 28) : Statement (.hintA v) := by
  refine ⟨fun h => Bool.noConfusion (show false = true from h), fun _ _ => ?_⟩
  have h_v := v.isLt
  obtain ⟨w, hW⟩ : ∃ w, w = 4026531840 + v.toNat := ⟨_, rfl⟩
  rw [show encodeA (.hintA v) = 4026531840 + v.toNat from rfl, ← hW]
  have e1 : fld w 31 26 = 60 ∨ fld w 31 26 = 61 ∨ fld w 31 26 = 62 ∨ fld w 31 26 = 63 := by
    simp only [fld, Nat.reducePow, Nat.reduceSub, Nat.reduceAdd]; omega
  have e2 : bv 28 w 0 = v := by
    apply BitVec.eq_of_toNat_eq; simp only [bv, BitVec.toNat_ofNat, Nat.reducePow]; omega
  have f1 : decodeA w = .instr (.hintA (bv 28 w 0)) := by
    unfold decodeA; rcases e1 with e | e | e | e <;> rw [e] <;> rfl
  rw [f1, e2]
theorem add (rd : GReg) (ra : GReg) (rb : GReg) (w32 : Bool) : Statement (.add rd ra rb w32) := by
  refine ⟨fun h => Bool.noConfusion (show false = true from h), fun _ hw => ?_⟩
  have h_rd := rd.isLt
  have h_ra := ra.isLt
  have h_rb := rb.isLt
  have h_w32 := w32.toNat_lt
  rw [show encodeA (.add rd ra rb w32) = 67108864 + rd.toNat * 2097152 + ra.toNat * 65536 + rb.toNat * 2048 + w32.toNat * 1024 from rfl]
  obtain ⟨w, hW⟩ : ∃ w, w = 67108864 + rd.toNat * 2097152 + ra.toNat * 65536 + rb.toNat * 2048 + w32.toNat * 1024 := ⟨_, rfl⟩
  rw [← hW]
  have e1 : fld w 31 26 = 1 := by simp only [fld, Nat.reducePow, Nat.reduceSub, Nat.reduceAdd]; omega
  have f1 : decodeA w = decA01 w := by unfold decodeA; rw [e1]; try rfl
  have e2 : fld w 9 0 = 0 := by simp only [fld, Nat.reducePow, Nat.reduceSub, Nat.reduceAdd]; omega
  have f2 : decA01 w = .instr (.add (bv 5 w 21) (bv 5 w 16) (bv 5 w 11) (fld w 10 10 == 1)) := by unfold decA01; rw [e2]; try rfl
  rw [f1, f2]
  have e3 : bv 5 w 21 = rd := by apply BitVec.eq_of_toNat_eq; simp only [bv, BitVec.toNat_ofNat, Nat.reducePow]; omega
  have e4 : bv 5 w 16 = ra := by apply BitVec.eq_of_toNat_eq; simp only [bv, BitVec.toNat_ofNat, Nat.reducePow]; omega
  have e5 : bv 5 w 11 = rb := by apply BitVec.eq_of_toNat_eq; simp only [bv, BitVec.toNat_ofNat, Nat.reducePow]; omega
  have e6 : fld w 10 10 = w32.toNat := by simp only [fld, Nat.reducePow, Nat.reduceSub, Nat.reduceAdd]; omega
  rw [e3, e4, e5, e6]
  cases w32 <;> rfl
theorem sub (rd : GReg) (ra : GReg) (rb : GReg) (w32 : Bool) : Statement (.sub rd ra rb w32) := by
  refine ⟨fun h => Bool.noConfusion (show false = true from h), fun _ hw => ?_⟩
  have h_rd := rd.isLt
  have h_ra := ra.isLt
  have h_rb := rb.isLt
  have h_w32 := w32.toNat_lt
  rw [show encodeA (.sub rd ra rb w32) = 67108864 + 1 + rd.toNat * 2097152 + ra.toNat * 65536 + rb.toNat * 2048 + w32.toNat * 1024 from rfl]
  obtain ⟨w, hW⟩ : ∃ w, w = 67108864 + 1 + rd.toNat * 2097152 + ra.toNat * 65536 + rb.toNat * 2048 + w32.toNat * 1024 := ⟨_, rfl⟩
  rw [← hW]
  have e1 : fld w 31 26 = 1 := by simp only [fld, Nat.reducePow, Nat.reduceSub, Nat.reduceAdd]; omega
  have f1 : decodeA w = decA01 w := by unfold decodeA; rw [e1]; try rfl
  have e2 : fld w 9 0 = 1 := by simp only [fld, Nat.reducePow, Nat.reduceSub, Nat.reduceAdd]; omega
  have f2 : decA01 w = .instr (.sub (bv 5 w 21) (bv 5 w 16) (bv 5 w 11) (fld w 10 10 == 1)) := by unfold decA01; rw [e2]; try rfl
  rw [f1, f2]
  have e3 : bv 5 w 21 = rd := by apply BitVec.eq_of_toNat_eq; simp only [bv, BitVec.toNat_ofNat, Nat.reducePow]; omega
  have e4 : bv 5 w 16 = ra := by apply BitVec.eq_of_toNat_eq; simp only [bv, BitVec.toNat_ofNat, Nat.reducePow]; omega
  have e5 : bv 5 w 11 = rb := by apply BitVec.eq_of_toNat_eq; simp only [bv, BitVec.toNat_ofNat, Nat.reducePow]; omega
  have e6 : fld w 10 10 = w32.toNat := by simp only [fld, Nat.reducePow, Nat.reduceSub, Nat.reduceAdd]; omega
  rw [e3, e4, e5, e6]
  cases w32 <;> rfl
theorem and (rd : GReg) (ra : GReg) (rb : GReg) : Statement (.and rd ra rb) := by
  refine ⟨fun h => Bool.noConfusion (show false = true from h), fun _ hw => ?_⟩
  have h_rd := rd.isLt
  have h_ra := ra.isLt
  have h_rb := rb.isLt
  rw [show encodeA (.and rd ra rb) = 67108864 + 2 + rd.toNat * 2097152 + ra.toNat * 65536 + rb.toNat * 2048 from rfl]
  obtain ⟨w, hW⟩ : ∃ w, w = 67108864 + 2 + rd.toNat * 2097152 + ra.toNat * 65536 + rb.toNat * 2048 := ⟨_, rfl⟩
  rw [← hW]
  have e1 : fld w 31 26 = 1 := by simp only [fld, Nat.reducePow, Nat.reduceSub, Nat.reduceAdd]; omega
  have f1 : decodeA w = decA01 w := by unfold decodeA; rw [e1]; try rfl
  have e2 : fld w 9 0 = 2 := by simp only [fld, Nat.reducePow, Nat.reduceSub, Nat.reduceAdd]; omega
  have f2 : decA01 w = if fld w 10 10 = 0 then .instr (.and (bv 5 w 21) (bv 5 w 16) (bv 5 w 11)) else .bad .operand := by unfold decA01; rw [e2]; try rfl
  rw [f1, f2]
  have e3 : fld w 10 10 = 0 := by simp only [fld, Nat.reducePow, Nat.reduceSub, Nat.reduceAdd]; omega
  rw [if_pos (show fld w 10 10 = 0 from by rw [e3]; first | done | decide | (simp at hw ⊢; omega) | (simp [tyBF] at hw ⊢; omega))]
  have e4 : bv 5 w 21 = rd := by apply BitVec.eq_of_toNat_eq; simp only [bv, BitVec.toNat_ofNat, Nat.reducePow]; omega
  have e5 : bv 5 w 16 = ra := by apply BitVec.eq_of_toNat_eq; simp only [bv, BitVec.toNat_ofNat, Nat.reducePow]; omega
  have e6 : bv 5 w 11 = rb := by apply BitVec.eq_of_toNat_eq; simp only [bv, BitVec.toNat_ofNat, Nat.reducePow]; omega
  rw [e4, e5, e6]
theorem or (rd : GReg) (ra : GReg) (rb : GReg) : Statement (.or rd ra rb) := by
  refine ⟨fun h => Bool.noConfusion (show false = true from h), fun _ hw => ?_⟩
  have h_rd := rd.isLt
  have h_ra := ra.isLt
  have h_rb := rb.isLt
  rw [show encodeA (.or rd ra rb) = 67108864 + 3 + rd.toNat * 2097152 + ra.toNat * 65536 + rb.toNat * 2048 from rfl]
  obtain ⟨w, hW⟩ : ∃ w, w = 67108864 + 3 + rd.toNat * 2097152 + ra.toNat * 65536 + rb.toNat * 2048 := ⟨_, rfl⟩
  rw [← hW]
  have e1 : fld w 31 26 = 1 := by simp only [fld, Nat.reducePow, Nat.reduceSub, Nat.reduceAdd]; omega
  have f1 : decodeA w = decA01 w := by unfold decodeA; rw [e1]; try rfl
  have e2 : fld w 9 0 = 3 := by simp only [fld, Nat.reducePow, Nat.reduceSub, Nat.reduceAdd]; omega
  have f2 : decA01 w = if fld w 10 10 = 0 then .instr (.or (bv 5 w 21) (bv 5 w 16) (bv 5 w 11)) else .bad .operand := by unfold decA01; rw [e2]; try rfl
  rw [f1, f2]
  have e3 : fld w 10 10 = 0 := by simp only [fld, Nat.reducePow, Nat.reduceSub, Nat.reduceAdd]; omega
  rw [if_pos (show fld w 10 10 = 0 from by rw [e3]; first | done | decide | (simp at hw ⊢; omega) | (simp [tyBF] at hw ⊢; omega))]
  have e4 : bv 5 w 21 = rd := by apply BitVec.eq_of_toNat_eq; simp only [bv, BitVec.toNat_ofNat, Nat.reducePow]; omega
  have e5 : bv 5 w 16 = ra := by apply BitVec.eq_of_toNat_eq; simp only [bv, BitVec.toNat_ofNat, Nat.reducePow]; omega
  have e6 : bv 5 w 11 = rb := by apply BitVec.eq_of_toNat_eq; simp only [bv, BitVec.toNat_ofNat, Nat.reducePow]; omega
  rw [e4, e5, e6]
theorem xor (rd : GReg) (ra : GReg) (rb : GReg) : Statement (.xor rd ra rb) := by
  refine ⟨fun h => Bool.noConfusion (show false = true from h), fun _ hw => ?_⟩
  have h_rd := rd.isLt
  have h_ra := ra.isLt
  have h_rb := rb.isLt
  rw [show encodeA (.xor rd ra rb) = 67108864 + 4 + rd.toNat * 2097152 + ra.toNat * 65536 + rb.toNat * 2048 from rfl]
  obtain ⟨w, hW⟩ : ∃ w, w = 67108864 + 4 + rd.toNat * 2097152 + ra.toNat * 65536 + rb.toNat * 2048 := ⟨_, rfl⟩
  rw [← hW]
  have e1 : fld w 31 26 = 1 := by simp only [fld, Nat.reducePow, Nat.reduceSub, Nat.reduceAdd]; omega
  have f1 : decodeA w = decA01 w := by unfold decodeA; rw [e1]; try rfl
  have e2 : fld w 9 0 = 4 := by simp only [fld, Nat.reducePow, Nat.reduceSub, Nat.reduceAdd]; omega
  have f2 : decA01 w = if fld w 10 10 = 0 then .instr (.xor (bv 5 w 21) (bv 5 w 16) (bv 5 w 11)) else .bad .operand := by unfold decA01; rw [e2]; try rfl
  rw [f1, f2]
  have e3 : fld w 10 10 = 0 := by simp only [fld, Nat.reducePow, Nat.reduceSub, Nat.reduceAdd]; omega
  rw [if_pos (show fld w 10 10 = 0 from by rw [e3]; first | done | decide | (simp at hw ⊢; omega) | (simp [tyBF] at hw ⊢; omega))]
  have e4 : bv 5 w 21 = rd := by apply BitVec.eq_of_toNat_eq; simp only [bv, BitVec.toNat_ofNat, Nat.reducePow]; omega
  have e5 : bv 5 w 16 = ra := by apply BitVec.eq_of_toNat_eq; simp only [bv, BitVec.toNat_ofNat, Nat.reducePow]; omega
  have e6 : bv 5 w 11 = rb := by apply BitVec.eq_of_toNat_eq; simp only [bv, BitVec.toNat_ofNat, Nat.reducePow]; omega
  rw [e4, e5, e6]
theorem andn (rd : GReg) (ra : GReg) (rb : GReg) : Statement (.andn rd ra rb) := by
  refine ⟨fun h => Bool.noConfusion (show false = true from h), fun _ hw => ?_⟩
  have h_rd := rd.isLt
  have h_ra := ra.isLt
  have h_rb := rb.isLt
  rw [show encodeA (.andn rd ra rb) = 67108864 + 5 + rd.toNat * 2097152 + ra.toNat * 65536 + rb.toNat * 2048 from rfl]
  obtain ⟨w, hW⟩ : ∃ w, w = 67108864 + 5 + rd.toNat * 2097152 + ra.toNat * 65536 + rb.toNat * 2048 := ⟨_, rfl⟩
  rw [← hW]
  have e1 : fld w 31 26 = 1 := by simp only [fld, Nat.reducePow, Nat.reduceSub, Nat.reduceAdd]; omega
  have f1 : decodeA w = decA01 w := by unfold decodeA; rw [e1]; try rfl
  have e2 : fld w 9 0 = 5 := by simp only [fld, Nat.reducePow, Nat.reduceSub, Nat.reduceAdd]; omega
  have f2 : decA01 w = if fld w 10 10 = 0 then .instr (.andn (bv 5 w 21) (bv 5 w 16) (bv 5 w 11)) else .bad .operand := by unfold decA01; rw [e2]; try rfl
  rw [f1, f2]
  have e3 : fld w 10 10 = 0 := by simp only [fld, Nat.reducePow, Nat.reduceSub, Nat.reduceAdd]; omega
  rw [if_pos (show fld w 10 10 = 0 from by rw [e3]; first | done | decide | (simp at hw ⊢; omega) | (simp [tyBF] at hw ⊢; omega))]
  have e4 : bv 5 w 21 = rd := by apply BitVec.eq_of_toNat_eq; simp only [bv, BitVec.toNat_ofNat, Nat.reducePow]; omega
  have e5 : bv 5 w 16 = ra := by apply BitVec.eq_of_toNat_eq; simp only [bv, BitVec.toNat_ofNat, Nat.reducePow]; omega
  have e6 : bv 5 w 11 = rb := by apply BitVec.eq_of_toNat_eq; simp only [bv, BitVec.toNat_ofNat, Nat.reducePow]; omega
  rw [e4, e5, e6]
theorem orn (rd : GReg) (ra : GReg) (rb : GReg) : Statement (.orn rd ra rb) := by
  refine ⟨fun h => Bool.noConfusion (show false = true from h), fun _ hw => ?_⟩
  have h_rd := rd.isLt
  have h_ra := ra.isLt
  have h_rb := rb.isLt
  rw [show encodeA (.orn rd ra rb) = 67108864 + 6 + rd.toNat * 2097152 + ra.toNat * 65536 + rb.toNat * 2048 from rfl]
  obtain ⟨w, hW⟩ : ∃ w, w = 67108864 + 6 + rd.toNat * 2097152 + ra.toNat * 65536 + rb.toNat * 2048 := ⟨_, rfl⟩
  rw [← hW]
  have e1 : fld w 31 26 = 1 := by simp only [fld, Nat.reducePow, Nat.reduceSub, Nat.reduceAdd]; omega
  have f1 : decodeA w = decA01 w := by unfold decodeA; rw [e1]; try rfl
  have e2 : fld w 9 0 = 6 := by simp only [fld, Nat.reducePow, Nat.reduceSub, Nat.reduceAdd]; omega
  have f2 : decA01 w = if fld w 10 10 = 0 then .instr (.orn (bv 5 w 21) (bv 5 w 16) (bv 5 w 11)) else .bad .operand := by unfold decA01; rw [e2]; try rfl
  rw [f1, f2]
  have e3 : fld w 10 10 = 0 := by simp only [fld, Nat.reducePow, Nat.reduceSub, Nat.reduceAdd]; omega
  rw [if_pos (show fld w 10 10 = 0 from by rw [e3]; first | done | decide | (simp at hw ⊢; omega) | (simp [tyBF] at hw ⊢; omega))]
  have e4 : bv 5 w 21 = rd := by apply BitVec.eq_of_toNat_eq; simp only [bv, BitVec.toNat_ofNat, Nat.reducePow]; omega
  have e5 : bv 5 w 16 = ra := by apply BitVec.eq_of_toNat_eq; simp only [bv, BitVec.toNat_ofNat, Nat.reducePow]; omega
  have e6 : bv 5 w 11 = rb := by apply BitVec.eq_of_toNat_eq; simp only [bv, BitVec.toNat_ofNat, Nat.reducePow]; omega
  rw [e4, e5, e6]
theorem shl (rd : GReg) (ra : GReg) (rb : GReg) (w32 : Bool) : Statement (.shl rd ra rb w32) := by
  refine ⟨fun h => Bool.noConfusion (show false = true from h), fun _ hw => ?_⟩
  have h_rd := rd.isLt
  have h_ra := ra.isLt
  have h_rb := rb.isLt
  have h_w32 := w32.toNat_lt
  rw [show encodeA (.shl rd ra rb w32) = 67108864 + 7 + rd.toNat * 2097152 + ra.toNat * 65536 + rb.toNat * 2048 + w32.toNat * 1024 from rfl]
  obtain ⟨w, hW⟩ : ∃ w, w = 67108864 + 7 + rd.toNat * 2097152 + ra.toNat * 65536 + rb.toNat * 2048 + w32.toNat * 1024 := ⟨_, rfl⟩
  rw [← hW]
  have e1 : fld w 31 26 = 1 := by simp only [fld, Nat.reducePow, Nat.reduceSub, Nat.reduceAdd]; omega
  have f1 : decodeA w = decA01 w := by unfold decodeA; rw [e1]; try rfl
  have e2 : fld w 9 0 = 7 := by simp only [fld, Nat.reducePow, Nat.reduceSub, Nat.reduceAdd]; omega
  have f2 : decA01 w = .instr (.shl (bv 5 w 21) (bv 5 w 16) (bv 5 w 11) (fld w 10 10 == 1)) := by unfold decA01; rw [e2]; try rfl
  rw [f1, f2]
  have e3 : bv 5 w 21 = rd := by apply BitVec.eq_of_toNat_eq; simp only [bv, BitVec.toNat_ofNat, Nat.reducePow]; omega
  have e4 : bv 5 w 16 = ra := by apply BitVec.eq_of_toNat_eq; simp only [bv, BitVec.toNat_ofNat, Nat.reducePow]; omega
  have e5 : bv 5 w 11 = rb := by apply BitVec.eq_of_toNat_eq; simp only [bv, BitVec.toNat_ofNat, Nat.reducePow]; omega
  have e6 : fld w 10 10 = w32.toNat := by simp only [fld, Nat.reducePow, Nat.reduceSub, Nat.reduceAdd]; omega
  rw [e3, e4, e5, e6]
  cases w32 <;> rfl
theorem shr (rd : GReg) (ra : GReg) (rb : GReg) (w32 : Bool) : Statement (.shr rd ra rb w32) := by
  refine ⟨fun h => Bool.noConfusion (show false = true from h), fun _ hw => ?_⟩
  have h_rd := rd.isLt
  have h_ra := ra.isLt
  have h_rb := rb.isLt
  have h_w32 := w32.toNat_lt
  rw [show encodeA (.shr rd ra rb w32) = 67108864 + 8 + rd.toNat * 2097152 + ra.toNat * 65536 + rb.toNat * 2048 + w32.toNat * 1024 from rfl]
  obtain ⟨w, hW⟩ : ∃ w, w = 67108864 + 8 + rd.toNat * 2097152 + ra.toNat * 65536 + rb.toNat * 2048 + w32.toNat * 1024 := ⟨_, rfl⟩
  rw [← hW]
  have e1 : fld w 31 26 = 1 := by simp only [fld, Nat.reducePow, Nat.reduceSub, Nat.reduceAdd]; omega
  have f1 : decodeA w = decA01 w := by unfold decodeA; rw [e1]; try rfl
  have e2 : fld w 9 0 = 8 := by simp only [fld, Nat.reducePow, Nat.reduceSub, Nat.reduceAdd]; omega
  have f2 : decA01 w = .instr (.shr (bv 5 w 21) (bv 5 w 16) (bv 5 w 11) (fld w 10 10 == 1)) := by unfold decA01; rw [e2]; try rfl
  rw [f1, f2]
  have e3 : bv 5 w 21 = rd := by apply BitVec.eq_of_toNat_eq; simp only [bv, BitVec.toNat_ofNat, Nat.reducePow]; omega
  have e4 : bv 5 w 16 = ra := by apply BitVec.eq_of_toNat_eq; simp only [bv, BitVec.toNat_ofNat, Nat.reducePow]; omega
  have e5 : bv 5 w 11 = rb := by apply BitVec.eq_of_toNat_eq; simp only [bv, BitVec.toNat_ofNat, Nat.reducePow]; omega
  have e6 : fld w 10 10 = w32.toNat := by simp only [fld, Nat.reducePow, Nat.reduceSub, Nat.reduceAdd]; omega
  rw [e3, e4, e5, e6]
  cases w32 <;> rfl
theorem sar (rd : GReg) (ra : GReg) (rb : GReg) (w32 : Bool) : Statement (.sar rd ra rb w32) := by
  refine ⟨fun h => Bool.noConfusion (show false = true from h), fun _ hw => ?_⟩
  have h_rd := rd.isLt
  have h_ra := ra.isLt
  have h_rb := rb.isLt
  have h_w32 := w32.toNat_lt
  rw [show encodeA (.sar rd ra rb w32) = 67108864 + 9 + rd.toNat * 2097152 + ra.toNat * 65536 + rb.toNat * 2048 + w32.toNat * 1024 from rfl]
  obtain ⟨w, hW⟩ : ∃ w, w = 67108864 + 9 + rd.toNat * 2097152 + ra.toNat * 65536 + rb.toNat * 2048 + w32.toNat * 1024 := ⟨_, rfl⟩
  rw [← hW]
  have e1 : fld w 31 26 = 1 := by simp only [fld, Nat.reducePow, Nat.reduceSub, Nat.reduceAdd]; omega
  have f1 : decodeA w = decA01 w := by unfold decodeA; rw [e1]; try rfl
  have e2 : fld w 9 0 = 9 := by simp only [fld, Nat.reducePow, Nat.reduceSub, Nat.reduceAdd]; omega
  have f2 : decA01 w = .instr (.sar (bv 5 w 21) (bv 5 w 16) (bv 5 w 11) (fld w 10 10 == 1)) := by unfold decA01; rw [e2]; try rfl
  rw [f1, f2]
  have e3 : bv 5 w 21 = rd := by apply BitVec.eq_of_toNat_eq; simp only [bv, BitVec.toNat_ofNat, Nat.reducePow]; omega
  have e4 : bv 5 w 16 = ra := by apply BitVec.eq_of_toNat_eq; simp only [bv, BitVec.toNat_ofNat, Nat.reducePow]; omega
  have e5 : bv 5 w 11 = rb := by apply BitVec.eq_of_toNat_eq; simp only [bv, BitVec.toNat_ofNat, Nat.reducePow]; omega
  have e6 : fld w 10 10 = w32.toNat := by simp only [fld, Nat.reducePow, Nat.reduceSub, Nat.reduceAdd]; omega
  rw [e3, e4, e5, e6]
  cases w32 <;> rfl
theorem rol (rd : GReg) (ra : GReg) (rb : GReg) (w32 : Bool) : Statement (.rol rd ra rb w32) := by
  refine ⟨fun h => Bool.noConfusion (show false = true from h), fun _ hw => ?_⟩
  have h_rd := rd.isLt
  have h_ra := ra.isLt
  have h_rb := rb.isLt
  have h_w32 := w32.toNat_lt
  rw [show encodeA (.rol rd ra rb w32) = 67108864 + 10 + rd.toNat * 2097152 + ra.toNat * 65536 + rb.toNat * 2048 + w32.toNat * 1024 from rfl]
  obtain ⟨w, hW⟩ : ∃ w, w = 67108864 + 10 + rd.toNat * 2097152 + ra.toNat * 65536 + rb.toNat * 2048 + w32.toNat * 1024 := ⟨_, rfl⟩
  rw [← hW]
  have e1 : fld w 31 26 = 1 := by simp only [fld, Nat.reducePow, Nat.reduceSub, Nat.reduceAdd]; omega
  have f1 : decodeA w = decA01 w := by unfold decodeA; rw [e1]; try rfl
  have e2 : fld w 9 0 = 10 := by simp only [fld, Nat.reducePow, Nat.reduceSub, Nat.reduceAdd]; omega
  have f2 : decA01 w = .instr (.rol (bv 5 w 21) (bv 5 w 16) (bv 5 w 11) (fld w 10 10 == 1)) := by unfold decA01; rw [e2]; try rfl
  rw [f1, f2]
  have e3 : bv 5 w 21 = rd := by apply BitVec.eq_of_toNat_eq; simp only [bv, BitVec.toNat_ofNat, Nat.reducePow]; omega
  have e4 : bv 5 w 16 = ra := by apply BitVec.eq_of_toNat_eq; simp only [bv, BitVec.toNat_ofNat, Nat.reducePow]; omega
  have e5 : bv 5 w 11 = rb := by apply BitVec.eq_of_toNat_eq; simp only [bv, BitVec.toNat_ofNat, Nat.reducePow]; omega
  have e6 : fld w 10 10 = w32.toNat := by simp only [fld, Nat.reducePow, Nat.reduceSub, Nat.reduceAdd]; omega
  rw [e3, e4, e5, e6]
  cases w32 <;> rfl
theorem min (rd : GReg) (ra : GReg) (rb : GReg) : Statement (.min rd ra rb) := by
  refine ⟨fun h => Bool.noConfusion (show false = true from h), fun _ hw => ?_⟩
  have h_rd := rd.isLt
  have h_ra := ra.isLt
  have h_rb := rb.isLt
  rw [show encodeA (.min rd ra rb) = 67108864 + 11 + rd.toNat * 2097152 + ra.toNat * 65536 + rb.toNat * 2048 from rfl]
  obtain ⟨w, hW⟩ : ∃ w, w = 67108864 + 11 + rd.toNat * 2097152 + ra.toNat * 65536 + rb.toNat * 2048 := ⟨_, rfl⟩
  rw [← hW]
  have e1 : fld w 31 26 = 1 := by simp only [fld, Nat.reducePow, Nat.reduceSub, Nat.reduceAdd]; omega
  have f1 : decodeA w = decA01 w := by unfold decodeA; rw [e1]; try rfl
  have e2 : fld w 9 0 = 11 := by simp only [fld, Nat.reducePow, Nat.reduceSub, Nat.reduceAdd]; omega
  have f2 : decA01 w = if fld w 10 10 = 0 then .instr (.min (bv 5 w 21) (bv 5 w 16) (bv 5 w 11)) else .bad .operand := by unfold decA01; rw [e2]; try rfl
  rw [f1, f2]
  have e3 : fld w 10 10 = 0 := by simp only [fld, Nat.reducePow, Nat.reduceSub, Nat.reduceAdd]; omega
  rw [if_pos (show fld w 10 10 = 0 from by rw [e3]; first | done | decide | (simp at hw ⊢; omega) | (simp [tyBF] at hw ⊢; omega))]
  have e4 : bv 5 w 21 = rd := by apply BitVec.eq_of_toNat_eq; simp only [bv, BitVec.toNat_ofNat, Nat.reducePow]; omega
  have e5 : bv 5 w 16 = ra := by apply BitVec.eq_of_toNat_eq; simp only [bv, BitVec.toNat_ofNat, Nat.reducePow]; omega
  have e6 : bv 5 w 11 = rb := by apply BitVec.eq_of_toNat_eq; simp only [bv, BitVec.toNat_ofNat, Nat.reducePow]; omega
  rw [e4, e5, e6]
theorem max (rd : GReg) (ra : GReg) (rb : GReg) : Statement (.max rd ra rb) := by
  refine ⟨fun h => Bool.noConfusion (show false = true from h), fun _ hw => ?_⟩
  have h_rd := rd.isLt
  have h_ra := ra.isLt
  have h_rb := rb.isLt
  rw [show encodeA (.max rd ra rb) = 67108864 + 12 + rd.toNat * 2097152 + ra.toNat * 65536 + rb.toNat * 2048 from rfl]
  obtain ⟨w, hW⟩ : ∃ w, w = 67108864 + 12 + rd.toNat * 2097152 + ra.toNat * 65536 + rb.toNat * 2048 := ⟨_, rfl⟩
  rw [← hW]
  have e1 : fld w 31 26 = 1 := by simp only [fld, Nat.reducePow, Nat.reduceSub, Nat.reduceAdd]; omega
  have f1 : decodeA w = decA01 w := by unfold decodeA; rw [e1]; try rfl
  have e2 : fld w 9 0 = 12 := by simp only [fld, Nat.reducePow, Nat.reduceSub, Nat.reduceAdd]; omega
  have f2 : decA01 w = if fld w 10 10 = 0 then .instr (.max (bv 5 w 21) (bv 5 w 16) (bv 5 w 11)) else .bad .operand := by unfold decA01; rw [e2]; try rfl
  rw [f1, f2]
  have e3 : fld w 10 10 = 0 := by simp only [fld, Nat.reducePow, Nat.reduceSub, Nat.reduceAdd]; omega
  rw [if_pos (show fld w 10 10 = 0 from by rw [e3]; first | done | decide | (simp at hw ⊢; omega) | (simp [tyBF] at hw ⊢; omega))]
  have e4 : bv 5 w 21 = rd := by apply BitVec.eq_of_toNat_eq; simp only [bv, BitVec.toNat_ofNat, Nat.reducePow]; omega
  have e5 : bv 5 w 16 = ra := by apply BitVec.eq_of_toNat_eq; simp only [bv, BitVec.toNat_ofNat, Nat.reducePow]; omega
  have e6 : bv 5 w 11 = rb := by apply BitVec.eq_of_toNat_eq; simp only [bv, BitVec.toNat_ofNat, Nat.reducePow]; omega
  rw [e4, e5, e6]
theorem minn (rd : GReg) (ra : GReg) (rb : GReg) : Statement (.minn rd ra rb) := by
  refine ⟨fun h => Bool.noConfusion (show false = true from h), fun _ hw => ?_⟩
  have h_rd := rd.isLt
  have h_ra := ra.isLt
  have h_rb := rb.isLt
  rw [show encodeA (.minn rd ra rb) = 67108864 + 13 + rd.toNat * 2097152 + ra.toNat * 65536 + rb.toNat * 2048 from rfl]
  obtain ⟨w, hW⟩ : ∃ w, w = 67108864 + 13 + rd.toNat * 2097152 + ra.toNat * 65536 + rb.toNat * 2048 := ⟨_, rfl⟩
  rw [← hW]
  have e1 : fld w 31 26 = 1 := by simp only [fld, Nat.reducePow, Nat.reduceSub, Nat.reduceAdd]; omega
  have f1 : decodeA w = decA01 w := by unfold decodeA; rw [e1]; try rfl
  have e2 : fld w 9 0 = 13 := by simp only [fld, Nat.reducePow, Nat.reduceSub, Nat.reduceAdd]; omega
  have f2 : decA01 w = if fld w 10 10 = 0 then .instr (.minn (bv 5 w 21) (bv 5 w 16) (bv 5 w 11)) else .bad .operand := by unfold decA01; rw [e2]; try rfl
  rw [f1, f2]
  have e3 : fld w 10 10 = 0 := by simp only [fld, Nat.reducePow, Nat.reduceSub, Nat.reduceAdd]; omega
  rw [if_pos (show fld w 10 10 = 0 from by rw [e3]; first | done | decide | (simp at hw ⊢; omega) | (simp [tyBF] at hw ⊢; omega))]
  have e4 : bv 5 w 21 = rd := by apply BitVec.eq_of_toNat_eq; simp only [bv, BitVec.toNat_ofNat, Nat.reducePow]; omega
  have e5 : bv 5 w 16 = ra := by apply BitVec.eq_of_toNat_eq; simp only [bv, BitVec.toNat_ofNat, Nat.reducePow]; omega
  have e6 : bv 5 w 11 = rb := by apply BitVec.eq_of_toNat_eq; simp only [bv, BitVec.toNat_ofNat, Nat.reducePow]; omega
  rw [e4, e5, e6]
theorem maxn (rd : GReg) (ra : GReg) (rb : GReg) : Statement (.maxn rd ra rb) := by
  refine ⟨fun h => Bool.noConfusion (show false = true from h), fun _ hw => ?_⟩
  have h_rd := rd.isLt
  have h_ra := ra.isLt
  have h_rb := rb.isLt
  rw [show encodeA (.maxn rd ra rb) = 67108864 + 14 + rd.toNat * 2097152 + ra.toNat * 65536 + rb.toNat * 2048 from rfl]
  obtain ⟨w, hW⟩ : ∃ w, w = 67108864 + 14 + rd.toNat * 2097152 + ra.toNat * 65536 + rb.toNat * 2048 := ⟨_, rfl⟩
  rw [← hW]
  have e1 : fld w 31 26 = 1 := by simp only [fld, Nat.reducePow, Nat.reduceSub, Nat.reduceAdd]; omega
  have f1 : decodeA w = decA01 w := by unfold decodeA; rw [e1]; try rfl
  have e2 : fld w 9 0 = 14 := by simp only [fld, Nat.reducePow, Nat.reduceSub, Nat.reduceAdd]; omega
  have f2 : decA01 w = if fld w 10 10 = 0 then .instr (.maxn (bv 5 w 21) (bv 5 w 16) (bv 5 w 11)) else .bad .operand := by unfold decA01; rw [e2]; try rfl
  rw [f1, f2]
  have e3 : fld w 10 10 = 0 := by simp only [fld, Nat.reducePow, Nat.reduceSub, Nat.reduceAdd]; omega
  rw [if_pos (show fld w 10 10 = 0 from by rw [e3]; first | done | decide | (simp at hw ⊢; omega) | (simp [tyBF] at hw ⊢; omega))]
  have e4 : bv 5 w 21 = rd := by apply BitVec.eq_of_toNat_eq; simp only [bv, BitVec.toNat_ofNat, Nat.reducePow]; omega
  have e5 : bv 5 w 16 = ra := by apply BitVec.eq_of_toNat_eq; simp only [bv, BitVec.toNat_ofNat, Nat.reducePow]; omega
  have e6 : bv 5 w 11 = rb := by apply BitVec.eq_of_toNat_eq; simp only [bv, BitVec.toNat_ofNat, Nat.reducePow]; omega
  rw [e4, e5, e6]
theorem seq (rd : GReg) (ra : GReg) (rb : GReg) : Statement (.seq rd ra rb) := by
  refine ⟨fun h => Bool.noConfusion (show false = true from h), fun _ hw => ?_⟩
  have h_rd := rd.isLt
  have h_ra := ra.isLt
  have h_rb := rb.isLt
  rw [show encodeA (.seq rd ra rb) = 67108864 + 15 + rd.toNat * 2097152 + ra.toNat * 65536 + rb.toNat * 2048 from rfl]
  obtain ⟨w, hW⟩ : ∃ w, w = 67108864 + 15 + rd.toNat * 2097152 + ra.toNat * 65536 + rb.toNat * 2048 := ⟨_, rfl⟩
  rw [← hW]
  have e1 : fld w 31 26 = 1 := by simp only [fld, Nat.reducePow, Nat.reduceSub, Nat.reduceAdd]; omega
  have f1 : decodeA w = decA01 w := by unfold decodeA; rw [e1]; try rfl
  have e2 : fld w 9 0 = 15 := by simp only [fld, Nat.reducePow, Nat.reduceSub, Nat.reduceAdd]; omega
  have f2 : decA01 w = if fld w 10 10 = 0 then .instr (.seq (bv 5 w 21) (bv 5 w 16) (bv 5 w 11)) else .bad .operand := by unfold decA01; rw [e2]; try rfl
  rw [f1, f2]
  have e3 : fld w 10 10 = 0 := by simp only [fld, Nat.reducePow, Nat.reduceSub, Nat.reduceAdd]; omega
  rw [if_pos (show fld w 10 10 = 0 from by rw [e3]; first | done | decide | (simp at hw ⊢; omega) | (simp [tyBF] at hw ⊢; omega))]
  have e4 : bv 5 w 21 = rd := by apply BitVec.eq_of_toNat_eq; simp only [bv, BitVec.toNat_ofNat, Nat.reducePow]; omega
  have e5 : bv 5 w 16 = ra := by apply BitVec.eq_of_toNat_eq; simp only [bv, BitVec.toNat_ofNat, Nat.reducePow]; omega
  have e6 : bv 5 w 11 = rb := by apply BitVec.eq_of_toNat_eq; simp only [bv, BitVec.toNat_ofNat, Nat.reducePow]; omega
  rw [e4, e5, e6]
theorem sne (rd : GReg) (ra : GReg) (rb : GReg) : Statement (.sne rd ra rb) := by
  refine ⟨fun h => Bool.noConfusion (show false = true from h), fun _ hw => ?_⟩
  have h_rd := rd.isLt
  have h_ra := ra.isLt
  have h_rb := rb.isLt
  rw [show encodeA (.sne rd ra rb) = 67108864 + 16 + rd.toNat * 2097152 + ra.toNat * 65536 + rb.toNat * 2048 from rfl]
  obtain ⟨w, hW⟩ : ∃ w, w = 67108864 + 16 + rd.toNat * 2097152 + ra.toNat * 65536 + rb.toNat * 2048 := ⟨_, rfl⟩
  rw [← hW]
  have e1 : fld w 31 26 = 1 := by simp only [fld, Nat.reducePow, Nat.reduceSub, Nat.reduceAdd]; omega
  have f1 : decodeA w = decA01 w := by unfold decodeA; rw [e1]; try rfl
  have e2 : fld w 9 0 = 16 := by simp only [fld, Nat.reducePow, Nat.reduceSub, Nat.reduceAdd]; omega
  have f2 : decA01 w = if fld w 10 10 = 0 then .instr (.sne (bv 5 w 21) (bv 5 w 16) (bv 5 w 11)) else .bad .operand := by unfold decA01; rw [e2]; try rfl
  rw [f1, f2]
  have e3 : fld w 10 10 = 0 := by simp only [fld, Nat.reducePow, Nat.reduceSub, Nat.reduceAdd]; omega
  rw [if_pos (show fld w 10 10 = 0 from by rw [e3]; first | done | decide | (simp at hw ⊢; omega) | (simp [tyBF] at hw ⊢; omega))]
  have e4 : bv 5 w 21 = rd := by apply BitVec.eq_of_toNat_eq; simp only [bv, BitVec.toNat_ofNat, Nat.reducePow]; omega
  have e5 : bv 5 w 16 = ra := by apply BitVec.eq_of_toNat_eq; simp only [bv, BitVec.toNat_ofNat, Nat.reducePow]; omega
  have e6 : bv 5 w 11 = rb := by apply BitVec.eq_of_toNat_eq; simp only [bv, BitVec.toNat_ofNat, Nat.reducePow]; omega
  rw [e4, e5, e6]
theorem slt (rd : GReg) (ra : GReg) (rb : GReg) : Statement (.slt rd ra rb) := by
  refine ⟨fun h => Bool.noConfusion (show false = true from h), fun _ hw => ?_⟩
  have h_rd := rd.isLt
  have h_ra := ra.isLt
  have h_rb := rb.isLt
  rw [show encodeA (.slt rd ra rb) = 67108864 + 17 + rd.toNat * 2097152 + ra.toNat * 65536 + rb.toNat * 2048 from rfl]
  obtain ⟨w, hW⟩ : ∃ w, w = 67108864 + 17 + rd.toNat * 2097152 + ra.toNat * 65536 + rb.toNat * 2048 := ⟨_, rfl⟩
  rw [← hW]
  have e1 : fld w 31 26 = 1 := by simp only [fld, Nat.reducePow, Nat.reduceSub, Nat.reduceAdd]; omega
  have f1 : decodeA w = decA01 w := by unfold decodeA; rw [e1]; try rfl
  have e2 : fld w 9 0 = 17 := by simp only [fld, Nat.reducePow, Nat.reduceSub, Nat.reduceAdd]; omega
  have f2 : decA01 w = if fld w 10 10 = 0 then .instr (.slt (bv 5 w 21) (bv 5 w 16) (bv 5 w 11)) else .bad .operand := by unfold decA01; rw [e2]; try rfl
  rw [f1, f2]
  have e3 : fld w 10 10 = 0 := by simp only [fld, Nat.reducePow, Nat.reduceSub, Nat.reduceAdd]; omega
  rw [if_pos (show fld w 10 10 = 0 from by rw [e3]; first | done | decide | (simp at hw ⊢; omega) | (simp [tyBF] at hw ⊢; omega))]
  have e4 : bv 5 w 21 = rd := by apply BitVec.eq_of_toNat_eq; simp only [bv, BitVec.toNat_ofNat, Nat.reducePow]; omega
  have e5 : bv 5 w 16 = ra := by apply BitVec.eq_of_toNat_eq; simp only [bv, BitVec.toNat_ofNat, Nat.reducePow]; omega
  have e6 : bv 5 w 11 = rb := by apply BitVec.eq_of_toNat_eq; simp only [bv, BitVec.toNat_ofNat, Nat.reducePow]; omega
  rw [e4, e5, e6]
theorem sltn (rd : GReg) (ra : GReg) (rb : GReg) : Statement (.sltn rd ra rb) := by
  refine ⟨fun h => Bool.noConfusion (show false = true from h), fun _ hw => ?_⟩
  have h_rd := rd.isLt
  have h_ra := ra.isLt
  have h_rb := rb.isLt
  rw [show encodeA (.sltn rd ra rb) = 67108864 + 18 + rd.toNat * 2097152 + ra.toNat * 65536 + rb.toNat * 2048 from rfl]
  obtain ⟨w, hW⟩ : ∃ w, w = 67108864 + 18 + rd.toNat * 2097152 + ra.toNat * 65536 + rb.toNat * 2048 := ⟨_, rfl⟩
  rw [← hW]
  have e1 : fld w 31 26 = 1 := by simp only [fld, Nat.reducePow, Nat.reduceSub, Nat.reduceAdd]; omega
  have f1 : decodeA w = decA01 w := by unfold decodeA; rw [e1]; try rfl
  have e2 : fld w 9 0 = 18 := by simp only [fld, Nat.reducePow, Nat.reduceSub, Nat.reduceAdd]; omega
  have f2 : decA01 w = if fld w 10 10 = 0 then .instr (.sltn (bv 5 w 21) (bv 5 w 16) (bv 5 w 11)) else .bad .operand := by unfold decA01; rw [e2]; try rfl
  rw [f1, f2]
  have e3 : fld w 10 10 = 0 := by simp only [fld, Nat.reducePow, Nat.reduceSub, Nat.reduceAdd]; omega
  rw [if_pos (show fld w 10 10 = 0 from by rw [e3]; first | done | decide | (simp at hw ⊢; omega) | (simp [tyBF] at hw ⊢; omega))]
  have e4 : bv 5 w 21 = rd := by apply BitVec.eq_of_toNat_eq; simp only [bv, BitVec.toNat_ofNat, Nat.reducePow]; omega
  have e5 : bv 5 w 16 = ra := by apply BitVec.eq_of_toNat_eq; simp only [bv, BitVec.toNat_ofNat, Nat.reducePow]; omega
  have e6 : bv 5 w 11 = rb := by apply BitVec.eq_of_toNat_eq; simp only [bv, BitVec.toNat_ofNat, Nat.reducePow]; omega
  rw [e4, e5, e6]
theorem sle (rd : GReg) (ra : GReg) (rb : GReg) : Statement (.sle rd ra rb) := by
  refine ⟨fun h => Bool.noConfusion (show false = true from h), fun _ hw => ?_⟩
  have h_rd := rd.isLt
  have h_ra := ra.isLt
  have h_rb := rb.isLt
  rw [show encodeA (.sle rd ra rb) = 67108864 + 19 + rd.toNat * 2097152 + ra.toNat * 65536 + rb.toNat * 2048 from rfl]
  obtain ⟨w, hW⟩ : ∃ w, w = 67108864 + 19 + rd.toNat * 2097152 + ra.toNat * 65536 + rb.toNat * 2048 := ⟨_, rfl⟩
  rw [← hW]
  have e1 : fld w 31 26 = 1 := by simp only [fld, Nat.reducePow, Nat.reduceSub, Nat.reduceAdd]; omega
  have f1 : decodeA w = decA01 w := by unfold decodeA; rw [e1]; try rfl
  have e2 : fld w 9 0 = 19 := by simp only [fld, Nat.reducePow, Nat.reduceSub, Nat.reduceAdd]; omega
  have f2 : decA01 w = if fld w 10 10 = 0 then .instr (.sle (bv 5 w 21) (bv 5 w 16) (bv 5 w 11)) else .bad .operand := by unfold decA01; rw [e2]; try rfl
  rw [f1, f2]
  have e3 : fld w 10 10 = 0 := by simp only [fld, Nat.reducePow, Nat.reduceSub, Nat.reduceAdd]; omega
  rw [if_pos (show fld w 10 10 = 0 from by rw [e3]; first | done | decide | (simp at hw ⊢; omega) | (simp [tyBF] at hw ⊢; omega))]
  have e4 : bv 5 w 21 = rd := by apply BitVec.eq_of_toNat_eq; simp only [bv, BitVec.toNat_ofNat, Nat.reducePow]; omega
  have e5 : bv 5 w 16 = ra := by apply BitVec.eq_of_toNat_eq; simp only [bv, BitVec.toNat_ofNat, Nat.reducePow]; omega
  have e6 : bv 5 w 11 = rb := by apply BitVec.eq_of_toNat_eq; simp only [bv, BitVec.toNat_ofNat, Nat.reducePow]; omega
  rw [e4, e5, e6]
theorem slen (rd : GReg) (ra : GReg) (rb : GReg) : Statement (.slen rd ra rb) := by
  refine ⟨fun h => Bool.noConfusion (show false = true from h), fun _ hw => ?_⟩
  have h_rd := rd.isLt
  have h_ra := ra.isLt
  have h_rb := rb.isLt
  rw [show encodeA (.slen rd ra rb) = 67108864 + 20 + rd.toNat * 2097152 + ra.toNat * 65536 + rb.toNat * 2048 from rfl]
  obtain ⟨w, hW⟩ : ∃ w, w = 67108864 + 20 + rd.toNat * 2097152 + ra.toNat * 65536 + rb.toNat * 2048 := ⟨_, rfl⟩
  rw [← hW]
  have e1 : fld w 31 26 = 1 := by simp only [fld, Nat.reducePow, Nat.reduceSub, Nat.reduceAdd]; omega
  have f1 : decodeA w = decA01 w := by unfold decodeA; rw [e1]; try rfl
  have e2 : fld w 9 0 = 20 := by simp only [fld, Nat.reducePow, Nat.reduceSub, Nat.reduceAdd]; omega
  have f2 : decA01 w = if fld w 10 10 = 0 then .instr (.slen (bv 5 w 21) (bv 5 w 16) (bv 5 w 11)) else .bad .operand := by unfold decA01; rw [e2]; try rfl
  rw [f1, f2]
  have e3 : fld w 10 10 = 0 := by simp only [fld, Nat.reducePow, Nat.reduceSub, Nat.reduceAdd]; omega
  rw [if_pos (show fld w 10 10 = 0 from by rw [e3]; first | done | decide | (simp at hw ⊢; omega) | (simp [tyBF] at hw ⊢; omega))]
  have e4 : bv 5 w 21 = rd := by apply BitVec.eq_of_toNat_eq; simp only [bv, BitVec.toNat_ofNat, Nat.reducePow]; omega
  have e5 : bv 5 w 16 = ra := by apply BitVec.eq_of_toNat_eq; simp only [bv, BitVec.toNat_ofNat, Nat.reducePow]; omega
  have e6 : bv 5 w 11 = rb := by apply BitVec.eq_of_toNat_eq; simp only [bv, BitVec.toNat_ofNat, Nat.reducePow]; omega
  rw [e4, e5, e6]
theorem bget (rd : GReg) (ra : GReg) (rb : GReg) : Statement (.bget rd ra rb) := by
  refine ⟨fun h => Bool.noConfusion (show false = true from h), fun _ hw => ?_⟩
  have h_rd := rd.isLt
  have h_ra := ra.isLt
  have h_rb := rb.isLt
  rw [show encodeA (.bget rd ra rb) = 67108864 + 21 + rd.toNat * 2097152 + ra.toNat * 65536 + rb.toNat * 2048 from rfl]
  obtain ⟨w, hW⟩ : ∃ w, w = 67108864 + 21 + rd.toNat * 2097152 + ra.toNat * 65536 + rb.toNat * 2048 := ⟨_, rfl⟩
  rw [← hW]
  have e1 : fld w 31 26 = 1 := by simp only [fld, Nat.reducePow, Nat.reduceSub, Nat.reduceAdd]; omega
  have f1 : decodeA w = decA01 w := by unfold decodeA; rw [e1]; try rfl
  have e2 : fld w 9 0 = 21 := by simp only [fld, Nat.reducePow, Nat.reduceSub, Nat.reduceAdd]; omega
  have f2 : decA01 w = if fld w 10 10 = 0 then .instr (.bget (bv 5 w 21) (bv 5 w 16) (bv 5 w 11)) else .bad .operand := by unfold decA01; rw [e2]; try rfl
  rw [f1, f2]
  have e3 : fld w 10 10 = 0 := by simp only [fld, Nat.reducePow, Nat.reduceSub, Nat.reduceAdd]; omega
  rw [if_pos (show fld w 10 10 = 0 from by rw [e3]; first | done | decide | (simp at hw ⊢; omega) | (simp [tyBF] at hw ⊢; omega))]
  have e4 : bv 5 w 21 = rd := by apply BitVec.eq_of_toNat_eq; simp only [bv, BitVec.toNat_ofNat, Nat.reducePow]; omega
  have e5 : bv 5 w 16 = ra := by apply BitVec.eq_of_toNat_eq; simp only [bv, BitVec.toNat_ofNat, Nat.reducePow]; omega
  have e6 : bv 5 w 11 = rb := by apply BitVec.eq_of_toNat_eq; simp only [bv, BitVec.toNat_ofNat, Nat.reducePow]; omega
  rw [e4, e5, e6]
theorem bset (rd : GReg) (ra : GReg) (rb : GReg) : Statement (.bset rd ra rb) := by
  refine ⟨fun h => Bool.noConfusion (show false = true from h), fun _ hw => ?_⟩
  have h_rd := rd.isLt
  have h_ra := ra.isLt
  have h_rb := rb.isLt
  rw [show encodeA (.bset rd ra rb) = 67108864 + 22 + rd.toNat * 2097152 + ra.toNat * 65536 + rb.toNat * 2048 from rfl]
  obtain ⟨w, hW⟩ : ∃ w, w = 67108864 + 22 + rd.toNat * 2097152 + ra.toNat * 65536 + rb.toNat * 2048 := ⟨_, rfl⟩
  rw [← hW]
  have e1 : fld w 31 26 = 1 := by simp only [fld, Nat.reducePow, Nat.reduceSub, Nat.reduceAdd]; omega
  have f1 : decodeA w = decA01 w := by unfold decodeA; rw [e1]; try rfl
  have e2 : fld w 9 0 = 22 := by simp only [fld, Nat.reducePow, Nat.reduceSub, Nat.reduceAdd]; omega
  have f2 : decA01 w = if fld w 10 10 = 0 then .instr (.bset (bv 5 w 21) (bv 5 w 16) (bv 5 w 11)) else .bad .operand := by unfold decA01; rw [e2]; try rfl
  rw [f1, f2]
  have e3 : fld w 10 10 = 0 := by simp only [fld, Nat.reducePow, Nat.reduceSub, Nat.reduceAdd]; omega
  rw [if_pos (show fld w 10 10 = 0 from by rw [e3]; first | done | decide | (simp at hw ⊢; omega) | (simp [tyBF] at hw ⊢; omega))]
  have e4 : bv 5 w 21 = rd := by apply BitVec.eq_of_toNat_eq; simp only [bv, BitVec.toNat_ofNat, Nat.reducePow]; omega
  have e5 : bv 5 w 16 = ra := by apply BitVec.eq_of_toNat_eq; simp only [bv, BitVec.toNat_ofNat, Nat.reducePow]; omega
  have e6 : bv 5 w 11 = rb := by apply BitVec.eq_of_toNat_eq; simp only [bv, BitVec.toNat_ofNat, Nat.reducePow]; omega
  rw [e4, e5, e6]
theorem bclr (rd : GReg) (ra : GReg) (rb : GReg) : Statement (.bclr rd ra rb) := by
  refine ⟨fun h => Bool.noConfusion (show false = true from h), fun _ hw => ?_⟩
  have h_rd := rd.isLt
  have h_ra := ra.isLt
  have h_rb := rb.isLt
  rw [show encodeA (.bclr rd ra rb) = 67108864 + 23 + rd.toNat * 2097152 + ra.toNat * 65536 + rb.toNat * 2048 from rfl]
  obtain ⟨w, hW⟩ : ∃ w, w = 67108864 + 23 + rd.toNat * 2097152 + ra.toNat * 65536 + rb.toNat * 2048 := ⟨_, rfl⟩
  rw [← hW]
  have e1 : fld w 31 26 = 1 := by simp only [fld, Nat.reducePow, Nat.reduceSub, Nat.reduceAdd]; omega
  have f1 : decodeA w = decA01 w := by unfold decodeA; rw [e1]; try rfl
  have e2 : fld w 9 0 = 23 := by simp only [fld, Nat.reducePow, Nat.reduceSub, Nat.reduceAdd]; omega
  have f2 : decA01 w = if fld w 10 10 = 0 then .instr (.bclr (bv 5 w 21) (bv 5 w 16) (bv 5 w 11)) else .bad .operand := by unfold decA01; rw [e2]; try rfl
  rw [f1, f2]
  have e3 : fld w 10 10 = 0 := by simp only [fld, Nat.reducePow, Nat.reduceSub, Nat.reduceAdd]; omega
  rw [if_pos (show fld w 10 10 = 0 from by rw [e3]; first | done | decide | (simp at hw ⊢; omega) | (simp [tyBF] at hw ⊢; omega))]
  have e4 : bv 5 w 21 = rd := by apply BitVec.eq_of_toNat_eq; simp only [bv, BitVec.toNat_ofNat, Nat.reducePow]; omega
  have e5 : bv 5 w 16 = ra := by apply BitVec.eq_of_toNat_eq; simp only [bv, BitVec.toNat_ofNat, Nat.reducePow]; omega
  have e6 : bv 5 w 11 = rb := by apply BitVec.eq_of_toNat_eq; simp only [bv, BitVec.toNat_ofNat, Nat.reducePow]; omega
  rw [e4, e5, e6]
theorem bflip (rd : GReg) (ra : GReg) (rb : GReg) : Statement (.bflip rd ra rb) := by
  refine ⟨fun h => Bool.noConfusion (show false = true from h), fun _ hw => ?_⟩
  have h_rd := rd.isLt
  have h_ra := ra.isLt
  have h_rb := rb.isLt
  rw [show encodeA (.bflip rd ra rb) = 67108864 + 24 + rd.toNat * 2097152 + ra.toNat * 65536 + rb.toNat * 2048 from rfl]
  obtain ⟨w, hW⟩ : ∃ w, w = 67108864 + 24 + rd.toNat * 2097152 + ra.toNat * 65536 + rb.toNat * 2048 := ⟨_, rfl⟩
  rw [← hW]
  have e1 : fld w 31 26 = 1 := by simp only [fld, Nat.reducePow, Nat.reduceSub, Nat.reduceAdd]; omega
  have f1 : decodeA w = decA01 w := by unfold decodeA; rw [e1]; try rfl
  have e2 : fld w 9 0 = 24 := by simp only [fld, Nat.reducePow, Nat.reduceSub, Nat.reduceAdd]; omega
  have f2 : decA01 w = if fld w 10 10 = 0 then .instr (.bflip (bv 5 w 21) (bv 5 w 16) (bv 5 w 11)) else .bad .operand := by unfold decA01; rw [e2]; try rfl
  rw [f1, f2]
  have e3 : fld w 10 10 = 0 := by simp only [fld, Nat.reducePow, Nat.reduceSub, Nat.reduceAdd]; omega
  rw [if_pos (show fld w 10 10 = 0 from by rw [e3]; first | done | decide | (simp at hw ⊢; omega) | (simp [tyBF] at hw ⊢; omega))]
  have e4 : bv 5 w 21 = rd := by apply BitVec.eq_of_toNat_eq; simp only [bv, BitVec.toNat_ofNat, Nat.reducePow]; omega
  have e5 : bv 5 w 16 = ra := by apply BitVec.eq_of_toNat_eq; simp only [bv, BitVec.toNat_ofNat, Nat.reducePow]; omega
  have e6 : bv 5 w 11 = rb := by apply BitVec.eq_of_toNat_eq; simp only [bv, BitVec.toNat_ofNat, Nat.reducePow]; omega
  rw [e4, e5, e6]
theorem popc (rd : GReg) (ra : GReg) : Statement (.popc rd ra) := by
  refine ⟨fun h => Bool.noConfusion (show false = true from h), fun _ hw => ?_⟩
  have h_rd := rd.isLt
  have h_ra := ra.isLt
  rw [show encodeA (.popc rd ra) = 67108864 + 25 + rd.toNat * 2097152 + ra.toNat * 65536 from rfl]
  obtain ⟨w, hW⟩ : ∃ w, w = 67108864 + 25 + rd.toNat * 2097152 + ra.toNat * 65536 := ⟨_, rfl⟩
  rw [← hW]
  have e1 : fld w 31 26 = 1 := by simp only [fld, Nat.reducePow, Nat.reduceSub, Nat.reduceAdd]; omega
  have f1 : decodeA w = decA01 w := by unfold decodeA; rw [e1]; try rfl
  have e2 : fld w 9 0 = 25 := by simp only [fld, Nat.reducePow, Nat.reduceSub, Nat.reduceAdd]; omega
  have f2 : decA01 w = if fld w 10 10 = 0 then .instr (.popc (bv 5 w 21) (bv 5 w 16)) else .bad .operand := by unfold decA01; rw [e2]; try rfl
  rw [f1, f2]
  have e3 : fld w 10 10 = 0 := by simp only [fld, Nat.reducePow, Nat.reduceSub, Nat.reduceAdd]; omega
  rw [if_pos (show fld w 10 10 = 0 from by rw [e3]; first | done | decide | (simp at hw ⊢; omega) | (simp [tyBF] at hw ⊢; omega))]
  have e4 : bv 5 w 21 = rd := by apply BitVec.eq_of_toNat_eq; simp only [bv, BitVec.toNat_ofNat, Nat.reducePow]; omega
  have e5 : bv 5 w 16 = ra := by apply BitVec.eq_of_toNat_eq; simp only [bv, BitVec.toNat_ofNat, Nat.reducePow]; omega
  rw [e4, e5]
theorem clz (rd : GReg) (ra : GReg) : Statement (.clz rd ra) := by
  refine ⟨fun h => Bool.noConfusion (show false = true from h), fun _ hw => ?_⟩
  have h_rd := rd.isLt
  have h_ra := ra.isLt
  rw [show encodeA (.clz rd ra) = 67108864 + 26 + rd.toNat * 2097152 + ra.toNat * 65536 from rfl]
  obtain ⟨w, hW⟩ : ∃ w, w = 67108864 + 26 + rd.toNat * 2097152 + ra.toNat * 65536 := ⟨_, rfl⟩
  rw [← hW]
  have e1 : fld w 31 26 = 1 := by simp only [fld, Nat.reducePow, Nat.reduceSub, Nat.reduceAdd]; omega
  have f1 : decodeA w = decA01 w := by unfold decodeA; rw [e1]; try rfl
  have e2 : fld w 9 0 = 26 := by simp only [fld, Nat.reducePow, Nat.reduceSub, Nat.reduceAdd]; omega
  have f2 : decA01 w = if fld w 10 10 = 0 then .instr (.clz (bv 5 w 21) (bv 5 w 16)) else .bad .operand := by unfold decA01; rw [e2]; try rfl
  rw [f1, f2]
  have e3 : fld w 10 10 = 0 := by simp only [fld, Nat.reducePow, Nat.reduceSub, Nat.reduceAdd]; omega
  rw [if_pos (show fld w 10 10 = 0 from by rw [e3]; first | done | decide | (simp at hw ⊢; omega) | (simp [tyBF] at hw ⊢; omega))]
  have e4 : bv 5 w 21 = rd := by apply BitVec.eq_of_toNat_eq; simp only [bv, BitVec.toNat_ofNat, Nat.reducePow]; omega
  have e5 : bv 5 w 16 = ra := by apply BitVec.eq_of_toNat_eq; simp only [bv, BitVec.toNat_ofNat, Nat.reducePow]; omega
  rw [e4, e5]
theorem ctz (rd : GReg) (ra : GReg) : Statement (.ctz rd ra) := by
  refine ⟨fun h => Bool.noConfusion (show false = true from h), fun _ hw => ?_⟩
  have h_rd := rd.isLt
  have h_ra := ra.isLt
  rw [show encodeA (.ctz rd ra) = 67108864 + 27 + rd.toNat * 2097152 + ra.toNat * 65536 from rfl]
  obtain ⟨w, hW⟩ : ∃ w, w = 67108864 + 27 + rd.toNat * 2097152 + ra.toNat * 65536 := ⟨_, rfl⟩
  rw [← hW]
  have e1 : fld w 31 26 = 1 := by simp only [fld, Nat.reducePow, Nat.reduceSub, Nat.reduceAdd]; omega
  have f1 : decodeA w = decA01 w := by unfold decodeA; rw [e1]; try rfl
  have e2 : fld w 9 0 = 27 := by simp only [fld, Nat.reducePow, Nat.reduceSub, Nat.reduceAdd]; omega
  have f2 : decA01 w = if fld w 10 10 = 0 then .instr (.ctz (bv 5 w 21) (bv 5 w 16)) else .bad .operand := by unfold decA01; rw [e2]; try rfl
  rw [f1, f2]
  have e3 : fld w 10 10 = 0 := by simp only [fld, Nat.reducePow, Nat.reduceSub, Nat.reduceAdd]; omega
  rw [if_pos (show fld w 10 10 = 0 from by rw [e3]; first | done | decide | (simp at hw ⊢; omega) | (simp [tyBF] at hw ⊢; omega))]
  have e4 : bv 5 w 21 = rd := by apply BitVec.eq_of_toNat_eq; simp only [bv, BitVec.toNat_ofNat, Nat.reducePow]; omega
  have e5 : bv 5 w 16 = ra := by apply BitVec.eq_of_toNat_eq; simp only [bv, BitVec.toNat_ofNat, Nat.reducePow]; omega
  rw [e4, e5]
theorem rev (rd : GReg) (ra : GReg) : Statement (.rev rd ra) := by
  refine ⟨fun h => Bool.noConfusion (show false = true from h), fun _ hw => ?_⟩
  have h_rd := rd.isLt
  have h_ra := ra.isLt
  rw [show encodeA (.rev rd ra) = 67108864 + 28 + rd.toNat * 2097152 + ra.toNat * 65536 from rfl]
  obtain ⟨w, hW⟩ : ∃ w, w = 67108864 + 28 + rd.toNat * 2097152 + ra.toNat * 65536 := ⟨_, rfl⟩
  rw [← hW]
  have e1 : fld w 31 26 = 1 := by simp only [fld, Nat.reducePow, Nat.reduceSub, Nat.reduceAdd]; omega
  have f1 : decodeA w = decA01 w := by unfold decodeA; rw [e1]; try rfl
  have e2 : fld w 9 0 = 28 := by simp only [fld, Nat.reducePow, Nat.reduceSub, Nat.reduceAdd]; omega
  have f2 : decA01 w = if fld w 10 10 = 0 then .instr (.rev (bv 5 w 21) (bv 5 w 16)) else .bad .operand := by unfold decA01; rw [e2]; try rfl
  rw [f1, f2]
  have e3 : fld w 10 10 = 0 := by simp only [fld, Nat.reducePow, Nat.reduceSub, Nat.reduceAdd]; omega
  rw [if_pos (show fld w 10 10 = 0 from by rw [e3]; first | done | decide | (simp at hw ⊢; omega) | (simp [tyBF] at hw ⊢; omega))]
  have e4 : bv 5 w 21 = rd := by apply BitVec.eq_of_toNat_eq; simp only [bv, BitVec.toNat_ofNat, Nat.reducePow]; omega
  have e5 : bv 5 w 16 = ra := by apply BitVec.eq_of_toNat_eq; simp only [bv, BitVec.toNat_ofNat, Nat.reducePow]; omega
  rw [e4, e5]
theorem mov (rd : GReg) (ra : GReg) : Statement (.mov rd ra) := by
  refine ⟨fun h => Bool.noConfusion (show false = true from h), fun _ hw => ?_⟩
  have h_rd := rd.isLt
  have h_ra := ra.isLt
  rw [show encodeA (.mov rd ra) = 67108864 + 29 + rd.toNat * 2097152 + ra.toNat * 65536 from rfl]
  obtain ⟨w, hW⟩ : ∃ w, w = 67108864 + 29 + rd.toNat * 2097152 + ra.toNat * 65536 := ⟨_, rfl⟩
  rw [← hW]
  have e1 : fld w 31 26 = 1 := by simp only [fld, Nat.reducePow, Nat.reduceSub, Nat.reduceAdd]; omega
  have f1 : decodeA w = decA01 w := by unfold decodeA; rw [e1]; try rfl
  have e2 : fld w 9 0 = 29 := by simp only [fld, Nat.reducePow, Nat.reduceSub, Nat.reduceAdd]; omega
  have f2 : decA01 w = if fld w 10 10 = 0 then .instr (.mov (bv 5 w 21) (bv 5 w 16)) else .bad .operand := by unfold decA01; rw [e2]; try rfl
  rw [f1, f2]
  have e3 : fld w 10 10 = 0 := by simp only [fld, Nat.reducePow, Nat.reduceSub, Nat.reduceAdd]; omega
  rw [if_pos (show fld w 10 10 = 0 from by rw [e3]; first | done | decide | (simp at hw ⊢; omega) | (simp [tyBF] at hw ⊢; omega))]
  have e4 : bv 5 w 21 = rd := by apply BitVec.eq_of_toNat_eq; simp only [bv, BitVec.toNat_ofNat, Nat.reducePow]; omega
  have e5 : bv 5 w 16 = ra := by apply BitVec.eq_of_toNat_eq; simp only [bv, BitVec.toNat_ofNat, Nat.reducePow]; omega
  rw [e4, e5]
theorem cmov (rd : GReg) (ra : GReg) (rb : GReg) : Statement (.cmov rd ra rb) := by
  refine ⟨fun h => Bool.noConfusion (show false = true from h), fun _ hw => ?_⟩
  have h_rd := rd.isLt
  have h_ra := ra.isLt
  have h_rb := rb.isLt
  rw [show encodeA (.cmov rd ra rb) = 67108864 + 30 + rd.toNat * 2097152 + ra.toNat * 65536 + rb.toNat * 2048 from rfl]
  obtain ⟨w, hW⟩ : ∃ w, w = 67108864 + 30 + rd.toNat * 2097152 + ra.toNat * 65536 + rb.toNat * 2048 := ⟨_, rfl⟩
  rw [← hW]
  have e1 : fld w 31 26 = 1 := by simp only [fld, Nat.reducePow, Nat.reduceSub, Nat.reduceAdd]; omega
  have f1 : decodeA w = decA01 w := by unfold decodeA; rw [e1]; try rfl
  have e2 : fld w 9 0 = 30 := by simp only [fld, Nat.reducePow, Nat.reduceSub, Nat.reduceAdd]; omega
  have f2 : decA01 w = if fld w 10 10 = 0 then .instr (.cmov (bv 5 w 21) (bv 5 w 16) (bv 5 w 11)) else .bad .operand := by unfold decA01; rw [e2]; try rfl
  rw [f1, f2]
  have e3 : fld w 10 10 = 0 := by simp only [fld, Nat.reducePow, Nat.reduceSub, Nat.reduceAdd]; omega
  rw [if_pos (show fld w 10 10 = 0 from by rw [e3]; first | done | decide | (simp at hw ⊢; omega) | (simp [tyBF] at hw ⊢; omega))]
  have e4 : bv 5 w 21 = rd := by apply BitVec.eq_of_toNat_eq; simp only [bv, BitVec.toNat_ofNat, Nat.reducePow]; omega
  have e5 : bv 5 w 16 = ra := by apply BitVec.eq_of_toNat_eq; simp only [bv, BitVec.toNat_ofNat, Nat.reducePow]; omega
  have e6 : bv 5 w 11 = rb := by apply BitVec.eq_of_toNat_eq; simp only [bv, BitVec.toNat_ofNat, Nat.reducePow]; omega
  rw [e4, e5, e6]
theorem sext (rd : GReg) (ra : GReg) (wc : BitVec 2) : Statement (.sext rd ra wc) := by
  refine ⟨fun h => Bool.noConfusion (show false = true from h), fun _ hw => ?_⟩
  have h_rd := rd.isLt
  have h_ra := ra.isLt
  have h_wc := wc.isLt
  replace hw : (wc.toNat ≤ 2 : Bool) = true := hw
  rw [show encodeA (.sext rd ra wc) = 67108864 + 31 + rd.toNat * 2097152 + ra.toNat * 65536 + wc.toNat * 2048 from rfl]
  obtain ⟨w, hW⟩ : ∃ w, w = 67108864 + 31 + rd.toNat * 2097152 + ra.toNat * 65536 + wc.toNat * 2048 := ⟨_, rfl⟩
  rw [← hW]
  have e1 : fld w 31 26 = 1 := by simp only [fld, Nat.reducePow, Nat.reduceSub, Nat.reduceAdd]; omega
  have f1 : decodeA w = decA01 w := by unfold decodeA; rw [e1]; try rfl
  have e2 : fld w 9 0 = 31 := by simp only [fld, Nat.reducePow, Nat.reduceSub, Nat.reduceAdd]; omega
  have f2 : decA01 w = if fld w 10 10 = 0 ∧ fld w 15 11 ≤ 2 then .instr (.sext (bv 5 w 21) (bv 5 w 16) (bv 2 w 11)) else .bad .operand := by unfold decA01; rw [e2]; try rfl
  rw [f1, f2]
  have e3 : fld w 10 10 = 0 := by simp only [fld, Nat.reducePow, Nat.reduceSub, Nat.reduceAdd]; omega
  have e4 : fld w 15 11 = wc.toNat := by simp only [fld, Nat.reducePow, Nat.reduceSub, Nat.reduceAdd]; omega
  rw [if_pos (show fld w 10 10 = 0 ∧ fld w 15 11 ≤ 2 from by rw [e3, e4]; first | done | decide | (simp at hw ⊢; omega) | (simp [tyBF] at hw ⊢; omega))]
  have e5 : bv 5 w 21 = rd := by apply BitVec.eq_of_toNat_eq; simp only [bv, BitVec.toNat_ofNat, Nat.reducePow]; omega
  have e6 : bv 5 w 16 = ra := by apply BitVec.eq_of_toNat_eq; simp only [bv, BitVec.toNat_ofNat, Nat.reducePow]; omega
  have e7 : bv 2 w 11 = wc := by apply BitVec.eq_of_toNat_eq; simp only [bv, BitVec.toNat_ofNat, Nat.reducePow]; omega
  rw [e5, e6, e7]
theorem zext (rd : GReg) (ra : GReg) (wc : BitVec 2) : Statement (.zext rd ra wc) := by
  refine ⟨fun h => Bool.noConfusion (show false = true from h), fun _ hw => ?_⟩
  have h_rd := rd.isLt
  have h_ra := ra.isLt
  have h_wc := wc.isLt
  replace hw : (wc.toNat ≤ 2 : Bool) = true := hw
  rw [show encodeA (.zext rd ra wc) = 67108864 + 32 + rd.toNat * 2097152 + ra.toNat * 65536 + wc.toNat * 2048 from rfl]
  obtain ⟨w, hW⟩ : ∃ w, w = 67108864 + 32 + rd.toNat * 2097152 + ra.toNat * 65536 + wc.toNat * 2048 := ⟨_, rfl⟩
  rw [← hW]
  have e1 : fld w 31 26 = 1 := by simp only [fld, Nat.reducePow, Nat.reduceSub, Nat.reduceAdd]; omega
  have f1 : decodeA w = decA01 w := by unfold decodeA; rw [e1]; try rfl
  have e2 : fld w 9 0 = 32 := by simp only [fld, Nat.reducePow, Nat.reduceSub, Nat.reduceAdd]; omega
  have f2 : decA01 w = if fld w 10 10 = 0 ∧ fld w 15 11 ≤ 2 then .instr (.zext (bv 5 w 21) (bv 5 w 16) (bv 2 w 11)) else .bad .operand := by unfold decA01; rw [e2]; try rfl
  rw [f1, f2]
  have e3 : fld w 10 10 = 0 := by simp only [fld, Nat.reducePow, Nat.reduceSub, Nat.reduceAdd]; omega
  have e4 : fld w 15 11 = wc.toNat := by simp only [fld, Nat.reducePow, Nat.reduceSub, Nat.reduceAdd]; omega
  rw [if_pos (show fld w 10 10 = 0 ∧ fld w 15 11 ≤ 2 from by rw [e3, e4]; first | done | decide | (simp at hw ⊢; omega) | (simp [tyBF] at hw ⊢; omega))]
  have e5 : bv 5 w 21 = rd := by apply BitVec.eq_of_toNat_eq; simp only [bv, BitVec.toNat_ofNat, Nat.reducePow]; omega
  have e6 : bv 5 w 16 = ra := by apply BitVec.eq_of_toNat_eq; simp only [bv, BitVec.toNat_ofNat, Nat.reducePow]; omega
  have e7 : bv 2 w 11 = wc := by apply BitVec.eq_of_toNat_eq; simp only [bv, BitVec.toNat_ofNat, Nat.reducePow]; omega
  rw [e5, e6, e7]
theorem mul (rd : GReg) (ra : GReg) (rb : GReg) (w32 : Bool) : Statement (.mul rd ra rb w32) := by
  refine ⟨fun h => Bool.noConfusion (show false = true from h), fun _ hw => ?_⟩
  have h_rd := rd.isLt
  have h_ra := ra.isLt
  have h_rb := rb.isLt
  have h_w32 := w32.toNat_lt
  rw [show encodeA (.mul rd ra rb w32) = 67108864 + 33 + rd.toNat * 2097152 + ra.toNat * 65536 + rb.toNat * 2048 + w32.toNat * 1024 from rfl]
  obtain ⟨w, hW⟩ : ∃ w, w = 67108864 + 33 + rd.toNat * 2097152 + ra.toNat * 65536 + rb.toNat * 2048 + w32.toNat * 1024 := ⟨_, rfl⟩
  rw [← hW]
  have e1 : fld w 31 26 = 1 := by simp only [fld, Nat.reducePow, Nat.reduceSub, Nat.reduceAdd]; omega
  have f1 : decodeA w = decA01 w := by unfold decodeA; rw [e1]; try rfl
  have e2 : fld w 9 0 = 33 := by simp only [fld, Nat.reducePow, Nat.reduceSub, Nat.reduceAdd]; omega
  have f2 : decA01 w = .instr (.mul (bv 5 w 21) (bv 5 w 16) (bv 5 w 11) (fld w 10 10 == 1)) := by unfold decA01; rw [e2]; try rfl
  rw [f1, f2]
  have e3 : bv 5 w 21 = rd := by apply BitVec.eq_of_toNat_eq; simp only [bv, BitVec.toNat_ofNat, Nat.reducePow]; omega
  have e4 : bv 5 w 16 = ra := by apply BitVec.eq_of_toNat_eq; simp only [bv, BitVec.toNat_ofNat, Nat.reducePow]; omega
  have e5 : bv 5 w 11 = rb := by apply BitVec.eq_of_toNat_eq; simp only [bv, BitVec.toNat_ofNat, Nat.reducePow]; omega
  have e6 : fld w 10 10 = w32.toNat := by simp only [fld, Nat.reducePow, Nat.reduceSub, Nat.reduceAdd]; omega
  rw [e3, e4, e5, e6]
  cases w32 <;> rfl
theorem mulh (rd : GReg) (ra : GReg) (rb : GReg) (w32 : Bool) : Statement (.mulh rd ra rb w32) := by
  refine ⟨fun h => Bool.noConfusion (show false = true from h), fun _ hw => ?_⟩
  have h_rd := rd.isLt
  have h_ra := ra.isLt
  have h_rb := rb.isLt
  have h_w32 := w32.toNat_lt
  rw [show encodeA (.mulh rd ra rb w32) = 67108864 + 34 + rd.toNat * 2097152 + ra.toNat * 65536 + rb.toNat * 2048 + w32.toNat * 1024 from rfl]
  obtain ⟨w, hW⟩ : ∃ w, w = 67108864 + 34 + rd.toNat * 2097152 + ra.toNat * 65536 + rb.toNat * 2048 + w32.toNat * 1024 := ⟨_, rfl⟩
  rw [← hW]
  have e1 : fld w 31 26 = 1 := by simp only [fld, Nat.reducePow, Nat.reduceSub, Nat.reduceAdd]; omega
  have f1 : decodeA w = decA01 w := by unfold decodeA; rw [e1]; try rfl
  have e2 : fld w 9 0 = 34 := by simp only [fld, Nat.reducePow, Nat.reduceSub, Nat.reduceAdd]; omega
  have f2 : decA01 w = .instr (.mulh (bv 5 w 21) (bv 5 w 16) (bv 5 w 11) (fld w 10 10 == 1)) := by unfold decA01; rw [e2]; try rfl
  rw [f1, f2]
  have e3 : bv 5 w 21 = rd := by apply BitVec.eq_of_toNat_eq; simp only [bv, BitVec.toNat_ofNat, Nat.reducePow]; omega
  have e4 : bv 5 w 16 = ra := by apply BitVec.eq_of_toNat_eq; simp only [bv, BitVec.toNat_ofNat, Nat.reducePow]; omega
  have e5 : bv 5 w 11 = rb := by apply BitVec.eq_of_toNat_eq; simp only [bv, BitVec.toNat_ofNat, Nat.reducePow]; omega
  have e6 : fld w 10 10 = w32.toNat := by simp only [fld, Nat.reducePow, Nat.reduceSub, Nat.reduceAdd]; omega
  rw [e3, e4, e5, e6]
  cases w32 <;> rfl
theorem mulhn (rd : GReg) (ra : GReg) (rb : GReg) (w32 : Bool) : Statement (.mulhn rd ra rb w32) := by
  refine ⟨fun h => Bool.noConfusion (show false = true from h), fun _ hw => ?_⟩
  have h_rd := rd.isLt
  have h_ra := ra.isLt
  have h_rb := rb.isLt
  have h_w32 := w32.toNat_lt
  rw [show encodeA (.mulhn rd ra rb w32) = 67108864 + 35 + rd.toNat * 2097152 + ra.toNat * 65536 + rb.toNat * 2048 + w32.toNat * 1024 from rfl]
  obtain ⟨w, hW⟩ : ∃ w, w = 67108864 + 35 + rd.toNat * 2097152 + ra.toNat * 65536 + rb.toNat * 2048 + w32.toNat * 1024 := ⟨_, rfl⟩
  rw [← hW]
  have e1 : fld w 31 26 = 1 := by simp only [fld, Nat.reducePow, Nat.reduceSub, Nat.reduceAdd]; omega
  have f1 : decodeA w = decA01 w := by unfold decodeA; rw [e1]; try rfl
  have e2 : fld w 9 0 = 35 := by simp only [fld, Nat.reducePow, Nat.reduceSub, Nat.reduceAdd]; omega
  have f2 : decA01 w = .instr (.mulhn (bv 5 w 21) (bv 5 w 16) (bv 5 w 11) (fld w 10 10 == 1)) := by unfold decA01; rw [e2]; try rfl
  rw [f1, f2]
  have e3 : bv 5 w 21 = rd := by apply BitVec.eq_of_toNat_eq; simp only [bv, BitVec.toNat_ofNat, Nat.reducePow]; omega
  have e4 : bv 5 w 16 = ra := by apply BitVec.eq_of_toNat_eq; simp only [bv, BitVec.toNat_ofNat, Nat.reducePow]; omega
  have e5 : bv 5 w 11 = rb := by apply BitVec.eq_of_toNat_eq; simp only [bv, BitVec.toNat_ofNat, Nat.reducePow]; omega
  have e6 : fld w 10 10 = w32.toNat := by simp only [fld, Nat.reducePow, Nat.reduceSub, Nat.reduceAdd]; omega
  rw [e3, e4, e5, e6]
  cases w32 <;> rfl
theorem div (rd : GReg) (ra : GReg) (rb : GReg) (w32 : Bool) : Statement (.div rd ra rb w32) := by
  refine ⟨fun h => Bool.noConfusion (show false = true from h), fun _ hw => ?_⟩
  have h_rd := rd.isLt
  have h_ra := ra.isLt
  have h_rb := rb.isLt
  have h_w32 := w32.toNat_lt
  rw [show encodeA (.div rd ra rb w32) = 67108864 + 36 + rd.toNat * 2097152 + ra.toNat * 65536 + rb.toNat * 2048 + w32.toNat * 1024 from rfl]
  obtain ⟨w, hW⟩ : ∃ w, w = 67108864 + 36 + rd.toNat * 2097152 + ra.toNat * 65536 + rb.toNat * 2048 + w32.toNat * 1024 := ⟨_, rfl⟩
  rw [← hW]
  have e1 : fld w 31 26 = 1 := by simp only [fld, Nat.reducePow, Nat.reduceSub, Nat.reduceAdd]; omega
  have f1 : decodeA w = decA01 w := by unfold decodeA; rw [e1]; try rfl
  have e2 : fld w 9 0 = 36 := by simp only [fld, Nat.reducePow, Nat.reduceSub, Nat.reduceAdd]; omega
  have f2 : decA01 w = .instr (.div (bv 5 w 21) (bv 5 w 16) (bv 5 w 11) (fld w 10 10 == 1)) := by unfold decA01; rw [e2]; try rfl
  rw [f1, f2]
  have e3 : bv 5 w 21 = rd := by apply BitVec.eq_of_toNat_eq; simp only [bv, BitVec.toNat_ofNat, Nat.reducePow]; omega
  have e4 : bv 5 w 16 = ra := by apply BitVec.eq_of_toNat_eq; simp only [bv, BitVec.toNat_ofNat, Nat.reducePow]; omega
  have e5 : bv 5 w 11 = rb := by apply BitVec.eq_of_toNat_eq; simp only [bv, BitVec.toNat_ofNat, Nat.reducePow]; omega
  have e6 : fld w 10 10 = w32.toNat := by simp only [fld, Nat.reducePow, Nat.reduceSub, Nat.reduceAdd]; omega
  rw [e3, e4, e5, e6]
  cases w32 <;> rfl
theorem divn (rd : GReg) (ra : GReg) (rb : GReg) (w32 : Bool) : Statement (.divn rd ra rb w32) := by
  refine ⟨fun h => Bool.noConfusion (show false = true from h), fun _ hw => ?_⟩
  have h_rd := rd.isLt
  have h_ra := ra.isLt
  have h_rb := rb.isLt
  have h_w32 := w32.toNat_lt
  rw [show encodeA (.divn rd ra rb w32) = 67108864 + 37 + rd.toNat * 2097152 + ra.toNat * 65536 + rb.toNat * 2048 + w32.toNat * 1024 from rfl]
  obtain ⟨w, hW⟩ : ∃ w, w = 67108864 + 37 + rd.toNat * 2097152 + ra.toNat * 65536 + rb.toNat * 2048 + w32.toNat * 1024 := ⟨_, rfl⟩
  rw [← hW]
  have e1 : fld w 31 26 = 1 := by simp only [fld, Nat.reducePow, Nat.reduceSub, Nat.reduceAdd]; omega
  have f1 : decodeA w = decA01 w := by unfold decodeA; rw [e1]; try rfl
  have e2 : fld w 9 0 = 37 := by simp only [fld, Nat.reducePow, Nat.reduceSub, Nat.reduceAdd]; omega
  have f2 : decA01 w = .instr (.divn (bv 5 w 21) (bv 5 w 16) (bv 5 w 11) (fld w 10 10 == 1)) := by unfold decA01; rw [e2]; try rfl
  rw [f1, f2]
  have e3 : bv 5 w 21 = rd := by apply BitVec.eq_of_toNat_eq; simp only [bv, BitVec.toNat_ofNat, Nat.reducePow]; omega
  have e4 : bv 5 w 16 = ra := by apply BitVec.eq_of_toNat_eq; simp only [bv, BitVec.toNat_ofNat, Nat.reducePow]; omega
  have e5 : bv 5 w 11 = rb := by apply BitVec.eq_of_toNat_eq; simp only [bv, BitVec.toNat_ofNat, Nat.reducePow]; omega
  have e6 : fld w 10 10 = w32.toNat := by simp only [fld, Nat.reducePow, Nat.reduceSub, Nat.reduceAdd]; omega
  rw [e3, e4, e5, e6]
  cases w32 <;> rfl
theorem rem (rd : GReg) (ra : GReg) (rb : GReg) (w32 : Bool) : Statement (.rem rd ra rb w32) := by
  refine ⟨fun h => Bool.noConfusion (show false = true from h), fun _ hw => ?_⟩
  have h_rd := rd.isLt
  have h_ra := ra.isLt
  have h_rb := rb.isLt
  have h_w32 := w32.toNat_lt
  rw [show encodeA (.rem rd ra rb w32) = 67108864 + 38 + rd.toNat * 2097152 + ra.toNat * 65536 + rb.toNat * 2048 + w32.toNat * 1024 from rfl]
  obtain ⟨w, hW⟩ : ∃ w, w = 67108864 + 38 + rd.toNat * 2097152 + ra.toNat * 65536 + rb.toNat * 2048 + w32.toNat * 1024 := ⟨_, rfl⟩
  rw [← hW]
  have e1 : fld w 31 26 = 1 := by simp only [fld, Nat.reducePow, Nat.reduceSub, Nat.reduceAdd]; omega
  have f1 : decodeA w = decA01 w := by unfold decodeA; rw [e1]; try rfl
  have e2 : fld w 9 0 = 38 := by simp only [fld, Nat.reducePow, Nat.reduceSub, Nat.reduceAdd]; omega
  have f2 : decA01 w = .instr (.rem (bv 5 w 21) (bv 5 w 16) (bv 5 w 11) (fld w 10 10 == 1)) := by unfold decA01; rw [e2]; try rfl
  rw [f1, f2]
  have e3 : bv 5 w 21 = rd := by apply BitVec.eq_of_toNat_eq; simp only [bv, BitVec.toNat_ofNat, Nat.reducePow]; omega
  have e4 : bv 5 w 16 = ra := by apply BitVec.eq_of_toNat_eq; simp only [bv, BitVec.toNat_ofNat, Nat.reducePow]; omega
  have e5 : bv 5 w 11 = rb := by apply BitVec.eq_of_toNat_eq; simp only [bv, BitVec.toNat_ofNat, Nat.reducePow]; omega
  have e6 : fld w 10 10 = w32.toNat := by simp only [fld, Nat.reducePow, Nat.reduceSub, Nat.reduceAdd]; omega
  rw [e3, e4, e5, e6]
  cases w32 <;> rfl
theorem remn (rd : GReg) (ra : GReg) (rb : GReg) (w32 : Bool) : Statement (.remn rd ra rb w32) := by
  refine ⟨fun h => Bool.noConfusion (show false = true from h), fun _ hw => ?_⟩
  have h_rd := rd.isLt
  have h_ra := ra.isLt
  have h_rb := rb.isLt
  have h_w32 := w32.toNat_lt
  rw [show encodeA (.remn rd ra rb w32) = 67108864 + 39 + rd.toNat * 2097152 + ra.toNat * 65536 + rb.toNat * 2048 + w32.toNat * 1024 from rfl]
  obtain ⟨w, hW⟩ : ∃ w, w = 67108864 + 39 + rd.toNat * 2097152 + ra.toNat * 65536 + rb.toNat * 2048 + w32.toNat * 1024 := ⟨_, rfl⟩
  rw [← hW]
  have e1 : fld w 31 26 = 1 := by simp only [fld, Nat.reducePow, Nat.reduceSub, Nat.reduceAdd]; omega
  have f1 : decodeA w = decA01 w := by unfold decodeA; rw [e1]; try rfl
  have e2 : fld w 9 0 = 39 := by simp only [fld, Nat.reducePow, Nat.reduceSub, Nat.reduceAdd]; omega
  have f2 : decA01 w = .instr (.remn (bv 5 w 21) (bv 5 w 16) (bv 5 w 11) (fld w 10 10 == 1)) := by unfold decA01; rw [e2]; try rfl
  rw [f1, f2]
  have e3 : bv 5 w 21 = rd := by apply BitVec.eq_of_toNat_eq; simp only [bv, BitVec.toNat_ofNat, Nat.reducePow]; omega
  have e4 : bv 5 w 16 = ra := by apply BitVec.eq_of_toNat_eq; simp only [bv, BitVec.toNat_ofNat, Nat.reducePow]; omega
  have e5 : bv 5 w 11 = rb := by apply BitVec.eq_of_toNat_eq; simp only [bv, BitVec.toNat_ofNat, Nat.reducePow]; omega
  have e6 : fld w 10 10 = w32.toNat := by simp only [fld, Nat.reducePow, Nat.reduceSub, Nat.reduceAdd]; omega
  rw [e3, e4, e5, e6]
  cases w32 <;> rfl
theorem addi (rd : GReg) (ra : GReg) (imm : BitVec 16) : Statement (.addi rd ra imm) := by
  refine ⟨fun h => Bool.noConfusion (show false = true from h), fun _ hw => ?_⟩
  have h_rd := rd.isLt
  have h_ra := ra.isLt
  have h_imm := imm.isLt
  rw [show encodeA (.addi rd ra imm) = 134217728 + rd.toNat * 2097152 + ra.toNat * 65536 + imm.toNat from rfl]
  obtain ⟨w, hW⟩ : ∃ w, w = 134217728 + rd.toNat * 2097152 + ra.toNat * 65536 + imm.toNat := ⟨_, rfl⟩
  rw [← hW]
  have e1 : fld w 31 26 = 2 := by simp only [fld, Nat.reducePow, Nat.reduceSub, Nat.reduceAdd]; omega
  have f1 : decodeA w = .instr (.addi (bv 5 w 21) (bv 5 w 16) (bv 16 w 0)) := by unfold decodeA; rw [e1]; try rfl
  rw [f1]
  have e2 : bv 5 w 21 = rd := by apply BitVec.eq_of_toNat_eq; simp only [bv, BitVec.toNat_ofNat, Nat.reducePow]; omega
  have e3 : bv 5 w 16 = ra := by apply BitVec.eq_of_toNat_eq; simp only [bv, BitVec.toNat_ofNat, Nat.reducePow]; omega
  have e4 : bv 16 w 0 = imm := by apply BitVec.eq_of_toNat_eq; simp only [bv, BitVec.toNat_ofNat, Nat.reducePow]; omega
  rw [e2, e3, e4]
theorem andi (rd : GReg) (ra : GReg) (imm : BitVec 16) : Statement (.andi rd ra imm) := by
  refine ⟨fun h => Bool.noConfusion (show false = true from h), fun _ hw => ?_⟩
  have h_rd := rd.isLt
  have h_ra := ra.isLt
  have h_imm := imm.isLt
  rw [show encodeA (.andi rd ra imm) = 201326592 + rd.toNat * 2097152 + ra.toNat * 65536 + imm.toNat from rfl]
  obtain ⟨w, hW⟩ : ∃ w, w = 201326592 + rd.toNat * 2097152 + ra.toNat * 65536 + imm.toNat := ⟨_, rfl⟩
  rw [← hW]
  have e1 : fld w 31 26 = 3 := by simp only [fld, Nat.reducePow, Nat.reduceSub, Nat.reduceAdd]; omega
  have f1 : decodeA w = .instr (.andi (bv 5 w 21) (bv 5 w 16) (bv 16 w 0)) := by unfold decodeA; rw [e1]; try rfl
  rw [f1]
  have e2 : bv 5 w 21 = rd := by apply BitVec.eq_of_toNat_eq; simp only [bv, BitVec.toNat_ofNat, Nat.reducePow]; omega
  have e3 : bv 5 w 16 = ra := by apply BitVec.eq_of_toNat_eq; simp only [bv, BitVec.toNat_ofNat, Nat.reducePow]; omega
  have e4 : bv 16 w 0 = imm := by apply BitVec.eq_of_toNat_eq; simp only [bv, BitVec.toNat_ofNat, Nat.reducePow]; omega
  rw [e2, e3, e4]
theorem ori (rd : GReg) (ra : GReg) (imm : BitVec 16) : Statement (.ori rd ra imm) := by
  refine ⟨fun h => Bool.noConfusion (show false = true from h), fun _ hw => ?_⟩
  have h_rd := rd.isLt
  have h_ra := ra.isLt
  have h_imm := imm.isLt
  rw [show encodeA (.ori rd ra imm) = 268435456 + rd.toNat * 2097152 + ra.toNat * 65536 + imm.toNat from rfl]
  obtain ⟨w, hW⟩ : ∃ w, w = 268435456 + rd.toNat * 2097152 + ra.toNat * 65536 + imm.toNat := ⟨_, rfl⟩
  rw [← hW]
  have e1 : fld w 31 26 = 4 := by simp only [fld, Nat.reducePow, Nat.reduceSub, Nat.reduceAdd]; omega
  have f1 : decodeA w = .instr (.ori (bv 5 w 21) (bv 5 w 16) (bv 16 w 0)) := by unfold decodeA; rw [e1]; try rfl
  rw [f1]
  have e2 : bv 5 w 21 = rd := by apply BitVec.eq_of_toNat_eq; simp only [bv, BitVec.toNat_ofNat, Nat.reducePow]; omega
  have e3 : bv 5 w 16 = ra := by apply BitVec.eq_of_toNat_eq; simp only [bv, BitVec.toNat_ofNat, Nat.reducePow]; omega
  have e4 : bv 16 w 0 = imm := by apply BitVec.eq_of_toNat_eq; simp only [bv, BitVec.toNat_ofNat, Nat.reducePow]; omega
  rw [e2, e3, e4]
theorem xori (rd : GReg) (ra : GReg) (imm : BitVec 16) : Statement (.xori rd ra imm) := by
  refine ⟨fun h => Bool.noConfusion (show false = true from h), fun _ hw => ?_⟩
  have h_rd := rd.isLt
  have h_ra := ra.isLt
  have h_imm := imm.isLt
  rw [show encodeA (.xori rd ra imm) = 335544320 + rd.toNat * 2097152 + ra.toNat * 65536 + imm.toNat from rfl]
  obtain ⟨w, hW⟩ : ∃ w, w = 335544320 + rd.toNat * 2097152 + ra.toNat * 65536 + imm.toNat := ⟨_, rfl⟩
  rw [← hW]
  have e1 : fld w 31 26 = 5 := by simp only [fld, Nat.reducePow, Nat.reduceSub, Nat.reduceAdd]; omega
  have f1 : decodeA w = .instr (.xori (bv 5 w 21) (bv 5 w 16) (bv 16 w 0)) := by unfold decodeA; rw [e1]; try rfl
  rw [f1]
  have e2 : bv 5 w 21 = rd := by apply BitVec.eq_of_toNat_eq; simp only [bv, BitVec.toNat_ofNat, Nat.reducePow]; omega
  have e3 : bv 5 w 16 = ra := by apply BitVec.eq_of_toNat_eq; simp only [bv, BitVec.toNat_ofNat, Nat.reducePow]; omega
  have e4 : bv 16 w 0 = imm := by apply BitVec.eq_of_toNat_eq; simp only [bv, BitVec.toNat_ofNat, Nat.reducePow]; omega
  rw [e2, e3, e4]
theorem slti (rd : GReg) (ra : GReg) (imm : BitVec 16) : Statement (.slti rd ra imm) := by
  refine ⟨fun h => Bool.noConfusion (show false = true from h), fun _ hw => ?_⟩
  have h_rd := rd.isLt
  have h_ra := ra.isLt
  have h_imm := imm.isLt
  rw [show encodeA (.slti rd ra imm) = 402653184 + rd.toNat * 2097152 + ra.toNat * 65536 + imm.toNat from rfl]
  obtain ⟨w, hW⟩ : ∃ w, w = 402653184 + rd.toNat * 2097152 + ra.toNat * 65536 + imm.toNat := ⟨_, rfl⟩
  rw [← hW]
  have e1 : fld w 31 26 = 6 := by simp only [fld, Nat.reducePow, Nat.reduceSub, Nat.reduceAdd]; omega
  have f1 : decodeA w = .instr (.slti (bv 5 w 21) (bv 5 w 16) (bv 16 w 0)) := by unfold decodeA; rw [e1]; try rfl
  rw [f1]
  have e2 : bv 5 w 21 = rd := by apply BitVec.eq_of_toNat_eq; simp only [bv, BitVec.toNat_ofNat, Nat.reducePow]; omega
  have e3 : bv 5 w 16 = ra := by apply BitVec.eq_of_toNat_eq; simp only [bv, BitVec.toNat_ofNat, Nat.reducePow]; omega
  have e4 : bv 16 w 0 = imm := by apply BitVec.eq_of_toNat_eq; simp only [bv, BitVec.toNat_ofNat, Nat.reducePow]; omega
  rw [e2, e3, e4]
theorem movi (rd : GReg) (imm : BitVec 16) : Statement (.movi rd imm) := by
  refine ⟨fun h => Bool.noConfusion (show false = true from h), fun _ hw => ?_⟩
  have h_rd := rd.isLt
  have h_imm := imm.isLt
  rw [show encodeA (.movi rd imm) = 469762048 + rd.toNat * 2097152 + imm.toNat from rfl]
  obtain ⟨w, hW⟩ : ∃ w, w = 469762048 + rd.toNat * 2097152 + imm.toNat := ⟨_, rfl⟩
  rw [← hW]
  have e1 : fld w 31 26 = 7 := by simp only [fld, Nat.reducePow, Nat.reduceSub, Nat.reduceAdd]; omega
  have f1 : decodeA w = .instr (.movi (bv 5 w 21) (bv 16 w 0)) := by unfold decodeA; rw [e1]; try rfl
  rw [f1]
  have e2 : bv 5 w 21 = rd := by apply BitVec.eq_of_toNat_eq; simp only [bv, BitVec.toNat_ofNat, Nat.reducePow]; omega
  have e3 : bv 16 w 0 = imm := by apply BitVec.eq_of_toNat_eq; simp only [bv, BitVec.toNat_ofNat, Nat.reducePow]; omega
  rw [e2, e3]
theorem bext (rd : GReg) (ra : GReg) (pos : BitVec 6) (wd : BitVec 6) : Statement (.bext rd ra pos wd) := by
  refine ⟨fun h => Bool.noConfusion (show false = true from h), fun _ hw => ?_⟩
  have h_rd := rd.isLt
  have h_ra := ra.isLt
  have h_pos := pos.isLt
  have h_wd := wd.isLt
  replace hw : (pos.toNat + wd.toNat + 1 ≤ 64 : Bool) = true := hw
  rw [show encodeA (.bext rd ra pos wd) = 536870912 + rd.toNat * 2097152 + ra.toNat * 65536 + pos.toNat * 1024 + wd.toNat * 16 from rfl]
  obtain ⟨w, hW⟩ : ∃ w, w = 536870912 + rd.toNat * 2097152 + ra.toNat * 65536 + pos.toNat * 1024 + wd.toNat * 16 := ⟨_, rfl⟩
  rw [← hW]
  have e1 : fld w 31 26 = 8 := by simp only [fld, Nat.reducePow, Nat.reduceSub, Nat.reduceAdd]; omega
  have f1 : decodeA w = if fld w 15 10 + fld w 9 4 + 1 ≤ 64 then .instr (.bext (bv 5 w 21) (bv 5 w 16) (bv 6 w 10) (bv 6 w 4)) else .bad .operand := by unfold decodeA; rw [e1]; try rfl
  rw [f1]
  have e2 : fld w 15 10 = pos.toNat := by simp only [fld, Nat.reducePow, Nat.reduceSub, Nat.reduceAdd]; omega
  have e3 : fld w 9 4 = wd.toNat := by simp only [fld, Nat.reducePow, Nat.reduceSub, Nat.reduceAdd]; omega
  rw [if_pos (show fld w 15 10 + fld w 9 4 + 1 ≤ 64 from by rw [e2, e3]; first | done | decide | (simp at hw ⊢; omega) | (simp [tyBF] at hw ⊢; omega))]
  have e4 : bv 5 w 21 = rd := by apply BitVec.eq_of_toNat_eq; simp only [bv, BitVec.toNat_ofNat, Nat.reducePow]; omega
  have e5 : bv 5 w 16 = ra := by apply BitVec.eq_of_toNat_eq; simp only [bv, BitVec.toNat_ofNat, Nat.reducePow]; omega
  have e6 : bv 6 w 10 = pos := by apply BitVec.eq_of_toNat_eq; simp only [bv, BitVec.toNat_ofNat, Nat.reducePow]; omega
  have e7 : bv 6 w 4 = wd := by apply BitVec.eq_of_toNat_eq; simp only [bv, BitVec.toNat_ofNat, Nat.reducePow]; omega
  rw [e4, e5, e6, e7]
theorem bins (rd : GReg) (ra : GReg) (pos : BitVec 6) (wd : BitVec 6) : Statement (.bins rd ra pos wd) := by
  refine ⟨fun h => Bool.noConfusion (show false = true from h), fun _ hw => ?_⟩
  have h_rd := rd.isLt
  have h_ra := ra.isLt
  have h_pos := pos.isLt
  have h_wd := wd.isLt
  replace hw : (pos.toNat + wd.toNat + 1 ≤ 64 : Bool) = true := hw
  rw [show encodeA (.bins rd ra pos wd) = 603979776 + rd.toNat * 2097152 + ra.toNat * 65536 + pos.toNat * 1024 + wd.toNat * 16 from rfl]
  obtain ⟨w, hW⟩ : ∃ w, w = 603979776 + rd.toNat * 2097152 + ra.toNat * 65536 + pos.toNat * 1024 + wd.toNat * 16 := ⟨_, rfl⟩
  rw [← hW]
  have e1 : fld w 31 26 = 9 := by simp only [fld, Nat.reducePow, Nat.reduceSub, Nat.reduceAdd]; omega
  have f1 : decodeA w = if fld w 15 10 + fld w 9 4 + 1 ≤ 64 then .instr (.bins (bv 5 w 21) (bv 5 w 16) (bv 6 w 10) (bv 6 w 4)) else .bad .operand := by unfold decodeA; rw [e1]; try rfl
  rw [f1]
  have e2 : fld w 15 10 = pos.toNat := by simp only [fld, Nat.reducePow, Nat.reduceSub, Nat.reduceAdd]; omega
  have e3 : fld w 9 4 = wd.toNat := by simp only [fld, Nat.reducePow, Nat.reduceSub, Nat.reduceAdd]; omega
  rw [if_pos (show fld w 15 10 + fld w 9 4 + 1 ≤ 64 from by rw [e2, e3]; first | done | decide | (simp at hw ⊢; omega) | (simp [tyBF] at hw ⊢; omega))]
  have e4 : bv 5 w 21 = rd := by apply BitVec.eq_of_toNat_eq; simp only [bv, BitVec.toNat_ofNat, Nat.reducePow]; omega
  have e5 : bv 5 w 16 = ra := by apply BitVec.eq_of_toNat_eq; simp only [bv, BitVec.toNat_ofNat, Nat.reducePow]; omega
  have e6 : bv 6 w 10 = pos := by apply BitVec.eq_of_toNat_eq; simp only [bv, BitVec.toNat_ofNat, Nat.reducePow]; omega
  have e7 : bv 6 w 4 = wd := by apply BitVec.eq_of_toNat_eq; simp only [bv, BitVec.toNat_ofNat, Nat.reducePow]; omega
  rw [e4, e5, e6, e7]
theorem movhi (rd : GReg) (ra : GReg) (imm : BitVec 16) : Statement (.movhi rd ra imm) := by
  refine ⟨fun h => Bool.noConfusion (show false = true from h), fun _ hw => ?_⟩
  have h_rd := rd.isLt
  have h_ra := ra.isLt
  have h_imm := imm.isLt
  rw [show encodeA (.movhi rd ra imm) = 671088640 + rd.toNat * 2097152 + ra.toNat * 65536 + imm.toNat from rfl]
  obtain ⟨w, hW⟩ : ∃ w, w = 671088640 + rd.toNat * 2097152 + ra.toNat * 65536 + imm.toNat := ⟨_, rfl⟩
  rw [← hW]
  have e1 : fld w 31 26 = 10 := by simp only [fld, Nat.reducePow, Nat.reduceSub, Nat.reduceAdd]; omega
  have f1 : decodeA w = .instr (.movhi (bv 5 w 21) (bv 5 w 16) (bv 16 w 0)) := by unfold decodeA; rw [e1]; try rfl
  rw [f1]
  have e2 : bv 5 w 21 = rd := by apply BitVec.eq_of_toNat_eq; simp only [bv, BitVec.toNat_ofNat, Nat.reducePow]; omega
  have e3 : bv 5 w 16 = ra := by apply BitVec.eq_of_toNat_eq; simp only [bv, BitVec.toNat_ofNat, Nat.reducePow]; omega
  have e4 : bv 16 w 0 = imm := by apply BitVec.eq_of_toNat_eq; simp only [bv, BitVec.toNat_ofNat, Nat.reducePow]; omega
  rw [e2, e3, e4]
theorem shli (rd : GReg) (ra : GReg) (w32 : Bool) (amt : BitVec 6) : Statement (.shli rd ra w32 amt) := by
  refine ⟨fun h => Bool.noConfusion (show false = true from h), fun _ hw => ?_⟩
  have h_rd := rd.isLt
  have h_ra := ra.isLt
  have h_w32 := w32.toNat_lt
  have h_amt := amt.isLt
  replace hw : (!w32 || amt.toNat < 32 : Bool) = true := hw
  rw [show encodeA (.shli rd ra w32 amt) = 738197504 + rd.toNat * 2097152 + ra.toNat * 65536 + w32.toNat * 8192 + amt.toNat from rfl]
  obtain ⟨w, hW⟩ : ∃ w, w = 738197504 + rd.toNat * 2097152 + ra.toNat * 65536 + w32.toNat * 8192 + amt.toNat := ⟨_, rfl⟩
  rw [← hW]
  have e1 : fld w 31 26 = 11 := by simp only [fld, Nat.reducePow, Nat.reduceSub, Nat.reduceAdd]; omega
  have f1 : decodeA w = decA11 w := by unfold decodeA; rw [e1]; try rfl
  have e2 : fld w 15 14 = 0 := by simp only [fld, Nat.reducePow, Nat.reduceSub, Nat.reduceAdd]; omega
  have f2 : decA11 w = if fld w 13 13 = 0 ∨ fld w 5 0 < 32 then .instr (.shli (bv 5 w 21) (bv 5 w 16) (fld w 13 13 == 1) (bv 6 w 0)) else .bad .operand := by unfold decA11; rw [e2]; try rfl
  rw [f1, f2]
  have e3 : fld w 13 13 = w32.toNat := by simp only [fld, Nat.reducePow, Nat.reduceSub, Nat.reduceAdd]; omega
  have e4 : fld w 5 0 = amt.toNat := by simp only [fld, Nat.reducePow, Nat.reduceSub, Nat.reduceAdd]; omega
  rw [if_pos (show fld w 13 13 = 0 ∨ fld w 5 0 < 32 from by rw [e3, e4]; first | done | decide | (simp at hw ⊢; omega) | (simp [tyBF] at hw ⊢; omega))]
  have e5 : bv 5 w 21 = rd := by apply BitVec.eq_of_toNat_eq; simp only [bv, BitVec.toNat_ofNat, Nat.reducePow]; omega
  have e6 : bv 5 w 16 = ra := by apply BitVec.eq_of_toNat_eq; simp only [bv, BitVec.toNat_ofNat, Nat.reducePow]; omega
  have e7 : bv 6 w 0 = amt := by apply BitVec.eq_of_toNat_eq; simp only [bv, BitVec.toNat_ofNat, Nat.reducePow]; omega
  rw [e5, e6, e3, e7]
  cases w32 <;> rfl
theorem shri (rd : GReg) (ra : GReg) (w32 : Bool) (amt : BitVec 6) : Statement (.shri rd ra w32 amt) := by
  refine ⟨fun h => Bool.noConfusion (show false = true from h), fun _ hw => ?_⟩
  have h_rd := rd.isLt
  have h_ra := ra.isLt
  have h_w32 := w32.toNat_lt
  have h_amt := amt.isLt
  replace hw : (!w32 || amt.toNat < 32 : Bool) = true := hw
  rw [show encodeA (.shri rd ra w32 amt) = 738197504 + 16384 + rd.toNat * 2097152 + ra.toNat * 65536 + w32.toNat * 8192 + amt.toNat from rfl]
  obtain ⟨w, hW⟩ : ∃ w, w = 738197504 + 16384 + rd.toNat * 2097152 + ra.toNat * 65536 + w32.toNat * 8192 + amt.toNat := ⟨_, rfl⟩
  rw [← hW]
  have e1 : fld w 31 26 = 11 := by simp only [fld, Nat.reducePow, Nat.reduceSub, Nat.reduceAdd]; omega
  have f1 : decodeA w = decA11 w := by unfold decodeA; rw [e1]; try rfl
  have e2 : fld w 15 14 = 1 := by simp only [fld, Nat.reducePow, Nat.reduceSub, Nat.reduceAdd]; omega
  have f2 : decA11 w = if fld w 13 13 = 0 ∨ fld w 5 0 < 32 then .instr (.shri (bv 5 w 21) (bv 5 w 16) (fld w 13 13 == 1) (bv 6 w 0)) else .bad .operand := by unfold decA11; rw [e2]; try rfl
  rw [f1, f2]
  have e3 : fld w 13 13 = w32.toNat := by simp only [fld, Nat.reducePow, Nat.reduceSub, Nat.reduceAdd]; omega
  have e4 : fld w 5 0 = amt.toNat := by simp only [fld, Nat.reducePow, Nat.reduceSub, Nat.reduceAdd]; omega
  rw [if_pos (show fld w 13 13 = 0 ∨ fld w 5 0 < 32 from by rw [e3, e4]; first | done | decide | (simp at hw ⊢; omega) | (simp [tyBF] at hw ⊢; omega))]
  have e5 : bv 5 w 21 = rd := by apply BitVec.eq_of_toNat_eq; simp only [bv, BitVec.toNat_ofNat, Nat.reducePow]; omega
  have e6 : bv 5 w 16 = ra := by apply BitVec.eq_of_toNat_eq; simp only [bv, BitVec.toNat_ofNat, Nat.reducePow]; omega
  have e7 : bv 6 w 0 = amt := by apply BitVec.eq_of_toNat_eq; simp only [bv, BitVec.toNat_ofNat, Nat.reducePow]; omega
  rw [e5, e6, e3, e7]
  cases w32 <;> rfl
theorem sari (rd : GReg) (ra : GReg) (w32 : Bool) (amt : BitVec 6) : Statement (.sari rd ra w32 amt) := by
  refine ⟨fun h => Bool.noConfusion (show false = true from h), fun _ hw => ?_⟩
  have h_rd := rd.isLt
  have h_ra := ra.isLt
  have h_w32 := w32.toNat_lt
  have h_amt := amt.isLt
  replace hw : (!w32 || amt.toNat < 32 : Bool) = true := hw
  rw [show encodeA (.sari rd ra w32 amt) = 738197504 + 32768 + rd.toNat * 2097152 + ra.toNat * 65536 + w32.toNat * 8192 + amt.toNat from rfl]
  obtain ⟨w, hW⟩ : ∃ w, w = 738197504 + 32768 + rd.toNat * 2097152 + ra.toNat * 65536 + w32.toNat * 8192 + amt.toNat := ⟨_, rfl⟩
  rw [← hW]
  have e1 : fld w 31 26 = 11 := by simp only [fld, Nat.reducePow, Nat.reduceSub, Nat.reduceAdd]; omega
  have f1 : decodeA w = decA11 w := by unfold decodeA; rw [e1]; try rfl
  have e2 : fld w 15 14 = 2 := by simp only [fld, Nat.reducePow, Nat.reduceSub, Nat.reduceAdd]; omega
  have f2 : decA11 w = if fld w 13 13 = 0 ∨ fld w 5 0 < 32 then .instr (.sari (bv 5 w 21) (bv 5 w 16) (fld w 13 13 == 1) (bv 6 w 0)) else .bad .operand := by unfold decA11; rw [e2]; try rfl
  rw [f1, f2]
  have e3 : fld w 13 13 = w32.toNat := by simp only [fld, Nat.reducePow, Nat.reduceSub, Nat.reduceAdd]; omega
  have e4 : fld w 5 0 = amt.toNat := by simp only [fld, Nat.reducePow, Nat.reduceSub, Nat.reduceAdd]; omega
  rw [if_pos (show fld w 13 13 = 0 ∨ fld w 5 0 < 32 from by rw [e3, e4]; first | done | decide | (simp at hw ⊢; omega) | (simp [tyBF] at hw ⊢; omega))]
  have e5 : bv 5 w 21 = rd := by apply BitVec.eq_of_toNat_eq; simp only [bv, BitVec.toNat_ofNat, Nat.reducePow]; omega
  have e6 : bv 5 w 16 = ra := by apply BitVec.eq_of_toNat_eq; simp only [bv, BitVec.toNat_ofNat, Nat.reducePow]; omega
  have e7 : bv 6 w 0 = amt := by apply BitVec.eq_of_toNat_eq; simp only [bv, BitVec.toNat_ofNat, Nat.reducePow]; omega
  rw [e5, e6, e3, e7]
  cases w32 <;> rfl
theorem fadd (rd : GReg) (ra : GReg) (rb : GReg) (t : BitVec 2) (rm : BitVec 2) : Statement (.fadd rd ra rb t rm) := by
  refine ⟨fun h => Bool.noConfusion (show false = true from h), fun _ hw => ?_⟩
  have h_rd := rd.isLt
  have h_ra := ra.isLt
  have h_rb := rb.isLt
  have h_t := t.isLt
  have h_rm := rm.isLt
  rw [show encodeA (.fadd rd ra rb t rm) = 805306368 + rd.toNat * 2097152 + ra.toNat * 65536 + rb.toNat * 2048 + t.toNat * 16 + rm.toNat * 4 from rfl]
  obtain ⟨w, hW⟩ : ∃ w, w = 805306368 + rd.toNat * 2097152 + ra.toNat * 65536 + rb.toNat * 2048 + t.toNat * 16 + rm.toNat * 4 := ⟨_, rfl⟩
  rw [← hW]
  have e1 : fld w 31 26 = 12 := by simp only [fld, Nat.reducePow, Nat.reduceSub, Nat.reduceAdd]; omega
  have f1 : decodeA w = decA12 w := by unfold decodeA; rw [e1]; try rfl
  have e2 : fld w 10 6 = 0 := by simp only [fld, Nat.reducePow, Nat.reduceSub, Nat.reduceAdd]; omega
  have f2 : decA12 w = .instr (.fadd (bv 5 w 21) (bv 5 w 16) (bv 5 w 11) (bv 2 w 4) (bv 2 w 2)) := by unfold decA12; rw [e2]; try rfl
  rw [f1, f2]
  have e3 : bv 5 w 21 = rd := by apply BitVec.eq_of_toNat_eq; simp only [bv, BitVec.toNat_ofNat, Nat.reducePow]; omega
  have e4 : bv 5 w 16 = ra := by apply BitVec.eq_of_toNat_eq; simp only [bv, BitVec.toNat_ofNat, Nat.reducePow]; omega
  have e5 : bv 5 w 11 = rb := by apply BitVec.eq_of_toNat_eq; simp only [bv, BitVec.toNat_ofNat, Nat.reducePow]; omega
  have e6 : bv 2 w 4 = t := by apply BitVec.eq_of_toNat_eq; simp only [bv, BitVec.toNat_ofNat, Nat.reducePow]; omega
  have e7 : bv 2 w 2 = rm := by apply BitVec.eq_of_toNat_eq; simp only [bv, BitVec.toNat_ofNat, Nat.reducePow]; omega
  rw [e3, e4, e5, e6, e7]
theorem fsub (rd : GReg) (ra : GReg) (rb : GReg) (t : BitVec 2) (rm : BitVec 2) : Statement (.fsub rd ra rb t rm) := by
  refine ⟨fun h => Bool.noConfusion (show false = true from h), fun _ hw => ?_⟩
  have h_rd := rd.isLt
  have h_ra := ra.isLt
  have h_rb := rb.isLt
  have h_t := t.isLt
  have h_rm := rm.isLt
  rw [show encodeA (.fsub rd ra rb t rm) = 805306368 + 64 + rd.toNat * 2097152 + ra.toNat * 65536 + rb.toNat * 2048 + t.toNat * 16 + rm.toNat * 4 from rfl]
  obtain ⟨w, hW⟩ : ∃ w, w = 805306368 + 64 + rd.toNat * 2097152 + ra.toNat * 65536 + rb.toNat * 2048 + t.toNat * 16 + rm.toNat * 4 := ⟨_, rfl⟩
  rw [← hW]
  have e1 : fld w 31 26 = 12 := by simp only [fld, Nat.reducePow, Nat.reduceSub, Nat.reduceAdd]; omega
  have f1 : decodeA w = decA12 w := by unfold decodeA; rw [e1]; try rfl
  have e2 : fld w 10 6 = 1 := by simp only [fld, Nat.reducePow, Nat.reduceSub, Nat.reduceAdd]; omega
  have f2 : decA12 w = .instr (.fsub (bv 5 w 21) (bv 5 w 16) (bv 5 w 11) (bv 2 w 4) (bv 2 w 2)) := by unfold decA12; rw [e2]; try rfl
  rw [f1, f2]
  have e3 : bv 5 w 21 = rd := by apply BitVec.eq_of_toNat_eq; simp only [bv, BitVec.toNat_ofNat, Nat.reducePow]; omega
  have e4 : bv 5 w 16 = ra := by apply BitVec.eq_of_toNat_eq; simp only [bv, BitVec.toNat_ofNat, Nat.reducePow]; omega
  have e5 : bv 5 w 11 = rb := by apply BitVec.eq_of_toNat_eq; simp only [bv, BitVec.toNat_ofNat, Nat.reducePow]; omega
  have e6 : bv 2 w 4 = t := by apply BitVec.eq_of_toNat_eq; simp only [bv, BitVec.toNat_ofNat, Nat.reducePow]; omega
  have e7 : bv 2 w 2 = rm := by apply BitVec.eq_of_toNat_eq; simp only [bv, BitVec.toNat_ofNat, Nat.reducePow]; omega
  rw [e3, e4, e5, e6, e7]
theorem fmul (rd : GReg) (ra : GReg) (rb : GReg) (t : BitVec 2) (rm : BitVec 2) : Statement (.fmul rd ra rb t rm) := by
  refine ⟨fun h => Bool.noConfusion (show false = true from h), fun _ hw => ?_⟩
  have h_rd := rd.isLt
  have h_ra := ra.isLt
  have h_rb := rb.isLt
  have h_t := t.isLt
  have h_rm := rm.isLt
  rw [show encodeA (.fmul rd ra rb t rm) = 805306368 + 128 + rd.toNat * 2097152 + ra.toNat * 65536 + rb.toNat * 2048 + t.toNat * 16 + rm.toNat * 4 from rfl]
  obtain ⟨w, hW⟩ : ∃ w, w = 805306368 + 128 + rd.toNat * 2097152 + ra.toNat * 65536 + rb.toNat * 2048 + t.toNat * 16 + rm.toNat * 4 := ⟨_, rfl⟩
  rw [← hW]
  have e1 : fld w 31 26 = 12 := by simp only [fld, Nat.reducePow, Nat.reduceSub, Nat.reduceAdd]; omega
  have f1 : decodeA w = decA12 w := by unfold decodeA; rw [e1]; try rfl
  have e2 : fld w 10 6 = 2 := by simp only [fld, Nat.reducePow, Nat.reduceSub, Nat.reduceAdd]; omega
  have f2 : decA12 w = .instr (.fmul (bv 5 w 21) (bv 5 w 16) (bv 5 w 11) (bv 2 w 4) (bv 2 w 2)) := by unfold decA12; rw [e2]; try rfl
  rw [f1, f2]
  have e3 : bv 5 w 21 = rd := by apply BitVec.eq_of_toNat_eq; simp only [bv, BitVec.toNat_ofNat, Nat.reducePow]; omega
  have e4 : bv 5 w 16 = ra := by apply BitVec.eq_of_toNat_eq; simp only [bv, BitVec.toNat_ofNat, Nat.reducePow]; omega
  have e5 : bv 5 w 11 = rb := by apply BitVec.eq_of_toNat_eq; simp only [bv, BitVec.toNat_ofNat, Nat.reducePow]; omega
  have e6 : bv 2 w 4 = t := by apply BitVec.eq_of_toNat_eq; simp only [bv, BitVec.toNat_ofNat, Nat.reducePow]; omega
  have e7 : bv 2 w 2 = rm := by apply BitVec.eq_of_toNat_eq; simp only [bv, BitVec.toNat_ofNat, Nat.reducePow]; omega
  rw [e3, e4, e5, e6, e7]
theorem fma (rd : GReg) (ra : GReg) (rb : GReg) (t : BitVec 2) (rm : BitVec 2) : Statement (.fma rd ra rb t rm) := by
  refine ⟨fun h => Bool.noConfusion (show false = true from h), fun _ hw => ?_⟩
  have h_rd := rd.isLt
  have h_ra := ra.isLt
  have h_rb := rb.isLt
  have h_t := t.isLt
  have h_rm := rm.isLt
  rw [show encodeA (.fma rd ra rb t rm) = 805306368 + 192 + rd.toNat * 2097152 + ra.toNat * 65536 + rb.toNat * 2048 + t.toNat * 16 + rm.toNat * 4 from rfl]
  obtain ⟨w, hW⟩ : ∃ w, w = 805306368 + 192 + rd.toNat * 2097152 + ra.toNat * 65536 + rb.toNat * 2048 + t.toNat * 16 + rm.toNat * 4 := ⟨_, rfl⟩
  rw [← hW]
  have e1 : fld w 31 26 = 12 := by simp only [fld, Nat.reducePow, Nat.reduceSub, Nat.reduceAdd]; omega
  have f1 : decodeA w = decA12 w := by unfold decodeA; rw [e1]; try rfl
  have e2 : fld w 10 6 = 3 := by simp only [fld, Nat.reducePow, Nat.reduceSub, Nat.reduceAdd]; omega
  have f2 : decA12 w = .instr (.fma (bv 5 w 21) (bv 5 w 16) (bv 5 w 11) (bv 2 w 4) (bv 2 w 2)) := by unfold decA12; rw [e2]; try rfl
  rw [f1, f2]
  have e3 : bv 5 w 21 = rd := by apply BitVec.eq_of_toNat_eq; simp only [bv, BitVec.toNat_ofNat, Nat.reducePow]; omega
  have e4 : bv 5 w 16 = ra := by apply BitVec.eq_of_toNat_eq; simp only [bv, BitVec.toNat_ofNat, Nat.reducePow]; omega
  have e5 : bv 5 w 11 = rb := by apply BitVec.eq_of_toNat_eq; simp only [bv, BitVec.toNat_ofNat, Nat.reducePow]; omega
  have e6 : bv 2 w 4 = t := by apply BitVec.eq_of_toNat_eq; simp only [bv, BitVec.toNat_ofNat, Nat.reducePow]; omega
  have e7 : bv 2 w 2 = rm := by apply BitVec.eq_of_toNat_eq; simp only [bv, BitVec.toNat_ofNat, Nat.reducePow]; omega
  rw [e3, e4, e5, e6, e7]
theorem fms (rd : GReg) (ra : GReg) (rb : GReg) (t : BitVec 2) (rm : BitVec 2) : Statement (.fms rd ra rb t rm) := by
  refine ⟨fun h => Bool.noConfusion (show false = true from h), fun _ hw => ?_⟩
  have h_rd := rd.isLt
  have h_ra := ra.isLt
  have h_rb := rb.isLt
  have h_t := t.isLt
  have h_rm := rm.isLt
  rw [show encodeA (.fms rd ra rb t rm) = 805306368 + 256 + rd.toNat * 2097152 + ra.toNat * 65536 + rb.toNat * 2048 + t.toNat * 16 + rm.toNat * 4 from rfl]
  obtain ⟨w, hW⟩ : ∃ w, w = 805306368 + 256 + rd.toNat * 2097152 + ra.toNat * 65536 + rb.toNat * 2048 + t.toNat * 16 + rm.toNat * 4 := ⟨_, rfl⟩
  rw [← hW]
  have e1 : fld w 31 26 = 12 := by simp only [fld, Nat.reducePow, Nat.reduceSub, Nat.reduceAdd]; omega
  have f1 : decodeA w = decA12 w := by unfold decodeA; rw [e1]; try rfl
  have e2 : fld w 10 6 = 4 := by simp only [fld, Nat.reducePow, Nat.reduceSub, Nat.reduceAdd]; omega
  have f2 : decA12 w = .instr (.fms (bv 5 w 21) (bv 5 w 16) (bv 5 w 11) (bv 2 w 4) (bv 2 w 2)) := by unfold decA12; rw [e2]; try rfl
  rw [f1, f2]
  have e3 : bv 5 w 21 = rd := by apply BitVec.eq_of_toNat_eq; simp only [bv, BitVec.toNat_ofNat, Nat.reducePow]; omega
  have e4 : bv 5 w 16 = ra := by apply BitVec.eq_of_toNat_eq; simp only [bv, BitVec.toNat_ofNat, Nat.reducePow]; omega
  have e5 : bv 5 w 11 = rb := by apply BitVec.eq_of_toNat_eq; simp only [bv, BitVec.toNat_ofNat, Nat.reducePow]; omega
  have e6 : bv 2 w 4 = t := by apply BitVec.eq_of_toNat_eq; simp only [bv, BitVec.toNat_ofNat, Nat.reducePow]; omega
  have e7 : bv 2 w 2 = rm := by apply BitVec.eq_of_toNat_eq; simp only [bv, BitVec.toNat_ofNat, Nat.reducePow]; omega
  rw [e3, e4, e5, e6, e7]
theorem fnma (rd : GReg) (ra : GReg) (rb : GReg) (t : BitVec 2) (rm : BitVec 2) : Statement (.fnma rd ra rb t rm) := by
  refine ⟨fun h => Bool.noConfusion (show false = true from h), fun _ hw => ?_⟩
  have h_rd := rd.isLt
  have h_ra := ra.isLt
  have h_rb := rb.isLt
  have h_t := t.isLt
  have h_rm := rm.isLt
  rw [show encodeA (.fnma rd ra rb t rm) = 805306368 + 320 + rd.toNat * 2097152 + ra.toNat * 65536 + rb.toNat * 2048 + t.toNat * 16 + rm.toNat * 4 from rfl]
  obtain ⟨w, hW⟩ : ∃ w, w = 805306368 + 320 + rd.toNat * 2097152 + ra.toNat * 65536 + rb.toNat * 2048 + t.toNat * 16 + rm.toNat * 4 := ⟨_, rfl⟩
  rw [← hW]
  have e1 : fld w 31 26 = 12 := by simp only [fld, Nat.reducePow, Nat.reduceSub, Nat.reduceAdd]; omega
  have f1 : decodeA w = decA12 w := by unfold decodeA; rw [e1]; try rfl
  have e2 : fld w 10 6 = 5 := by simp only [fld, Nat.reducePow, Nat.reduceSub, Nat.reduceAdd]; omega
  have f2 : decA12 w = .instr (.fnma (bv 5 w 21) (bv 5 w 16) (bv 5 w 11) (bv 2 w 4) (bv 2 w 2)) := by unfold decA12; rw [e2]; try rfl
  rw [f1, f2]
  have e3 : bv 5 w 21 = rd := by apply BitVec.eq_of_toNat_eq; simp only [bv, BitVec.toNat_ofNat, Nat.reducePow]; omega
  have e4 : bv 5 w 16 = ra := by apply BitVec.eq_of_toNat_eq; simp only [bv, BitVec.toNat_ofNat, Nat.reducePow]; omega
  have e5 : bv 5 w 11 = rb := by apply BitVec.eq_of_toNat_eq; simp only [bv, BitVec.toNat_ofNat, Nat.reducePow]; omega
  have e6 : bv 2 w 4 = t := by apply BitVec.eq_of_toNat_eq; simp only [bv, BitVec.toNat_ofNat, Nat.reducePow]; omega
  have e7 : bv 2 w 2 = rm := by apply BitVec.eq_of_toNat_eq; simp only [bv, BitVec.toNat_ofNat, Nat.reducePow]; omega
  rw [e3, e4, e5, e6, e7]
theorem fdiv (rd : GReg) (ra : GReg) (rb : GReg) (t : BitVec 2) (rm : BitVec 2) : Statement (.fdiv rd ra rb t rm) := by
  refine ⟨fun h => Bool.noConfusion (show false = true from h), fun _ hw => ?_⟩
  have h_rd := rd.isLt
  have h_ra := ra.isLt
  have h_rb := rb.isLt
  have h_t := t.isLt
  have h_rm := rm.isLt
  rw [show encodeA (.fdiv rd ra rb t rm) = 805306368 + 384 + rd.toNat * 2097152 + ra.toNat * 65536 + rb.toNat * 2048 + t.toNat * 16 + rm.toNat * 4 from rfl]
  obtain ⟨w, hW⟩ : ∃ w, w = 805306368 + 384 + rd.toNat * 2097152 + ra.toNat * 65536 + rb.toNat * 2048 + t.toNat * 16 + rm.toNat * 4 := ⟨_, rfl⟩
  rw [← hW]
  have e1 : fld w 31 26 = 12 := by simp only [fld, Nat.reducePow, Nat.reduceSub, Nat.reduceAdd]; omega
  have f1 : decodeA w = decA12 w := by unfold decodeA; rw [e1]; try rfl
  have e2 : fld w 10 6 = 6 := by simp only [fld, Nat.reducePow, Nat.reduceSub, Nat.reduceAdd]; omega
  have f2 : decA12 w = .instr (.fdiv (bv 5 w 21) (bv 5 w 16) (bv 5 w 11) (bv 2 w 4) (bv 2 w 2)) := by unfold decA12; rw [e2]; try rfl
  rw [f1, f2]
  have e3 : bv 5 w 21 = rd := by apply BitVec.eq_of_toNat_eq; simp only [bv, BitVec.toNat_ofNat, Nat.reducePow]; omega
  have e4 : bv 5 w 16 = ra := by apply BitVec.eq_of_toNat_eq; simp only [bv, BitVec.toNat_ofNat, Nat.reducePow]; omega
  have e5 : bv 5 w 11 = rb := by apply BitVec.eq_of_toNat_eq; simp only [bv, BitVec.toNat_ofNat, Nat.reducePow]; omega
  have e6 : bv 2 w 4 = t := by apply BitVec.eq_of_toNat_eq; simp only [bv, BitVec.toNat_ofNat, Nat.reducePow]; omega
  have e7 : bv 2 w 2 = rm := by apply BitVec.eq_of_toNat_eq; simp only [bv, BitVec.toNat_ofNat, Nat.reducePow]; omega
  rw [e3, e4, e5, e6, e7]
theorem fsqrt (rd : GReg) (ra : GReg) (t : BitVec 2) (rm : BitVec 2) : Statement (.fsqrt rd ra t rm) := by
  refine ⟨fun h => Bool.noConfusion (show false = true from h), fun _ hw => ?_⟩
  have h_rd := rd.isLt
  have h_ra := ra.isLt
  have h_t := t.isLt
  have h_rm := rm.isLt
  rw [show encodeA (.fsqrt rd ra t rm) = 805306368 + 448 + rd.toNat * 2097152 + ra.toNat * 65536 + t.toNat * 16 + rm.toNat * 4 from rfl]
  obtain ⟨w, hW⟩ : ∃ w, w = 805306368 + 448 + rd.toNat * 2097152 + ra.toNat * 65536 + t.toNat * 16 + rm.toNat * 4 := ⟨_, rfl⟩
  rw [← hW]
  have e1 : fld w 31 26 = 12 := by simp only [fld, Nat.reducePow, Nat.reduceSub, Nat.reduceAdd]; omega
  have f1 : decodeA w = decA12 w := by unfold decodeA; rw [e1]; try rfl
  have e2 : fld w 10 6 = 7 := by simp only [fld, Nat.reducePow, Nat.reduceSub, Nat.reduceAdd]; omega
  have f2 : decA12 w = .instr (.fsqrt (bv 5 w 21) (bv 5 w 16) (bv 2 w 4) (bv 2 w 2)) := by unfold decA12; rw [e2]; try rfl
  rw [f1, f2]
  have e3 : bv 5 w 21 = rd := by apply BitVec.eq_of_toNat_eq; simp only [bv, BitVec.toNat_ofNat, Nat.reducePow]; omega
  have e4 : bv 5 w 16 = ra := by apply BitVec.eq_of_toNat_eq; simp only [bv, BitVec.toNat_ofNat, Nat.reducePow]; omega
  have e5 : bv 2 w 4 = t := by apply BitVec.eq_of_toNat_eq; simp only [bv, BitVec.toNat_ofNat, Nat.reducePow]; omega
  have e6 : bv 2 w 2 = rm := by apply BitVec.eq_of_toNat_eq; simp only [bv, BitVec.toNat_ofNat, Nat.reducePow]; omega
  rw [e3, e4, e5, e6]
theorem frcp (rd : GReg) (ra : GReg) (t : BitVec 2) : Statement (.frcp rd ra t) := by
  refine ⟨fun h => Bool.noConfusion (show false = true from h), fun _ hw => ?_⟩
  have h_rd := rd.isLt
  have h_ra := ra.isLt
  have h_t := t.isLt
  rw [show encodeA (.frcp rd ra t) = 805306368 + 512 + rd.toNat * 2097152 + ra.toNat * 65536 + t.toNat * 16 from rfl]
  obtain ⟨w, hW⟩ : ∃ w, w = 805306368 + 512 + rd.toNat * 2097152 + ra.toNat * 65536 + t.toNat * 16 := ⟨_, rfl⟩
  rw [← hW]
  have e1 : fld w 31 26 = 12 := by simp only [fld, Nat.reducePow, Nat.reduceSub, Nat.reduceAdd]; omega
  have f1 : decodeA w = decA12 w := by unfold decodeA; rw [e1]; try rfl
  have e2 : fld w 10 6 = 8 := by simp only [fld, Nat.reducePow, Nat.reduceSub, Nat.reduceAdd]; omega
  have f2 : decA12 w = .instr (.frcp (bv 5 w 21) (bv 5 w 16) (bv 2 w 4)) := by unfold decA12; rw [e2]; try rfl
  rw [f1, f2]
  have e3 : bv 5 w 21 = rd := by apply BitVec.eq_of_toNat_eq; simp only [bv, BitVec.toNat_ofNat, Nat.reducePow]; omega
  have e4 : bv 5 w 16 = ra := by apply BitVec.eq_of_toNat_eq; simp only [bv, BitVec.toNat_ofNat, Nat.reducePow]; omega
  have e5 : bv 2 w 4 = t := by apply BitVec.eq_of_toNat_eq; simp only [bv, BitVec.toNat_ofNat, Nat.reducePow]; omega
  rw [e3, e4, e5]
theorem frsq (rd : GReg) (ra : GReg) (t : BitVec 2) : Statement (.frsq rd ra t) := by
  refine ⟨fun h => Bool.noConfusion (show false = true from h), fun _ hw => ?_⟩
  have h_rd := rd.isLt
  have h_ra := ra.isLt
  have h_t := t.isLt
  rw [show encodeA (.frsq rd ra t) = 805306368 + 576 + rd.toNat * 2097152 + ra.toNat * 65536 + t.toNat * 16 from rfl]
  obtain ⟨w, hW⟩ : ∃ w, w = 805306368 + 576 + rd.toNat * 2097152 + ra.toNat * 65536 + t.toNat * 16 := ⟨_, rfl⟩
  rw [← hW]
  have e1 : fld w 31 26 = 12 := by simp only [fld, Nat.reducePow, Nat.reduceSub, Nat.reduceAdd]; omega
  have f1 : decodeA w = decA12 w := by unfold decodeA; rw [e1]; try rfl
  have e2 : fld w 10 6 = 9 := by simp only [fld, Nat.reducePow, Nat.reduceSub, Nat.reduceAdd]; omega
  have f2 : decA12 w = .instr (.frsq (bv 5 w 21) (bv 5 w 16) (bv 2 w 4)) := by unfold decA12; rw [e2]; try rfl
  rw [f1, f2]
  have e3 : bv 5 w 21 = rd := by apply BitVec.eq_of_toNat_eq; simp only [bv, BitVec.toNat_ofNat, Nat.reducePow]; omega
  have e4 : bv 5 w 16 = ra := by apply BitVec.eq_of_toNat_eq; simp only [bv, BitVec.toNat_ofNat, Nat.reducePow]; omega
  have e5 : bv 2 w 4 = t := by apply BitVec.eq_of_toNat_eq; simp only [bv, BitVec.toNat_ofNat, Nat.reducePow]; omega
  rw [e3, e4, e5]
theorem fmin (rd : GReg) (ra : GReg) (rb : GReg) (t : BitVec 2) : Statement (.fmin rd ra rb t) := by
  refine ⟨fun h => Bool.noConfusion (show false = true from h), fun _ hw => ?_⟩
  have h_rd := rd.isLt
  have h_ra := ra.isLt
  have h_rb := rb.isLt
  have h_t := t.isLt
  rw [show encodeA (.fmin rd ra rb t) = 805306368 + 640 + rd.toNat * 2097152 + ra.toNat * 65536 + rb.toNat * 2048 + t.toNat * 16 from rfl]
  obtain ⟨w, hW⟩ : ∃ w, w = 805306368 + 640 + rd.toNat * 2097152 + ra.toNat * 65536 + rb.toNat * 2048 + t.toNat * 16 := ⟨_, rfl⟩
  rw [← hW]
  have e1 : fld w 31 26 = 12 := by simp only [fld, Nat.reducePow, Nat.reduceSub, Nat.reduceAdd]; omega
  have f1 : decodeA w = decA12 w := by unfold decodeA; rw [e1]; try rfl
  have e2 : fld w 10 6 = 10 := by simp only [fld, Nat.reducePow, Nat.reduceSub, Nat.reduceAdd]; omega
  have f2 : decA12 w = .instr (.fmin (bv 5 w 21) (bv 5 w 16) (bv 5 w 11) (bv 2 w 4)) := by unfold decA12; rw [e2]; try rfl
  rw [f1, f2]
  have e3 : bv 5 w 21 = rd := by apply BitVec.eq_of_toNat_eq; simp only [bv, BitVec.toNat_ofNat, Nat.reducePow]; omega
  have e4 : bv 5 w 16 = ra := by apply BitVec.eq_of_toNat_eq; simp only [bv, BitVec.toNat_ofNat, Nat.reducePow]; omega
  have e5 : bv 5 w 11 = rb := by apply BitVec.eq_of_toNat_eq; simp only [bv, BitVec.toNat_ofNat, Nat.reducePow]; omega
  have e6 : bv 2 w 4 = t := by apply BitVec.eq_of_toNat_eq; simp only [bv, BitVec.toNat_ofNat, Nat.reducePow]; omega
  rw [e3, e4, e5, e6]
theorem fmax (rd : GReg) (ra : GReg) (rb : GReg) (t : BitVec 2) : Statement (.fmax rd ra rb t) := by
  refine ⟨fun h => Bool.noConfusion (show false = true from h), fun _ hw => ?_⟩
  have h_rd := rd.isLt
  have h_ra := ra.isLt
  have h_rb := rb.isLt
  have h_t := t.isLt
  rw [show encodeA (.fmax rd ra rb t) = 805306368 + 704 + rd.toNat * 2097152 + ra.toNat * 65536 + rb.toNat * 2048 + t.toNat * 16 from rfl]
  obtain ⟨w, hW⟩ : ∃ w, w = 805306368 + 704 + rd.toNat * 2097152 + ra.toNat * 65536 + rb.toNat * 2048 + t.toNat * 16 := ⟨_, rfl⟩
  rw [← hW]
  have e1 : fld w 31 26 = 12 := by simp only [fld, Nat.reducePow, Nat.reduceSub, Nat.reduceAdd]; omega
  have f1 : decodeA w = decA12 w := by unfold decodeA; rw [e1]; try rfl
  have e2 : fld w 10 6 = 11 := by simp only [fld, Nat.reducePow, Nat.reduceSub, Nat.reduceAdd]; omega
  have f2 : decA12 w = .instr (.fmax (bv 5 w 21) (bv 5 w 16) (bv 5 w 11) (bv 2 w 4)) := by unfold decA12; rw [e2]; try rfl
  rw [f1, f2]
  have e3 : bv 5 w 21 = rd := by apply BitVec.eq_of_toNat_eq; simp only [bv, BitVec.toNat_ofNat, Nat.reducePow]; omega
  have e4 : bv 5 w 16 = ra := by apply BitVec.eq_of_toNat_eq; simp only [bv, BitVec.toNat_ofNat, Nat.reducePow]; omega
  have e5 : bv 5 w 11 = rb := by apply BitVec.eq_of_toNat_eq; simp only [bv, BitVec.toNat_ofNat, Nat.reducePow]; omega
  have e6 : bv 2 w 4 = t := by apply BitVec.eq_of_toNat_eq; simp only [bv, BitVec.toNat_ofNat, Nat.reducePow]; omega
  rw [e3, e4, e5, e6]
theorem fabs (rd : GReg) (ra : GReg) (t : BitVec 2) : Statement (.fabs rd ra t) := by
  refine ⟨fun h => Bool.noConfusion (show false = true from h), fun _ hw => ?_⟩
  have h_rd := rd.isLt
  have h_ra := ra.isLt
  have h_t := t.isLt
  rw [show encodeA (.fabs rd ra t) = 805306368 + 768 + rd.toNat * 2097152 + ra.toNat * 65536 + t.toNat * 16 from rfl]
  obtain ⟨w, hW⟩ : ∃ w, w = 805306368 + 768 + rd.toNat * 2097152 + ra.toNat * 65536 + t.toNat * 16 := ⟨_, rfl⟩
  rw [← hW]
  have e1 : fld w 31 26 = 12 := by simp only [fld, Nat.reducePow, Nat.reduceSub, Nat.reduceAdd]; omega
  have f1 : decodeA w = decA12 w := by unfold decodeA; rw [e1]; try rfl
  have e2 : fld w 10 6 = 12 := by simp only [fld, Nat.reducePow, Nat.reduceSub, Nat.reduceAdd]; omega
  have f2 : decA12 w = .instr (.fabs (bv 5 w 21) (bv 5 w 16) (bv 2 w 4)) := by unfold decA12; rw [e2]; try rfl
  rw [f1, f2]
  have e3 : bv 5 w 21 = rd := by apply BitVec.eq_of_toNat_eq; simp only [bv, BitVec.toNat_ofNat, Nat.reducePow]; omega
  have e4 : bv 5 w 16 = ra := by apply BitVec.eq_of_toNat_eq; simp only [bv, BitVec.toNat_ofNat, Nat.reducePow]; omega
  have e5 : bv 2 w 4 = t := by apply BitVec.eq_of_toNat_eq; simp only [bv, BitVec.toNat_ofNat, Nat.reducePow]; omega
  rw [e3, e4, e5]
theorem fneg (rd : GReg) (ra : GReg) (t : BitVec 2) : Statement (.fneg rd ra t) := by
  refine ⟨fun h => Bool.noConfusion (show false = true from h), fun _ hw => ?_⟩
  have h_rd := rd.isLt
  have h_ra := ra.isLt
  have h_t := t.isLt
  rw [show encodeA (.fneg rd ra t) = 805306368 + 832 + rd.toNat * 2097152 + ra.toNat * 65536 + t.toNat * 16 from rfl]
  obtain ⟨w, hW⟩ : ∃ w, w = 805306368 + 832 + rd.toNat * 2097152 + ra.toNat * 65536 + t.toNat * 16 := ⟨_, rfl⟩
  rw [← hW]
  have e1 : fld w 31 26 = 12 := by simp only [fld, Nat.reducePow, Nat.reduceSub, Nat.reduceAdd]; omega
  have f1 : decodeA w = decA12 w := by unfold decodeA; rw [e1]; try rfl
  have e2 : fld w 10 6 = 13 := by simp only [fld, Nat.reducePow, Nat.reduceSub, Nat.reduceAdd]; omega
  have f2 : decA12 w = .instr (.fneg (bv 5 w 21) (bv 5 w 16) (bv 2 w 4)) := by unfold decA12; rw [e2]; try rfl
  rw [f1, f2]
  have e3 : bv 5 w 21 = rd := by apply BitVec.eq_of_toNat_eq; simp only [bv, BitVec.toNat_ofNat, Nat.reducePow]; omega
  have e4 : bv 5 w 16 = ra := by apply BitVec.eq_of_toNat_eq; simp only [bv, BitVec.toNat_ofNat, Nat.reducePow]; omega
  have e5 : bv 2 w 4 = t := by apply BitVec.eq_of_toNat_eq; simp only [bv, BitVec.toNat_ofNat, Nat.reducePow]; omega
  rw [e3, e4, e5]
theorem fcpsgn (rd : GReg) (ra : GReg) (rb : GReg) (t : BitVec 2) : Statement (.fcpsgn rd ra rb t) := by
  refine ⟨fun h => Bool.noConfusion (show false = true from h), fun _ hw => ?_⟩
  have h_rd := rd.isLt
  have h_ra := ra.isLt
  have h_rb := rb.isLt
  have h_t := t.isLt
  rw [show encodeA (.fcpsgn rd ra rb t) = 805306368 + 896 + rd.toNat * 2097152 + ra.toNat * 65536 + rb.toNat * 2048 + t.toNat * 16 from rfl]
  obtain ⟨w, hW⟩ : ∃ w, w = 805306368 + 896 + rd.toNat * 2097152 + ra.toNat * 65536 + rb.toNat * 2048 + t.toNat * 16 := ⟨_, rfl⟩
  rw [← hW]
  have e1 : fld w 31 26 = 12 := by simp only [fld, Nat.reducePow, Nat.reduceSub, Nat.reduceAdd]; omega
  have f1 : decodeA w = decA12 w := by unfold decodeA; rw [e1]; try rfl
  have e2 : fld w 10 6 = 14 := by simp only [fld, Nat.reducePow, Nat.reduceSub, Nat.reduceAdd]; omega
  have f2 : decA12 w = .instr (.fcpsgn (bv 5 w 21) (bv 5 w 16) (bv 5 w 11) (bv 2 w 4)) := by unfold decA12; rw [e2]; try rfl
  rw [f1, f2]
  have e3 : bv 5 w 21 = rd := by apply BitVec.eq_of_toNat_eq; simp only [bv, BitVec.toNat_ofNat, Nat.reducePow]; omega
  have e4 : bv 5 w 16 = ra := by apply BitVec.eq_of_toNat_eq; simp only [bv, BitVec.toNat_ofNat, Nat.reducePow]; omega
  have e5 : bv 5 w 11 = rb := by apply BitVec.eq_of_toNat_eq; simp only [bv, BitVec.toNat_ofNat, Nat.reducePow]; omega
  have e6 : bv 2 w 4 = t := by apply BitVec.eq_of_toNat_eq; simp only [bv, BitVec.toNat_ofNat, Nat.reducePow]; omega
  rw [e3, e4, e5, e6]
theorem fclass (rd : GReg) (ra : GReg) (t : BitVec 2) : Statement (.fclass rd ra t) := by
  refine ⟨fun h => Bool.noConfusion (show false = true from h), fun _ hw => ?_⟩
  have h_rd := rd.isLt
  have h_ra := ra.isLt
  have h_t := t.isLt
  rw [show encodeA (.fclass rd ra t) = 805306368 + 960 + rd.toNat * 2097152 + ra.toNat * 65536 + t.toNat * 16 from rfl]
  obtain ⟨w, hW⟩ : ∃ w, w = 805306368 + 960 + rd.toNat * 2097152 + ra.toNat * 65536 + t.toNat * 16 := ⟨_, rfl⟩
  rw [← hW]
  have e1 : fld w 31 26 = 12 := by simp only [fld, Nat.reducePow, Nat.reduceSub, Nat.reduceAdd]; omega
  have f1 : decodeA w = decA12 w := by unfold decodeA; rw [e1]; try rfl
  have e2 : fld w 10 6 = 15 := by simp only [fld, Nat.reducePow, Nat.reduceSub, Nat.reduceAdd]; omega
  have f2 : decA12 w = .instr (.fclass (bv 5 w 21) (bv 5 w 16) (bv 2 w 4)) := by unfold decA12; rw [e2]; try rfl
  rw [f1, f2]
  have e3 : bv 5 w 21 = rd := by apply BitVec.eq_of_toNat_eq; simp only [bv, BitVec.toNat_ofNat, Nat.reducePow]; omega
  have e4 : bv 5 w 16 = ra := by apply BitVec.eq_of_toNat_eq; simp only [bv, BitVec.toNat_ofNat, Nat.reducePow]; omega
  have e5 : bv 2 w 4 = t := by apply BitVec.eq_of_toNat_eq; simp only [bv, BitVec.toNat_ofNat, Nat.reducePow]; omega
  rw [e3, e4, e5]
theorem feq (rd : GReg) (ra : GReg) (rb : GReg) (t : BitVec 2) : Statement (.feq rd ra rb t) := by
  refine ⟨fun h => Bool.noConfusion (show false = true from h), fun _ hw => ?_⟩
  have h_rd := rd.isLt
  have h_ra := ra.isLt
  have h_rb := rb.isLt
  have h_t := t.isLt
  rw [show encodeA (.feq rd ra rb t) = 805306368 + 1024 + rd.toNat * 2097152 + ra.toNat * 65536 + rb.toNat * 2048 + t.toNat * 16 from rfl]
  obtain ⟨w, hW⟩ : ∃ w, w = 805306368 + 1024 + rd.toNat * 2097152 + ra.toNat * 65536 + rb.toNat * 2048 + t.toNat * 16 := ⟨_, rfl⟩
  rw [← hW]
  have e1 : fld w 31 26 = 12 := by simp only [fld, Nat.reducePow, Nat.reduceSub, Nat.reduceAdd]; omega
  have f1 : decodeA w = decA12 w := by unfold decodeA; rw [e1]; try rfl
  have e2 : fld w 10 6 = 16 := by simp only [fld, Nat.reducePow, Nat.reduceSub, Nat.reduceAdd]; omega
  have f2 : decA12 w = .instr (.feq (bv 5 w 21) (bv 5 w 16) (bv 5 w 11) (bv 2 w 4)) := by unfold decA12; rw [e2]; try rfl
  rw [f1, f2]
  have e3 : bv 5 w 21 = rd := by apply BitVec.eq_of_toNat_eq; simp only [bv, BitVec.toNat_ofNat, Nat.reducePow]; omega
  have e4 : bv 5 w 16 = ra := by apply BitVec.eq_of_toNat_eq; simp only [bv, BitVec.toNat_ofNat, Nat.reducePow]; omega
  have e5 : bv 5 w 11 = rb := by apply BitVec.eq_of_toNat_eq; simp only [bv, BitVec.toNat_ofNat, Nat.reducePow]; omega
  have e6 : bv 2 w 4 = t := by apply BitVec.eq_of_toNat_eq; simp only [bv, BitVec.toNat_ofNat, Nat.reducePow]; omega
  rw [e3, e4, e5, e6]
theorem flt (rd : GReg) (ra : GReg) (rb : GReg) (t : BitVec 2) : Statement (.flt rd ra rb t) := by
  refine ⟨fun h => Bool.noConfusion (show false = true from h), fun _ hw => ?_⟩
  have h_rd := rd.isLt
  have h_ra := ra.isLt
  have h_rb := rb.isLt
  have h_t := t.isLt
  rw [show encodeA (.flt rd ra rb t) = 805306368 + 1088 + rd.toNat * 2097152 + ra.toNat * 65536 + rb.toNat * 2048 + t.toNat * 16 from rfl]
  obtain ⟨w, hW⟩ : ∃ w, w = 805306368 + 1088 + rd.toNat * 2097152 + ra.toNat * 65536 + rb.toNat * 2048 + t.toNat * 16 := ⟨_, rfl⟩
  rw [← hW]
  have e1 : fld w 31 26 = 12 := by simp only [fld, Nat.reducePow, Nat.reduceSub, Nat.reduceAdd]; omega
  have f1 : decodeA w = decA12 w := by unfold decodeA; rw [e1]; try rfl
  have e2 : fld w 10 6 = 17 := by simp only [fld, Nat.reducePow, Nat.reduceSub, Nat.reduceAdd]; omega
  have f2 : decA12 w = .instr (.flt (bv 5 w 21) (bv 5 w 16) (bv 5 w 11) (bv 2 w 4)) := by unfold decA12; rw [e2]; try rfl
  rw [f1, f2]
  have e3 : bv 5 w 21 = rd := by apply BitVec.eq_of_toNat_eq; simp only [bv, BitVec.toNat_ofNat, Nat.reducePow]; omega
  have e4 : bv 5 w 16 = ra := by apply BitVec.eq_of_toNat_eq; simp only [bv, BitVec.toNat_ofNat, Nat.reducePow]; omega
  have e5 : bv 5 w 11 = rb := by apply BitVec.eq_of_toNat_eq; simp only [bv, BitVec.toNat_ofNat, Nat.reducePow]; omega
  have e6 : bv 2 w 4 = t := by apply BitVec.eq_of_toNat_eq; simp only [bv, BitVec.toNat_ofNat, Nat.reducePow]; omega
  rw [e3, e4, e5, e6]
theorem fle (rd : GReg) (ra : GReg) (rb : GReg) (t : BitVec 2) : Statement (.fle rd ra rb t) := by
  refine ⟨fun h => Bool.noConfusion (show false = true from h), fun _ hw => ?_⟩
  have h_rd := rd.isLt
  have h_ra := ra.isLt
  have h_rb := rb.isLt
  have h_t := t.isLt
  rw [show encodeA (.fle rd ra rb t) = 805306368 + 1152 + rd.toNat * 2097152 + ra.toNat * 65536 + rb.toNat * 2048 + t.toNat * 16 from rfl]
  obtain ⟨w, hW⟩ : ∃ w, w = 805306368 + 1152 + rd.toNat * 2097152 + ra.toNat * 65536 + rb.toNat * 2048 + t.toNat * 16 := ⟨_, rfl⟩
  rw [← hW]
  have e1 : fld w 31 26 = 12 := by simp only [fld, Nat.reducePow, Nat.reduceSub, Nat.reduceAdd]; omega
  have f1 : decodeA w = decA12 w := by unfold decodeA; rw [e1]; try rfl
  have e2 : fld w 10 6 = 18 := by simp only [fld, Nat.reducePow, Nat.reduceSub, Nat.reduceAdd]; omega
  have f2 : decA12 w = .instr (.fle (bv 5 w 21) (bv 5 w 16) (bv 5 w 11) (bv 2 w 4)) := by unfold decA12; rw [e2]; try rfl
  rw [f1, f2]
  have e3 : bv 5 w 21 = rd := by apply BitVec.eq_of_toNat_eq; simp only [bv, BitVec.toNat_ofNat, Nat.reducePow]; omega
  have e4 : bv 5 w 16 = ra := by apply BitVec.eq_of_toNat_eq; simp only [bv, BitVec.toNat_ofNat, Nat.reducePow]; omega
  have e5 : bv 5 w 11 = rb := by apply BitVec.eq_of_toNat_eq; simp only [bv, BitVec.toNat_ofNat, Nat.reducePow]; omega
  have e6 : bv 2 w 4 = t := by apply BitVec.eq_of_toNat_eq; simp only [bv, BitVec.toNat_ofNat, Nat.reducePow]; omega
  rw [e3, e4, e5, e6]
theorem fcvt (rd : GReg) (ra : GReg) (t : BitVec 2) (rm : BitVec 2) (ax : BitVec 2) : Statement (.fcvt rd ra t rm ax) := by
  refine ⟨fun h => Bool.noConfusion (show false = true from h), fun _ hw => ?_⟩
  have h_rd := rd.isLt
  have h_ra := ra.isLt
  have h_t := t.isLt
  have h_rm := rm.isLt
  have h_ax := ax.isLt
  rw [show encodeA (.fcvt rd ra t rm ax) = 805306368 + 1216 + rd.toNat * 2097152 + ra.toNat * 65536 + t.toNat * 16 + rm.toNat * 4 + ax.toNat from rfl]
  obtain ⟨w, hW⟩ : ∃ w, w = 805306368 + 1216 + rd.toNat * 2097152 + ra.toNat * 65536 + t.toNat * 16 + rm.toNat * 4 + ax.toNat := ⟨_, rfl⟩
  rw [← hW]
  have e1 : fld w 31 26 = 12 := by simp only [fld, Nat.reducePow, Nat.reduceSub, Nat.reduceAdd]; omega
  have f1 : decodeA w = decA12 w := by unfold decodeA; rw [e1]; try rfl
  have e2 : fld w 10 6 = 19 := by simp only [fld, Nat.reducePow, Nat.reduceSub, Nat.reduceAdd]; omega
  have f2 : decA12 w = .instr (.fcvt (bv 5 w 21) (bv 5 w 16) (bv 2 w 4) (bv 2 w 2) (bv 2 w 0)) := by unfold decA12; rw [e2]; try rfl
  rw [f1, f2]
  have e3 : bv 5 w 21 = rd := by apply BitVec.eq_of_toNat_eq; simp only [bv, BitVec.toNat_ofNat, Nat.reducePow]; omega
  have e4 : bv 5 w 16 = ra := by apply BitVec.eq_of_toNat_eq; simp only [bv, BitVec.toNat_ofNat, Nat.reducePow]; omega
  have e5 : bv 2 w 4 = t := by apply BitVec.eq_of_toNat_eq; simp only [bv, BitVec.toNat_ofNat, Nat.reducePow]; omega
  have e6 : bv 2 w 2 = rm := by apply BitVec.eq_of_toNat_eq; simp only [bv, BitVec.toNat_ofNat, Nat.reducePow]; omega
  have e7 : bv 2 w 0 = ax := by apply BitVec.eq_of_toNat_eq; simp only [bv, BitVec.toNat_ofNat, Nat.reducePow]; omega
  rw [e3, e4, e5, e6, e7]
theorem fcvti (rd : GReg) (ra : GReg) (t : BitVec 2) (rm : BitVec 2) (ax : BitVec 2) : Statement (.fcvti rd ra t rm ax) := by
  refine ⟨fun h => Bool.noConfusion (show false = true from h), fun _ hw => ?_⟩
  have h_rd := rd.isLt
  have h_ra := ra.isLt
  have h_t := t.isLt
  have h_rm := rm.isLt
  have h_ax := ax.isLt
  rw [show encodeA (.fcvti rd ra t rm ax) = 805306368 + 1280 + rd.toNat * 2097152 + ra.toNat * 65536 + t.toNat * 16 + rm.toNat * 4 + ax.toNat from rfl]
  obtain ⟨w, hW⟩ : ∃ w, w = 805306368 + 1280 + rd.toNat * 2097152 + ra.toNat * 65536 + t.toNat * 16 + rm.toNat * 4 + ax.toNat := ⟨_, rfl⟩
  rw [← hW]
  have e1 : fld w 31 26 = 12 := by simp only [fld, Nat.reducePow, Nat.reduceSub, Nat.reduceAdd]; omega
  have f1 : decodeA w = decA12 w := by unfold decodeA; rw [e1]; try rfl
  have e2 : fld w 10 6 = 20 := by simp only [fld, Nat.reducePow, Nat.reduceSub, Nat.reduceAdd]; omega
  have f2 : decA12 w = .instr (.fcvti (bv 5 w 21) (bv 5 w 16) (bv 2 w 4) (bv 2 w 2) (bv 2 w 0)) := by unfold decA12; rw [e2]; try rfl
  rw [f1, f2]
  have e3 : bv 5 w 21 = rd := by apply BitVec.eq_of_toNat_eq; simp only [bv, BitVec.toNat_ofNat, Nat.reducePow]; omega
  have e4 : bv 5 w 16 = ra := by apply BitVec.eq_of_toNat_eq; simp only [bv, BitVec.toNat_ofNat, Nat.reducePow]; omega
  have e5 : bv 2 w 4 = t := by apply BitVec.eq_of_toNat_eq; simp only [bv, BitVec.toNat_ofNat, Nat.reducePow]; omega
  have e6 : bv 2 w 2 = rm := by apply BitVec.eq_of_toNat_eq; simp only [bv, BitVec.toNat_ofNat, Nat.reducePow]; omega
  have e7 : bv 2 w 0 = ax := by apply BitVec.eq_of_toNat_eq; simp only [bv, BitVec.toNat_ofNat, Nat.reducePow]; omega
  rw [e3, e4, e5, e6, e7]
theorem fcvtf (rd : GReg) (ra : GReg) (t : BitVec 2) (rm : BitVec 2) (ax : BitVec 2) : Statement (.fcvtf rd ra t rm ax) := by
  refine ⟨fun h => Bool.noConfusion (show false = true from h), fun _ hw => ?_⟩
  have h_rd := rd.isLt
  have h_ra := ra.isLt
  have h_t := t.isLt
  have h_rm := rm.isLt
  have h_ax := ax.isLt
  rw [show encodeA (.fcvtf rd ra t rm ax) = 805306368 + 1344 + rd.toNat * 2097152 + ra.toNat * 65536 + t.toNat * 16 + rm.toNat * 4 + ax.toNat from rfl]
  obtain ⟨w, hW⟩ : ∃ w, w = 805306368 + 1344 + rd.toNat * 2097152 + ra.toNat * 65536 + t.toNat * 16 + rm.toNat * 4 + ax.toNat := ⟨_, rfl⟩
  rw [← hW]
  have e1 : fld w 31 26 = 12 := by simp only [fld, Nat.reducePow, Nat.reduceSub, Nat.reduceAdd]; omega
  have f1 : decodeA w = decA12 w := by unfold decodeA; rw [e1]; try rfl
  have e2 : fld w 10 6 = 21 := by simp only [fld, Nat.reducePow, Nat.reduceSub, Nat.reduceAdd]; omega
  have f2 : decA12 w = .instr (.fcvtf (bv 5 w 21) (bv 5 w 16) (bv 2 w 4) (bv 2 w 2) (bv 2 w 0)) := by unfold decA12; rw [e2]; try rfl
  rw [f1, f2]
  have e3 : bv 5 w 21 = rd := by apply BitVec.eq_of_toNat_eq; simp only [bv, BitVec.toNat_ofNat, Nat.reducePow]; omega
  have e4 : bv 5 w 16 = ra := by apply BitVec.eq_of_toNat_eq; simp only [bv, BitVec.toNat_ofNat, Nat.reducePow]; omega
  have e5 : bv 2 w 4 = t := by apply BitVec.eq_of_toNat_eq; simp only [bv, BitVec.toNat_ofNat, Nat.reducePow]; omega
  have e6 : bv 2 w 2 = rm := by apply BitVec.eq_of_toNat_eq; simp only [bv, BitVec.toNat_ofNat, Nat.reducePow]; omega
  have e7 : bv 2 w 0 = ax := by apply BitVec.eq_of_toNat_eq; simp only [bv, BitVec.toNat_ofNat, Nat.reducePow]; omega
  rw [e3, e4, e5, e6, e7]
theorem fexp (rd : GReg) (ra : GReg) (t : BitVec 2) : Statement (.fexp rd ra t) := by
  refine ⟨fun h => Bool.noConfusion (show false = true from h), fun _ hw => ?_⟩
  have h_rd := rd.isLt
  have h_ra := ra.isLt
  have h_t := t.isLt
  rw [show encodeA (.fexp rd ra t) = 805306368 + 1408 + rd.toNat * 2097152 + ra.toNat * 65536 + t.toNat * 16 from rfl]
  obtain ⟨w, hW⟩ : ∃ w, w = 805306368 + 1408 + rd.toNat * 2097152 + ra.toNat * 65536 + t.toNat * 16 := ⟨_, rfl⟩
  rw [← hW]
  have e1 : fld w 31 26 = 12 := by simp only [fld, Nat.reducePow, Nat.reduceSub, Nat.reduceAdd]; omega
  have f1 : decodeA w = decA12 w := by unfold decodeA; rw [e1]; try rfl
  have e2 : fld w 10 6 = 22 := by simp only [fld, Nat.reducePow, Nat.reduceSub, Nat.reduceAdd]; omega
  have f2 : decA12 w = .instr (.fexp (bv 5 w 21) (bv 5 w 16) (bv 2 w 4)) := by unfold decA12; rw [e2]; try rfl
  rw [f1, f2]
  have e3 : bv 5 w 21 = rd := by apply BitVec.eq_of_toNat_eq; simp only [bv, BitVec.toNat_ofNat, Nat.reducePow]; omega
  have e4 : bv 5 w 16 = ra := by apply BitVec.eq_of_toNat_eq; simp only [bv, BitVec.toNat_ofNat, Nat.reducePow]; omega
  have e5 : bv 2 w 4 = t := by apply BitVec.eq_of_toNat_eq; simp only [bv, BitVec.toNat_ofNat, Nat.reducePow]; omega
  rw [e3, e4, e5]
theorem fscl (rd : GReg) (ra : GReg) (rb : GReg) (t : BitVec 2) (rm : BitVec 2) : Statement (.fscl rd ra rb t rm) := by
  refine ⟨fun h => Bool.noConfusion (show false = true from h), fun _ hw => ?_⟩
  have h_rd := rd.isLt
  have h_ra := ra.isLt
  have h_rb := rb.isLt
  have h_t := t.isLt
  have h_rm := rm.isLt
  rw [show encodeA (.fscl rd ra rb t rm) = 805306368 + 1472 + rd.toNat * 2097152 + ra.toNat * 65536 + rb.toNat * 2048 + t.toNat * 16 + rm.toNat * 4 from rfl]
  obtain ⟨w, hW⟩ : ∃ w, w = 805306368 + 1472 + rd.toNat * 2097152 + ra.toNat * 65536 + rb.toNat * 2048 + t.toNat * 16 + rm.toNat * 4 := ⟨_, rfl⟩
  rw [← hW]
  have e1 : fld w 31 26 = 12 := by simp only [fld, Nat.reducePow, Nat.reduceSub, Nat.reduceAdd]; omega
  have f1 : decodeA w = decA12 w := by unfold decodeA; rw [e1]; try rfl
  have e2 : fld w 10 6 = 23 := by simp only [fld, Nat.reducePow, Nat.reduceSub, Nat.reduceAdd]; omega
  have f2 : decA12 w = .instr (.fscl (bv 5 w 21) (bv 5 w 16) (bv 5 w 11) (bv 2 w 4) (bv 2 w 2)) := by unfold decA12; rw [e2]; try rfl
  rw [f1, f2]
  have e3 : bv 5 w 21 = rd := by apply BitVec.eq_of_toNat_eq; simp only [bv, BitVec.toNat_ofNat, Nat.reducePow]; omega
  have e4 : bv 5 w 16 = ra := by apply BitVec.eq_of_toNat_eq; simp only [bv, BitVec.toNat_ofNat, Nat.reducePow]; omega
  have e5 : bv 5 w 11 = rb := by apply BitVec.eq_of_toNat_eq; simp only [bv, BitVec.toNat_ofNat, Nat.reducePow]; omega
  have e6 : bv 2 w 4 = t := by apply BitVec.eq_of_toNat_eq; simp only [bv, BitVec.toNat_ofNat, Nat.reducePow]; omega
  have e7 : bv 2 w 2 = rm := by apply BitVec.eq_of_toNat_eq; simp only [bv, BitVec.toNat_ofNat, Nat.reducePow]; omega
  rw [e3, e4, e5, e6, e7]
theorem vadd (vd : VReg) (va : VReg) (vb : VReg) (ty : BitVec 4) : Statement (.vadd vd va vb ty) := by
  refine ⟨fun h => Bool.noConfusion (show false = true from h), fun _ hw => ?_⟩
  have h_vd := vd.isLt
  have h_va := va.isLt
  have h_vb := vb.isLt
  have h_ty := ty.isLt
  replace hw : (isInt ty || isFloat ty : Bool) = true := hw
  rw [show encodeA (.vadd vd va vb ty) = 1073741824 + vd.toNat * 4194304 + va.toNat * 262144 + vb.toNat * 16384 + ty.toNat * 1024 from rfl]
  obtain ⟨w, hW⟩ : ∃ w, w = 1073741824 + vd.toNat * 4194304 + va.toNat * 262144 + vb.toNat * 16384 + ty.toNat * 1024 := ⟨_, rfl⟩
  rw [← hW]
  have e1 : fld w 31 26 = 16 := by simp only [fld, Nat.reducePow, Nat.reduceSub, Nat.reduceAdd]; omega
  have f1 : decodeA w = decA16 w := by unfold decodeA; rw [e1]; try rfl
  have e2 : fld w 5 0 = 0 := by simp only [fld, Nat.reducePow, Nat.reduceSub, Nat.reduceAdd]; omega
  have f2 : decA16 w = if tyIF (fld w 13 10) then .instr (.vadd (bv 4 w 22) (bv 4 w 18) (bv 4 w 14) (bv 4 w 10)) else .bad .operand := by unfold decA16; rw [e2]; try rfl
  rw [f1, f2]
  have e3 : fld w 13 10 = ty.toNat := by simp only [fld, Nat.reducePow, Nat.reduceSub, Nat.reduceAdd]; omega
  rw [if_pos (show tyIF (fld w 13 10) from by rw [e3]; first | done | exact hw)]
  have e4 : bv 4 w 22 = vd := by apply BitVec.eq_of_toNat_eq; simp only [bv, BitVec.toNat_ofNat, Nat.reducePow]; omega
  have e5 : bv 4 w 18 = va := by apply BitVec.eq_of_toNat_eq; simp only [bv, BitVec.toNat_ofNat, Nat.reducePow]; omega
  have e6 : bv 4 w 14 = vb := by apply BitVec.eq_of_toNat_eq; simp only [bv, BitVec.toNat_ofNat, Nat.reducePow]; omega
  have e7 : bv 4 w 10 = ty := by apply BitVec.eq_of_toNat_eq; simp only [bv, BitVec.toNat_ofNat, Nat.reducePow]; omega
  rw [e4, e5, e6, e7]
theorem vsub (vd : VReg) (va : VReg) (vb : VReg) (ty : BitVec 4) : Statement (.vsub vd va vb ty) := by
  refine ⟨fun h => Bool.noConfusion (show false = true from h), fun _ hw => ?_⟩
  have h_vd := vd.isLt
  have h_va := va.isLt
  have h_vb := vb.isLt
  have h_ty := ty.isLt
  replace hw : (isInt ty || isFloat ty : Bool) = true := hw
  rw [show encodeA (.vsub vd va vb ty) = 1073741824 + 1 + vd.toNat * 4194304 + va.toNat * 262144 + vb.toNat * 16384 + ty.toNat * 1024 from rfl]
  obtain ⟨w, hW⟩ : ∃ w, w = 1073741824 + 1 + vd.toNat * 4194304 + va.toNat * 262144 + vb.toNat * 16384 + ty.toNat * 1024 := ⟨_, rfl⟩
  rw [← hW]
  have e1 : fld w 31 26 = 16 := by simp only [fld, Nat.reducePow, Nat.reduceSub, Nat.reduceAdd]; omega
  have f1 : decodeA w = decA16 w := by unfold decodeA; rw [e1]; try rfl
  have e2 : fld w 5 0 = 1 := by simp only [fld, Nat.reducePow, Nat.reduceSub, Nat.reduceAdd]; omega
  have f2 : decA16 w = if tyIF (fld w 13 10) then .instr (.vsub (bv 4 w 22) (bv 4 w 18) (bv 4 w 14) (bv 4 w 10)) else .bad .operand := by unfold decA16; rw [e2]; try rfl
  rw [f1, f2]
  have e3 : fld w 13 10 = ty.toNat := by simp only [fld, Nat.reducePow, Nat.reduceSub, Nat.reduceAdd]; omega
  rw [if_pos (show tyIF (fld w 13 10) from by rw [e3]; first | done | exact hw)]
  have e4 : bv 4 w 22 = vd := by apply BitVec.eq_of_toNat_eq; simp only [bv, BitVec.toNat_ofNat, Nat.reducePow]; omega
  have e5 : bv 4 w 18 = va := by apply BitVec.eq_of_toNat_eq; simp only [bv, BitVec.toNat_ofNat, Nat.reducePow]; omega
  have e6 : bv 4 w 14 = vb := by apply BitVec.eq_of_toNat_eq; simp only [bv, BitVec.toNat_ofNat, Nat.reducePow]; omega
  have e7 : bv 4 w 10 = ty := by apply BitVec.eq_of_toNat_eq; simp only [bv, BitVec.toNat_ofNat, Nat.reducePow]; omega
  rw [e4, e5, e6, e7]
theorem vmul (vd : VReg) (va : VReg) (vb : VReg) (ty : BitVec 4) : Statement (.vmul vd va vb ty) := by
  refine ⟨fun h => Bool.noConfusion (show false = true from h), fun _ hw => ?_⟩
  have h_vd := vd.isLt
  have h_va := va.isLt
  have h_vb := vb.isLt
  have h_ty := ty.isLt
  replace hw : (isInt ty || isFloat ty : Bool) = true := hw
  rw [show encodeA (.vmul vd va vb ty) = 1073741824 + 2 + vd.toNat * 4194304 + va.toNat * 262144 + vb.toNat * 16384 + ty.toNat * 1024 from rfl]
  obtain ⟨w, hW⟩ : ∃ w, w = 1073741824 + 2 + vd.toNat * 4194304 + va.toNat * 262144 + vb.toNat * 16384 + ty.toNat * 1024 := ⟨_, rfl⟩
  rw [← hW]
  have e1 : fld w 31 26 = 16 := by simp only [fld, Nat.reducePow, Nat.reduceSub, Nat.reduceAdd]; omega
  have f1 : decodeA w = decA16 w := by unfold decodeA; rw [e1]; try rfl
  have e2 : fld w 5 0 = 2 := by simp only [fld, Nat.reducePow, Nat.reduceSub, Nat.reduceAdd]; omega
  have f2 : decA16 w = if tyIF (fld w 13 10) then .instr (.vmul (bv 4 w 22) (bv 4 w 18) (bv 4 w 14) (bv 4 w 10)) else .bad .operand := by unfold decA16; rw [e2]; try rfl
  rw [f1, f2]
  have e3 : fld w 13 10 = ty.toNat := by simp only [fld, Nat.reducePow, Nat.reduceSub, Nat.reduceAdd]; omega
  rw [if_pos (show tyIF (fld w 13 10) from by rw [e3]; first | done | exact hw)]
  have e4 : bv 4 w 22 = vd := by apply BitVec.eq_of_toNat_eq; simp only [bv, BitVec.toNat_ofNat, Nat.reducePow]; omega
  have e5 : bv 4 w 18 = va := by apply BitVec.eq_of_toNat_eq; simp only [bv, BitVec.toNat_ofNat, Nat.reducePow]; omega
  have e6 : bv 4 w 14 = vb := by apply BitVec.eq_of_toNat_eq; simp only [bv, BitVec.toNat_ofNat, Nat.reducePow]; omega
  have e7 : bv 4 w 10 = ty := by apply BitVec.eq_of_toNat_eq; simp only [bv, BitVec.toNat_ofNat, Nat.reducePow]; omega
  rw [e4, e5, e6, e7]
theorem vmulh (vd : VReg) (va : VReg) (vb : VReg) (ty : BitVec 4) : Statement (.vmulh vd va vb ty) := by
  refine ⟨fun h => Bool.noConfusion (show false = true from h), fun _ hw => ?_⟩
  have h_vd := vd.isLt
  have h_va := va.isLt
  have h_vb := vb.isLt
  have h_ty := ty.isLt
  replace hw : (isInt ty : Bool) = true := hw
  rw [show encodeA (.vmulh vd va vb ty) = 1073741824 + 3 + vd.toNat * 4194304 + va.toNat * 262144 + vb.toNat * 16384 + ty.toNat * 1024 from rfl]
  obtain ⟨w, hW⟩ : ∃ w, w = 1073741824 + 3 + vd.toNat * 4194304 + va.toNat * 262144 + vb.toNat * 16384 + ty.toNat * 1024 := ⟨_, rfl⟩
  rw [← hW]
  have e1 : fld w 31 26 = 16 := by simp only [fld, Nat.reducePow, Nat.reduceSub, Nat.reduceAdd]; omega
  have f1 : decodeA w = decA16 w := by unfold decodeA; rw [e1]; try rfl
  have e2 : fld w 5 0 = 3 := by simp only [fld, Nat.reducePow, Nat.reduceSub, Nat.reduceAdd]; omega
  have f2 : decA16 w = if tyI (fld w 13 10) then .instr (.vmulh (bv 4 w 22) (bv 4 w 18) (bv 4 w 14) (bv 4 w 10)) else .bad .operand := by unfold decA16; rw [e2]; try rfl
  rw [f1, f2]
  have e3 : fld w 13 10 = ty.toNat := by simp only [fld, Nat.reducePow, Nat.reduceSub, Nat.reduceAdd]; omega
  rw [if_pos (show tyI (fld w 13 10) from by rw [e3]; first | done | exact hw)]
  have e4 : bv 4 w 22 = vd := by apply BitVec.eq_of_toNat_eq; simp only [bv, BitVec.toNat_ofNat, Nat.reducePow]; omega
  have e5 : bv 4 w 18 = va := by apply BitVec.eq_of_toNat_eq; simp only [bv, BitVec.toNat_ofNat, Nat.reducePow]; omega
  have e6 : bv 4 w 14 = vb := by apply BitVec.eq_of_toNat_eq; simp only [bv, BitVec.toNat_ofNat, Nat.reducePow]; omega
  have e7 : bv 4 w 10 = ty := by apply BitVec.eq_of_toNat_eq; simp only [bv, BitVec.toNat_ofNat, Nat.reducePow]; omega
  rw [e4, e5, e6, e7]
theorem vfma (vd : VReg) (va : VReg) (vb : VReg) (ty : BitVec 4) : Statement (.vfma vd va vb ty) := by
  refine ⟨fun h => Bool.noConfusion (show false = true from h), fun _ hw => ?_⟩
  have h_vd := vd.isLt
  have h_va := va.isLt
  have h_vb := vb.isLt
  have h_ty := ty.isLt
  replace hw : (isFloat ty : Bool) = true := hw
  rw [show encodeA (.vfma vd va vb ty) = 1073741824 + 4 + vd.toNat * 4194304 + va.toNat * 262144 + vb.toNat * 16384 + ty.toNat * 1024 from rfl]
  obtain ⟨w, hW⟩ : ∃ w, w = 1073741824 + 4 + vd.toNat * 4194304 + va.toNat * 262144 + vb.toNat * 16384 + ty.toNat * 1024 := ⟨_, rfl⟩
  rw [← hW]
  have e1 : fld w 31 26 = 16 := by simp only [fld, Nat.reducePow, Nat.reduceSub, Nat.reduceAdd]; omega
  have f1 : decodeA w = decA16 w := by unfold decodeA; rw [e1]; try rfl
  have e2 : fld w 5 0 = 4 := by simp only [fld, Nat.reducePow, Nat.reduceSub, Nat.reduceAdd]; omega
  have f2 : decA16 w = if tyF (fld w 13 10) then .instr (.vfma (bv 4 w 22) (bv 4 w 18) (bv 4 w 14) (bv 4 w 10)) else .bad .operand := by unfold decA16; rw [e2]; try rfl
  rw [f1, f2]
  have e3 : fld w 13 10 = ty.toNat := by simp only [fld, Nat.reducePow, Nat.reduceSub, Nat.reduceAdd]; omega
  rw [if_pos (show tyF (fld w 13 10) from by rw [e3]; first | done | exact hw)]
  have e4 : bv 4 w 22 = vd := by apply BitVec.eq_of_toNat_eq; simp only [bv, BitVec.toNat_ofNat, Nat.reducePow]; omega
  have e5 : bv 4 w 18 = va := by apply BitVec.eq_of_toNat_eq; simp only [bv, BitVec.toNat_ofNat, Nat.reducePow]; omega
  have e6 : bv 4 w 14 = vb := by apply BitVec.eq_of_toNat_eq; simp only [bv, BitVec.toNat_ofNat, Nat.reducePow]; omega
  have e7 : bv 4 w 10 = ty := by apply BitVec.eq_of_toNat_eq; simp only [bv, BitVec.toNat_ofNat, Nat.reducePow]; omega
  rw [e4, e5, e6, e7]
theorem vfms (vd : VReg) (va : VReg) (vb : VReg) (ty : BitVec 4) : Statement (.vfms vd va vb ty) := by
  refine ⟨fun h => Bool.noConfusion (show false = true from h), fun _ hw => ?_⟩
  have h_vd := vd.isLt
  have h_va := va.isLt
  have h_vb := vb.isLt
  have h_ty := ty.isLt
  replace hw : (isFloat ty : Bool) = true := hw
  rw [show encodeA (.vfms vd va vb ty) = 1073741824 + 5 + vd.toNat * 4194304 + va.toNat * 262144 + vb.toNat * 16384 + ty.toNat * 1024 from rfl]
  obtain ⟨w, hW⟩ : ∃ w, w = 1073741824 + 5 + vd.toNat * 4194304 + va.toNat * 262144 + vb.toNat * 16384 + ty.toNat * 1024 := ⟨_, rfl⟩
  rw [← hW]
  have e1 : fld w 31 26 = 16 := by simp only [fld, Nat.reducePow, Nat.reduceSub, Nat.reduceAdd]; omega
  have f1 : decodeA w = decA16 w := by unfold decodeA; rw [e1]; try rfl
  have e2 : fld w 5 0 = 5 := by simp only [fld, Nat.reducePow, Nat.reduceSub, Nat.reduceAdd]; omega
  have f2 : decA16 w = if tyF (fld w 13 10) then .instr (.vfms (bv 4 w 22) (bv 4 w 18) (bv 4 w 14) (bv 4 w 10)) else .bad .operand := by unfold decA16; rw [e2]; try rfl
  rw [f1, f2]
  have e3 : fld w 13 10 = ty.toNat := by simp only [fld, Nat.reducePow, Nat.reduceSub, Nat.reduceAdd]; omega
  rw [if_pos (show tyF (fld w 13 10) from by rw [e3]; first | done | exact hw)]
  have e4 : bv 4 w 22 = vd := by apply BitVec.eq_of_toNat_eq; simp only [bv, BitVec.toNat_ofNat, Nat.reducePow]; omega
  have e5 : bv 4 w 18 = va := by apply BitVec.eq_of_toNat_eq; simp only [bv, BitVec.toNat_ofNat, Nat.reducePow]; omega
  have e6 : bv 4 w 14 = vb := by apply BitVec.eq_of_toNat_eq; simp only [bv, BitVec.toNat_ofNat, Nat.reducePow]; omega
  have e7 : bv 4 w 10 = ty := by apply BitVec.eq_of_toNat_eq; simp only [bv, BitVec.toNat_ofNat, Nat.reducePow]; omega
  rw [e4, e5, e6, e7]
theorem vmin (vd : VReg) (va : VReg) (vb : VReg) (ty : BitVec 4) : Statement (.vmin vd va vb ty) := by
  refine ⟨fun h => Bool.noConfusion (show false = true from h), fun _ hw => ?_⟩
  have h_vd := vd.isLt
  have h_va := va.isLt
  have h_vb := vb.isLt
  have h_ty := ty.isLt
  replace hw : (isInt ty || isFloat ty : Bool) = true := hw
  rw [show encodeA (.vmin vd va vb ty) = 1073741824 + 6 + vd.toNat * 4194304 + va.toNat * 262144 + vb.toNat * 16384 + ty.toNat * 1024 from rfl]
  obtain ⟨w, hW⟩ : ∃ w, w = 1073741824 + 6 + vd.toNat * 4194304 + va.toNat * 262144 + vb.toNat * 16384 + ty.toNat * 1024 := ⟨_, rfl⟩
  rw [← hW]
  have e1 : fld w 31 26 = 16 := by simp only [fld, Nat.reducePow, Nat.reduceSub, Nat.reduceAdd]; omega
  have f1 : decodeA w = decA16 w := by unfold decodeA; rw [e1]; try rfl
  have e2 : fld w 5 0 = 6 := by simp only [fld, Nat.reducePow, Nat.reduceSub, Nat.reduceAdd]; omega
  have f2 : decA16 w = if tyIF (fld w 13 10) then .instr (.vmin (bv 4 w 22) (bv 4 w 18) (bv 4 w 14) (bv 4 w 10)) else .bad .operand := by unfold decA16; rw [e2]; try rfl
  rw [f1, f2]
  have e3 : fld w 13 10 = ty.toNat := by simp only [fld, Nat.reducePow, Nat.reduceSub, Nat.reduceAdd]; omega
  rw [if_pos (show tyIF (fld w 13 10) from by rw [e3]; first | done | exact hw)]
  have e4 : bv 4 w 22 = vd := by apply BitVec.eq_of_toNat_eq; simp only [bv, BitVec.toNat_ofNat, Nat.reducePow]; omega
  have e5 : bv 4 w 18 = va := by apply BitVec.eq_of_toNat_eq; simp only [bv, BitVec.toNat_ofNat, Nat.reducePow]; omega
  have e6 : bv 4 w 14 = vb := by apply BitVec.eq_of_toNat_eq; simp only [bv, BitVec.toNat_ofNat, Nat.reducePow]; omega
  have e7 : bv 4 w 10 = ty := by apply BitVec.eq_of_toNat_eq; simp only [bv, BitVec.toNat_ofNat, Nat.reducePow]; omega
  rw [e4, e5, e6, e7]
theorem vmax (vd : VReg) (va : VReg) (vb : VReg) (ty : BitVec 4) : Statement (.vmax vd va vb ty) := by
  refine ⟨fun h => Bool.noConfusion (show false = true from h), fun _ hw => ?_⟩
  have h_vd := vd.isLt
  have h_va := va.isLt
  have h_vb := vb.isLt
  have h_ty := ty.isLt
  replace hw : (isInt ty || isFloat ty : Bool) = true := hw
  rw [show encodeA (.vmax vd va vb ty) = 1073741824 + 7 + vd.toNat * 4194304 + va.toNat * 262144 + vb.toNat * 16384 + ty.toNat * 1024 from rfl]
  obtain ⟨w, hW⟩ : ∃ w, w = 1073741824 + 7 + vd.toNat * 4194304 + va.toNat * 262144 + vb.toNat * 16384 + ty.toNat * 1024 := ⟨_, rfl⟩
  rw [← hW]
  have e1 : fld w 31 26 = 16 := by simp only [fld, Nat.reducePow, Nat.reduceSub, Nat.reduceAdd]; omega
  have f1 : decodeA w = decA16 w := by unfold decodeA; rw [e1]; try rfl
  have e2 : fld w 5 0 = 7 := by simp only [fld, Nat.reducePow, Nat.reduceSub, Nat.reduceAdd]; omega
  have f2 : decA16 w = if tyIF (fld w 13 10) then .instr (.vmax (bv 4 w 22) (bv 4 w 18) (bv 4 w 14) (bv 4 w 10)) else .bad .operand := by unfold decA16; rw [e2]; try rfl
  rw [f1, f2]
  have e3 : fld w 13 10 = ty.toNat := by simp only [fld, Nat.reducePow, Nat.reduceSub, Nat.reduceAdd]; omega
  rw [if_pos (show tyIF (fld w 13 10) from by rw [e3]; first | done | exact hw)]
  have e4 : bv 4 w 22 = vd := by apply BitVec.eq_of_toNat_eq; simp only [bv, BitVec.toNat_ofNat, Nat.reducePow]; omega
  have e5 : bv 4 w 18 = va := by apply BitVec.eq_of_toNat_eq; simp only [bv, BitVec.toNat_ofNat, Nat.reducePow]; omega
  have e6 : bv 4 w 14 = vb := by apply BitVec.eq_of_toNat_eq; simp only [bv, BitVec.toNat_ofNat, Nat.reducePow]; omega
  have e7 : bv 4 w 10 = ty := by apply BitVec.eq_of_toNat_eq; simp only [bv, BitVec.toNat_ofNat, Nat.reducePow]; omega
  rw [e4, e5, e6, e7]
theorem vabs (vd : VReg) (va : VReg) (ty : BitVec 4) : Statement (.vabs vd va ty) := by
  refine ⟨fun h => Bool.noConfusion (show false = true from h), fun _ hw => ?_⟩
  have h_vd := vd.isLt
  have h_va := va.isLt
  have h_ty := ty.isLt
  replace hw : (isInt ty || isFloat ty : Bool) = true := hw
  rw [show encodeA (.vabs vd va ty) = 1073741824 + 8 + vd.toNat * 4194304 + va.toNat * 262144 + ty.toNat * 1024 from rfl]
  obtain ⟨w, hW⟩ : ∃ w, w = 1073741824 + 8 + vd.toNat * 4194304 + va.toNat * 262144 + ty.toNat * 1024 := ⟨_, rfl⟩
  rw [← hW]
  have e1 : fld w 31 26 = 16 := by simp only [fld, Nat.reducePow, Nat.reduceSub, Nat.reduceAdd]; omega
  have f1 : decodeA w = decA16 w := by unfold decodeA; rw [e1]; try rfl
  have e2 : fld w 5 0 = 8 := by simp only [fld, Nat.reducePow, Nat.reduceSub, Nat.reduceAdd]; omega
  have f2 : decA16 w = if tyIF (fld w 13 10) then .instr (.vabs (bv 4 w 22) (bv 4 w 18) (bv 4 w 10)) else .bad .operand := by unfold decA16; rw [e2]; try rfl
  rw [f1, f2]
  have e3 : fld w 13 10 = ty.toNat := by simp only [fld, Nat.reducePow, Nat.reduceSub, Nat.reduceAdd]; omega
  rw [if_pos (show tyIF (fld w 13 10) from by rw [e3]; first | done | exact hw)]
  have e4 : bv 4 w 22 = vd := by apply BitVec.eq_of_toNat_eq; simp only [bv, BitVec.toNat_ofNat, Nat.reducePow]; omega
  have e5 : bv 4 w 18 = va := by apply BitVec.eq_of_toNat_eq; simp only [bv, BitVec.toNat_ofNat, Nat.reducePow]; omega
  have e6 : bv 4 w 10 = ty := by apply BitVec.eq_of_toNat_eq; simp only [bv, BitVec.toNat_ofNat, Nat.reducePow]; omega
  rw [e4, e5, e6]
theorem vneg (vd : VReg) (va : VReg) (ty : BitVec 4) : Statement (.vneg vd va ty) := by
  refine ⟨fun h => Bool.noConfusion (show false = true from h), fun _ hw => ?_⟩
  have h_vd := vd.isLt
  have h_va := va.isLt
  have h_ty := ty.isLt
  replace hw : (isInt ty || isFloat ty : Bool) = true := hw
  rw [show encodeA (.vneg vd va ty) = 1073741824 + 9 + vd.toNat * 4194304 + va.toNat * 262144 + ty.toNat * 1024 from rfl]
  obtain ⟨w, hW⟩ : ∃ w, w = 1073741824 + 9 + vd.toNat * 4194304 + va.toNat * 262144 + ty.toNat * 1024 := ⟨_, rfl⟩
  rw [← hW]
  have e1 : fld w 31 26 = 16 := by simp only [fld, Nat.reducePow, Nat.reduceSub, Nat.reduceAdd]; omega
  have f1 : decodeA w = decA16 w := by unfold decodeA; rw [e1]; try rfl
  have e2 : fld w 5 0 = 9 := by simp only [fld, Nat.reducePow, Nat.reduceSub, Nat.reduceAdd]; omega
  have f2 : decA16 w = if tyIF (fld w 13 10) then .instr (.vneg (bv 4 w 22) (bv 4 w 18) (bv 4 w 10)) else .bad .operand := by unfold decA16; rw [e2]; try rfl
  rw [f1, f2]
  have e3 : fld w 13 10 = ty.toNat := by simp only [fld, Nat.reducePow, Nat.reduceSub, Nat.reduceAdd]; omega
  rw [if_pos (show tyIF (fld w 13 10) from by rw [e3]; first | done | exact hw)]
  have e4 : bv 4 w 22 = vd := by apply BitVec.eq_of_toNat_eq; simp only [bv, BitVec.toNat_ofNat, Nat.reducePow]; omega
  have e5 : bv 4 w 18 = va := by apply BitVec.eq_of_toNat_eq; simp only [bv, BitVec.toNat_ofNat, Nat.reducePow]; omega
  have e6 : bv 4 w 10 = ty := by apply BitVec.eq_of_toNat_eq; simp only [bv, BitVec.toNat_ofNat, Nat.reducePow]; omega
  rw [e4, e5, e6]
theorem vand (vd : VReg) (va : VReg) (vb : VReg) (ty : BitVec 4) : Statement (.vand vd va vb ty) := by
  refine ⟨fun h => Bool.noConfusion (show false = true from h), fun _ hw => ?_⟩
  have h_vd := vd.isLt
  have h_va := va.isLt
  have h_vb := vb.isLt
  have h_ty := ty.isLt
  rw [show encodeA (.vand vd va vb ty) = 1073741824 + 10 + vd.toNat * 4194304 + va.toNat * 262144 + vb.toNat * 16384 + ty.toNat * 1024 from rfl]
  obtain ⟨w, hW⟩ : ∃ w, w = 1073741824 + 10 + vd.toNat * 4194304 + va.toNat * 262144 + vb.toNat * 16384 + ty.toNat * 1024 := ⟨_, rfl⟩
  rw [← hW]
  have e1 : fld w 31 26 = 16 := by simp only [fld, Nat.reducePow, Nat.reduceSub, Nat.reduceAdd]; omega
  have f1 : decodeA w = decA16 w := by unfold decodeA; rw [e1]; try rfl
  have e2 : fld w 5 0 = 10 := by simp only [fld, Nat.reducePow, Nat.reduceSub, Nat.reduceAdd]; omega
  have f2 : decA16 w = .instr (.vand (bv 4 w 22) (bv 4 w 18) (bv 4 w 14) (bv 4 w 10)) := by unfold decA16; rw [e2]; try rfl
  rw [f1, f2]
  have e3 : bv 4 w 22 = vd := by apply BitVec.eq_of_toNat_eq; simp only [bv, BitVec.toNat_ofNat, Nat.reducePow]; omega
  have e4 : bv 4 w 18 = va := by apply BitVec.eq_of_toNat_eq; simp only [bv, BitVec.toNat_ofNat, Nat.reducePow]; omega
  have e5 : bv 4 w 14 = vb := by apply BitVec.eq_of_toNat_eq; simp only [bv, BitVec.toNat_ofNat, Nat.reducePow]; omega
  have e6 : bv 4 w 10 = ty := by apply BitVec.eq_of_toNat_eq; simp only [bv, BitVec.toNat_ofNat, Nat.reducePow]; omega
  rw [e3, e4, e5, e6]
theorem vor (vd : VReg) (va : VReg) (vb : VReg) (ty : BitVec 4) : Statement (.vor vd va vb ty) := by
  refine ⟨fun h => Bool.noConfusion (show false = true from h), fun _ hw => ?_⟩
  have h_vd := vd.isLt
  have h_va := va.isLt
  have h_vb := vb.isLt
  have h_ty := ty.isLt
  rw [show encodeA (.vor vd va vb ty) = 1073741824 + 11 + vd.toNat * 4194304 + va.toNat * 262144 + vb.toNat * 16384 + ty.toNat * 1024 from rfl]
  obtain ⟨w, hW⟩ : ∃ w, w = 1073741824 + 11 + vd.toNat * 4194304 + va.toNat * 262144 + vb.toNat * 16384 + ty.toNat * 1024 := ⟨_, rfl⟩
  rw [← hW]
  have e1 : fld w 31 26 = 16 := by simp only [fld, Nat.reducePow, Nat.reduceSub, Nat.reduceAdd]; omega
  have f1 : decodeA w = decA16 w := by unfold decodeA; rw [e1]; try rfl
  have e2 : fld w 5 0 = 11 := by simp only [fld, Nat.reducePow, Nat.reduceSub, Nat.reduceAdd]; omega
  have f2 : decA16 w = .instr (.vor (bv 4 w 22) (bv 4 w 18) (bv 4 w 14) (bv 4 w 10)) := by unfold decA16; rw [e2]; try rfl
  rw [f1, f2]
  have e3 : bv 4 w 22 = vd := by apply BitVec.eq_of_toNat_eq; simp only [bv, BitVec.toNat_ofNat, Nat.reducePow]; omega
  have e4 : bv 4 w 18 = va := by apply BitVec.eq_of_toNat_eq; simp only [bv, BitVec.toNat_ofNat, Nat.reducePow]; omega
  have e5 : bv 4 w 14 = vb := by apply BitVec.eq_of_toNat_eq; simp only [bv, BitVec.toNat_ofNat, Nat.reducePow]; omega
  have e6 : bv 4 w 10 = ty := by apply BitVec.eq_of_toNat_eq; simp only [bv, BitVec.toNat_ofNat, Nat.reducePow]; omega
  rw [e3, e4, e5, e6]
theorem vxor (vd : VReg) (va : VReg) (vb : VReg) (ty : BitVec 4) : Statement (.vxor vd va vb ty) := by
  refine ⟨fun h => Bool.noConfusion (show false = true from h), fun _ hw => ?_⟩
  have h_vd := vd.isLt
  have h_va := va.isLt
  have h_vb := vb.isLt
  have h_ty := ty.isLt
  rw [show encodeA (.vxor vd va vb ty) = 1073741824 + 12 + vd.toNat * 4194304 + va.toNat * 262144 + vb.toNat * 16384 + ty.toNat * 1024 from rfl]
  obtain ⟨w, hW⟩ : ∃ w, w = 1073741824 + 12 + vd.toNat * 4194304 + va.toNat * 262144 + vb.toNat * 16384 + ty.toNat * 1024 := ⟨_, rfl⟩
  rw [← hW]
  have e1 : fld w 31 26 = 16 := by simp only [fld, Nat.reducePow, Nat.reduceSub, Nat.reduceAdd]; omega
  have f1 : decodeA w = decA16 w := by unfold decodeA; rw [e1]; try rfl
  have e2 : fld w 5 0 = 12 := by simp only [fld, Nat.reducePow, Nat.reduceSub, Nat.reduceAdd]; omega
  have f2 : decA16 w = .instr (.vxor (bv 4 w 22) (bv 4 w 18) (bv 4 w 14) (bv 4 w 10)) := by unfold decA16; rw [e2]; try rfl
  rw [f1, f2]
  have e3 : bv 4 w 22 = vd := by apply BitVec.eq_of_toNat_eq; simp only [bv, BitVec.toNat_ofNat, Nat.reducePow]; omega
  have e4 : bv 4 w 18 = va := by apply BitVec.eq_of_toNat_eq; simp only [bv, BitVec.toNat_ofNat, Nat.reducePow]; omega
  have e5 : bv 4 w 14 = vb := by apply BitVec.eq_of_toNat_eq; simp only [bv, BitVec.toNat_ofNat, Nat.reducePow]; omega
  have e6 : bv 4 w 10 = ty := by apply BitVec.eq_of_toNat_eq; simp only [bv, BitVec.toNat_ofNat, Nat.reducePow]; omega
  rw [e3, e4, e5, e6]
theorem vandn (vd : VReg) (va : VReg) (vb : VReg) (ty : BitVec 4) : Statement (.vandn vd va vb ty) := by
  refine ⟨fun h => Bool.noConfusion (show false = true from h), fun _ hw => ?_⟩
  have h_vd := vd.isLt
  have h_va := va.isLt
  have h_vb := vb.isLt
  have h_ty := ty.isLt
  rw [show encodeA (.vandn vd va vb ty) = 1073741824 + 13 + vd.toNat * 4194304 + va.toNat * 262144 + vb.toNat * 16384 + ty.toNat * 1024 from rfl]
  obtain ⟨w, hW⟩ : ∃ w, w = 1073741824 + 13 + vd.toNat * 4194304 + va.toNat * 262144 + vb.toNat * 16384 + ty.toNat * 1024 := ⟨_, rfl⟩
  rw [← hW]
  have e1 : fld w 31 26 = 16 := by simp only [fld, Nat.reducePow, Nat.reduceSub, Nat.reduceAdd]; omega
  have f1 : decodeA w = decA16 w := by unfold decodeA; rw [e1]; try rfl
  have e2 : fld w 5 0 = 13 := by simp only [fld, Nat.reducePow, Nat.reduceSub, Nat.reduceAdd]; omega
  have f2 : decA16 w = .instr (.vandn (bv 4 w 22) (bv 4 w 18) (bv 4 w 14) (bv 4 w 10)) := by unfold decA16; rw [e2]; try rfl
  rw [f1, f2]
  have e3 : bv 4 w 22 = vd := by apply BitVec.eq_of_toNat_eq; simp only [bv, BitVec.toNat_ofNat, Nat.reducePow]; omega
  have e4 : bv 4 w 18 = va := by apply BitVec.eq_of_toNat_eq; simp only [bv, BitVec.toNat_ofNat, Nat.reducePow]; omega
  have e5 : bv 4 w 14 = vb := by apply BitVec.eq_of_toNat_eq; simp only [bv, BitVec.toNat_ofNat, Nat.reducePow]; omega
  have e6 : bv 4 w 10 = ty := by apply BitVec.eq_of_toNat_eq; simp only [bv, BitVec.toNat_ofNat, Nat.reducePow]; omega
  rw [e3, e4, e5, e6]
theorem vshl (vd : VReg) (va : VReg) (vb : VReg) (ty : BitVec 4) : Statement (.vshl vd va vb ty) := by
  refine ⟨fun h => Bool.noConfusion (show false = true from h), fun _ hw => ?_⟩
  have h_vd := vd.isLt
  have h_va := va.isLt
  have h_vb := vb.isLt
  have h_ty := ty.isLt
  replace hw : (isInt ty : Bool) = true := hw
  rw [show encodeA (.vshl vd va vb ty) = 1073741824 + 14 + vd.toNat * 4194304 + va.toNat * 262144 + vb.toNat * 16384 + ty.toNat * 1024 from rfl]
  obtain ⟨w, hW⟩ : ∃ w, w = 1073741824 + 14 + vd.toNat * 4194304 + va.toNat * 262144 + vb.toNat * 16384 + ty.toNat * 1024 := ⟨_, rfl⟩
  rw [← hW]
  have e1 : fld w 31 26 = 16 := by simp only [fld, Nat.reducePow, Nat.reduceSub, Nat.reduceAdd]; omega
  have f1 : decodeA w = decA16 w := by unfold decodeA; rw [e1]; try rfl
  have e2 : fld w 5 0 = 14 := by simp only [fld, Nat.reducePow, Nat.reduceSub, Nat.reduceAdd]; omega
  have f2 : decA16 w = if tyI (fld w 13 10) then .instr (.vshl (bv 4 w 22) (bv 4 w 18) (bv 4 w 14) (bv 4 w 10)) else .bad .operand := by unfold decA16; rw [e2]; try rfl
  rw [f1, f2]
  have e3 : fld w 13 10 = ty.toNat := by simp only [fld, Nat.reducePow, Nat.reduceSub, Nat.reduceAdd]; omega
  rw [if_pos (show tyI (fld w 13 10) from by rw [e3]; first | done | exact hw)]
  have e4 : bv 4 w 22 = vd := by apply BitVec.eq_of_toNat_eq; simp only [bv, BitVec.toNat_ofNat, Nat.reducePow]; omega
  have e5 : bv 4 w 18 = va := by apply BitVec.eq_of_toNat_eq; simp only [bv, BitVec.toNat_ofNat, Nat.reducePow]; omega
  have e6 : bv 4 w 14 = vb := by apply BitVec.eq_of_toNat_eq; simp only [bv, BitVec.toNat_ofNat, Nat.reducePow]; omega
  have e7 : bv 4 w 10 = ty := by apply BitVec.eq_of_toNat_eq; simp only [bv, BitVec.toNat_ofNat, Nat.reducePow]; omega
  rw [e4, e5, e6, e7]
theorem vshr (vd : VReg) (va : VReg) (vb : VReg) (ty : BitVec 4) : Statement (.vshr vd va vb ty) := by
  refine ⟨fun h => Bool.noConfusion (show false = true from h), fun _ hw => ?_⟩
  have h_vd := vd.isLt
  have h_va := va.isLt
  have h_vb := vb.isLt
  have h_ty := ty.isLt
  replace hw : (isInt ty : Bool) = true := hw
  rw [show encodeA (.vshr vd va vb ty) = 1073741824 + 15 + vd.toNat * 4194304 + va.toNat * 262144 + vb.toNat * 16384 + ty.toNat * 1024 from rfl]
  obtain ⟨w, hW⟩ : ∃ w, w = 1073741824 + 15 + vd.toNat * 4194304 + va.toNat * 262144 + vb.toNat * 16384 + ty.toNat * 1024 := ⟨_, rfl⟩
  rw [← hW]
  have e1 : fld w 31 26 = 16 := by simp only [fld, Nat.reducePow, Nat.reduceSub, Nat.reduceAdd]; omega
  have f1 : decodeA w = decA16 w := by unfold decodeA; rw [e1]; try rfl
  have e2 : fld w 5 0 = 15 := by simp only [fld, Nat.reducePow, Nat.reduceSub, Nat.reduceAdd]; omega
  have f2 : decA16 w = if tyI (fld w 13 10) then .instr (.vshr (bv 4 w 22) (bv 4 w 18) (bv 4 w 14) (bv 4 w 10)) else .bad .operand := by unfold decA16; rw [e2]; try rfl
  rw [f1, f2]
  have e3 : fld w 13 10 = ty.toNat := by simp only [fld, Nat.reducePow, Nat.reduceSub, Nat.reduceAdd]; omega
  rw [if_pos (show tyI (fld w 13 10) from by rw [e3]; first | done | exact hw)]
  have e4 : bv 4 w 22 = vd := by apply BitVec.eq_of_toNat_eq; simp only [bv, BitVec.toNat_ofNat, Nat.reducePow]; omega
  have e5 : bv 4 w 18 = va := by apply BitVec.eq_of_toNat_eq; simp only [bv, BitVec.toNat_ofNat, Nat.reducePow]; omega
  have e6 : bv 4 w 14 = vb := by apply BitVec.eq_of_toNat_eq; simp only [bv, BitVec.toNat_ofNat, Nat.reducePow]; omega
  have e7 : bv 4 w 10 = ty := by apply BitVec.eq_of_toNat_eq; simp only [bv, BitVec.toNat_ofNat, Nat.reducePow]; omega
  rw [e4, e5, e6, e7]
theorem vsar (vd : VReg) (va : VReg) (vb : VReg) (ty : BitVec 4) : Statement (.vsar vd va vb ty) := by
  refine ⟨fun h => Bool.noConfusion (show false = true from h), fun _ hw => ?_⟩
  have h_vd := vd.isLt
  have h_va := va.isLt
  have h_vb := vb.isLt
  have h_ty := ty.isLt
  replace hw : (isInt ty : Bool) = true := hw
  rw [show encodeA (.vsar vd va vb ty) = 1073741824 + 16 + vd.toNat * 4194304 + va.toNat * 262144 + vb.toNat * 16384 + ty.toNat * 1024 from rfl]
  obtain ⟨w, hW⟩ : ∃ w, w = 1073741824 + 16 + vd.toNat * 4194304 + va.toNat * 262144 + vb.toNat * 16384 + ty.toNat * 1024 := ⟨_, rfl⟩
  rw [← hW]
  have e1 : fld w 31 26 = 16 := by simp only [fld, Nat.reducePow, Nat.reduceSub, Nat.reduceAdd]; omega
  have f1 : decodeA w = decA16 w := by unfold decodeA; rw [e1]; try rfl
  have e2 : fld w 5 0 = 16 := by simp only [fld, Nat.reducePow, Nat.reduceSub, Nat.reduceAdd]; omega
  have f2 : decA16 w = if tyI (fld w 13 10) then .instr (.vsar (bv 4 w 22) (bv 4 w 18) (bv 4 w 14) (bv 4 w 10)) else .bad .operand := by unfold decA16; rw [e2]; try rfl
  rw [f1, f2]
  have e3 : fld w 13 10 = ty.toNat := by simp only [fld, Nat.reducePow, Nat.reduceSub, Nat.reduceAdd]; omega
  rw [if_pos (show tyI (fld w 13 10) from by rw [e3]; first | done | exact hw)]
  have e4 : bv 4 w 22 = vd := by apply BitVec.eq_of_toNat_eq; simp only [bv, BitVec.toNat_ofNat, Nat.reducePow]; omega
  have e5 : bv 4 w 18 = va := by apply BitVec.eq_of_toNat_eq; simp only [bv, BitVec.toNat_ofNat, Nat.reducePow]; omega
  have e6 : bv 4 w 14 = vb := by apply BitVec.eq_of_toNat_eq; simp only [bv, BitVec.toNat_ofNat, Nat.reducePow]; omega
  have e7 : bv 4 w 10 = ty := by apply BitVec.eq_of_toNat_eq; simp only [bv, BitVec.toNat_ofNat, Nat.reducePow]; omega
  rw [e4, e5, e6, e7]
theorem vcmp (vd : VReg) (va : VReg) (vb : VReg) (ty : BitVec 4) (cc : BitVec 3) : Statement (.vcmp vd va vb ty cc) := by
  refine ⟨fun h => Bool.noConfusion (show false = true from h), fun _ hw => ?_⟩
  have h_vd := vd.isLt
  have h_va := va.isLt
  have h_vb := vb.isLt
  have h_ty := ty.isLt
  have h_cc := cc.isLt
  replace hw : ((ty.toNat ≤ 7 && cc.toNat ≤ 5) || (isFloat ty && cc.toNat ≤ 3) : Bool) = true := hw
  rw [show encodeA (.vcmp vd va vb ty cc) = 1073741824 + 17 + vd.toNat * 4194304 + va.toNat * 262144 + vb.toNat * 16384 + ty.toNat * 1024 + cc.toNat * 64 from rfl]
  obtain ⟨w, hW⟩ : ∃ w, w = 1073741824 + 17 + vd.toNat * 4194304 + va.toNat * 262144 + vb.toNat * 16384 + ty.toNat * 1024 + cc.toNat * 64 := ⟨_, rfl⟩
  rw [← hW]
  have e1 : fld w 31 26 = 16 := by simp only [fld, Nat.reducePow, Nat.reduceSub, Nat.reduceAdd]; omega
  have f1 : decodeA w = decA16 w := by unfold decodeA; rw [e1]; try rfl
  have e2 : fld w 5 0 = 17 := by simp only [fld, Nat.reducePow, Nat.reduceSub, Nat.reduceAdd]; omega
  have f2 : decA16 w = if fld w 9 9 = 0 then (if cmpOk (fld w 13 10) (fld w 8 6) then .instr (.vcmp (bv 4 w 22) (bv 4 w 18) (bv 4 w 14) (bv 4 w 10) (bv 3 w 6)) else .bad .operand) else .bad .operand := by unfold decA16; rw [e2]; try rfl
  rw [f1, f2]
  have e3 : fld w 9 9 = 0 := by simp only [fld, Nat.reducePow, Nat.reduceSub, Nat.reduceAdd]; omega
  rw [if_pos (show fld w 9 9 = 0 from by rw [e3]; first | done | decide | (simp at hw ⊢; omega) | (simp [tyBF] at hw ⊢; omega))]
  have e4 : fld w 13 10 = ty.toNat := by simp only [fld, Nat.reducePow, Nat.reduceSub, Nat.reduceAdd]; omega
  have e5 : fld w 8 6 = cc.toNat := by simp only [fld, Nat.reducePow, Nat.reduceSub, Nat.reduceAdd]; omega
  rw [if_pos (show cmpOk (fld w 13 10) (fld w 8 6) from by rw [e4, e5]; first | done | exact hw)]
  have e6 : bv 4 w 22 = vd := by apply BitVec.eq_of_toNat_eq; simp only [bv, BitVec.toNat_ofNat, Nat.reducePow]; omega
  have e7 : bv 4 w 18 = va := by apply BitVec.eq_of_toNat_eq; simp only [bv, BitVec.toNat_ofNat, Nat.reducePow]; omega
  have e8 : bv 4 w 14 = vb := by apply BitVec.eq_of_toNat_eq; simp only [bv, BitVec.toNat_ofNat, Nat.reducePow]; omega
  have e9 : bv 4 w 10 = ty := by apply BitVec.eq_of_toNat_eq; simp only [bv, BitVec.toNat_ofNat, Nat.reducePow]; omega
  have e10 : bv 3 w 6 = cc := by apply BitVec.eq_of_toNat_eq; simp only [bv, BitVec.toNat_ofNat, Nat.reducePow]; omega
  rw [e6, e7, e8, e9, e10]
theorem vsel (vd : VReg) (va : VReg) (vb : VReg) (ty : BitVec 4) (vm : VReg) : Statement (.vsel vd va vb ty vm) := by
  refine ⟨fun h => Bool.noConfusion (show false = true from h), fun _ hw => ?_⟩
  have h_vd := vd.isLt
  have h_va := va.isLt
  have h_vb := vb.isLt
  have h_ty := ty.isLt
  have h_vm := vm.isLt
  rw [show encodeA (.vsel vd va vb ty vm) = 1073741824 + 18 + vd.toNat * 4194304 + va.toNat * 262144 + vb.toNat * 16384 + ty.toNat * 1024 + vm.toNat * 64 from rfl]
  obtain ⟨w, hW⟩ : ∃ w, w = 1073741824 + 18 + vd.toNat * 4194304 + va.toNat * 262144 + vb.toNat * 16384 + ty.toNat * 1024 + vm.toNat * 64 := ⟨_, rfl⟩
  rw [← hW]
  have e1 : fld w 31 26 = 16 := by simp only [fld, Nat.reducePow, Nat.reduceSub, Nat.reduceAdd]; omega
  have f1 : decodeA w = decA16 w := by unfold decodeA; rw [e1]; try rfl
  have e2 : fld w 5 0 = 18 := by simp only [fld, Nat.reducePow, Nat.reduceSub, Nat.reduceAdd]; omega
  have f2 : decA16 w = .instr (.vsel (bv 4 w 22) (bv 4 w 18) (bv 4 w 14) (bv 4 w 10) (bv 4 w 6)) := by unfold decA16; rw [e2]; try rfl
  rw [f1, f2]
  have e3 : bv 4 w 22 = vd := by apply BitVec.eq_of_toNat_eq; simp only [bv, BitVec.toNat_ofNat, Nat.reducePow]; omega
  have e4 : bv 4 w 18 = va := by apply BitVec.eq_of_toNat_eq; simp only [bv, BitVec.toNat_ofNat, Nat.reducePow]; omega
  have e5 : bv 4 w 14 = vb := by apply BitVec.eq_of_toNat_eq; simp only [bv, BitVec.toNat_ofNat, Nat.reducePow]; omega
  have e6 : bv 4 w 10 = ty := by apply BitVec.eq_of_toNat_eq; simp only [bv, BitVec.toNat_ofNat, Nat.reducePow]; omega
  have e7 : bv 4 w 6 = vm := by apply BitVec.eq_of_toNat_eq; simp only [bv, BitVec.toNat_ofNat, Nat.reducePow]; omega
  rw [e3, e4, e5, e6, e7]
theorem vmand (vd : VReg) (va : VReg) (vb : VReg) (ty : BitVec 4) : Statement (.vmand vd va vb ty) := by
  refine ⟨fun h => Bool.noConfusion (show false = true from h), fun _ hw => ?_⟩
  have h_vd := vd.isLt
  have h_va := va.isLt
  have h_vb := vb.isLt
  have h_ty := ty.isLt
  rw [show encodeA (.vmand vd va vb ty) = 1073741824 + 19 + vd.toNat * 4194304 + va.toNat * 262144 + vb.toNat * 16384 + ty.toNat * 1024 from rfl]
  obtain ⟨w, hW⟩ : ∃ w, w = 1073741824 + 19 + vd.toNat * 4194304 + va.toNat * 262144 + vb.toNat * 16384 + ty.toNat * 1024 := ⟨_, rfl⟩
  rw [← hW]
  have e1 : fld w 31 26 = 16 := by simp only [fld, Nat.reducePow, Nat.reduceSub, Nat.reduceAdd]; omega
  have f1 : decodeA w = decA16 w := by unfold decodeA; rw [e1]; try rfl
  have e2 : fld w 5 0 = 19 := by simp only [fld, Nat.reducePow, Nat.reduceSub, Nat.reduceAdd]; omega
  have f2 : decA16 w = .instr (.vmand (bv 4 w 22) (bv 4 w 18) (bv 4 w 14) (bv 4 w 10)) := by unfold decA16; rw [e2]; try rfl
  rw [f1, f2]
  have e3 : bv 4 w 22 = vd := by apply BitVec.eq_of_toNat_eq; simp only [bv, BitVec.toNat_ofNat, Nat.reducePow]; omega
  have e4 : bv 4 w 18 = va := by apply BitVec.eq_of_toNat_eq; simp only [bv, BitVec.toNat_ofNat, Nat.reducePow]; omega
  have e5 : bv 4 w 14 = vb := by apply BitVec.eq_of_toNat_eq; simp only [bv, BitVec.toNat_ofNat, Nat.reducePow]; omega
  have e6 : bv 4 w 10 = ty := by apply BitVec.eq_of_toNat_eq; simp only [bv, BitVec.toNat_ofNat, Nat.reducePow]; omega
  rw [e3, e4, e5, e6]
theorem vmor (vd : VReg) (va : VReg) (vb : VReg) (ty : BitVec 4) : Statement (.vmor vd va vb ty) := by
  refine ⟨fun h => Bool.noConfusion (show false = true from h), fun _ hw => ?_⟩
  have h_vd := vd.isLt
  have h_va := va.isLt
  have h_vb := vb.isLt
  have h_ty := ty.isLt
  rw [show encodeA (.vmor vd va vb ty) = 1073741824 + 20 + vd.toNat * 4194304 + va.toNat * 262144 + vb.toNat * 16384 + ty.toNat * 1024 from rfl]
  obtain ⟨w, hW⟩ : ∃ w, w = 1073741824 + 20 + vd.toNat * 4194304 + va.toNat * 262144 + vb.toNat * 16384 + ty.toNat * 1024 := ⟨_, rfl⟩
  rw [← hW]
  have e1 : fld w 31 26 = 16 := by simp only [fld, Nat.reducePow, Nat.reduceSub, Nat.reduceAdd]; omega
  have f1 : decodeA w = decA16 w := by unfold decodeA; rw [e1]; try rfl
  have e2 : fld w 5 0 = 20 := by simp only [fld, Nat.reducePow, Nat.reduceSub, Nat.reduceAdd]; omega
  have f2 : decA16 w = .instr (.vmor (bv 4 w 22) (bv 4 w 18) (bv 4 w 14) (bv 4 w 10)) := by unfold decA16; rw [e2]; try rfl
  rw [f1, f2]
  have e3 : bv 4 w 22 = vd := by apply BitVec.eq_of_toNat_eq; simp only [bv, BitVec.toNat_ofNat, Nat.reducePow]; omega
  have e4 : bv 4 w 18 = va := by apply BitVec.eq_of_toNat_eq; simp only [bv, BitVec.toNat_ofNat, Nat.reducePow]; omega
  have e5 : bv 4 w 14 = vb := by apply BitVec.eq_of_toNat_eq; simp only [bv, BitVec.toNat_ofNat, Nat.reducePow]; omega
  have e6 : bv 4 w 10 = ty := by apply BitVec.eq_of_toNat_eq; simp only [bv, BitVec.toNat_ofNat, Nat.reducePow]; omega
  rw [e3, e4, e5, e6]
theorem vmnot (vd : VReg) (va : VReg) (ty : BitVec 4) : Statement (.vmnot vd va ty) := by
  refine ⟨fun h => Bool.noConfusion (show false = true from h), fun _ hw => ?_⟩
  have h_vd := vd.isLt
  have h_va := va.isLt
  have h_ty := ty.isLt
  rw [show encodeA (.vmnot vd va ty) = 1073741824 + 21 + vd.toNat * 4194304 + va.toNat * 262144 + ty.toNat * 1024 from rfl]
  obtain ⟨w, hW⟩ : ∃ w, w = 1073741824 + 21 + vd.toNat * 4194304 + va.toNat * 262144 + ty.toNat * 1024 := ⟨_, rfl⟩
  rw [← hW]
  have e1 : fld w 31 26 = 16 := by simp only [fld, Nat.reducePow, Nat.reduceSub, Nat.reduceAdd]; omega
  have f1 : decodeA w = decA16 w := by unfold decodeA; rw [e1]; try rfl
  have e2 : fld w 5 0 = 21 := by simp only [fld, Nat.reducePow, Nat.reduceSub, Nat.reduceAdd]; omega
  have f2 : decA16 w = .instr (.vmnot (bv 4 w 22) (bv 4 w 18) (bv 4 w 10)) := by unfold decA16; rw [e2]; try rfl
  rw [f1, f2]
  have e3 : bv 4 w 22 = vd := by apply BitVec.eq_of_toNat_eq; simp only [bv, BitVec.toNat_ofNat, Nat.reducePow]; omega
  have e4 : bv 4 w 18 = va := by apply BitVec.eq_of_toNat_eq; simp only [bv, BitVec.toNat_ofNat, Nat.reducePow]; omega
  have e5 : bv 4 w 10 = ty := by apply BitVec.eq_of_toNat_eq; simp only [bv, BitVec.toNat_ofNat, Nat.reducePow]; omega
  rw [e3, e4, e5]
theorem vcvt (vd : VReg) (va : VReg) (ty : BitVec 4) (src : BitVec 4) : Statement (.vcvt vd va ty src) := by
  refine ⟨fun h => Bool.noConfusion (show false = true from h), fun _ hw => ?_⟩
  have h_vd := vd.isLt
  have h_va := va.isLt
  have h_ty := ty.isLt
  have h_src := src.isLt
  replace hw : (cvtForm ty src vd va : Bool) = true := hw
  rw [show encodeA (.vcvt vd va ty src) = 1073741824 + 22 + vd.toNat * 4194304 + va.toNat * 262144 + ty.toNat * 1024 + src.toNat * 64 from rfl]
  obtain ⟨w, hW⟩ : ∃ w, w = 1073741824 + 22 + vd.toNat * 4194304 + va.toNat * 262144 + ty.toNat * 1024 + src.toNat * 64 := ⟨_, rfl⟩
  rw [← hW]
  have e1 : fld w 31 26 = 16 := by simp only [fld, Nat.reducePow, Nat.reduceSub, Nat.reduceAdd]; omega
  have f1 : decodeA w = decA16 w := by unfold decodeA; rw [e1]; try rfl
  have e2 : fld w 5 0 = 22 := by simp only [fld, Nat.reducePow, Nat.reduceSub, Nat.reduceAdd]; omega
  have f2 : decA16 w = if cvtOk (fld w 13 10) (fld w 9 6) (fld w 25 22) (fld w 21 18) then .instr (.vcvt (bv 4 w 22) (bv 4 w 18) (bv 4 w 10) (bv 4 w 6)) else .bad .operand := by unfold decA16; rw [e2]; try rfl
  rw [f1, f2]
  have e3 : fld w 13 10 = ty.toNat := by simp only [fld, Nat.reducePow, Nat.reduceSub, Nat.reduceAdd]; omega
  have e4 : fld w 9 6 = src.toNat := by simp only [fld, Nat.reducePow, Nat.reduceSub, Nat.reduceAdd]; omega
  have e5 : fld w 25 22 = vd.toNat := by simp only [fld, Nat.reducePow, Nat.reduceSub, Nat.reduceAdd]; omega
  have e6 : fld w 21 18 = va.toNat := by simp only [fld, Nat.reducePow, Nat.reduceSub, Nat.reduceAdd]; omega
  rw [if_pos (show cvtOk (fld w 13 10) (fld w 9 6) (fld w 25 22) (fld w 21 18) from by rw [e3, e4, e5, e6]; first | done | exact cvtOk_of_form hw)]
  have e7 : bv 4 w 22 = vd := by apply BitVec.eq_of_toNat_eq; simp only [bv, BitVec.toNat_ofNat, Nat.reducePow]; omega
  have e8 : bv 4 w 18 = va := by apply BitVec.eq_of_toNat_eq; simp only [bv, BitVec.toNat_ofNat, Nat.reducePow]; omega
  have e9 : bv 4 w 10 = ty := by apply BitVec.eq_of_toNat_eq; simp only [bv, BitVec.toNat_ofNat, Nat.reducePow]; omega
  have e10 : bv 4 w 6 = src := by apply BitVec.eq_of_toNat_eq; simp only [bv, BitVec.toNat_ofNat, Nat.reducePow]; omega
  rw [e7, e8, e9, e10]
theorem vperm (vd : VReg) (va : VReg) (vb : VReg) (ty : BitVec 4) : Statement (.vperm vd va vb ty) := by
  refine ⟨fun h => Bool.noConfusion (show false = true from h), fun _ hw => ?_⟩
  have h_vd := vd.isLt
  have h_va := va.isLt
  have h_vb := vb.isLt
  have h_ty := ty.isLt
  replace hw : (ty.toNat != 14 : Bool) = true := hw
  rw [show encodeA (.vperm vd va vb ty) = 1073741824 + 23 + vd.toNat * 4194304 + va.toNat * 262144 + vb.toNat * 16384 + ty.toNat * 1024 from rfl]
  obtain ⟨w, hW⟩ : ∃ w, w = 1073741824 + 23 + vd.toNat * 4194304 + va.toNat * 262144 + vb.toNat * 16384 + ty.toNat * 1024 := ⟨_, rfl⟩
  rw [← hW]
  have e1 : fld w 31 26 = 16 := by simp only [fld, Nat.reducePow, Nat.reduceSub, Nat.reduceAdd]; omega
  have f1 : decodeA w = decA16 w := by unfold decodeA; rw [e1]; try rfl
  have e2 : fld w 5 0 = 23 := by simp only [fld, Nat.reducePow, Nat.reduceSub, Nat.reduceAdd]; omega
  have f2 : decA16 w = if fld w 13 10 ≠ 14 then .instr (.vperm (bv 4 w 22) (bv 4 w 18) (bv 4 w 14) (bv 4 w 10)) else .bad .operand := by unfold decA16; rw [e2]; try rfl
  rw [f1, f2]
  have e3 : fld w 13 10 = ty.toNat := by simp only [fld, Nat.reducePow, Nat.reduceSub, Nat.reduceAdd]; omega
  rw [if_pos (show fld w 13 10 ≠ 14 from by rw [e3]; first | done | decide | (simp at hw ⊢; omega) | (simp [tyBF] at hw ⊢; omega))]
  have e4 : bv 4 w 22 = vd := by apply BitVec.eq_of_toNat_eq; simp only [bv, BitVec.toNat_ofNat, Nat.reducePow]; omega
  have e5 : bv 4 w 18 = va := by apply BitVec.eq_of_toNat_eq; simp only [bv, BitVec.toNat_ofNat, Nat.reducePow]; omega
  have e6 : bv 4 w 14 = vb := by apply BitVec.eq_of_toNat_eq; simp only [bv, BitVec.toNat_ofNat, Nat.reducePow]; omega
  have e7 : bv 4 w 10 = ty := by apply BitVec.eq_of_toNat_eq; simp only [bv, BitVec.toNat_ofNat, Nat.reducePow]; omega
  rw [e4, e5, e6, e7]
theorem vrot (vd : VReg) (va : VReg) (vb : VReg) (ty : BitVec 4) : Statement (.vrot vd va vb ty) := by
  refine ⟨fun h => Bool.noConfusion (show false = true from h), fun _ hw => ?_⟩
  have h_vd := vd.isLt
  have h_va := va.isLt
  have h_vb := vb.isLt
  have h_ty := ty.isLt
  rw [show encodeA (.vrot vd va vb ty) = 1073741824 + 24 + vd.toNat * 4194304 + va.toNat * 262144 + vb.toNat * 16384 + ty.toNat * 1024 from rfl]
  obtain ⟨w, hW⟩ : ∃ w, w = 1073741824 + 24 + vd.toNat * 4194304 + va.toNat * 262144 + vb.toNat * 16384 + ty.toNat * 1024 := ⟨_, rfl⟩
  rw [← hW]
  have e1 : fld w 31 26 = 16 := by simp only [fld, Nat.reducePow, Nat.reduceSub, Nat.reduceAdd]; omega
  have f1 : decodeA w = decA16 w := by unfold decodeA; rw [e1]; try rfl
  have e2 : fld w 5 0 = 24 := by simp only [fld, Nat.reducePow, Nat.reduceSub, Nat.reduceAdd]; omega
  have f2 : decA16 w = .instr (.vrot (bv 4 w 22) (bv 4 w 18) (bv 4 w 14) (bv 4 w 10)) := by unfold decA16; rw [e2]; try rfl
  rw [f1, f2]
  have e3 : bv 4 w 22 = vd := by apply BitVec.eq_of_toNat_eq; simp only [bv, BitVec.toNat_ofNat, Nat.reducePow]; omega
  have e4 : bv 4 w 18 = va := by apply BitVec.eq_of_toNat_eq; simp only [bv, BitVec.toNat_ofNat, Nat.reducePow]; omega
  have e5 : bv 4 w 14 = vb := by apply BitVec.eq_of_toNat_eq; simp only [bv, BitVec.toNat_ofNat, Nat.reducePow]; omega
  have e6 : bv 4 w 10 = ty := by apply BitVec.eq_of_toNat_eq; simp only [bv, BitVec.toNat_ofNat, Nat.reducePow]; omega
  rw [e3, e4, e5, e6]
theorem vsum (vd : VReg) (va : VReg) (ty : BitVec 4) : Statement (.vsum vd va ty) := by
  refine ⟨fun h => Bool.noConfusion (show false = true from h), fun _ hw => ?_⟩
  have h_vd := vd.isLt
  have h_va := va.isLt
  have h_ty := ty.isLt
  replace hw : (isInt ty || isFloat ty : Bool) = true := hw
  rw [show encodeA (.vsum vd va ty) = 1073741824 + 25 + vd.toNat * 4194304 + va.toNat * 262144 + ty.toNat * 1024 from rfl]
  obtain ⟨w, hW⟩ : ∃ w, w = 1073741824 + 25 + vd.toNat * 4194304 + va.toNat * 262144 + ty.toNat * 1024 := ⟨_, rfl⟩
  rw [← hW]
  have e1 : fld w 31 26 = 16 := by simp only [fld, Nat.reducePow, Nat.reduceSub, Nat.reduceAdd]; omega
  have f1 : decodeA w = decA16 w := by unfold decodeA; rw [e1]; try rfl
  have e2 : fld w 5 0 = 25 := by simp only [fld, Nat.reducePow, Nat.reduceSub, Nat.reduceAdd]; omega
  have f2 : decA16 w = if tyIF (fld w 13 10) then .instr (.vsum (bv 4 w 22) (bv 4 w 18) (bv 4 w 10)) else .bad .operand := by unfold decA16; rw [e2]; try rfl
  rw [f1, f2]
  have e3 : fld w 13 10 = ty.toNat := by simp only [fld, Nat.reducePow, Nat.reduceSub, Nat.reduceAdd]; omega
  rw [if_pos (show tyIF (fld w 13 10) from by rw [e3]; first | done | exact hw)]
  have e4 : bv 4 w 22 = vd := by apply BitVec.eq_of_toNat_eq; simp only [bv, BitVec.toNat_ofNat, Nat.reducePow]; omega
  have e5 : bv 4 w 18 = va := by apply BitVec.eq_of_toNat_eq; simp only [bv, BitVec.toNat_ofNat, Nat.reducePow]; omega
  have e6 : bv 4 w 10 = ty := by apply BitVec.eq_of_toNat_eq; simp only [bv, BitVec.toNat_ofNat, Nat.reducePow]; omega
  rw [e4, e5, e6]
theorem vmaxr (vd : VReg) (va : VReg) (ty : BitVec 4) : Statement (.vmaxr vd va ty) := by
  refine ⟨fun h => Bool.noConfusion (show false = true from h), fun _ hw => ?_⟩
  have h_vd := vd.isLt
  have h_va := va.isLt
  have h_ty := ty.isLt
  replace hw : (isInt ty || isFloat ty : Bool) = true := hw
  rw [show encodeA (.vmaxr vd va ty) = 1073741824 + 26 + vd.toNat * 4194304 + va.toNat * 262144 + ty.toNat * 1024 from rfl]
  obtain ⟨w, hW⟩ : ∃ w, w = 1073741824 + 26 + vd.toNat * 4194304 + va.toNat * 262144 + ty.toNat * 1024 := ⟨_, rfl⟩
  rw [← hW]
  have e1 : fld w 31 26 = 16 := by simp only [fld, Nat.reducePow, Nat.reduceSub, Nat.reduceAdd]; omega
  have f1 : decodeA w = decA16 w := by unfold decodeA; rw [e1]; try rfl
  have e2 : fld w 5 0 = 26 := by simp only [fld, Nat.reducePow, Nat.reduceSub, Nat.reduceAdd]; omega
  have f2 : decA16 w = if tyIF (fld w 13 10) then .instr (.vmaxr (bv 4 w 22) (bv 4 w 18) (bv 4 w 10)) else .bad .operand := by unfold decA16; rw [e2]; try rfl
  rw [f1, f2]
  have e3 : fld w 13 10 = ty.toNat := by simp only [fld, Nat.reducePow, Nat.reduceSub, Nat.reduceAdd]; omega
  rw [if_pos (show tyIF (fld w 13 10) from by rw [e3]; first | done | exact hw)]
  have e4 : bv 4 w 22 = vd := by apply BitVec.eq_of_toNat_eq; simp only [bv, BitVec.toNat_ofNat, Nat.reducePow]; omega
  have e5 : bv 4 w 18 = va := by apply BitVec.eq_of_toNat_eq; simp only [bv, BitVec.toNat_ofNat, Nat.reducePow]; omega
  have e6 : bv 4 w 10 = ty := by apply BitVec.eq_of_toNat_eq; simp only [bv, BitVec.toNat_ofNat, Nat.reducePow]; omega
  rw [e4, e5, e6]
theorem vminr (vd : VReg) (va : VReg) (ty : BitVec 4) : Statement (.vminr vd va ty) := by
  refine ⟨fun h => Bool.noConfusion (show false = true from h), fun _ hw => ?_⟩
  have h_vd := vd.isLt
  have h_va := va.isLt
  have h_ty := ty.isLt
  replace hw : (isInt ty || isFloat ty : Bool) = true := hw
  rw [show encodeA (.vminr vd va ty) = 1073741824 + 27 + vd.toNat * 4194304 + va.toNat * 262144 + ty.toNat * 1024 from rfl]
  obtain ⟨w, hW⟩ : ∃ w, w = 1073741824 + 27 + vd.toNat * 4194304 + va.toNat * 262144 + ty.toNat * 1024 := ⟨_, rfl⟩
  rw [← hW]
  have e1 : fld w 31 26 = 16 := by simp only [fld, Nat.reducePow, Nat.reduceSub, Nat.reduceAdd]; omega
  have f1 : decodeA w = decA16 w := by unfold decodeA; rw [e1]; try rfl
  have e2 : fld w 5 0 = 27 := by simp only [fld, Nat.reducePow, Nat.reduceSub, Nat.reduceAdd]; omega
  have f2 : decA16 w = if tyIF (fld w 13 10) then .instr (.vminr (bv 4 w 22) (bv 4 w 18) (bv 4 w 10)) else .bad .operand := by unfold decA16; rw [e2]; try rfl
  rw [f1, f2]
  have e3 : fld w 13 10 = ty.toNat := by simp only [fld, Nat.reducePow, Nat.reduceSub, Nat.reduceAdd]; omega
  rw [if_pos (show tyIF (fld w 13 10) from by rw [e3]; first | done | exact hw)]
  have e4 : bv 4 w 22 = vd := by apply BitVec.eq_of_toNat_eq; simp only [bv, BitVec.toNat_ofNat, Nat.reducePow]; omega
  have e5 : bv 4 w 18 = va := by apply BitVec.eq_of_toNat_eq; simp only [bv, BitVec.toNat_ofNat, Nat.reducePow]; omega
  have e6 : bv 4 w 10 = ty := by apply BitVec.eq_of_toNat_eq; simp only [bv, BitVec.toNat_ofNat, Nat.reducePow]; omega
  rw [e4, e5, e6]
theorem vdot (vd : VReg) (va : VReg) (vb : VReg) (ty : BitVec 4) : Statement (.vdot vd va vb ty) := by
  refine ⟨fun h => Bool.noConfusion (show false = true from h), fun _ hw => ?_⟩
  have h_vd := vd.isLt
  have h_va := va.isLt
  have h_vb := vb.isLt
  have h_ty := ty.isLt
  replace hw : (isInt ty || isFloat ty : Bool) = true := hw
  rw [show encodeA (.vdot vd va vb ty) = 1073741824 + 28 + vd.toNat * 4194304 + va.toNat * 262144 + vb.toNat * 16384 + ty.toNat * 1024 from rfl]
  obtain ⟨w, hW⟩ : ∃ w, w = 1073741824 + 28 + vd.toNat * 4194304 + va.toNat * 262144 + vb.toNat * 16384 + ty.toNat * 1024 := ⟨_, rfl⟩
  rw [← hW]
  have e1 : fld w 31 26 = 16 := by simp only [fld, Nat.reducePow, Nat.reduceSub, Nat.reduceAdd]; omega
  have f1 : decodeA w = decA16 w := by unfold decodeA; rw [e1]; try rfl
  have e2 : fld w 5 0 = 28 := by simp only [fld, Nat.reducePow, Nat.reduceSub, Nat.reduceAdd]; omega
  have f2 : decA16 w = if tyIF (fld w 13 10) then .instr (.vdot (bv 4 w 22) (bv 4 w 18) (bv 4 w 14) (bv 4 w 10)) else .bad .operand := by unfold decA16; rw [e2]; try rfl
  rw [f1, f2]
  have e3 : fld w 13 10 = ty.toNat := by simp only [fld, Nat.reducePow, Nat.reduceSub, Nat.reduceAdd]; omega
  rw [if_pos (show tyIF (fld w 13 10) from by rw [e3]; first | done | exact hw)]
  have e4 : bv 4 w 22 = vd := by apply BitVec.eq_of_toNat_eq; simp only [bv, BitVec.toNat_ofNat, Nat.reducePow]; omega
  have e5 : bv 4 w 18 = va := by apply BitVec.eq_of_toNat_eq; simp only [bv, BitVec.toNat_ofNat, Nat.reducePow]; omega
  have e6 : bv 4 w 14 = vb := by apply BitVec.eq_of_toNat_eq; simp only [bv, BitVec.toNat_ofNat, Nat.reducePow]; omega
  have e7 : bv 4 w 10 = ty := by apply BitVec.eq_of_toNat_eq; simp only [bv, BitVec.toNat_ofNat, Nat.reducePow]; omega
  rw [e4, e5, e6, e7]
theorem vlerp (vd : VReg) (va : VReg) (vb : VReg) (ty : BitVec 4) : Statement (.vlerp vd va vb ty) := by
  refine ⟨fun h => Bool.noConfusion (show false = true from h), fun _ hw => ?_⟩
  have h_vd := vd.isLt
  have h_va := va.isLt
  have h_vb := vb.isLt
  have h_ty := ty.isLt
  replace hw : (isFloat ty : Bool) = true := hw
  rw [show encodeA (.vlerp vd va vb ty) = 1073741824 + 29 + vd.toNat * 4194304 + va.toNat * 262144 + vb.toNat * 16384 + ty.toNat * 1024 from rfl]
  obtain ⟨w, hW⟩ : ∃ w, w = 1073741824 + 29 + vd.toNat * 4194304 + va.toNat * 262144 + vb.toNat * 16384 + ty.toNat * 1024 := ⟨_, rfl⟩
  rw [← hW]
  have e1 : fld w 31 26 = 16 := by simp only [fld, Nat.reducePow, Nat.reduceSub, Nat.reduceAdd]; omega
  have f1 : decodeA w = decA16 w := by unfold decodeA; rw [e1]; try rfl
  have e2 : fld w 5 0 = 29 := by simp only [fld, Nat.reducePow, Nat.reduceSub, Nat.reduceAdd]; omega
  have f2 : decA16 w = if tyF (fld w 13 10) then .instr (.vlerp (bv 4 w 22) (bv 4 w 18) (bv 4 w 14) (bv 4 w 10)) else .bad .operand := by unfold decA16; rw [e2]; try rfl
  rw [f1, f2]
  have e3 : fld w 13 10 = ty.toNat := by simp only [fld, Nat.reducePow, Nat.reduceSub, Nat.reduceAdd]; omega
  rw [if_pos (show tyF (fld w 13 10) from by rw [e3]; first | done | exact hw)]
  have e4 : bv 4 w 22 = vd := by apply BitVec.eq_of_toNat_eq; simp only [bv, BitVec.toNat_ofNat, Nat.reducePow]; omega
  have e5 : bv 4 w 18 = va := by apply BitVec.eq_of_toNat_eq; simp only [bv, BitVec.toNat_ofNat, Nat.reducePow]; omega
  have e6 : bv 4 w 14 = vb := by apply BitVec.eq_of_toNat_eq; simp only [bv, BitVec.toNat_ofNat, Nat.reducePow]; omega
  have e7 : bv 4 w 10 = ty := by apply BitVec.eq_of_toNat_eq; simp only [bv, BitVec.toNat_ofNat, Nat.reducePow]; omega
  rw [e4, e5, e6, e7]
theorem vclamp (vd : VReg) (va : VReg) (vb : VReg) (ty : BitVec 4) : Statement (.vclamp vd va vb ty) := by
  refine ⟨fun h => Bool.noConfusion (show false = true from h), fun _ hw => ?_⟩
  have h_vd := vd.isLt
  have h_va := va.isLt
  have h_vb := vb.isLt
  have h_ty := ty.isLt
  replace hw : (isFloat ty : Bool) = true := hw
  rw [show encodeA (.vclamp vd va vb ty) = 1073741824 + 30 + vd.toNat * 4194304 + va.toNat * 262144 + vb.toNat * 16384 + ty.toNat * 1024 from rfl]
  obtain ⟨w, hW⟩ : ∃ w, w = 1073741824 + 30 + vd.toNat * 4194304 + va.toNat * 262144 + vb.toNat * 16384 + ty.toNat * 1024 := ⟨_, rfl⟩
  rw [← hW]
  have e1 : fld w 31 26 = 16 := by simp only [fld, Nat.reducePow, Nat.reduceSub, Nat.reduceAdd]; omega
  have f1 : decodeA w = decA16 w := by unfold decodeA; rw [e1]; try rfl
  have e2 : fld w 5 0 = 30 := by simp only [fld, Nat.reducePow, Nat.reduceSub, Nat.reduceAdd]; omega
  have f2 : decA16 w = if tyF (fld w 13 10) then .instr (.vclamp (bv 4 w 22) (bv 4 w 18) (bv 4 w 14) (bv 4 w 10)) else .bad .operand := by unfold decA16; rw [e2]; try rfl
  rw [f1, f2]
  have e3 : fld w 13 10 = ty.toNat := by simp only [fld, Nat.reducePow, Nat.reduceSub, Nat.reduceAdd]; omega
  rw [if_pos (show tyF (fld w 13 10) from by rw [e3]; first | done | exact hw)]
  have e4 : bv 4 w 22 = vd := by apply BitVec.eq_of_toNat_eq; simp only [bv, BitVec.toNat_ofNat, Nat.reducePow]; omega
  have e5 : bv 4 w 18 = va := by apply BitVec.eq_of_toNat_eq; simp only [bv, BitVec.toNat_ofNat, Nat.reducePow]; omega
  have e6 : bv 4 w 14 = vb := by apply BitVec.eq_of_toNat_eq; simp only [bv, BitVec.toNat_ofNat, Nat.reducePow]; omega
  have e7 : bv 4 w 10 = ty := by apply BitVec.eq_of_toNat_eq; simp only [bv, BitVec.toNat_ofNat, Nat.reducePow]; omega
  rw [e4, e5, e6, e7]
theorem vrcp (vd : VReg) (va : VReg) (ty : BitVec 4) : Statement (.vrcp vd va ty) := by
  refine ⟨fun h => Bool.noConfusion (show false = true from h), fun _ hw => ?_⟩
  have h_vd := vd.isLt
  have h_va := va.isLt
  have h_ty := ty.isLt
  replace hw : (isShortFloat ty : Bool) = true := hw
  rw [show encodeA (.vrcp vd va ty) = 1073741824 + 31 + vd.toNat * 4194304 + va.toNat * 262144 + ty.toNat * 1024 from rfl]
  obtain ⟨w, hW⟩ : ∃ w, w = 1073741824 + 31 + vd.toNat * 4194304 + va.toNat * 262144 + ty.toNat * 1024 := ⟨_, rfl⟩
  rw [← hW]
  have e1 : fld w 31 26 = 16 := by simp only [fld, Nat.reducePow, Nat.reduceSub, Nat.reduceAdd]; omega
  have f1 : decodeA w = decA16 w := by unfold decodeA; rw [e1]; try rfl
  have e2 : fld w 5 0 = 31 := by simp only [fld, Nat.reducePow, Nat.reduceSub, Nat.reduceAdd]; omega
  have f2 : decA16 w = if tyEst (fld w 13 10) then .instr (.vrcp (bv 4 w 22) (bv 4 w 18) (bv 4 w 10)) else .bad .operand := by unfold decA16; rw [e2]; try rfl
  rw [f1, f2]
  have e3 : fld w 13 10 = ty.toNat := by simp only [fld, Nat.reducePow, Nat.reduceSub, Nat.reduceAdd]; omega
  rw [if_pos (show tyEst (fld w 13 10) from by rw [e3]; first | done | exact hw)]
  have e4 : bv 4 w 22 = vd := by apply BitVec.eq_of_toNat_eq; simp only [bv, BitVec.toNat_ofNat, Nat.reducePow]; omega
  have e5 : bv 4 w 18 = va := by apply BitVec.eq_of_toNat_eq; simp only [bv, BitVec.toNat_ofNat, Nat.reducePow]; omega
  have e6 : bv 4 w 10 = ty := by apply BitVec.eq_of_toNat_eq; simp only [bv, BitVec.toNat_ofNat, Nat.reducePow]; omega
  rw [e4, e5, e6]
theorem vrsq (vd : VReg) (va : VReg) (ty : BitVec 4) : Statement (.vrsq vd va ty) := by
  refine ⟨fun h => Bool.noConfusion (show false = true from h), fun _ hw => ?_⟩
  have h_vd := vd.isLt
  have h_va := va.isLt
  have h_ty := ty.isLt
  replace hw : (isShortFloat ty : Bool) = true := hw
  rw [show encodeA (.vrsq vd va ty) = 1073741824 + 32 + vd.toNat * 4194304 + va.toNat * 262144 + ty.toNat * 1024 from rfl]
  obtain ⟨w, hW⟩ : ∃ w, w = 1073741824 + 32 + vd.toNat * 4194304 + va.toNat * 262144 + ty.toNat * 1024 := ⟨_, rfl⟩
  rw [← hW]
  have e1 : fld w 31 26 = 16 := by simp only [fld, Nat.reducePow, Nat.reduceSub, Nat.reduceAdd]; omega
  have f1 : decodeA w = decA16 w := by unfold decodeA; rw [e1]; try rfl
  have e2 : fld w 5 0 = 32 := by simp only [fld, Nat.reducePow, Nat.reduceSub, Nat.reduceAdd]; omega
  have f2 : decA16 w = if tyEst (fld w 13 10) then .instr (.vrsq (bv 4 w 22) (bv 4 w 18) (bv 4 w 10)) else .bad .operand := by unfold decA16; rw [e2]; try rfl
  rw [f1, f2]
  have e3 : fld w 13 10 = ty.toNat := by simp only [fld, Nat.reducePow, Nat.reduceSub, Nat.reduceAdd]; omega
  rw [if_pos (show tyEst (fld w 13 10) from by rw [e3]; first | done | exact hw)]
  have e4 : bv 4 w 22 = vd := by apply BitVec.eq_of_toNat_eq; simp only [bv, BitVec.toNat_ofNat, Nat.reducePow]; omega
  have e5 : bv 4 w 18 = va := by apply BitVec.eq_of_toNat_eq; simp only [bv, BitVec.toNat_ofNat, Nat.reducePow]; omega
  have e6 : bv 4 w 10 = ty := by apply BitVec.eq_of_toNat_eq; simp only [bv, BitVec.toNat_ofNat, Nat.reducePow]; omega
  rw [e4, e5, e6]
theorem vexp2 (vd : VReg) (va : VReg) (ty : BitVec 4) : Statement (.vexp2 vd va ty) := by
  refine ⟨fun h => Bool.noConfusion (show false = true from h), fun _ hw => ?_⟩
  have h_vd := vd.isLt
  have h_va := va.isLt
  have h_ty := ty.isLt
  replace hw : (isShortFloat ty : Bool) = true := hw
  rw [show encodeA (.vexp2 vd va ty) = 1073741824 + 33 + vd.toNat * 4194304 + va.toNat * 262144 + ty.toNat * 1024 from rfl]
  obtain ⟨w, hW⟩ : ∃ w, w = 1073741824 + 33 + vd.toNat * 4194304 + va.toNat * 262144 + ty.toNat * 1024 := ⟨_, rfl⟩
  rw [← hW]
  have e1 : fld w 31 26 = 16 := by simp only [fld, Nat.reducePow, Nat.reduceSub, Nat.reduceAdd]; omega
  have f1 : decodeA w = decA16 w := by unfold decodeA; rw [e1]; try rfl
  have e2 : fld w 5 0 = 33 := by simp only [fld, Nat.reducePow, Nat.reduceSub, Nat.reduceAdd]; omega
  have f2 : decA16 w = if tyEst (fld w 13 10) then .instr (.vexp2 (bv 4 w 22) (bv 4 w 18) (bv 4 w 10)) else .bad .operand := by unfold decA16; rw [e2]; try rfl
  rw [f1, f2]
  have e3 : fld w 13 10 = ty.toNat := by simp only [fld, Nat.reducePow, Nat.reduceSub, Nat.reduceAdd]; omega
  rw [if_pos (show tyEst (fld w 13 10) from by rw [e3]; first | done | exact hw)]
  have e4 : bv 4 w 22 = vd := by apply BitVec.eq_of_toNat_eq; simp only [bv, BitVec.toNat_ofNat, Nat.reducePow]; omega
  have e5 : bv 4 w 18 = va := by apply BitVec.eq_of_toNat_eq; simp only [bv, BitVec.toNat_ofNat, Nat.reducePow]; omega
  have e6 : bv 4 w 10 = ty := by apply BitVec.eq_of_toNat_eq; simp only [bv, BitVec.toNat_ofNat, Nat.reducePow]; omega
  rw [e4, e5, e6]
theorem vlog2 (vd : VReg) (va : VReg) (ty : BitVec 4) : Statement (.vlog2 vd va ty) := by
  refine ⟨fun h => Bool.noConfusion (show false = true from h), fun _ hw => ?_⟩
  have h_vd := vd.isLt
  have h_va := va.isLt
  have h_ty := ty.isLt
  replace hw : (isShortFloat ty : Bool) = true := hw
  rw [show encodeA (.vlog2 vd va ty) = 1073741824 + 34 + vd.toNat * 4194304 + va.toNat * 262144 + ty.toNat * 1024 from rfl]
  obtain ⟨w, hW⟩ : ∃ w, w = 1073741824 + 34 + vd.toNat * 4194304 + va.toNat * 262144 + ty.toNat * 1024 := ⟨_, rfl⟩
  rw [← hW]
  have e1 : fld w 31 26 = 16 := by simp only [fld, Nat.reducePow, Nat.reduceSub, Nat.reduceAdd]; omega
  have f1 : decodeA w = decA16 w := by unfold decodeA; rw [e1]; try rfl
  have e2 : fld w 5 0 = 34 := by simp only [fld, Nat.reducePow, Nat.reduceSub, Nat.reduceAdd]; omega
  have f2 : decA16 w = if tyEst (fld w 13 10) then .instr (.vlog2 (bv 4 w 22) (bv 4 w 18) (bv 4 w 10)) else .bad .operand := by unfold decA16; rw [e2]; try rfl
  rw [f1, f2]
  have e3 : fld w 13 10 = ty.toNat := by simp only [fld, Nat.reducePow, Nat.reduceSub, Nat.reduceAdd]; omega
  rw [if_pos (show tyEst (fld w 13 10) from by rw [e3]; first | done | exact hw)]
  have e4 : bv 4 w 22 = vd := by apply BitVec.eq_of_toNat_eq; simp only [bv, BitVec.toNat_ofNat, Nat.reducePow]; omega
  have e5 : bv 4 w 18 = va := by apply BitVec.eq_of_toNat_eq; simp only [bv, BitVec.toNat_ofNat, Nat.reducePow]; omega
  have e6 : bv 4 w 10 = ty := by apply BitVec.eq_of_toNat_eq; simp only [bv, BitVec.toNat_ofNat, Nat.reducePow]; omega
  rw [e4, e5, e6]
theorem vsinpi (vd : VReg) (va : VReg) (ty : BitVec 4) : Statement (.vsinpi vd va ty) := by
  refine ⟨fun h => Bool.noConfusion (show false = true from h), fun _ hw => ?_⟩
  have h_vd := vd.isLt
  have h_va := va.isLt
  have h_ty := ty.isLt
  replace hw : (isShortFloat ty : Bool) = true := hw
  rw [show encodeA (.vsinpi vd va ty) = 1073741824 + 35 + vd.toNat * 4194304 + va.toNat * 262144 + ty.toNat * 1024 from rfl]
  obtain ⟨w, hW⟩ : ∃ w, w = 1073741824 + 35 + vd.toNat * 4194304 + va.toNat * 262144 + ty.toNat * 1024 := ⟨_, rfl⟩
  rw [← hW]
  have e1 : fld w 31 26 = 16 := by simp only [fld, Nat.reducePow, Nat.reduceSub, Nat.reduceAdd]; omega
  have f1 : decodeA w = decA16 w := by unfold decodeA; rw [e1]; try rfl
  have e2 : fld w 5 0 = 35 := by simp only [fld, Nat.reducePow, Nat.reduceSub, Nat.reduceAdd]; omega
  have f2 : decA16 w = if tyEst (fld w 13 10) then .instr (.vsinpi (bv 4 w 22) (bv 4 w 18) (bv 4 w 10)) else .bad .operand := by unfold decA16; rw [e2]; try rfl
  rw [f1, f2]
  have e3 : fld w 13 10 = ty.toNat := by simp only [fld, Nat.reducePow, Nat.reduceSub, Nat.reduceAdd]; omega
  rw [if_pos (show tyEst (fld w 13 10) from by rw [e3]; first | done | exact hw)]
  have e4 : bv 4 w 22 = vd := by apply BitVec.eq_of_toNat_eq; simp only [bv, BitVec.toNat_ofNat, Nat.reducePow]; omega
  have e5 : bv 4 w 18 = va := by apply BitVec.eq_of_toNat_eq; simp only [bv, BitVec.toNat_ofNat, Nat.reducePow]; omega
  have e6 : bv 4 w 10 = ty := by apply BitVec.eq_of_toNat_eq; simp only [bv, BitVec.toNat_ofNat, Nat.reducePow]; omega
  rw [e4, e5, e6]
theorem vcospi (vd : VReg) (va : VReg) (ty : BitVec 4) : Statement (.vcospi vd va ty) := by
  refine ⟨fun h => Bool.noConfusion (show false = true from h), fun _ hw => ?_⟩
  have h_vd := vd.isLt
  have h_va := va.isLt
  have h_ty := ty.isLt
  replace hw : (isShortFloat ty : Bool) = true := hw
  rw [show encodeA (.vcospi vd va ty) = 1073741824 + 36 + vd.toNat * 4194304 + va.toNat * 262144 + ty.toNat * 1024 from rfl]
  obtain ⟨w, hW⟩ : ∃ w, w = 1073741824 + 36 + vd.toNat * 4194304 + va.toNat * 262144 + ty.toNat * 1024 := ⟨_, rfl⟩
  rw [← hW]
  have e1 : fld w 31 26 = 16 := by simp only [fld, Nat.reducePow, Nat.reduceSub, Nat.reduceAdd]; omega
  have f1 : decodeA w = decA16 w := by unfold decodeA; rw [e1]; try rfl
  have e2 : fld w 5 0 = 36 := by simp only [fld, Nat.reducePow, Nat.reduceSub, Nat.reduceAdd]; omega
  have f2 : decA16 w = if tyEst (fld w 13 10) then .instr (.vcospi (bv 4 w 22) (bv 4 w 18) (bv 4 w 10)) else .bad .operand := by unfold decA16; rw [e2]; try rfl
  rw [f1, f2]
  have e3 : fld w 13 10 = ty.toNat := by simp only [fld, Nat.reducePow, Nat.reduceSub, Nat.reduceAdd]; omega
  rw [if_pos (show tyEst (fld w 13 10) from by rw [e3]; first | done | exact hw)]
  have e4 : bv 4 w 22 = vd := by apply BitVec.eq_of_toNat_eq; simp only [bv, BitVec.toNat_ofNat, Nat.reducePow]; omega
  have e5 : bv 4 w 18 = va := by apply BitVec.eq_of_toNat_eq; simp only [bv, BitVec.toNat_ofNat, Nat.reducePow]; omega
  have e6 : bv 4 w 10 = ty := by apply BitVec.eq_of_toNat_eq; simp only [bv, BitVec.toNat_ofNat, Nat.reducePow]; omega
  rw [e4, e5, e6]
theorem vbcast (vd : VReg) (gb : GReg) (ty : BitVec 4) : Statement (.vbcast vd gb ty) := by
  refine ⟨fun h => Bool.noConfusion (show false = true from h), fun _ hw => ?_⟩
  have h_vd := vd.isLt
  have h_gb := gb.isLt
  have h_ty := ty.isLt
  rw [show encodeA (.vbcast vd gb ty) = 1140850688 + vd.toNat * 4194304 + gb.toNat * 8192 + ty.toNat * 512 from rfl]
  obtain ⟨w, hW⟩ : ∃ w, w = 1140850688 + vd.toNat * 4194304 + gb.toNat * 8192 + ty.toNat * 512 := ⟨_, rfl⟩
  rw [← hW]
  have e1 : fld w 31 26 = 17 := by simp only [fld, Nat.reducePow, Nat.reduceSub, Nat.reduceAdd]; omega
  have f1 : decodeA w = decA17 w := by unfold decodeA; rw [e1]; try rfl
  have e2 : fld w 5 0 = 0 := by simp only [fld, Nat.reducePow, Nat.reduceSub, Nat.reduceAdd]; omega
  have f2 : decA17 w = .instr (.vbcast (bv 4 w 22) (bv 5 w 13) (bv 4 w 9)) := by unfold decA17; rw [e2]; try rfl
  rw [f1, f2]
  have e3 : bv 4 w 22 = vd := by apply BitVec.eq_of_toNat_eq; simp only [bv, BitVec.toNat_ofNat, Nat.reducePow]; omega
  have e4 : bv 5 w 13 = gb := by apply BitVec.eq_of_toNat_eq; simp only [bv, BitVec.toNat_ofNat, Nat.reducePow]; omega
  have e5 : bv 4 w 9 = ty := by apply BitVec.eq_of_toNat_eq; simp only [bv, BitVec.toNat_ofNat, Nat.reducePow]; omega
  rw [e3, e4, e5]
theorem vins (vd : VReg) (gi : BitVec 4) (gb : GReg) (ty : BitVec 4) : Statement (.vins vd gi gb ty) := by
  refine ⟨fun h => Bool.noConfusion (show false = true from h), fun _ hw => ?_⟩
  have h_vd := vd.isLt
  have h_gi := gi.isLt
  have h_gb := gb.isLt
  have h_ty := ty.isLt
  rw [show encodeA (.vins vd gi gb ty) = 1140850688 + 1 + vd.toNat * 4194304 + gi.toNat * 262144 + gb.toNat * 8192 + ty.toNat * 512 from rfl]
  obtain ⟨w, hW⟩ : ∃ w, w = 1140850688 + 1 + vd.toNat * 4194304 + gi.toNat * 262144 + gb.toNat * 8192 + ty.toNat * 512 := ⟨_, rfl⟩
  rw [← hW]
  have e1 : fld w 31 26 = 17 := by simp only [fld, Nat.reducePow, Nat.reduceSub, Nat.reduceAdd]; omega
  have f1 : decodeA w = decA17 w := by unfold decodeA; rw [e1]; try rfl
  have e2 : fld w 5 0 = 1 := by simp only [fld, Nat.reducePow, Nat.reduceSub, Nat.reduceAdd]; omega
  have f2 : decA17 w = .instr (.vins (bv 4 w 22) (bv 4 w 18) (bv 5 w 13) (bv 4 w 9)) := by unfold decA17; rw [e2]; try rfl
  rw [f1, f2]
  have e3 : bv 4 w 22 = vd := by apply BitVec.eq_of_toNat_eq; simp only [bv, BitVec.toNat_ofNat, Nat.reducePow]; omega
  have e4 : bv 4 w 18 = gi := by apply BitVec.eq_of_toNat_eq; simp only [bv, BitVec.toNat_ofNat, Nat.reducePow]; omega
  have e5 : bv 5 w 13 = gb := by apply BitVec.eq_of_toNat_eq; simp only [bv, BitVec.toNat_ofNat, Nat.reducePow]; omega
  have e6 : bv 4 w 9 = ty := by apply BitVec.eq_of_toNat_eq; simp only [bv, BitVec.toNat_ofNat, Nat.reducePow]; omega
  rw [e3, e4, e5, e6]
theorem vext (vd : VReg) (gi : BitVec 4) (gb : GReg) (ty : BitVec 4) : Statement (.vext vd gi gb ty) := by
  refine ⟨fun h => Bool.noConfusion (show false = true from h), fun _ hw => ?_⟩
  have h_vd := vd.isLt
  have h_gi := gi.isLt
  have h_gb := gb.isLt
  have h_ty := ty.isLt
  rw [show encodeA (.vext vd gi gb ty) = 1140850688 + 2 + vd.toNat * 4194304 + gi.toNat * 262144 + gb.toNat * 8192 + ty.toNat * 512 from rfl]
  obtain ⟨w, hW⟩ : ∃ w, w = 1140850688 + 2 + vd.toNat * 4194304 + gi.toNat * 262144 + gb.toNat * 8192 + ty.toNat * 512 := ⟨_, rfl⟩
  rw [← hW]
  have e1 : fld w 31 26 = 17 := by simp only [fld, Nat.reducePow, Nat.reduceSub, Nat.reduceAdd]; omega
  have f1 : decodeA w = decA17 w := by unfold decodeA; rw [e1]; try rfl
  have e2 : fld w 5 0 = 2 := by simp only [fld, Nat.reducePow, Nat.reduceSub, Nat.reduceAdd]; omega
  have f2 : decA17 w = .instr (.vext (bv 4 w 22) (bv 4 w 18) (bv 5 w 13) (bv 4 w 9)) := by unfold decA17; rw [e2]; try rfl
  rw [f1, f2]
  have e3 : bv 4 w 22 = vd := by apply BitVec.eq_of_toNat_eq; simp only [bv, BitVec.toNat_ofNat, Nat.reducePow]; omega
  have e4 : bv 4 w 18 = gi := by apply BitVec.eq_of_toNat_eq; simp only [bv, BitVec.toNat_ofNat, Nat.reducePow]; omega
  have e5 : bv 5 w 13 = gb := by apply BitVec.eq_of_toNat_eq; simp only [bv, BitVec.toNat_ofNat, Nat.reducePow]; omega
  have e6 : bv 4 w 9 = ty := by apply BitVec.eq_of_toNat_eq; simp only [bv, BitVec.toNat_ofNat, Nat.reducePow]; omega
  rw [e3, e4, e5, e6]
theorem vmpop (gb : GReg) (va : VReg) (ty : BitVec 4) : Statement (.vmpop gb va ty) := by
  refine ⟨fun h => Bool.noConfusion (show false = true from h), fun _ hw => ?_⟩
  have h_gb := gb.isLt
  have h_va := va.isLt
  have h_ty := ty.isLt
  rw [show encodeA (.vmpop gb va ty) = 1140850688 + 3 + gb.toNat * 8192 + va.toNat * 262144 + ty.toNat * 512 from rfl]
  obtain ⟨w, hW⟩ : ∃ w, w = 1140850688 + 3 + gb.toNat * 8192 + va.toNat * 262144 + ty.toNat * 512 := ⟨_, rfl⟩
  rw [← hW]
  have e1 : fld w 31 26 = 17 := by simp only [fld, Nat.reducePow, Nat.reduceSub, Nat.reduceAdd]; omega
  have f1 : decodeA w = decA17 w := by unfold decodeA; rw [e1]; try rfl
  have e2 : fld w 5 0 = 3 := by simp only [fld, Nat.reducePow, Nat.reduceSub, Nat.reduceAdd]; omega
  have f2 : decA17 w = .instr (.vmpop (bv 5 w 13) (bv 4 w 18) (bv 4 w 9)) := by unfold decA17; rw [e2]; try rfl
  rw [f1, f2]
  have e3 : bv 5 w 13 = gb := by apply BitVec.eq_of_toNat_eq; simp only [bv, BitVec.toNat_ofNat, Nat.reducePow]; omega
  have e4 : bv 4 w 18 = va := by apply BitVec.eq_of_toNat_eq; simp only [bv, BitVec.toNat_ofNat, Nat.reducePow]; omega
  have e5 : bv 4 w 9 = ty := by apply BitVec.eq_of_toNat_eq; simp only [bv, BitVec.toNat_ofNat, Nat.reducePow]; omega
  rw [e3, e4, e5]
theorem vscl (vd : VReg) (va : VReg) (gb : GReg) (ty : BitVec 4) : Statement (.vscl vd va gb ty) := by
  refine ⟨fun h => Bool.noConfusion (show false = true from h), fun _ hw => ?_⟩
  have h_vd := vd.isLt
  have h_va := va.isLt
  have h_gb := gb.isLt
  have h_ty := ty.isLt
  replace hw : (isFloat ty : Bool) = true := hw
  rw [show encodeA (.vscl vd va gb ty) = 1140850688 + 4 + vd.toNat * 4194304 + va.toNat * 262144 + gb.toNat * 8192 + ty.toNat * 512 from rfl]
  obtain ⟨w, hW⟩ : ∃ w, w = 1140850688 + 4 + vd.toNat * 4194304 + va.toNat * 262144 + gb.toNat * 8192 + ty.toNat * 512 := ⟨_, rfl⟩
  rw [← hW]
  have e1 : fld w 31 26 = 17 := by simp only [fld, Nat.reducePow, Nat.reduceSub, Nat.reduceAdd]; omega
  have f1 : decodeA w = decA17 w := by unfold decodeA; rw [e1]; try rfl
  have e2 : fld w 5 0 = 4 := by simp only [fld, Nat.reducePow, Nat.reduceSub, Nat.reduceAdd]; omega
  have f2 : decA17 w = if tyF (fld w 12 9) then .instr (.vscl (bv 4 w 22) (bv 4 w 18) (bv 5 w 13) (bv 4 w 9)) else .bad .operand := by unfold decA17; rw [e2]; try rfl
  rw [f1, f2]
  have e3 : fld w 12 9 = ty.toNat := by simp only [fld, Nat.reducePow, Nat.reduceSub, Nat.reduceAdd]; omega
  rw [if_pos (show tyF (fld w 12 9) from by rw [e3]; first | done | exact hw)]
  have e4 : bv 4 w 22 = vd := by apply BitVec.eq_of_toNat_eq; simp only [bv, BitVec.toNat_ofNat, Nat.reducePow]; omega
  have e5 : bv 4 w 18 = va := by apply BitVec.eq_of_toNat_eq; simp only [bv, BitVec.toNat_ofNat, Nat.reducePow]; omega
  have e6 : bv 5 w 13 = gb := by apply BitVec.eq_of_toNat_eq; simp only [bv, BitVec.toNat_ofNat, Nat.reducePow]; omega
  have e7 : bv 4 w 9 = ty := by apply BitVec.eq_of_toNat_eq; simp only [bv, BitVec.toNat_ofNat, Nat.reducePow]; omega
  rw [e4, e5, e6, e7]
theorem vqe8 (vd : VReg) (va : VReg) (gb : GReg) (ty : BitVec 4) : Statement (.vqe8 vd va gb ty) := by
  refine ⟨fun h => Bool.noConfusion (show false = true from h), fun _ hw => ?_⟩
  have h_vd := vd.isLt
  have h_va := va.isLt
  have h_gb := gb.isLt
  have h_ty := ty.isLt
  replace hw : (isShortFloat ty : Bool) = true := hw
  rw [show encodeA (.vqe8 vd va gb ty) = 1140850688 + 5 + vd.toNat * 4194304 + va.toNat * 262144 + gb.toNat * 8192 + ty.toNat * 512 from rfl]
  obtain ⟨w, hW⟩ : ∃ w, w = 1140850688 + 5 + vd.toNat * 4194304 + va.toNat * 262144 + gb.toNat * 8192 + ty.toNat * 512 := ⟨_, rfl⟩
  rw [← hW]
  have e1 : fld w 31 26 = 17 := by simp only [fld, Nat.reducePow, Nat.reduceSub, Nat.reduceAdd]; omega
  have f1 : decodeA w = decA17 w := by unfold decodeA; rw [e1]; try rfl
  have e2 : fld w 5 0 = 5 := by simp only [fld, Nat.reducePow, Nat.reduceSub, Nat.reduceAdd]; omega
  have f2 : decA17 w = if tyEst (fld w 12 9) then .instr (.vqe8 (bv 4 w 22) (bv 4 w 18) (bv 5 w 13) (bv 4 w 9)) else .bad .operand := by unfold decA17; rw [e2]; try rfl
  rw [f1, f2]
  have e3 : fld w 12 9 = ty.toNat := by simp only [fld, Nat.reducePow, Nat.reduceSub, Nat.reduceAdd]; omega
  rw [if_pos (show tyEst (fld w 12 9) from by rw [e3]; first | done | exact hw)]
  have e4 : bv 4 w 22 = vd := by apply BitVec.eq_of_toNat_eq; simp only [bv, BitVec.toNat_ofNat, Nat.reducePow]; omega
  have e5 : bv 4 w 18 = va := by apply BitVec.eq_of_toNat_eq; simp only [bv, BitVec.toNat_ofNat, Nat.reducePow]; omega
  have e6 : bv 5 w 13 = gb := by apply BitVec.eq_of_toNat_eq; simp only [bv, BitVec.toNat_ofNat, Nat.reducePow]; omega
  have e7 : bv 4 w 9 = ty := by apply BitVec.eq_of_toNat_eq; simp only [bv, BitVec.toNat_ofNat, Nat.reducePow]; omega
  rw [e4, e5, e6, e7]
theorem vde8 (vd : VReg) (va : VReg) (gb : GReg) (ty : BitVec 4) : Statement (.vde8 vd va gb ty) := by
  refine ⟨fun h => Bool.noConfusion (show false = true from h), fun _ hw => ?_⟩
  have h_vd := vd.isLt
  have h_va := va.isLt
  have h_gb := gb.isLt
  have h_ty := ty.isLt
  replace hw : (ty.toNat == 10 || ty.toNat == 12 : Bool) = true := hw
  rw [show encodeA (.vde8 vd va gb ty) = 1140850688 + 6 + vd.toNat * 4194304 + va.toNat * 262144 + gb.toNat * 8192 + ty.toNat * 512 from rfl]
  obtain ⟨w, hW⟩ : ∃ w, w = 1140850688 + 6 + vd.toNat * 4194304 + va.toNat * 262144 + gb.toNat * 8192 + ty.toNat * 512 := ⟨_, rfl⟩
  rw [← hW]
  have e1 : fld w 31 26 = 17 := by simp only [fld, Nat.reducePow, Nat.reduceSub, Nat.reduceAdd]; omega
  have f1 : decodeA w = decA17 w := by unfold decodeA; rw [e1]; try rfl
  have e2 : fld w 5 0 = 6 := by simp only [fld, Nat.reducePow, Nat.reduceSub, Nat.reduceAdd]; omega
  have f2 : decA17 w = if tyBF (fld w 12 9) then .instr (.vde8 (bv 4 w 22) (bv 4 w 18) (bv 5 w 13) (bv 4 w 9)) else .bad .operand := by unfold decA17; rw [e2]; try rfl
  rw [f1, f2]
  have e3 : fld w 12 9 = ty.toNat := by simp only [fld, Nat.reducePow, Nat.reduceSub, Nat.reduceAdd]; omega
  rw [if_pos (show tyBF (fld w 12 9) from by rw [e3]; first | done | exact hw)]
  have e4 : bv 4 w 22 = vd := by apply BitVec.eq_of_toNat_eq; simp only [bv, BitVec.toNat_ofNat, Nat.reducePow]; omega
  have e5 : bv 4 w 18 = va := by apply BitVec.eq_of_toNat_eq; simp only [bv, BitVec.toNat_ofNat, Nat.reducePow]; omega
  have e6 : bv 5 w 13 = gb := by apply BitVec.eq_of_toNat_eq; simp only [bv, BitVec.toNat_ofNat, Nat.reducePow]; omega
  have e7 : bv 4 w 9 = ty := by apply BitVec.eq_of_toNat_eq; simp only [bv, BitVec.toNat_ofNat, Nat.reducePow]; omega
  rw [e4, e5, e6, e7]
theorem vfix (vd : VReg) (va : VReg) (gb : GReg) (ty : BitVec 4) : Statement (.vfix vd va gb ty) := by
  refine ⟨fun h => Bool.noConfusion (show false = true from h), fun _ hw => ?_⟩
  have h_vd := vd.isLt
  have h_va := va.isLt
  have h_gb := gb.isLt
  have h_ty := ty.isLt
  replace hw : (ty.toNat == 12 && vd.toNat % 2 == 0 : Bool) = true := hw
  rw [show encodeA (.vfix vd va gb ty) = 1140850688 + 7 + vd.toNat * 4194304 + va.toNat * 262144 + gb.toNat * 8192 + ty.toNat * 512 from rfl]
  obtain ⟨w, hW⟩ : ∃ w, w = 1140850688 + 7 + vd.toNat * 4194304 + va.toNat * 262144 + gb.toNat * 8192 + ty.toNat * 512 := ⟨_, rfl⟩
  rw [← hW]
  have e1 : fld w 31 26 = 17 := by simp only [fld, Nat.reducePow, Nat.reduceSub, Nat.reduceAdd]; omega
  have f1 : decodeA w = decA17 w := by unfold decodeA; rw [e1]; try rfl
  have e2 : fld w 5 0 = 7 := by simp only [fld, Nat.reducePow, Nat.reduceSub, Nat.reduceAdd]; omega
  have f2 : decA17 w = if fld w 12 9 = 12 ∧ fld w 22 22 = 0 then .instr (.vfix (bv 4 w 22) (bv 4 w 18) (bv 5 w 13) (bv 4 w 9)) else .bad .operand := by unfold decA17; rw [e2]; try rfl
  rw [f1, f2]
  have e3 : fld w 12 9 = ty.toNat := by simp only [fld, Nat.reducePow, Nat.reduceSub, Nat.reduceAdd]; omega
  have e4 : fld w 22 22 = vd.toNat % 2 := by simp only [fld, Nat.reducePow, Nat.reduceSub, Nat.reduceAdd]; omega
  rw [if_pos (show fld w 12 9 = 12 ∧ fld w 22 22 = 0 from by rw [e3, e4]; first | done | decide | (simp at hw ⊢; omega) | (simp [tyBF] at hw ⊢; omega))]
  have e5 : bv 4 w 22 = vd := by apply BitVec.eq_of_toNat_eq; simp only [bv, BitVec.toNat_ofNat, Nat.reducePow]; omega
  have e6 : bv 4 w 18 = va := by apply BitVec.eq_of_toNat_eq; simp only [bv, BitVec.toNat_ofNat, Nat.reducePow]; omega
  have e7 : bv 5 w 13 = gb := by apply BitVec.eq_of_toNat_eq; simp only [bv, BitVec.toNat_ofNat, Nat.reducePow]; omega
  have e8 : bv 4 w 9 = ty := by apply BitVec.eq_of_toNat_eq; simp only [bv, BitVec.toNat_ofNat, Nat.reducePow]; omega
  rw [e5, e6, e7, e8]
theorem vunfix (vd : VReg) (va : VReg) (gb : GReg) (ty : BitVec 4) : Statement (.vunfix vd va gb ty) := by
  refine ⟨fun h => Bool.noConfusion (show false = true from h), fun _ hw => ?_⟩
  have h_vd := vd.isLt
  have h_va := va.isLt
  have h_gb := gb.isLt
  have h_ty := ty.isLt
  replace hw : ((ty.toNat == 10 || ty.toNat == 12) && va.toNat % 2 == 0 : Bool) = true := hw
  rw [show encodeA (.vunfix vd va gb ty) = 1140850688 + 8 + vd.toNat * 4194304 + va.toNat * 262144 + gb.toNat * 8192 + ty.toNat * 512 from rfl]
  obtain ⟨w, hW⟩ : ∃ w, w = 1140850688 + 8 + vd.toNat * 4194304 + va.toNat * 262144 + gb.toNat * 8192 + ty.toNat * 512 := ⟨_, rfl⟩
  rw [← hW]
  have e1 : fld w 31 26 = 17 := by simp only [fld, Nat.reducePow, Nat.reduceSub, Nat.reduceAdd]; omega
  have f1 : decodeA w = decA17 w := by unfold decodeA; rw [e1]; try rfl
  have e2 : fld w 5 0 = 8 := by simp only [fld, Nat.reducePow, Nat.reduceSub, Nat.reduceAdd]; omega
  have f2 : decA17 w = if tyBF (fld w 12 9) ∧ fld w 18 18 = 0 then .instr (.vunfix (bv 4 w 22) (bv 4 w 18) (bv 5 w 13) (bv 4 w 9)) else .bad .operand := by unfold decA17; rw [e2]; try rfl
  rw [f1, f2]
  have e3 : fld w 12 9 = ty.toNat := by simp only [fld, Nat.reducePow, Nat.reduceSub, Nat.reduceAdd]; omega
  have e4 : fld w 18 18 = va.toNat % 2 := by simp only [fld, Nat.reducePow, Nat.reduceSub, Nat.reduceAdd]; omega
  rw [if_pos (show tyBF (fld w 12 9) ∧ fld w 18 18 = 0 from by rw [e3, e4]; first | done | decide | (simp at hw ⊢; omega) | (simp [tyBF] at hw ⊢; omega))]
  have e5 : bv 4 w 22 = vd := by apply BitVec.eq_of_toNat_eq; simp only [bv, BitVec.toNat_ofNat, Nat.reducePow]; omega
  have e6 : bv 4 w 18 = va := by apply BitVec.eq_of_toNat_eq; simp only [bv, BitVec.toNat_ofNat, Nat.reducePow]; omega
  have e7 : bv 5 w 13 = gb := by apply BitVec.eq_of_toNat_eq; simp only [bv, BitVec.toNat_ofNat, Nat.reducePow]; omega
  have e8 : bv 4 w 9 = ty := by apply BitVec.eq_of_toNat_eq; simp only [bv, BitVec.toNat_ofNat, Nat.reducePow]; omega
  rw [e5, e6, e7, e8]
theorem vmaxe (gb : GReg) (va : VReg) (ty : BitVec 4) : Statement (.vmaxe gb va ty) := by
  refine ⟨fun h => Bool.noConfusion (show false = true from h), fun _ hw => ?_⟩
  have h_gb := gb.isLt
  have h_va := va.isLt
  have h_ty := ty.isLt
  replace hw : (isShortFloat ty : Bool) = true := hw
  rw [show encodeA (.vmaxe gb va ty) = 1140850688 + 9 + gb.toNat * 8192 + va.toNat * 262144 + ty.toNat * 512 from rfl]
  obtain ⟨w, hW⟩ : ∃ w, w = 1140850688 + 9 + gb.toNat * 8192 + va.toNat * 262144 + ty.toNat * 512 := ⟨_, rfl⟩
  rw [← hW]
  have e1 : fld w 31 26 = 17 := by simp only [fld, Nat.reducePow, Nat.reduceSub, Nat.reduceAdd]; omega
  have f1 : decodeA w = decA17 w := by unfold decodeA; rw [e1]; try rfl
  have e2 : fld w 5 0 = 9 := by simp only [fld, Nat.reducePow, Nat.reduceSub, Nat.reduceAdd]; omega
  have f2 : decA17 w = if tyEst (fld w 12 9) then .instr (.vmaxe (bv 5 w 13) (bv 4 w 18) (bv 4 w 9)) else .bad .operand := by unfold decA17; rw [e2]; try rfl
  rw [f1, f2]
  have e3 : fld w 12 9 = ty.toNat := by simp only [fld, Nat.reducePow, Nat.reduceSub, Nat.reduceAdd]; omega
  rw [if_pos (show tyEst (fld w 12 9) from by rw [e3]; first | done | exact hw)]
  have e4 : bv 5 w 13 = gb := by apply BitVec.eq_of_toNat_eq; simp only [bv, BitVec.toNat_ofNat, Nat.reducePow]; omega
  have e5 : bv 4 w 18 = va := by apply BitVec.eq_of_toNat_eq; simp only [bv, BitVec.toNat_ofNat, Nat.reducePow]; omega
  have e6 : bv 4 w 9 = ty := by apply BitVec.eq_of_toNat_eq; simp only [bv, BitVec.toNat_ofNat, Nat.reducePow]; omega
  rw [e4, e5, e6]
theorem vex (vd : VReg) (va : VReg) (vb : VReg) (gd : GReg) (gs : GReg) (ty : BitVec 4) : Statement (.vex vd va vb gd gs ty) := by
  refine ⟨fun h => Bool.noConfusion (show false = true from h), fun _ hw => ?_⟩
  have h_vd := vd.isLt
  have h_va := va.isLt
  have h_vb := vb.isLt
  have h_gd := gd.isLt
  have h_gs := gs.isLt
  have h_ty := ty.isLt
  replace hw : (isShortFloat ty : Bool) = true := hw
  rw [show encodeA (.vex vd va vb gd gs ty) = 1207959552 + vd.toNat * 4194304 + va.toNat * 262144 + vb.toNat * 16384 + gd.toNat * 512 + gs.toNat * 16 + ty.toNat from rfl]
  obtain ⟨w, hW⟩ : ∃ w, w = 1207959552 + vd.toNat * 4194304 + va.toNat * 262144 + vb.toNat * 16384 + gd.toNat * 512 + gs.toNat * 16 + ty.toNat := ⟨_, rfl⟩
  rw [← hW]
  have e1 : fld w 31 26 = 18 := by simp only [fld, Nat.reducePow, Nat.reduceSub, Nat.reduceAdd]; omega
  have f1 : decodeA w = if tyEst (fld w 3 0) then .instr (.vex (bv 4 w 22) (bv 4 w 18) (bv 4 w 14) (bv 5 w 9) (bv 5 w 4) (bv 4 w 0)) else .bad .operand := by unfold decodeA; rw [e1]; try rfl
  rw [f1]
  have e2 : fld w 3 0 = ty.toNat := by simp only [fld, Nat.reducePow, Nat.reduceSub, Nat.reduceAdd]; omega
  rw [if_pos (show tyEst (fld w 3 0) from by rw [e2]; first | done | exact hw)]
  have e3 : bv 4 w 22 = vd := by apply BitVec.eq_of_toNat_eq; simp only [bv, BitVec.toNat_ofNat, Nat.reducePow]; omega
  have e4 : bv 4 w 18 = va := by apply BitVec.eq_of_toNat_eq; simp only [bv, BitVec.toNat_ofNat, Nat.reducePow]; omega
  have e5 : bv 4 w 14 = vb := by apply BitVec.eq_of_toNat_eq; simp only [bv, BitVec.toNat_ofNat, Nat.reducePow]; omega
  have e6 : bv 5 w 9 = gd := by apply BitVec.eq_of_toNat_eq; simp only [bv, BitVec.toNat_ofNat, Nat.reducePow]; omega
  have e7 : bv 5 w 4 = gs := by apply BitVec.eq_of_toNat_eq; simp only [bv, BitVec.toNat_ofNat, Nat.reducePow]; omega
  have e8 : bv 4 w 0 = ty := by apply BitVec.eq_of_toNat_eq; simp only [bv, BitVec.toNat_ofNat, Nat.reducePow]; omega
  rw [e3, e4, e5, e6, e7, e8]

end Sys2Proof.Laws.RoundTrip
end

