-- ==== Sys2Proof/Tests/Slice0.lean ====
section
/-! SUPPORT. Tests: words written out from the spec's encoding tables, ill-formed terms, single steps with the spec's worked values, and for each
statement with hypotheses a concrete state and operands that meet them. Expected values are the spec's own examples or hand calculation from its
rules. -/

namespace Sys2Proof.Tests

open Sys2Proof.Machine

set_option maxRecDepth 100000
set_option Elab.async false
set_option linter.all false

/-! ## Decoding -/

/-- Words of C from the table of R255 and R256, their fields by R251. -/
theorem test_words_C0 : ∀ p ∈ ([(0x00000000, .nopC),
    (0x0FBFFFFD, .hintC 4194301),
    (0x007FFFFD, .br 4194301),
    (0x00BFFFFD, .call 4194301),
    (0x00CFEFFD, .bt 7 61 (.short 1021)),
    (0x00CFEBFD, .bf 7 61 (.short 1021)),
    (0x010E07FD, .bnz 7 (.short 1021)),
    (0x010E03FD, .bz 7 (.short 1021)),
    (0x0141EFFD, .bse 61 (.short 1021)),
    (0x0141EBFD, .bsc 61 (.short 1021)),
    (0x018FEC00, .guard 7 61),
    (0x018FE800, .guardn 7 61),
    (0x01EFEF40, .rept 5 253 29),
    (0x0207FFFD, .li 3 (.short 131069)),
    (0x0295FFFD, .start 10 (.short 131069)),
    (0x02C74A80, .cwait 3 20 21),
    (0x02C60A81, .qwait 3 21),
    (0x02C14A82, .hjoin 20 21),
    (0x02C00A83, .xend 21),
    (0x02C00A84, .mwait 21),
    (0x02C74A88, .sbarOr 3 20 21),
    (0x02C74A89, .sbarAnd 3 20 21),
    (0x02C74A8A, .sbarMax 3 20 21),
    (0x03014000, .callr 20),
    (0x03014001, .jr 20),
    (0x03000002, .ret),
    (0x03000003, .hend),
    (0x03000004, .yield),
    (0x03000005, .sexit),
    (0x03060006, .vote 3),
    (0x03000007, .rfe),
    (0x03074008, .swp 3 20),
    (0x03000009, .brk),
    (0x0300000A, .halt),
    (0x0340FFFD, .trap 65533),
    (0x03C60014, .getsr 3 20),
    (0x04014014, .setsr 20 20),
    (0x04400014, .wait 20),
    (0x048746FD, .ldI8 3 20 1 5 (.short 125)),
    (0x04C746FD, .ldN8 3 20 1 5 (.short 125)),
    (0x050746FD, .ldI16 3 20 1 5 (.short 125)),
    (0x054746FD, .ldN16 3 20 1 5 (.short 125)),
    (0x058746FD, .ldI32 3 20 1 5 (.short 125)),
    (0x05C746FD, .ldN32 3 20 1 5 (.short 125)),
    (0x060746FD, .ldD 3 20 1 5 (.short 125)),
    (0x064746FD, .stB 3 20 1 5 (.short 125)),
    (0x068746FD, .stH 3 20 1 5 (.short 125)),
    (0x06C746FD, .stW 3 20 1 5 (.short 125)),
    (0x070746FD, .stD 3 20 1 5 (.short 125)),
    (0x07474A82, .ldxI8 3 20 21 1),
    (0x07474A8A, .ldxN8 3 20 21 1),
    (0x07474A92, .ldxI16 3 20 21 1),
    (0x07474A9A, .ldxN16 3 20 21 1),
    (0x07474AA2, .ldxI32 3 20 21 1),
    (0x07474AAA, .ldxN32 3 20 21 1),
    (0x07474AB2, .ldxD 3 20 21 1),
    (0x07474AC2, .stxB 3 20 21 1),
    (0x07474ACA, .stxH 3 20 21 1),
    (0x07474AD2, .stxW 3 20 21 1),
    (0x07474ADA, .stxD 3 20 21 1)] : List (Nat × Instr)), decodeC p.1 0 = .instr p.2 := by decide +kernel

/-- Words of C from the table of R255 and R256, their fields by R251. -/
theorem test_words_C1 : ∀ p ∈ ([(0x078A8068, .vld 2 20 1 5 none),
    (0x07D28068, .vst 4 20 1 5 none),
    (0x080A8968, .vldm 2 20 9 1 5 none),
    (0x08528968, .vstm 4 20 9 1 5 none),
    (0x088A9868, .vldt 2 20 24 1 5 none),
    (0x08D29868, .vstt 4 20 24 1 5 none),
    (0x090A876B, .vgather 2 20 7 1 5 3 none),
    (0x0952876B, .vscatter 4 20 7 1 5 3 none),
    (0x09874A83, .amoAdd 3 20 21 1 true),
    (0x09874A8B, .amoAnd 3 20 21 1 true),
    (0x09874A93, .amoOr 3 20 21 1 true),
    (0x09874A9B, .amoXor 3 20 21 1 true),
    (0x09874AA3, .amoMin 3 20 21 1 true),
    (0x09874AAB, .amoMax 3 20 21 1 true),
    (0x09874AB3, .amoMinn 3 20 21 1 true),
    (0x09874ABB, .amoMaxn 3 20 21 1 true),
    (0x09874AC3, .amoSwap 3 20 21 1 true),
    (0x09874ACB, .amoFadd 3 20 21 1 true),
    (0x09874AD3, .cas 3 20 21 1 true),
    (0x09C00280, .fence 5),
    (0x09C00281, .fenceSc 5),
    (0x0A014B36, .xld 20 22 1 5 2),
    (0x0A674B36, .xst 19 20 22 1 5 2),
    (0x0AA74B34, .xvld 19 20 22 1 5),
    (0x0AE74B34, .xvst 19 20 22 1 5),
    (0x0B674B37, .xcas 19 20 22 1 5 true),
    (0x0B800680, .post 13),
    (0x0B860001, .qnext 3),
    (0x0C2951ED, .mmaE4m3E4m3 20 21 3 3 1 2 true),
    (0x0C6951ED, .mmaE4m3E5m2 20 21 3 3 1 2 true),
    (0x0CA951ED, .mmaE5m2E4m3 20 21 3 3 1 2 true),
    (0x0CE951ED, .mmaE5m2E5m2 20 21 3 3 1 2 true),
    (0x0D2951ED, .mmaBf16Bf16 20 21 3 3 1 2 true),
    (0x0D6951ED, .mmaF16F16 20 21 3 3 1 2 true),
    (0x0DA951ED, .mmaI8I8 20 21 3 3 1 2 true),
    (0x0DE951ED, .mmaI8T2 20 21 3 3 1 2 true),
    (0x0E2951ED, .mmaE8oI8 20 21 3 3 1 2 true),
    (0x0E6951ED, .mmaE8oE4m3 20 21 3 3 1 2 true),
    (0x0EA951ED, .mmaE8oBf16 20 21 3 3 1 2 true),
    (0x0ED3AD80, .mldb 9 26 27),
    (0x0EC00001, .mzero),
    (0x0F13ADF0, .tst 9 26 27 28),
    (0x0F13AD81, .tadv 9 26 27),
    (0x0F13AD82, .tlow 9 26 27)] : List (Nat × Instr)), decodeC p.1 0 = .instr p.2 := by decide +kernel

/-- Words of A from the tables of R257 to R259, their fields by R253. -/
theorem test_words_A0 : ∀ p ∈ ([(0x00000000, .nopA),
    (0x0474AC00, .add 3 20 21 true),
    (0x0474AC01, .sub 3 20 21 true),
    (0x0474A802, .and 3 20 21),
    (0x0474A803, .or 3 20 21),
    (0x0474A804, .xor 3 20 21),
    (0x0474A805, .andn 3 20 21),
    (0x0474A806, .orn 3 20 21),
    (0x0474AC07, .shl 3 20 21 true),
    (0x0474AC08, .shr 3 20 21 true),
    (0x0474AC09, .sar 3 20 21 true),
    (0x0474AC0A, .rol 3 20 21 true),
    (0x0474A80B, .min 3 20 21),
    (0x0474A80C, .max 3 20 21),
    (0x0474A80D, .minn 3 20 21),
    (0x0474A80E, .maxn 3 20 21),
    (0x0474A80F, .seq 3 20 21),
    (0x0474A810, .sne 3 20 21),
    (0x0474A811, .slt 3 20 21),
    (0x0474A812, .sltn 3 20 21),
    (0x0474A813, .sle 3 20 21),
    (0x0474A814, .slen 3 20 21),
    (0x0474A815, .bget 3 20 21),
    (0x0474A816, .bset 3 20 21),
    (0x0474A817, .bclr 3 20 21),
    (0x0474A818, .bflip 3 20 21),
    (0x04740019, .popc 3 20),
    (0x0474001A, .clz 3 20),
    (0x0474001B, .ctz 3 20),
    (0x0474001C, .rev 3 20),
    (0x0474001D, .mov 3 20),
    (0x0474A81E, .cmov 3 20 21),
    (0x0474101F, .sext 3 20 2),
    (0x04741020, .zext 3 20 2),
    (0x0474AC21, .mul 3 20 21 true),
    (0x0474AC22, .mulh 3 20 21 true),
    (0x0474AC23, .mulhn 3 20 21 true),
    (0x0474AC24, .div 3 20 21 true),
    (0x0474AC25, .divn 3 20 21 true),
    (0x0474AC26, .rem 3 20 21 true),
    (0x0474AC27, .remn 3 20 21 true),
    (0x0874FFFD, .addi 3 20 65533),
    (0x0C74FFFD, .andi 3 20 65533),
    (0x1074FFFD, .ori 3 20 65533),
    (0x1474FFFD, .xori 3 20 65533),
    (0x1874FFFD, .slti 3 20 65533),
    (0x1C60FFFD, .movi 3 65533),
    (0x20741460, .bext 3 20 5 6),
    (0x24741460, .bins 3 20 5 6),
    (0x2874FFFD, .movhi 3 20 65533),
    (0x2C74201D, .shli 3 20 true 29),
    (0x2C74601D, .shri 3 20 true 29),
    (0x2C74A01D, .sari 3 20 true 29),
    (0x3074A818, .fadd 3 20 21 1 2),
    (0x3074A858, .fsub 3 20 21 1 2),
    (0x3074A898, .fmul 3 20 21 1 2),
    (0x3074A8D8, .fma 3 20 21 1 2),
    (0x3074A918, .fms 3 20 21 1 2),
    (0x3074A958, .fnma 3 20 21 1 2),
    (0x3074A998, .fdiv 3 20 21 1 2)] : List (Nat × Instr)), decodeA p.1 = .instr p.2 := by decide +kernel

/-- Words of A from the tables of R257 to R259, their fields by R253. -/
theorem test_words_A1 : ∀ p ∈ ([(0x307401D8, .fsqrt 3 20 1 2),
    (0x30740210, .frcp 3 20 1),
    (0x30740250, .frsq 3 20 1),
    (0x3074AA90, .fmin 3 20 21 1),
    (0x3074AAD0, .fmax 3 20 21 1),
    (0x30740310, .fabs 3 20 1),
    (0x30740350, .fneg 3 20 1),
    (0x3074AB90, .fcpsgn 3 20 21 1),
    (0x307403D0, .fclass 3 20 1),
    (0x3074AC10, .feq 3 20 21 1),
    (0x3074AC50, .flt 3 20 21 1),
    (0x3074AC90, .fle 3 20 21 1),
    (0x307404DB, .fcvt 3 20 1 2 3),
    (0x3074051B, .fcvti 3 20 1 2 3),
    (0x3074055B, .fcvtf 3 20 1 2 3),
    (0x30740590, .fexp 3 20 1),
    (0x3074ADD8, .fscl 3 20 21 1 2),
    (0x4091F000, .vadd 2 4 7 12),
    (0x4091F001, .vsub 2 4 7 12),
    (0x4091F002, .vmul 2 4 7 12),
    (0x4091D003, .vmulh 2 4 7 4),
    (0x4091F004, .vfma 2 4 7 12),
    (0x4091F005, .vfms 2 4 7 12),
    (0x4091F006, .vmin 2 4 7 12),
    (0x4091F007, .vmax 2 4 7 12),
    (0x40903008, .vabs 2 4 12),
    (0x40903009, .vneg 2 4 12),
    (0x4091F00A, .vand 2 4 7 12),
    (0x4091F00B, .vor 2 4 7 12),
    (0x4091F00C, .vxor 2 4 7 12),
    (0x4091F00D, .vandn 2 4 7 12),
    (0x4091D00E, .vshl 2 4 7 4),
    (0x4091D00F, .vshr 2 4 7 4),
    (0x4091D010, .vsar 2 4 7 4),
    (0x4091F0D1, .vcmp 2 4 7 12 3),
    (0x4091F252, .vsel 2 4 7 12 9),
    (0x4091F013, .vmand 2 4 7 12),
    (0x4091F014, .vmor 2 4 7 12),
    (0x40903015, .vmnot 2 4 12),
    (0x40903296, .vcvt 2 4 12 10),
    (0x4091F017, .vperm 2 4 7 12),
    (0x4091F018, .vrot 2 4 7 12),
    (0x40903019, .vsum 2 4 12),
    (0x4090301A, .vmaxr 2 4 12),
    (0x4090301B, .vminr 2 4 12),
    (0x4091F01C, .vdot 2 4 7 12),
    (0x4091F01D, .vlerp 2 4 7 12),
    (0x4091F01E, .vclamp 2 4 7 12),
    (0x4090301F, .vrcp 2 4 12),
    (0x40903020, .vrsq 2 4 12),
    (0x40903021, .vexp2 2 4 12),
    (0x40903022, .vlog2 2 4 12),
    (0x40903023, .vsinpi 2 4 12),
    (0x40903024, .vcospi 2 4 12),
    (0x4482B800, .vbcast 2 21 12),
    (0x4492B801, .vins 2 4 21 12),
    (0x4492B802, .vext 2 4 21 12),
    (0x4412B803, .vmpop 21 4 12),
    (0x4492B804, .vscl 2 4 21 12),
    (0x4492B805, .vqe8 2 4 21 12)] : List (Nat × Instr)), decodeA p.1 = .instr p.2 := by decide +kernel

/-- Words of A from the tables of R257 to R259, their fields by R253. -/
theorem test_words_A2 : ∀ p ∈ ([(0x4492B806, .vde8 2 4 21 12),
    (0x4492B807, .vfix 2 4 21 12),
    (0x4492B808, .vunfix 2 4 21 12),
    (0x4412B809, .vmaxe 21 4 12),
    (0x4891ED7C, .vex 2 4 7 22 23 12),
    (0xF3FFFFFD, .hintA 67108861)] : List (Nat × Instr)), decodeA p.1 = .instr p.2 := by decide +kernel
/-- Lone bundles: word C, X, instruction. The words of xsend, xamo, mdrain and tld are the spec's own; the others are formed by R251 and R255. -/
theorem test_words_lone : ∀ p ∈ ([(0x82500000, 0x40000000, .lih 8 0x40000000), (0x83800000, 0x60, .mark 0x60),
    (0x8B21248E, 0, .xamoAdd 16 18 9 0 3 false), (0x8B0E848F, 1, .xamoAnd 7 8 9 0 3 true), (0x8B0E848F, 2, .xamoOr 7 8 9 0 3 true),
    (0x8B21248E, 3, .xamoXor 16 18 9 0 3 false), (0x8B21248E, 4, .xamoMin 16 18 9 0 3 false), (0x8B21248E, 5, .xamoMax 16 18 9 0 3 false),
    (0x8B21248E, 6, .xamoMinn 16 18 9 0 3 false), (0x8B21248E, 7, .xamoMaxn 16 18 9 0 3 false), (0x8B0E848F, 8, .xamoSwap 7 8 9 0 3 true),
    (0x8B21248E, 9, .xamoFadd 16 18 9 0 3 false), (0x8BCA6380, 0x00202240, .xsend 5 6 7 64 2 0x101),
    (0x8ED0952E, 0x18, .mdrain 8 9 10 11 8 1), (0x8ED00526, 0xC, .mdrain 8 0 10 9 12 0), (0x8F044017, 0x47, .tld 2 4 0 5 7 false true),
    (0x8F29AAEF, 0x3C, .tld 20 26 21 27 28 true false), (0x82160000, 0x0F000000, .li 11 (.ext 0x0F000000)),
    (0x86062000, 0xFFFFFFFF, .ldD 3 2 0 0 (.ext 0xFFFFFFFF)), (0x80C62C00, 0x12345, .bt 3 5 (.ext 0x12345)),
    (0x87888000, 0x200, .vld 2 4 0 0 (some 0x200)), (0x80000000, 0xFFFFFFFF, .nopC)] : List (Nat × Nat × Instr)),
    decodeC p.1 p.2.1 = .instr p.2.2 := by decide +kernel

/-- The spec's own words: R283, R285, R289, R308 to R310, R317, R319, R335 to R337, R342, and the programs of files 19 to 23. -/
theorem test_words_spec : ∀ p ∈ ([(0x00C62FFC, .bt 3 5 (.short 0x3FC)), (0x01862C00, .guard 3 5), (0x01C01040, .rept 0 2 1),
    (0x0340FFB0, .trap 0xFFB0), (0x06062022, .ldD 3 2 0 0 (.short 34)), (0x0716A800, .stD 11 10 2 0 (.short 0)), (0x07485330, .ldxD 4 5 6 0),
    (0x09C00180, .fence 3), (0x09C00201, .fenceSc 4), (0x0A0063AF, .xld 6 7 1 3 3), (0x22D07480, .cwait 8 7 9), (0x0A4EE4CF, .xst 7 14 9 2 3 3),
    (0x0B800000, .post 0), (0x0E8A63C8, .mmaE8oBf16 5 6 7 2 1 0 false), (0x0C0A6381, .mmaE4m3E4m3 5 6 7 0 0 0 true), (0x0EC86500, .mldb 4 6 10),
    (0x0EC00001, .mzero), (0x02C00484, .mwait 9), (0x0F043301, .tadv 2 3 6), (0x0F280228, .tst 20 0 4 10), (0x0F29D282, .tlow 20 29 5),
    (0x02820006, .start 1 (.short 6)), (0x02F0DB8A, .sbarMax 24 13 23), (0x131A0006, .vote 13), (0x77888000, .vld 2 4 0 0 none),
    (0x04400006, .wait 6), (0x0218EA60, .li 12 (.short 0xEA60)), (0x03000005, .sexit)] : List (Nat × Instr)),
    decodeC p.1 0 = .instr p.2 := by decide +kernel

theorem test_words_spec_A : ∀ p ∈ ([(0x04642825, .divn 3 4 5 false), (0x0884FFF8, .addi 4 4 (-8)), (0x2CA66003, .shri 5 6 true 3),
    (0x2043A070, .bext 2 3 40 7), (0x30430210, .frcp 2 3 1), (0x408D3000, .vadd 2 3 4 12), (0x4104B091, .vcmp 4 1 2 12 2),
    (0x41487112, .vsel 5 2 1 12 4), (0x40943296, .vcvt 2 5 12 10), (0x44487805, .vqe8 1 2 3 12), (0x4848C85C, .vex 1 2 3 4 5 12),
    (0x1C60000 * 16 + 5, .movi 3 5)] : List (Nat × Instr)), decodeA p.1 = .instr p.2 := by decide +kernel

/-- Bundles of the spec: their stall count and both slots. -/
theorem test_bundles : decodeBytes (leBytes 8 0x1C60000500800060) = ⟨0, false, .instr (.call 0x60), .instr (.movi 3 5)⟩ ∧
    decodeBytes (leBytes 8 0x04A3182123000002) = ⟨2, false, .instr .ret, .instr (.mul 5 3 3 false)⟩ ∧
    decodeBytes (leBytes 8 0x4104B09174400001) = ⟨7, false, .instr (.wait 1), .instr (.vcmp 4 1 2 12 2)⟩ ∧
    decodeBytes (leBytes 8 0x002022408BCA6380) = ⟨0, true, .instr (.xsend 5 6 7 64 2 0x101), .instr .nopA⟩ ∧
    decodeBytes [1, 2, 3] = ⟨0, false, .bad .truncated, .bad .truncated⟩ := by decide +kernel

/-- Words that R260 leaves without an instruction: unassigned majors, functions and operand values, and the instructions that need X. -/
theorem test_words_bad : (∀ w ∈ [0x0F400000, 0x0FC00000, 0x02C00485, 0x0300000B, 0x03C60016, 0x07485378, 0x09800058, 0x09000004, 0x0C0A638A, 0x02500000,
      0x03800000, 0x0B21248E, 0x0BCA6380, 0x0ED0952E, 0x0F044017], (decodeC w 0).isBad = true) ∧
    (∀ w ∈ [0x34000000, 0xEC000000, 0x04642828, 0x04642C02, 0x0464181F, 0x2043C4F0, 0x2CA6C003, 0x2CA66020, 0x30430600, 0x408D3800, 0x4000003F, 0x44487A07],
      (decodeA w).isBad = true) := by decide +kernel

/-! ## Well-formedness: a term that each check refuses -/

theorem test_ill_formed : ∀ i ∈ ([.start 0 (.short 0), .start 11 (.short 0), .getsr 1 22, .setsr 1 22, .xcas 31 1 2 0 0 true, .xsend 1 2 3 63 0 0, .xsend 1 2 3 64 16 0,
    .mmaE4m3E4m3 1 2 3 0 1 0 false, .mmaE4m3E5m2 1 2 3 0 0 1 false, .mmaE5m2E4m3 1 2 3 1 2 0 false, .mmaE5m2E5m2 1 2 3 1 0 2 false,
    .mmaBf16Bf16 1 2 3 0 1 0 false, .mmaF16F16 1 2 3 0 0 1 false, .mmaI8I8 1 2 3 2 3 0 false, .mmaI8T2 1 2 3 2 0 3 false, .mmaE8oI8 1 2 3 0 1 0 false,
    .mmaE8oE4m3 1 2 3 0 0 1 false, .mmaE8oBf16 1 2 3 0 3 0 false, .mdrain 1 2 3 4 7 0, .mdrain 1 2 3 4 13 0, .mdrain 1 2 3 4 12 4, .sext 1 2 3, .zext 1 2 3,
    .bext 1 2 60 4, .bins 1 2 63 1, .shli 1 2 true 32, .shri 1 2 true 32, .sari 1 2 true 63, .vadd 1 2 3 8, .vsub 1 2 3 14, .vmul 1 2 3 9, .vmulh 1 2 3 10,
    .vfma 1 2 3 7, .vfms 1 2 3 14, .vmin 1 2 3 15, .vmax 1 2 3 8, .vabs 1 2 14, .vneg 1 2 15, .vshl 1 2 3 8, .vshr 1 2 3 12, .vsar 1 2 3 14, .vcmp 1 2 3 4 6,
    .vcmp 1 2 3 12 4, .vcvt 1 2 15 12, .vcvt 1 2 12 15, .vcvt 1 2 13 8, .vcvt 1 2 12 10, .vcvt 2 2 12 8, .vcvt 2 3 10 12, .vperm 1 2 3 14, .vsum 1 2 8,
    .vmaxr 1 2 14, .vminr 1 2 9, .vdot 1 2 3 15, .vlerp 1 2 3 4, .vclamp 1 2 3 4, .vrcp 1 2 13, .vrsq 1 2 9, .vexp2 1 2 13, .vlog2 1 2 13, .vsinpi 1 2 13,
    .vcospi 1 2 13, .vscl 1 2 3 7, .vqe8 1 2 3 13, .vde8 1 2 3 11, .vfix 1 2 3 12, .vfix 2 2 3 10, .vunfix 1 3 2 12, .vunfix 1 2 3 11, .vmaxe 1 2 13,
    .vex 1 2 3 4 5 13] : List Instr), i.wf = false := by decide +kernel

/-- A bundle with its slots exchanged, with a lone-only instruction without L, and with an instruction behind a lone one. -/
theorem test_ill_formed_bundle : ({ stall := 0, lone := false, c := .nopA, a := .nopA } : Bundle).wf = false ∧
    ({ stall := 0, lone := false, c := .nopC, a := .nopC } : Bundle).wf = false ∧
    ({ stall := 0, lone := false, c := .lih 1 0, a := .nopA } : Bundle).wf = false ∧
    ({ stall := 0, lone := true, c := .nopC, a := .mov 1 2 } : Bundle).wf = false ∧
    ({ stall := 0, lone := true, c := .bt 1 2 (.short 3), a := .nopA } : Bundle).wf = false ∧
    ({ stall := 7, lone := false, c := .bt 1 2 (.short 3), a := .divn 3 4 5 false } : Bundle).wf = true := by decide +kernel
/-! ## Single steps -/

/-- What a step or an instruction leaves, where it goes on. -/
def after (o : Host.Outcome State Fault Refusal) : Option State :=
  match o with
  | .next t => some t
  | _ => none
/-- The bench: slice 0 of core 0 running at supervisor privilege, its workspace at 4096, memory zero. -/
noncomputable def m0 : State := State.reset.withBundle 0 0
/-- The bundle at 0 of the bench's slice 0, context 0, as the issuer of something. -/
def iss0 : Issuer := ⟨0, 8, false, true, 0, 0, 0, 0, 0, 0⟩
/-- The bench with words in general registers, and with one in a vector register. -/
noncomputable def regs (l : List (GReg × Word)) : State := l.foldl (fun s p => s.writeG p.1 p.2) m0
noncomputable def vregs (s : State) (l : List (VReg × Nat)) : State := l.foldl (fun s p => s.landOne (.v p.1 (BitVec.ofNat 4096 p.2))) s
/-- Results on their way for general registers, with their distances, and for vector registers. -/
def gs (o : Host.Outcome State Fault Refusal) : List (GReg × Word × Nat) :=
  match o with
  | .next t => t.cx.pend.filterMap (fun p => match p.res with
    | .g r v => some (r, v, p.land)
    | _ => none)
  | _ => []
def vs (o : Host.Outcome State Fault Refusal) : List (VReg × Nat × Nat) :=
  match o with
  | .next t => t.cx.pend.filterMap (fun p => match p.res with
    | .v r v => some (r, v.toNat, p.land)
    | _ => none)
  | _ => []
def flagsOf (o : Host.Outcome State Fault Refusal) : Option Nat :=
  (after o).bind (fun t => t.cx.pend.findSome? (fun p => match p.res with
    | .fps f => some f.toNat
    | _ => none))

/-- The fetched word runs: `addi g4, g4, -8` on 5 leaves -3 at distance 1 and the pc at the next bundle (R348, R158). -/
theorem test_step_addi : ((after (step ((regs [(4, 5)]).withBundle 0 0x0884FFF8))).map (fun t =>
    (t.core.slices[0].ctxs[0].pc, t.core.slices[0].ctxs[0].pend.map (·.res), t.core.slices[0].ctxs[0].dist))) = some (8, [.g 4 (-3)], 1) := by decide +kernel
/-- `trap 0xFFB0` in a slice with its handler at 0x40: the record's cause, trap pc and address, and the pc at the vector (R302, R207). -/
theorem test_step_trap : ((after (step (State.setSl (m0.withFetchWord 32 0x0340FFB0) { m0.sl with trv := 8 }))).map (fun t =>
    (t.core.slices[0].ctxs[0].pc.toNat, t.mem.rd (coreKey 0 (4096 + 0x110)) 8, t.mem.rd (coreKey 0 (4096 + 0x118)) 8, t.mem.rd (coreKey 0 (4096 + 0x128)) 8))) =
    some (0x40, 0x8000000000FFB013, 8, 0) := by decide +kernel
/-- Division (R347): -7 by 2, `divn.w` of 7 by 0, `div.w` of the most negative by -1. -/
theorem test_division : gs (exec (.div 3 1 2 false) (regs [(1, -7), (2, 2)])) = [(3, -3, 20)] ∧ gs (exec (.rem 3 1 2 false) (regs [(1, -7), (2, 2)])) = [(3, -1, 20)] ∧
    gs (exec (.divn 3 1 2 true) (regs [(1, 7)])) = [(3, 0xFFFFFFFFFFFFFFFF, 12)] ∧
    gs (exec (.div 3 1 2 true) (regs [(1, 0x80000000), (2, -1)])) = [(3, 0xFFFFFFFF80000000, 12)] := by decide +kernel
/-- `bext g2, g3, 40, 8` gives byte 5 (R350); `shri.w` of a negative word; a product's high half; `movhi`. -/
theorem test_fields : gs (exec (.bext 2 3 40 7) (regs [(3, 0x1122334455667788)])) = [(2, 0x33, 1)] ∧
    gs (exec (.shri 5 6 true 3) (regs [(6, 0xFFFFFFFF80000008)])) = [(5, 0x10000001, 1)] ∧
    gs (exec (.mulh 3 1 2 false) (regs [(1, -1), (2, 2)])) = [(3, -1, 3)] ∧ gs (exec (.mulhn 3 1 2 false) (regs [(1, -1), (2, 2)])) = [(3, 1, 3)] ∧
    gs (exec (.movhi 3 1 0x8000) (regs [(1, 7)])) = [(3, 0xFFFFFFFF80000007, 1)] := by decide +kernel
/-- The spec's reproducible sums of file 23: a tie to even, an overflow to infinity, an invalid sum, subnormals (f32, to nearest). -/
theorem test_fadd : gs (exec (.fadd 3 1 2 1 0) (regs [(1, 0x4B800000), (2, 0x3F800000)])) = [(3, 0x4B800000, 4)] ∧
    gs (exec (.fadd 3 1 2 1 0) (regs [(1, 0x7F400000), (2, 0x7F000000)])) = [(3, 0x7F800000, 4)] ∧
    gs (exec (.fadd 3 1 2 1 0) (regs [(1, 0x7F800000), (2, 0xFF800000)])) = [(3, 0x7FC00000, 4)] ∧
    gs (exec (.fadd 3 1 2 1 0) (regs [(1, 1), (2, 1)])) = [(3, 2, 4)] ∧ gs (exec (.fadd 3 1 2 1 0) (regs [(1, 0x42C80000), (2, 0xBE800000)])) = [(3, 0x42C78000, 4)] ∧
    flagsOf (exec (.fadd 3 1 2 1 0) (regs [(1, 0x7F800000), (2, 0xFF800000)])) = some 1 := by decide +kernel
/-- The table of `frcp.f32` (R355). -/
theorem test_frcp : gs (exec (.frcp 3 1 1) (regs [(1, 0x80000000)])) = [(3, 0xFF800000, 6)] ∧ gs (exec (.frcp 3 1 1) (regs [(1, 0x7F000000)])) = [(3, 0x00400000, 6)] := by
  decide +kernel
/-- The octet of R239 and R372: 0.3, -1.2, 1.7, 0.5, -0.6, 2.6, 0.0 and -1.0 at scale 0 quantise to 0xC73C and overflow the shell. -/
theorem test_octet : quantise ([0x3E99999A, 0xBF99999A, 0x3FD9999A, 0x3F000000, 0xBF19999A, 0x40266666, 0, 0xBF800000].map (decodeF .f32)) 0 (List.replicate 8 false) =
    (0xC73C, true) := by decide +kernel
/-- The example of R370: the pairwise f32 sum of 1, 2^24, 1, -2^24 by its tree is 1, with NX. -/
theorem test_vsum : (vs (exec (.vsum 1 2 12) (vregs m0 [(2, 0x3F800000 + 0x4B800000 * 2 ^ 32 + 0x3F800000 * 2 ^ 64 + 0xCB800000 * 2 ^ 96)]))).map (fun p => (p.1, p.2.1, p.2.2)) =
    [(1, 0x3F800000, 20)] := by decide +kernel
/-- The postfix example of R379: relu(va * vb + vd) of 1.5, -4 and 7 is 1, of 5 is +0; the fifth push takes 0x12 with index 4. -/
theorem test_vex : (vs (exec (.vex 1 2 3 4 5 12) (vregs (regs [(4, 0x12480415)]) [(1, 0x40E00000 + 0x40A00000 * 2 ^ 32), (2, 0x3FC00000 + 0x3FC00000 * 2 ^ 32),
      (3, 0xC0800000 + 0xC0800000 * 2 ^ 32)]))).map (fun p => (p.1, p.2.1, p.2.2)) = [(1, 0x3F800000, 20)] ∧
    (after (exec (.vex 1 2 3 4 5 12) (regs [(4, 0x04208205)]))).map (fun t => t.core.took) = some true := by decide +kernel
/-- `ld.d` and `ld.n8` are little-endian; `st.h` writes the two low bytes; `amo.add.w` gives the old word sign-extended. -/
theorem test_memory : gs (exec (.ldD 3 1 0 0 (.short 1)) ((regs [(1, 0x100)]).putGood (coreKey 0 0x108) 8 0x0102030405060788)) = [(3, 0x0102030405060788, 3)] ∧
    gs (exec (.ldI8 3 1 0 0 (.short 8)) ((regs [(1, 0x100)]).putGood (coreKey 0 0x108) 8 0x0102030405060788)) = [(3, -0x78, 3)] ∧
    ((after (exec (.stH 2 1 0 0 (.short 3)) (regs [(1, 0x100), (2, 0x12345678)]))).map (fun t => t.mem.rd (coreKey 0 0x100) 16)) = some (0x5678 * 2 ^ 48) ∧
    gs (exec (.amoAdd 3 1 2 0 false) ((regs [(1, 0x100), (2, 1)]).putGood (coreKey 0 0x100) 4 0xFFFFFFFF)) = [(3, -1, 4)] ∧
    ((after (exec (.amoAdd 3 1 2 0 false) ((regs [(1, 0x100), (2, 1)]).putGood (coreKey 0 0x100) 8 0x5FFFFFFFF))).map (fun t => t.mem.rd (coreKey 0 0x100) 8)) =
      some 0x500000000 := by decide +kernel
/-- A misaligned load takes 0x06 with its address, an ordering it may not have 0x02 (R309); the record without a handler. -/
theorem test_load_traps : (after (exec (.ldD 3 1 0 0 (.short 0)) (regs [(1, 0x101)]))).map (fun t => (t.mem.rd (coreKey 0 (4096 + 0x110)) 2, t.mem.rd (coreKey 0 (4096 + 0x128)) 8)) =
    some (6, 0x101) ∧ (after (exec (.ldD 3 1 2 0 (.short 0)) (regs [(1, 0x100)]))).map (fun t => t.mem.rd (coreKey 0 (4096 + 0x110)) 2) = some 2 := by decide +kernel
/-- `call` links P + 16 in g31 and goes to P + 8 * 0x60 behind its delay bundle (R283). -/
theorem test_call : gs (exec (.call 0x60) m0) = [(31, 16, 1)] ∧ (after (exec (.call 0x60) m0)).map (fun t => t.cx.xfer) = some (some 0x300) := by decide +kernel
/-- Special registers: the core id, the workspace, a write of `s.fpc` keeps only its writable bits (R261, R291). -/
theorem test_special : gs (exec (.getsr 3 0) m0) = [(3, 4096, 2)] ∧ (after (exec (.setsr 1 11) (regs [(1, -1)]))).map (fun t => t.readSr 11) = some 0x9F03 ∧
    (after (exec (.setsr 1 22) m0)).map (fun t => t.core.took) = some true := by decide +kernel
/-- `mzero` enters the empty matrix queue, and channel 0 counts it (R338, R176). -/
theorem test_mzero : (after (exec .mzero m0)).map (fun t => (t.core.mq.length, t.sl.jobs[(0 : Fin 16)])) = some (1, 1) := by decide +kernel

/-! ## For each statement with hypotheses, states and operands that meet them -/

theorem next_of {o : Host.Outcome State Fault Refusal} (h : (after o).isSome = true) : ∃ t, o = .next t := by
  cases o <;> simp_all [after]
theorem mem_of {α : Type} {l : List α} (h : l.isEmpty = false) : ∃ x, x ∈ l := by
  cases l <;> simp_all
theorem all_nil {α : Type} {l : List α} {p : α → Prop} (h : l.isEmpty = true) : ∀ x ∈ l, p x := by
  cases l <;> simp_all
theorem num_of {f : Fmt} {c : Nat} (h : decide (c < 2 ^ f.width) && (match decodeF f c with
    | .fin .. => true
    | _ => false) = true) : IsNum f c := by
  simp only [Bool.and_eq_true, decide_eq_true_eq] at h
  refine ⟨h.1, ?_⟩
  cases e : decodeF f c with
  | fin n m k => exact ⟨n, m, k, rfl⟩
  | nan _ => simp [e] at h
  | inf _ => simp [e] at h

theorem witness_Decode_of_encode : (⟨7, true, .tld 31 31 31 31 31 true true, .nopA⟩ : Bundle).wf = true ∧
    (⟨0, false, .mmaE8oBf16 31 31 31 3 3 3 true, .bins 31 31 63 0⟩ : Bundle).wf = true ∧
    (⟨1, true, .ldD 31 31 1 7 (.ext 0x80000000), .nopA⟩ : Bundle).wf = true := by decide +kernel

theorem witness_Unassigned_words_are_illegal :
    (∀ w ∈ [13 * 2 ^ 26, 15 * 2 ^ 26 + 2 ^ 26 - 1, 19 * 2 ^ 26, 59 * 2 ^ 26 + 2 ^ 26 - 1], w < 2 ^ 32 ∧ (fld w 31 26 ∈ [13, 14, 15] ∨ 19 ≤ fld w 31 26 ∧ fld w 31 26 ≤ 59)) ∧
    (∀ w ∈ [61 * 2 ^ 22, 15 * 2 ^ 28 + 63 * 2 ^ 22], w < 2 ^ 32 ∧ (fld w 27 22 = 61 ∨ fld w 27 22 = 63)) ∧
    (∀ w ∈ [2 ^ 26 + 40, 2 ^ 26 + 1023], w < 2 ^ 32 ∧ fld w 31 26 = 1 ∧ 40 ≤ fld w 9 0) ∧
    (∀ w ∈ [2 ^ 26 + 1024 + 2, 2 ^ 26 + 1024 + 32], w < 2 ^ 32 ∧ fld w 31 26 = 1 ∧ fld w 10 10 = 1 ∧ fld w 9 0 ∉ [0, 1, 7, 8, 9, 10, 33, 34, 35, 36, 37, 38, 39]) ∧
    (∀ w ∈ [2 ^ 26 + 3 * 2048 + 31, 2 ^ 26 + 31 * 2048 + 32], w < 2 ^ 32 ∧ fld w 31 26 = 1 ∧ (fld w 9 0 = 31 ∨ fld w 9 0 = 32) ∧ 3 ≤ fld w 15 11) ∧
    (∀ w ∈ [12 * 2 ^ 26 + 24 * 64, 12 * 2 ^ 26 + 31 * 64], w < 2 ^ 32 ∧ fld w 31 26 = 12 ∧ 24 ≤ fld w 10 6) ∧
    (11 * 2 ^ 26 + 3 * 2 ^ 14 < 2 ^ 32 ∧ fld (11 * 2 ^ 26 + 3 * 2 ^ 14) 31 26 = 11 ∧ fld (11 * 2 ^ 26 + 3 * 2 ^ 14) 15 14 = 3) := by decide +kernel

/-- `nop || addi g4, g4, -8` at the pc of the bench. -/
noncomputable def mAddi : State := m0.withBundle 0 0x0884FFF8
noncomputable def fAddi : Fetched := ⟨0, false, .instr .nopC, .instr (.addi 4 4 (-8))⟩
theorem witness_Step_runs_the_decoded_bundle : Alone mAddi 0 0 ∧ (let t := atIssue mAddi 0 0
    t.cx.rpa = false ∧ decodeBytes (t.mem.bytes (coreKey t.core.id (393216 + t.cx.pc.toNat)) 8) = fAddi ∧ t.blocks fAddi = false ∧
    (t.take fAddi).bundleTraps fAddi = [] ∧ (bundleStart t fAddi).fpWait fAddi = none ∧ (bundleStart t fAddi).partnerRuns .nopC = true ∧
    ∃ u, exec (.addi 4 4 (-8)) (bundleStart t fAddi) = .next u ∧ ∃ v, exec .nopC u = .next v) := by
  refine ⟨by constructor <;> decide +kernel, ?_⟩
  obtain ⟨u, h⟩ := next_of (show (after (exec (.addi 4 4 (-8)) (bundleStart (atIssue mAddi 0 0) fAddi))).isSome = true by decide +kernel)
  repeat' with_reducible apply And.intro
  all_goals first | decide +kernel | exact ⟨u, h, u, rfl⟩

/-- An entry that admits everything; the bench with its tables, the module present, and path entries to station 0 and of path 64. -/
def openEntry : BitVec 64 := 0x8000000000003F80
noncomputable def mOpen : State :=
  { m0 with fab := { m0.fab with present := ⟨[(0, 1)]⟩, path := ⟨[(0, BitVec.ofNat 192 (2 ^ 191)), (64, BitVec.ofNat 192 (2 ^ 191 + 2 ^ 184))]⟩, base := [openEntry],
                                 unitBase := [openEntry] } }
/-- A result that lands in cycle 9; the bench with its overflow area, under a load there and a signalling
NaN with its enable set. -/
noncomputable def mLate : State := m0.setCx { m0.cx with pend := [⟨3, 0, 0, 9, .g 1 7, none⟩] }
noncomputable def fNan (c : Instr) : Fetched := ⟨0, false, .instr c, .instr (.fadd 3 2 2 1 0)⟩
noncomputable def mNan (s : State) : State := (s.setCx { s.cx with fpc := 0x1F00 }).writeG 2 0x7F800001
noncomputable def mOver : State := mNan ((mOpen.setSl { m0.sl with spl := 128, ovp := 0x8000000000010001 }).writeG 1 0x1BFFF8)
/-- What decides the cause of a bundle whose first trap is of rank 18: nothing that comes before, a fault of its access. -/
theorem witness_First_cause_of_rank_18 : ((m0.take ⟨0, false, .bad .major, .instr .nopA⟩).bundleTraps ⟨0, false, .bad .major, .instr .nopA⟩).any (fun y => decide (y.rank < 18)) = true ∧
    (let f := fNan .nopC
     let t := (mNan m0).take f
     t.bundleTraps f ≠ [] ∧ (∀ y ∈ t.bundleTraps f, 18 ≤ y.rank) ∧ (t.overAsked f).bind t.overFate = none) ∧
    (let f := fNan (.ldD 3 1 0 0 (.short 0))
     let t := mOver.take f
     t.bundleTraps f ≠ [] ∧ (∀ y ∈ t.bundleTraps f, 18 ≤ y.rank) ∧ (match (t.overAsked f).bind t.overFate with
       | some (.fault ..) => true
       | _ => false) = true) := by decide +kernel
theorem witness_First_cause_is_taken : (∃ x, x ∈ (m0.take ⟨0, false, .bad .major, .instr .nopA⟩).bundleTraps ⟨0, false, .bad .major, .instr .nopA⟩) ∧ m0.cx.spill = none ∧
    m0.cx.pend.all (fun p => decide (p.seq < 2 * m0.cx.seq)) = true ∧ ((m0.take ⟨0, false, .bad .major, .instr .nopA⟩).bundleTraps ⟨0, false, .bad .major, .instr .nopA⟩).all (fun y => y.late == 0) = true ∧
    (Instr.callr 1).isC = true ∧ (∃ x, pickTrap (checksC (.callr 1) (regs [(1, 4)])) = some x) ∧ (Instr.fadd 3 1 2 1 0).isA = true ∧
    (∃ x, pickTrap (checksA (.fadd 3 1 2 1 0) (State.setCx (regs [(1, 0x7F800001)]) { (regs [(1, 0x7F800001)]).cx with fpc := 0x1F00 })) = some x) := by
  refine ⟨mem_of (by decide +kernel), by decide +kernel, by decide +kernel, by decide +kernel, rfl, Option.isSome_iff_exists.mp (by decide +kernel), rfl, Option.isSome_iff_exists.mp (by decide +kernel)⟩

theorem witness_Steps_keep_memory_canonical : m0.mem.wf = true ∧ (∃ t, step m0 = .next t) ∧ State.reset.mem.wf = true ∧ ∃ t, step State.reset = .next t :=
  ⟨by decide +kernel, ⟨_, rfl⟩, by decide, ⟨_, rfl⟩⟩

theorem witness_Result_is_read_from_its_distance_on : (31 : GReg) ≠ 0 ∧ ∀ p ∈ m0.cx.pend, ∀ w, p.res ≠ .g 31 w := ⟨by decide, all_nil (by decide +kernel)⟩

/-- Two results for g1 due at one distance, and one for g2 due later. -/
noncomputable def mTwo : State := m0.setCx { m0.cx with dist := 3, pend := [⟨3, 0, 4, 0, .g 1 7, none⟩, ⟨3, 0, 5, 0, .g 1 9, none⟩, ⟨4, 0, 6, 0, .g 2 1, none⟩] }
theorem witness_Later_landing_prevails : (⟨3, 0, 5, 0, .g 1 9, none⟩ : Pending) ∈ mTwo.cx.pend ∧ 3 ≤ mTwo.cx.dist ∧
    (∀ q ∈ mTwo.cx.pend, (∃ w, q.res = .g 1 w) → q.land ≤ mTwo.cx.dist →
      q = ⟨3, 0, 5, 0, .g 1 9, none⟩ ∨ q.land < 3 ∨ q.land = 3 ∧ q.seq < 5) ∧
    (∀ q ∈ mTwo.cx.pend, ∀ w, q.res = .g 2 w → mTwo.cx.dist < q.land) ∧ (⟨3, 0, 5, 0, .g 1 9, none⟩ : Pending).was = none := by
  have h : mTwo.cx.pend = [⟨3, 0, 4, 0, .g 1 7, none⟩, ⟨3, 0, 5, 0, .g 1 9, none⟩, ⟨4, 0, 6, 0, .g 2 1, none⟩] := by decide +kernel
  have d : mTwo.cx.dist = 3 := by decide +kernel
  rw [h, d]
  refine ⟨by decide, by decide, ?_, ?_, rfl⟩ <;> intro q hq <;> simp only [List.mem_cons, List.not_mem_nil, or_false] at hq <;> rcases hq with rfl | rfl | rfl <;> simp

/-- The bench with its handler at 8, once attached to krabex, once at user privilege at the vector. -/
noncomputable def mVec : State := m0.setSl { m0.sl with trv := 1 }
noncomputable def mVecA : State := m0.setSl { m0.sl with trv := 1, attached := true }
noncomputable def mVecU : State := mVec.setCx { mVec.cx with prv := false, pc := 8, outc := 16, dly := true }
/-- A context that settles for a trap: its result still to land; the trap known in cycle 5; free to enter. -/
noncomputable def mSettle (s : State) (due : Nat) : State := s.setCx { s.cx with settle := some (.trap due (infoOf 7 0 0 0 0) true 0 8 false) }
theorem witness_Trap_entry : (mVec.sl.trv ≠ 0 ∧ mVec.sl.attached = false ∧ mVec.cx.pc ≠ BitVec.ofNat 64 (mVec.sl.trv.toNat * 8)) ∧
    (mVecA.sl.attached = true ∧ mVecA.sl.trv ≠ 0 ∧ (infoOf 7 0 0 0 0).cause.toNat % 256 ≠ 20 ∧ mVecA.cx.pc ≠ BitVec.ofNat 64 (mVecA.sl.trv.toNat * 8)) ∧
    (mVecU.sl.trv ≠ 0 ∧ mVecU.sl.attached = false ∧ mVecU.cx.prv = false) ∧ mVec.cx.owing mVec.core.cyc = false ∧ mLate.sl.attached = false ∧
    mLate.cx.owing mLate.core.cyc = true ∧ (mSettle mLate 0).landCycle.cx.pend ≠ [] ∧ (mSettle m0 5).core.cyc < 5 ∧
    ((mSettle m0 0).landCycle.cx.pend = [] ∧ ¬ (mSettle m0 0).core.cyc < 0) := by decide +kernel

theorem witness_Trap_without_a_handler_stops_the_slice : m0.sl.trv = 0 ∧ m0.sl.attached = false ∧ m0.cx.live = true ∧ m0.cx.owing m0.core.cyc = false ∧
    (∀ c, c ≠ m0.core.curCtx → m0.sl.ctxs[c].live = false) ∧ m0.sl.eff.fdom = none := by decide +kernel

theorem witness_Rfe_returns : m0.cx.prv = true ∧ m0.cx.dly = false ∧ m0.cx.rpa = false ∧ m0.cx.owing m0.core.cyc = false ∧ m0.cx.after = none ∧
    m0.cx.haltMark = false ∧ (m0.cx.stepping && m0.sl.attached) = false ∧ (mLate.cx.prv = true ∧ mLate.cx.dly = false ∧ mLate.cx.rpa = false ∧
    mLate.cx.owing mLate.core.cyc = true) := by decide +kernel

theorem witness_Trap_then_return_restores : (∀ s ∈ [mVec, mVecU], s.cx.entry.toNat % 8 = 0 ∧ s.cx.owing s.core.cyc = false ∧ s.cx.haltMark = false ∧
    (s.cx.stepping && s.sl.attached) = false) ∧ (infoOf 7 0 0 0 0).cause.getLsbD 63 = false ∧ (mVecU.sl.trv ≠ 0 ∧ mVecU.sl.attached = false ∧ mVecU.cx.prv = false ∧
    mVecU.cx.pc.toNat % 8 = 0 ∧ mVecU.cx.outc.toNat % 8 = 0 ∧ mVecU.cx.dly = true) ∧
    (mVec.sl.trv ≠ 0 ∧ mVec.sl.attached = false ∧ mVec.cx.pc ≠ BitVec.ofNat 64 (mVec.sl.trv.toNat * 8) ∧ mVec.cx.pc.toNat % 8 = 0 ∧ mVec.cx.outc.toNat % 8 = 0) := by decide +kernel

theorem witness_Integer_register_results : (2 : BitVec 2).toNat ≤ 2 ∧ (0 : BitVec 2).toNat ≤ 2 ∧ (regs [(2, 0)]).readG 2 = 0 ∧ (regs [(2, 1)]).readG 2 ≠ 0 := by decide +kernel

theorem witness_Division_never_traps : (∀ n ∈ [32, 64], let s := regs [(1, -BitVec.ofNat 64 (2 ^ (n - 1))), (2, -1)]
    intN n (s.readG 1) = -2 ^ (n - 1) ∧ intN n (s.readG 2) = -1 ∧ intN n (m0.readG 2) = 0 ∧ natN n (m0.readG 2) = 0 ∧ natN n (s.readG 2) ≠ 0) := by decide +kernel

theorem witness_Immediate_results : (31 : BitVec 6).toNat < opBits true ∧ (63 : BitVec 6).toNat < opBits false := by decide

theorem witness_Bit_fields : (∀ w ∈ [8 * 2 ^ 26 + 63 * 2 ^ 10 + 1 * 16, 9 * 2 ^ 26 + 1 * 2 ^ 10 + 63 * 16], w < 2 ^ 32 ∧ (fld w 31 26 = 8 ∨ fld w 31 26 = 9) ∧ 64 < fld w 15 10 + (fld w 9 4 + 1)) ∧
    (∀ w ∈ [8 * 2 ^ 26 + 63 * 2 ^ 10, 9 * 2 ^ 26 + 63 * 16], w < 2 ^ 32 ∧ (fld w 31 26 = 8 ∨ fld w 31 26 = 9) ∧ fld w 15 10 + (fld w 9 4 + 1) ≤ 64) ∧
    (0 : BitVec 6).toNat + ((63 : BitVec 6).toNat + 1) ≤ 64 ∧ (63 : BitVec 6).toNat + ((0 : BitVec 6).toNat + 1) ≤ 64 := by decide +kernel

/-- f32 codes in g1, g2 and g3. -/
noncomputable def fl (a b d : Word) : State := regs [(1, a), (2, b), (3, d)]
theorem codes_are_read : ∀ c ∈ [0x3F800000, 0xBF800000, 0x80000000, 0x7F800000, 0xFF800000, 0x7F800001, 0x7FC00000, 0, 1], let s := fl (BitVec.ofNat 64 c) (BitVec.ofNat 64 c) (BitVec.ofNat 64 c)
    s.codeF 1 1 = c ∧ s.codeF 1 2 = c ∧ s.codeF 1 3 = c := by decide +kernel
theorem codes_of_f32 : fNaN .f32 0x7F800001 = true ∧ fSig .f32 0x7F800001 = true ∧ fNaN .f32 0x7FC00000 = true ∧ fInf .f32 false = 0x7F800000 ∧ fInf .f32 true = 0xFF800000 ∧
    fZero .f32 true = 0x80000000 ∧ fZero .f32 false = 0 ∧ IsNum .f32 0x3F800000 ∧ IsNum .f32 0xBF800000 ∧ IsNum .f32 0x80000000 ∧ IsNum .f32 0 ∧ IsNum .f32 1 ∧
    numOf .f32 0x3F800000 = 1 ∧ numOf .f32 0xBF800000 = -1 ∧ numOf .f32 0x80000000 = 0 ∧ numOf .f32 0 = 0 ∧ 0 < numOf .f32 1 := by
  repeat' with_reducible apply And.intro
  all_goals first | decide +kernel | exact num_of (by decide)

/-- The operand codes of the clauses: a NaN; infinities; an infinity with a number, with a zero; a number over a zero; a zero over a zero; a negative
number; sums and products that are zero. -/
theorem witness_Float_arithmetic_special_results : (fNaN .f32 0x7F800001 || fNaN .f32 0x3F800000) = true ∧ (0x7F800000 = fInf .f32 false ∧ 0xFF800000 = fInf .f32 true) ∧
    (IsNum .f32 0x3F800000 ∧ numOf .f32 0x3F800000 ≠ 0) ∧ (IsNum .f32 0x80000000 ∧ numOf .f32 0x80000000 = 0 ∧ 0x80000000 = fZero .f32 true) ∧
    (IsNum .f32 0xBF800000 ∧ numOf .f32 0xBF800000 < 0) ∧ numOf .f32 0x3F800000 + numOf .f32 0xBF800000 = 0 ∧ numOf .f32 0x3F800000 * numOf .f32 0x80000000 = 0 := by
  refine ⟨by decide, ⟨by decide, by decide⟩, ⟨num_of (by decide), by decide +kernel⟩, ⟨num_of (by decide), by decide +kernel, by decide⟩,
    ⟨num_of (by decide), by decide +kernel⟩, by decide +kernel, by decide +kernel⟩

theorem witness_Float_results_correctly_rounded : let s := fl 0x3F800000 0xBF800000 1
    IsNum (scalarFmt 1) (s.codeF 1 1) ∧ IsNum (scalarFmt 1) (s.codeF 1 2) ∧ IsNum (scalarFmt 1) (s.codeF 1 3) ∧ numOf (scalarFmt 1) (s.codeF 1 2) ≠ 0 ∧ IsNum (scalarFmt 0) (s.codeF 0 1) :=
  ⟨num_of (by decide +kernel), num_of (by decide +kernel), num_of (by decide +kernel), by decide +kernel, num_of (by decide +kernel)⟩

theorem witness_Square_root_correctly_rounded : let s := fl 0x40000000 0 0
    IsNum (scalarFmt 1) (s.codeF 1 1) ∧ 0 ≤ numOf (scalarFmt 1) (s.codeF 1 1) ∧ IsNum (scalarFmt 1) 0x3FB504F3 ∧ 0 ≤ numOf (scalarFmt 1) 0x3FB504F3 :=
  ⟨num_of (by decide +kernel), by decide +kernel, num_of (by decide), by decide +kernel⟩

theorem witness_Float_minimum_maximum_and_sign : ∀ c ∈ [10, 11, 12, 13, 14], 12 * 2 ^ 26 + c * 64 < 2 ^ 32 ∧ fld (12 * 2 ^ 26 + c * 64) 31 26 = 12 ∧ fld (12 * 2 ^ 26 + c * 64) 10 6 = c := by decide
theorem witness_Float_class_and_compare : ∀ c ∈ [15, 16, 17, 18], 12 * 2 ^ 26 + c * 64 < 2 ^ 32 ∧ fld (12 * 2 ^ 26 + c * 64) 31 26 = 12 ∧ fld (12 * 2 ^ 26 + c * 64) 10 6 = c := by decide

/-- To an i32, f32 codes below, in and above the range; zero, infinity and NaN; an integer zero. -/
theorem witness_Float_conversions : (∀ c ∈ [0xCF000001, 0xCF000000, 0x4EFFFFFF, 0x4F000000], decide (c < 2 ^ 32) && (match decodeF .f32 c with
      | .fin .. => true
      | _ => false) = true) ∧ roundInt 0 (numOf .f32 0xCF000001) < -2 ^ 31 ∧ -2 ^ 31 ≤ roundInt 0 (numOf .f32 0xCF000000) ∧ roundInt 0 (numOf .f32 0x4EFFFFFF) ≤ 2 ^ 31 - 1 ∧
    2 ^ 31 - 1 < roundInt 0 (numOf .f32 0x4F000000) ∧ kindOf 2 (m0.readG 1) = 0 ∧ fNaN .f32 0x7F800001 = true ∧ 0x7F800000 = fInf .f32 false ∧ numOf .f32 0x80000000 = 0 ∧
    numOf .f32 1 ≠ 0 := by decide +kernel

theorem witness_Float_estimates : (IsNum .f32 0x40400000 ∧ numOf .f32 0x40400000 ≠ 0 ∧ 0 < numOf .f32 0x40400000 ∧ IsNum .f32 (rcpOn .f32 0x40400000).1 ∧
      (2 : Rat) ^ (Fmt.f32).emin ≤ (numOf .f32 (rcpOn .f32 0x40400000).1).abs) ∧ (IsNum .f32 0xBF800000 ∧ numOf .f32 0xBF800000 < 0) ∧
    (∀ c ∈ [0x80000000, 1, 0x7F000000, 0xFF800000, 0x7FA00000], (fl (BitVec.ofNat 64 c) 0 0).codeF 1 1 = c) := by
  refine ⟨⟨num_of (by decide), by decide +kernel, by decide +kernel, num_of (by decide +kernel), by decide +kernel⟩, ⟨num_of (by decide), by decide +kernel⟩, by decide +kernel⟩
/-- The bench with four vector registers declared. -/
noncomputable def mFour : State := m0.setSl { m0.sl with eff := { m0.sl.eff with vcc := 0 } }
/-- What a vector instruction's clauses ask of the registers and of the enables: declared or not, no flag enabled or one. -/
theorem registers_and_enables : m0.vregs [1, 2, 3] = true ∧ mFour.vregs [1, 2, 15] = false ∧ fpEnabled m0 0x3F = 0 ∧
    fpEnabled (m0.setCx { m0.cx with fpc := 0x1F00 }) 1 ≠ 0 := by decide +kernel

theorem witness_Vector_integer_results : (0 : BitVec 4).toNat < 8 ∧ (7 : BitVec 4).toNat < 8 ∧ (5 : BitVec 3).toNat ≤ 5 ∧ m0.vregs [1, 2, 3] = true ∧
    mFour.vregs [1, 2, 15] = false ∧ fpEnabled m0 0 = 0 := by decide +kernel

theorem witness_Vector_moves_and_masks : (15 : BitVec 4) ≠ 14 ∧ m0.vregs [1, 2, 3, 0] = true ∧ mFour.vregs [1, 2, 3, 15] = false := by decide +kernel

theorem witness_Vector_float_results : (10 ≤ (10 : BitVec 4).toNat ∧ (10 : BitVec 4).toNat ≤ 13) ∧ (10 ≤ (13 : BitVec 4).toNat ∧ (13 : BitVec 4).toNat ≤ 13) ∧
    (0 : BitVec 3).toNat ≤ 3 ∧ (3 : BitVec 3).toNat ≤ 3 ∧
    ((regs [(1, 0x3F800000), (2, 7)]).codeF 1 1 = 0x3F800000 ∧ (regs [(1, 0x3F800000), (2, 7)]).readG 2 = (regs [(9, 7)]).readG 9) := by decide +kernel

/-- f32 operands of the estimates: a NaN, both infinities, both zeros, 1 (an integer and a power of two), 1/2, 128, -151, -1. -/
theorem witness_Vector_estimates : (10 ≤ (10 : BitVec 4).toNat ∧ (12 : BitVec 4).toNat ≤ 12) ∧ elNat 12 (BitVec.ofNat 4096 0x3F800000) 0 = 0x3F800000 ∧
    fNaN .f32 0x7F800001 = true ∧ 0x7F800000 = fInf .f32 false ∧ 0xFF800000 = fInf .f32 true ∧ 0x80000000 = fZero .f32 true ∧
    IsNum .f32 0x3F800000 ∧ numOf .f32 0x3F800000 = ((1 : Int) : Rat) ∧ numOf .f32 0x3F800000 = (2 : Rat) ^ (0 : Int) ∧ IsNum .f32 0x3F000000 ∧
    numOf .f32 0x3F000000 = ((0 : Int) : Rat) + 1 / 2 ∧ IsNum .f32 0x43000000 ∧ 128 ≤ numOf .f32 0x43000000 ∧ IsNum .f32 0xC3170000 ∧ numOf .f32 0xC3170000 < -150 ∧
    IsNum .f32 0xBF800000 ∧ numOf .f32 0xBF800000 < 0 ∧ numOf .f32 0 = 0 := by
  refine ⟨by decide, by decide +kernel, by decide, by decide, by decide, by decide, num_of (by decide), by decide +kernel, by decide +kernel, num_of (by decide), by decide +kernel,
    num_of (by decide), by decide +kernel, num_of (by decide), by decide +kernel, num_of (by decide), by decide +kernel, by decide +kernel⟩

/-- Conversions of every ratio; integers, floats, a NaN and infinities of bf16 (0x7FC0, 0x7F80), a number within e4m3's range. -/
theorem witness_Vector_conversions : cvtForm 12 10 2 5 = true ∧ cvtForm 0 14 2 3 = true ∧ cvtForm 5 8 4 3 = true ∧ cvtForm 8 12 3 4 = true ∧ cvtForm 12 12 1 2 = true ∧ cvtForm 3 11 1 2 = true ∧
    m0.vregs [2, 3, 5] = true ∧ fpEnabled m0 0x3F = 0 ∧ (decodeF .bf16 0x7FC0).isNan = true ∧ decodeF .bf16 0xFF80 = .inf true ∧ IsNum .bf16 0x3F80 ∧
    (numOf .bf16 0x43E0).abs ≤ 448 ∧ (-448 : Int).natAbs ≤ 448 ∧ roundInt 0 (numOf .bf16 0xC301) < -2 ^ 7 ∧ 2 ^ 7 - 1 < roundInt 0 (numOf .bf16 0x4300) ∧
    (regs [(1, 0x3F80)]).codeF 3 1 = 0x3F80 := by
  repeat' with_reducible apply And.intro
  all_goals first | decide +kernel | exact num_of (by decide)

/-- A scale of -128, a scale of 127 with the code of -2; eight zeros at scale 0 behind a count of 8 and of 9, with and without a mask register. -/
theorem witness_Octet_quantising_and_decoding : Int.bmod 128 256 = -128 ∧ Int.bmod 127 256 = 127 ∧ octTwice 0x8000 0 = -3 ∧ octTwice 0x2000 0 = 2 ∧ octTwice 0x4000 0 = -4 ∧
    m0.vregs [1, 2] = true ∧ m0.vregs [1, 2, 0] = true ∧ mFour.vregs [1, 15] = false ∧ fpEnabled m0 1 = 0 ∧
    (regs [(3, 0x800)]).readG 3 = 0x800 ∧ 0x800 / 2 ^ 8 % 512 ≤ 8 * 1 ∧ 8 * 0 + 7 < 0x800 / 2 ^ 8 % 512 ∧ (0x800 : Word).getLsbD 25 = false ∧ (0x2000800 : Word).getLsbD 25 = true ∧
    (∀ i < 8, elNat 12 (m0.readV 2) (8 * 0 + i) = 0 ∧ octTwice 0 i = 0) ∧ IsNum .f32 0 ∧ numOf .f32 0 = ((0 : Int) : Rat) * (2 : Rat) ^ ((0 : Int) - 1) ∧ fNaN .f32 0x7FC00000 = true := by
  repeat' with_reducible apply And.intro
  all_goals first | decide +kernel | exact num_of (by decide)

/-- Elements that are zero, normal, infinite; i64 sums within and beyond the range of the conversion. -/
theorem witness_Reproducible_sums : (0 : VReg).toNat % 2 = 0 ∧ (14 : VReg).toNat % 2 = 0 ∧ m0.vregs [14, 15, 3] = true ∧ fpEnabled m0 0x3F = 0 ∧ IsNum .f32 0 ∧ numOf .f32 0 = 0 ∧
    IsNum .f32 0x3F800000 ∧ numOf .f32 0x3F800000 ≠ 0 ∧ ¬ IsNum .f32 0x7F800000 ∧ fNaN .f32 0x7FC00000 = true ∧ 0xFF800000 = fInf .f32 true ∧ m0.vregs [1, 2, 3] = true := by
  refine ⟨by decide, by decide, by decide +kernel, by decide +kernel, num_of (by decide), by decide +kernel, num_of (by decide), by decide +kernel, ?_, by decide, by decide, by decide +kernel⟩
  rintro ⟨_, n, m, e, h⟩
  have : (match decodeF .f32 0x7F800000 with
    | .fin .. => true
    | _ => false) = false := by decide
  simp [h] at this

/-- Descriptors: empty; of 12 tokens; an operator code above 19; an operator without operands; five pushes; eight operators; no operator; two values left; and
the spec's relu(va * vb + vd). -/
theorem witness_Postfix_expressions : (∀ d ∈ ([0, 12, 325, 97, 0x04208205, 217916111001673, 1, 197123, 0x12480415] : List Nat), (regs [(4, BitVec.ofNat 64 d)]).readG 4 = BitVec.ofNat 64 d) ∧
    m0.vregs [1, 2, 3] = true ∧ vexForm 0 = .inl 255 ∧ vexForm 12 = .inl 255 ∧ vexForm 325 = .inl 0 ∧ vexForm 97 = .inl 0 ∧ vexForm 0x04208205 = .inl 4 ∧
    vexForm 217916111001673 = .inl 8 ∧ vexForm 1 = .inl 1 ∧ vexForm 197123 = .inl 3 ∧ vexForm 0x12480415 = .inr 2 ∧
    (∃ depth : Nat → Int, depth 0 = 0 ∧ depth 5 = 1 ∧ ∀ k < 5, depth (k + 1) = depth k + 1 - [0, 0, 0, 3, 1].getD k 0) := by
  and_intros
  all_goals first | decide +kernel | exact ⟨fun k => [0, 1, 2, 3, 1, 1].getD k 0, rfl, rfl, by decide⟩

theorem witness_Frame_of_word_A : (Instr.add 3 1 2 false).isA = true ∧ (Instr.add 3 1 2 false).wf = true ∧ pickTrap (checksA (.add 3 1 2 false) m0) = none ∧
    (∃ t, exec (.add 3 1 2 false) m0 = .next t) ∧ (Instr.vqe8 1 2 3 12).isA = true ∧ (Instr.vqe8 1 2 3 12).wf = true ∧ (Instr.vcvt 2 5 12 10).wf = true ∧
    pickTrap (checksA (.vcvt 2 5 12 10) m0) = none ∧ ∃ t, exec (.vcvt 2 5 12 10) m0 = .next t :=
  ⟨by decide, by decide, by decide +kernel, next_of (by decide +kernel), by decide, by decide, by decide, by decide +kernel, next_of (by decide +kernel)⟩
/-- The bench as a delay bundle, in a body, in helper 1, in a pace slice, at user privilege. -/
noncomputable def mDly : State := m0.setCx { m0.cx with dly := true, outc := 64 }
noncomputable def mBody : State := m0.setCx { m0.cx with rpa := true }
noncomputable def mHelp : State :=
  let s := m0.setSl { m0.sl with ctxs := m0.sl.ctxs.set 1 { m0.cx with wp := 16384 } }
  { s with core := { s.core with curCtx := 1 } }
noncomputable def mDisc : State := m0.setSl { m0.sl with disc := true }
noncomputable def mUser : State := m0.setCx { m0.cx with prv := false }
theorem modes : mDly.cx.dly = true ∧ mBody.cx.dly = false ∧ mBody.cx.rpa = true ∧ mHelp.core.curCtx ≠ 0 ∧ mHelp.cx.rpa = false ∧ m0.core.curCtx = 0 ∧ mDisc.sl.disc = true ∧
    m0.sl.disc = false ∧ mUser.cx.prv = false ∧ mUser.cx.rpa = false ∧ mUser.cx.dly = false ∧ m0.cx.prv = true ∧ m0.cx.dly = false ∧ m0.cx.rpa = false := by decide +kernel

theorem witness_Instructions_stand_where_allowed : mDly.cx.dly = true ∧ (mBody.cx.dly = false ∧ mBody.cx.rpa = true) ∧ mHelp.core.curCtx ≠ 0 ∧ m0.core.curCtx = 0 ∧ mDisc.sl.disc = true ∧
    m0.sl.disc = false ∧ (mUser.cx.rpa = false ∧ mUser.cx.dly = false ∧ mUser.cx.prv = false) := by decide +kernel

theorem plain_m0 : PlainEnd m0 := by constructor <;> decide +kernel
theorem witness_Transfers : (m0.cx.dly = false ∧ m0.cx.rpa = false) ∧ (regs [(31, 0x48)]).readG 31 % 8 = 0 ∧ ((regs [(31, 0x48)]).readG 31).toNat % 8 = 0 ∧
    ((regs [(1, 0x4C)]).readG 1).toNat % 8 ≠ 0 ∧ (PlainEnd m0 ∧ m0.cx.rpa = false) ∧
    (let s := m0.setCx { m0.cx with xfer := some 0x48 }
     PlainEnd (s.setCx { s.cx with xfer := none }) ∧ s.cx.xfer = some 0x48) :=
  ⟨by decide +kernel, by decide +kernel, by decide +kernel, by decide +kernel, ⟨plain_m0, by decide +kernel⟩,
    ⟨(by constructor <;> decide +kernel), by decide +kernel⟩⟩

/-- `wait 3` in its last cycle; a `rept` outside delay bundles and bodies whose bundle holds no transfer; an instruction that is no guard. -/
theorem witness_Constants_guards_and_repetition : (∀ q c, Instr.nopC ≠ .guard q c ∧ Instr.nopC ≠ .guardn q c) ∧ (3 : BitVec 12) ≠ 0 ∧ (∃ w, w.count = 0 ∧
    exec (.wait 3) m0 = .next (m0.setCx { m0.cx with wait := some w }) ∧ (let u := m0.setCx { m0.cx with wait := some { w with count := 2 } }
      u.cx.live = true ∧ u.cx.stopped = false ∧ u.cx.wait = some { w with count := (3 : BitVec 12).toNat - 1 } ∧ u.cx.xfer = none ∧ u.cx.rpa = false ∧ u.cx.after = none ∧
      u.cx.bnd = false ∧ u.cx.stop = false ∧ u.cx.stepping = false)) ∧ (m0.cx.dly = false ∧ m0.cx.rpa = false ∧ m0.cx.xfer = none) := by
  refine ⟨fun q c => ⟨by simp, by simp⟩, by decide, ⟨⟨.plain, 0, 3, 3, 0, 0, 0, false⟩, rfl, ?_, by decide +kernel⟩, by decide +kernel⟩
  have h : after (exec (.wait 3) m0) = some (m0.setCx { m0.cx with wait := some ⟨.plain, 0, 3, 3, 0, 0, 0, false⟩ }) := by decide +kernel
  cases e : exec (.wait 3) m0 <;> simp_all [after]

theorem witness_Special_registers : 22 ≤ (22 : BitVec 12).toNat ∧ (15 : BitVec 12).toNat ∈ [15, 16, 19, 21] ∧ mUser.cx.prv = false ∧ m0.cx.prv = true ∧
    (21 : BitVec 12).toNat < 22 ∧ (0 : BitVec 12).toNat < 22 ∧ (0 : BitVec 12).toNat ∉ [15, 16, 19, 21] := by decide +kernel

/-- A result of helper 1 that lands in cycle 9; slices of class 0 and 3, one that is stopped. -/
noncomputable def mHelpLate : State := mHelp.setCx { mHelp.cx with pend := [⟨3, 0, 0, 9, .g 1 7, none⟩] }
noncomputable def mBatch : State := m0.setSl { m0.sl with cls := 3 }
theorem witness_Helpers_and_regions : m0.cx.rpa = false ∧ m0.core.curCtx = 0 ∧ m0.sl.ctxs[(1 : Fin 11)].live = false ∧ m0.sl.ctxs[(10 : Fin 11)].live = false ∧ mHelp.core.curCtx ≠ 0 ∧
    (mHelp.sl.ctxs[(1 : Fin 11)].live = true ∧ mHelp.cx.rpa = false) ∧ (∀ p ∈ m0.cx.pend, p.cyc ≤ m0.core.cyc) ∧ (∀ p ∈ mHelp.cx.pend, p.cyc ≤ mHelp.core.cyc) ∧
    (mLate.cx.rpa = false ∧ mLate.core.curCtx = 0 ∧ mLate.sl.disc = false ∧ ¬ ∀ p ∈ mLate.cx.pend, p.cyc ≤ mLate.core.cyc) ∧
    (mHelpLate.core.curCtx ≠ 0 ∧ ¬ ∀ p ∈ mHelpLate.cx.pend, p.cyc ≤ mHelpLate.core.cyc) ∧ m0.cx.dly = false ∧ (m0.sl.disc = false ∧ m0.sl.cls ≠ 3 ∧ mBatch.sl.cls = 3) := by
  decide +kernel

/-- Waits: a slot pending, done, faulted; a queue with a record; a live helper; matrix work, a matrix fault; a pace slice before and after its superstep. -/
noncomputable def slotIs (v : Nat) : State := (regs [(1, 0x8000)]).putGood (coreKey 0 0x8000) 8 v
noncomputable def mHelped : State := m0.setSl { m0.sl with ctxs := m0.sl.ctxs.set 1 { m0.cx with wp := 16384 } }
noncomputable def mJobs : State := m0.setSl { m0.sl with jobs := m0.sl.jobs.set 0 1 }
noncomputable def mFlt : State := m0.setSl { m0.sl with mflt := some ⟨infoOf 17 0 0 0 0, iss0⟩ }
noncomputable def mGo (w tick pace : Word) : State :=
  { mDisc.setSl { mDisc.sl with go := some ⟨1, 5, w, tick⟩, opened := true, window := some w, lastArr := some 1 } with pace := pace }
theorem witness_Bounded_waits : m0.cx.rpa = false ∧ (∀ v ∈ [0x100, 1, 2, 3], let s := slotIs v
      (s.readG 1).toNat % 64 = 0 ∧ s.sl.inPart (s.readG 1).toNat 64 = true ∧ (s.readG 1).toNat < 393216 ∧ s.mem.rd (coreKey s.core.id (s.readG 1).toNat) 8 % 4 = v % 4) ∧
    ((regs [(1, 0x8020)]).readG 1).toNat % 64 ≠ 0 ∧ m0.sl.rqTail = m0.sl.rqHead ∧ (m0.setSl { m0.sl with rqTail := 1 }).sl.rqTail ≠ (m0.setSl { m0.sl with rqTail := 1 }).sl.rqHead ∧
    ((0x7FE : Word).getLsbD 1 = true ∧ mHelped.sl.ctxs[(1 : Fin 11)].live = true) ∧ (∀ h : Fin 11, h ≠ 0 → m0.sl.ctxs[h].live = false) ∧ m0.sl.acc = true ∧
    (m0.setSl { m0.sl with acc := false }).sl.acc = false ∧ (m0.sl.jobs[(0 : Fin 16)] = 0 ∧ m0.sl.mflt = none) ∧ mJobs.sl.jobs[(0 : Fin 16)] ≠ 0 ∧
    (mFlt.sl.jobs[(0 : Fin 16)] = 0 ∧ mFlt.sl.mflt ≠ none) ∧ (m0.core.curCtx = 0 ∧ mDisc.sl.disc = true ∧ mDisc.sl.opened = false) ∧
    ((mGo 4 2 4).sl.opened = true ∧ ((mGo 4 2 4).sl.window.getD 0).toNat + (mGo 4 2 4).sl.eff.xlen.toNat ≤ (mGo 4 2 4).pace.toNat) ∧
    ((mGo 4 2 3).sl.opened = true ∧ (mGo 4 2 3).pace.toNat < ((mGo 4 2 3).sl.window.getD 0).toNat + (mGo 4 2 3).sl.eff.xlen.toNat) ∧
    ((regs [(3, 1)]).readG 3 = 1 ∧ (mGo 4 2 4).sl.lastArr = some 1 ∧ mDisc.sl.lastArr = none ∧ mDisc.sl.go = none ∧ (mGo 4 2 4).sl.go = some ⟨1, 5, 4, 2⟩) ∧
    ((4 : Word).toNat ≤ (4 : Word).toNat ∧ (2 : Word).toNat < (4 : Word).toNat ∧ (4 : Word).toNat ≤ (mGo 4 2 4).pace.toNat ∧ (mGo 4 2 3).pace.toNat < (4 : Word).toNat) := by
  decide +kernel

theorem witness_Software_traps_follow_their_bundle : PlainEnd m0 ∧ PlainEnd mVec ∧ m0.cx.rpa = false ∧ m0.cx.dly = false ∧ mVec.cx.rpa = false ∧ mVec.cx.dly = false ∧ mVec.sl.trv ≠ 0 ∧
    mVec.cx.pc + 8 = BitVec.ofNat 64 (mVec.sl.trv.toNat * 8) ∧ (let s := mVec.setCx { mVec.cx with pc := 64 }
      PlainEnd s ∧ s.cx.rpa = false ∧ s.cx.dly = false ∧ s.sl.trv ≠ 0 ∧ s.cx.pc + 8 ≠ BitVec.ofNat 64 (s.sl.trv.toNat * 8) ∧ s.sl.attached = false) ∧
    (m0.cx.prv = true ∧ m0.cx.live = true ∧ m0.sl.attached = false ∧ m0.sl.eff.fdom = none ∧ ∀ c, c ≠ m0.core.curCtx → m0.sl.ctxs[c].live = false) :=
  ⟨plain_m0, (by constructor <;> decide +kernel), by decide +kernel, by decide +kernel, by decide +kernel,
    by decide +kernel, by decide +kernel, by decide +kernel,
    ⟨(by constructor <;> decide +kernel), by decide +kernel, by decide +kernel, by decide +kernel, by decide +kernel,
      by decide +kernel⟩, by decide +kernel, by decide +kernel, by decide +kernel, by decide +kernel, by decide +kernel⟩

theorem witness_Workspace_swap : (let s := regs [(1, 16384)]
    let a := s.readG 1
    let n := wsBytes (s.sl.declared s.core.curCtx)
    s.cx.prv = true ∧ s.cx.rpa = false ∧ a.toNat % 512 = 0 ∧ s.sl.inPart a.toNat n = true ∧ a.toNat < 393216 ∧ s.cx.pend = [] ∧ s.cx.wp.toNat + 512 ≤ a.toNat ∧ (3 : GReg) ≠ 0 ∧ s.core.curCtx = 0) ∧
    (let s := (m0.setCx { m0.cx with wp := 16384 }).writeG 1 4096
     let a := s.readG 1
     a.toNat % 512 = 0 ∧ s.sl.inPart a.toNat (wsBytes (s.sl.declared s.core.curCtx)) = true ∧ a.toNat + wsBytes (s.sl.declared s.core.curCtx) ≤ s.cx.wp.toNat) := by decide +kernel
/-- The bench with a stack window split at 128 KiB, 64 KiB of overflow area. -/
noncomputable def mSpl (k : BitVec 9) : State := m0.setSl { m0.sl with spl := k, ovp := 0x8000000000010001 }
/-- Words in registers of a state. -/
noncomputable def withR (s : State) (l : List (GReg × Word)) : State := l.foldl (fun s p => s.writeG p.1 p.2) s
/-- One operation of the front core's slice 0, context 0, at a stage. -/
noncomputable def anOp (id : Nat) (kind : BitVec 8) (slot dst : Word) (r : Req) (st : Stage) : Op :=
  ⟨id, kind, slot, dst, 0, 3, { iss0 with pc := 64, npc := 72 }, 0, false, r, st, 0, false, none, false, none, none, none⟩

theorem witness_Local_address_map : (1 ≤ 8 ∧ 8 ≤ 512) ∧ (0 : Word).toNat < 0x60000 ∧ (m0.sl.base ≤ (0x5FFF8 : Word).toNat ∧ (0x5FFF8 : Word).toNat + 8 ≤ m0.sl.base + m0.sl.pkb.toNat * 1024) ∧
    ¬ ((0x5FFFC : Word).toNat + 8 ≤ m0.sl.base + m0.sl.pkb.toNat * 1024) ∧ (0x70000 ≤ (0x703F8 : Word).toNat ∧ (0x703F8 : Word).toNat + 8 ≤ 0x70400) ∧
    (0x71000 ≤ (0x713F0 : Word).toNat ∧ (0x713F0 : Word).toNat < 0x71400 ∧ (0x713F0 : Word).toNat % 16 = 0) ∧ (∀ x ∈ [0x60000, 0x6FFFF, 0x70400, 0x70FFF, 0x71400, 0xFFFFF, 0x200000],
      (0x60000 ≤ x ∧ x < 0x70000) ∨ (0x70400 ≤ x ∧ x < 0x71000) ∨ (0x71400 ≤ x ∧ x < 0x100000) ∨ 0x200000 ≤ x) ∧
    (m0.sl.spl.toNat * 1024 < m0.sl.dataBase) ∧ (m0.sl.base + m0.sl.pkb.toNat * 1024 < (mSpl 511).sl.spl.toNat * 1024) ∧
    (let s := mSpl 128
     let top := s.sl.base + s.sl.pkb.toNat * 1024
     let spl := s.sl.spl.toNat * 1024
     let l := top - spl
     let osz := s.sl.ovp.toNat % 65536 * 65536
     s.sl.dataBase ≤ spl ∧ spl ≤ top ∧ (∀ x ∈ [0x1FFFF8, 0x200000 - l], 0x100000 ≤ x ∧ x + 8 ≤ 0x200000 ∧ x % 8 = 0 ∧ 0x200000 - x ≤ l) ∧
      (∀ x ∈ [0x200000 - l - 8, 0x200000 - l - osz], 0x100000 ≤ x ∧ l + 8 ≤ 0x200000 - x ∧ 0x200000 - x ≤ l + osz) ∧
      (0x100000 ≤ 0x200000 - l - osz - 8 ∧ l + osz + 8 ≤ 0x200000 - (0x200000 - l - osz - 8)) ∧
      (let d := 0x200000 - (0x200000 - l - 64)
       l < d ∧ d < l + 512)) := by decide +kernel

/-- A bad ordering; a place out of range, misaligned, poisoned, free, behind an access in progress; in the overflow area, refused, begun, waiting, answered and
faulted; a counter of the live context. -/
noncomputable def mPois : State := { regs [(1, 0x8000)] with pois := [coreKey 0 0x8000] }
noncomputable def mBusy : State := (regs [(1, 0x8000)]).setCx { (regs [(1, 0x8000)]).cx with locFree := 9 }
noncomputable def mStack (sp : Option Spill) : State := (withR { mSpl 128 with fab := mOpen.fab } [(1, 0x1BFFF8)]).setCx { mOpen.cx with spill := sp }
/-- An access of up to 8 bytes. -/
def acc (kind : BitVec 2) (addr : Word) (size : Nat) (data : BitVec 4096) (aop : BitVec 4) (cmp : Word) : Access := ⟨kind, addr, size, data, 0, 2 ^ 512 - 1, aop, cmp⟩
theorem unheld_of {s : State} {o : BitVec 2} {k n : Nat} (h : (!s.localBusy && !s.crosses k n && s.released 0) = true) : Unheld s o k n := by
  simp only [Bool.and_eq_true, Bool.not_eq_true'] at h
  exact ⟨h.1.1, h.1.2, fun _ => h.2⟩
theorem witness_Local_loads : (2 : BitVec 2).getLsbD 1 = true ∧ (1 : BitVec 2).getLsbD 1 = false ∧
    (∃ t, (regs [(1, 0x60000)]).locate .load ((regs [(1, 0x60000)]).readG 1 + offM 8 (.short 0)) 8 8 = .bad t) ∧
    (mPois.locate .load (mPois.readG 1 + offM 8 (.short 0)) 8 8 = .found (.own (coreKey 0 0x8000)) ∧ firstPoison mPois.pois (coreKey 0 0x8000) 8 = some (coreKey 0 0x8000)) ∧
    (mBusy.locate .load (mBusy.readG 1 + offM 8 (.short 0)) 8 8 = .found (.own (coreKey 0 0x8000)) ∧ firstPoison mBusy.pois (coreKey 0 0x8000) 8 = none ∧
      ¬ Unheld mBusy 0 (coreKey 0 0x8000) 8) ∧
    ((regs [(1, 0x8000)]).locate .load ((regs [(1, 0x8000)]).readG 1 + offM 8 (.short 0)) 8 8 = .found (.own (coreKey 0 0x8000)) ∧ Unheld (regs [(1, 0x8000)]) 1 (coreKey 0 0x8000) 8 ∧
      ∀ c : Fin 11, (regs [(1, 0x8000)]).sl.ctxs[c].live = true → coreKey 0 ((regs [(1, 0x8000)]).sl.ctxs[c].wp.toNat + 0x190) ≤ coreKey 0 0x8000) ∧
    ((mSpl 128).globalRefusal = some 4 ∧ (mStack none).globalRefusal = none ∧ (mStack none).cx.spill = none ∧ (mStack none).localBusy = false ∧
      (mStack (some ⟨0, none⟩)).cx.spill = some ⟨0, none⟩ ∧ (mStack (some ⟨0, some (.done 5 0)⟩)).cx.spill = some ⟨0, some (.done 5 0)⟩) ∧
    (let s := regs [(1, 4096 + 0x188)]
     let a := s.readG 1
     a.toNat = s.sl.ctxs[(0 : Fin 11)].wp.toNat + 0x150 + 8 * (7 : Fin 8).val ∧ a.toNat % 8 = 0 ∧ s.sl.inPart a.toNat 8 = true ∧ a.toNat < 0x60000 ∧ s.sl.ctxs[(0 : Fin 11)].live = true ∧
      s.sl.ctxs[(0 : Fin 11)].stopped = false ∧ (∀ d : Fin 11, d ≠ 0 → s.sl.ctxs[d].live = false) ∧ firstPoison s.pois (coreKey s.core.id a.toNat) 8 = none ∧
      s.localBusy = false ∧ s.crosses (coreKey s.core.id a.toNat) 8 = false) := by
  refine ⟨by decide, by decide, ⟨outOfRange 0x60000, by decide +kernel⟩, by decide +kernel, ⟨by decide +kernel, by decide +kernel, fun h => absurd h.1 (by decide +kernel)⟩,
    ⟨by decide +kernel, ⟨by decide +kernel, by decide +kernel, fun h => absurd h (by decide)⟩, by decide +kernel⟩, by decide +kernel, by decide +kernel⟩

/-- The kick word of pump 0: a good value, one misaligned; a full pump queue, a full channel. -/
noncomputable def kicks (v : Word) : State := regs [(1, 0x71000), (2, v)]
noncomputable def mFull : State := { kicks 0x1008000 with pumps := [⟨0, List.replicate 8 ⟨iss0, 0x8000, 1, none, 0, none, none, none, false, 0⟩, none⟩] }
noncomputable def mChan : State := (kicks 0x1008000).setSl { (kicks 0x1008000).sl with jobs := (kicks 0x1008000).sl.jobs.set 1 255 }
theorem witness_Local_stores : (1 : BitVec 2).getLsbD 0 = true ∧ (2 : BitVec 2).getLsbD 0 = false ∧
    (∃ t, (regs [(1, 0x60000)]).locate .store ((regs [(1, 0x60000)]).readG 1 + offM 8 (.short 0)) 8 8 = .bad t) ∧
    ((regs [(1, 0x8000)]).locate .store ((regs [(1, 0x8000)]).readG 1 + offM 8 (.short 0)) 8 8 = .found (.own (coreKey 0 0x8000)) ∧ Unheld (regs [(1, 0x8000)]) 2 (coreKey 0 0x8000) 8) ∧
    ¬ Unheld mBusy 0 (coreKey 0 0x8000) 8 ∧ (kicks 0).locate .store ((kicks 0).readG 1 + offM 8 (.short 0)) 8 8 = .found (.kick 0) ∧
    (∀ v ∈ [0x1008000, 0xF05FFC0], v < 2 ^ 28 ∧ v / 2 ^ 21 % 8 = 0 ∧ v % 2 ^ 21 % 64 = 0 ∧ m0.sl.inPart (v % 2 ^ 21) 64 = true) ∧
    ¬ (0x1008010 % 2 ^ 21 % 64 = 0) ∧ Unheld (kicks 0x1008000) 2 0 0 ∧ Unheld mFull 2 0 0 ∧ ((mFull.pumps.find? (fun q => q.id == 0)).map (·.queue.length)).getD 0 = 8 ∧
    (mChan.sl.jobs[(1 : Fin 16)] = 255 ∧ (kicks 0x1008000).sl.jobs[(1 : Fin 16)] < 255) ∧
    ((mStack none).globalRefusal = none ∧ ∃ va, (mStack none).locate .store ((mStack none).readG 1 + offM 8 (.short 0)) 8 8 = .found (.glob va)) := by
  exact ⟨by decide, by decide, ⟨outOfRange 0x60000, by decide +kernel⟩, ⟨by decide +kernel, unheld_of (by decide +kernel)⟩, fun h => absurd h.1 (by decide +kernel), by decide +kernel,
    by decide +kernel, by decide, unheld_of (by decide +kernel), unheld_of (by decide +kernel), by decide +kernel, by decide +kernel, by decide +kernel,
    ⟨0x800000000000FFF8, by decide +kernel⟩⟩
/-- Vector accesses: registers declared and not; a bad ordering; a place out of range, poisoned in one granule, held, free; a tag that differs and one that is equal; the overflow
area; gathers at three addresses. -/
theorem witness_Vector_accesses : m0.vregs [1, 2] = true ∧ mFour.vregs [15, 2] = false ∧ (2 : BitVec 2).getLsbD 1 = true ∧ (1 : BitVec 2).getLsbD 0 = true ∧
    (∃ t, (regs [(1, 0x60000)]).locate .vload ((regs [(1, 0x60000)]).readG 1 + offV none) 512 64 = .bad t) ∧
    ((mPois.locate .vload (mPois.readG 1 + offV none) 512 64 = .found (.own (coreKey 0 0x8000)) ∧ (2 ^ 512 - 1).testBit 0 = true ∧ poisoned mPois.pois ((coreKey 0 0x8000 + 0) / 8 * 8) = true) ∧
      ∀ j < 512, (2 ^ 512 - 256).testBit j = true → poisoned mPois.pois ((coreKey 0 0x8000 + j) / 8 * 8) = false) ∧
    ((regs [(1, 0x8000)]).locate .vplain ((regs [(1, 0x8000)]).readG 1 + offV none) 512 512 = .found (.own (coreKey 0 0x8000)) ∧ (regs [(1, 0x8000)]).tag 0 0x8000 = ((0 : Word).setWidth 16) ∧
      (regs [(1, 0x8000)]).tag 0 0x8000 ≠ ((1 : Word).setWidth 16)) ∧ Unheld (regs [(1, 0x8000)]) 0 (coreKey 0 0x8000) 512 ∧ ¬ Unheld mBusy 0 (coreKey 0 0x8000) 512 ∧
    (let s := (mStack none).writeG 1 0x1BFE00
     ∃ va, s.locate .vload (s.readG 1 + offV none) 512 64 = .found (.glob va) ∧ s.globalRefusal = none) ∧
    (let s := vregs (regs [(1, 0x8000)]) [(2, 0x000100020003)]
     let at_ (j : Nat) : Word := s.readG 1 + BitVec.ofNat 64 (8 * ((s.readV 2).toNat / 2 ^ (16 * j) % 65536))
     let key (j : Nat) : Nat := coreKey 0 (at_ j).toNat
     s.vregs [1, 2] = true ∧ (∀ j < 64, s.locate .vplain (at_ j) 8 8 = .found (.own (key j))) ∧ s.localBusy = false ∧ s.released 0 = true ∧
       (∀ j < 64, s.crosses (key j) 8 = false ∧ firstPoison s.pois (key j) 8 = none) ∧ (∀ l < 64, 1 < l → key l ≠ key 1)) ∧
    (∃ t, (regs [(1, 0x5FFFC)]).locate .vplain ((regs [(1, 0x5FFFC)]).readG 1 + offV none + BitVec.ofNat 64 (8 * 0)) 8 8 = .bad t) := by
  refine ⟨by decide +kernel, by decide +kernel, by decide, by decide, ⟨outOfRange 0x60000, by decide +kernel⟩, by decide +kernel, by decide +kernel, unheld_of (by decide +kernel),
    fun h => absurd h.1 (by decide +kernel), ⟨0x800000000000FE00, by decide +kernel⟩, by decide +kernel, ⟨outOfRange 0x5FFFC, by decide +kernel⟩⟩

/-- Atomics at a place out of range, poisoned, held and free, where the old value is the expected one and where it is not; fences with nothing and with an access before. -/
noncomputable def mFence : State := { m0 with ops := [anOp 0 1 0x8000 0 (.mem (acc 0 0x8000000000000000 8 0 0 0)) .flight], nextId := 1 }
theorem witness_Local_atomics_and_fences : (∃ t, (regs [(1, 0x70000)]).locate .atomic ((regs [(1, 0x70000)]).readG 1) 8 8 = .bad t) ∧
    (mPois.locate .atomic (mPois.readG 1) 8 8 = .found (.own (coreKey 0 0x8000)) ∧ firstPoison mPois.pois (coreKey 0 0x8000) 8 = some (coreKey 0 0x8000)) ∧
    ((regs [(1, 0x8000)]).locate .atomic ((regs [(1, 0x8000)]).readG 1) 4 4 = .found (.own (coreKey 0 0x8000)) ∧ firstPoison (regs [(1, 0x8000)]).pois (coreKey 0 0x8000) 4 = none) ∧
    Unheld (regs [(1, 0x8000)]) 3 (coreKey 0 0x8000) 4 ∧ ¬ Unheld mBusy 0 (coreKey 0 0x8000) 8 ∧ (m0.released 3 = true ∧ mFence.released 3 = false) := by
  refine ⟨⟨outOfRange 0x70000, by decide +kernel⟩, by decide +kernel, by decide +kernel, unheld_of (by decide +kernel), fun h => absurd h.1 (by decide +kernel), by decide +kernel⟩

/-- A context marked to halt, one told to stop, and one that is neither, in a wait of its last cycle. -/
noncomputable def mMark (halt stop : Bool) : State := m0.setCx { m0.cx with haltMark := halt, stop := stop, wait := some { kind := .plain, rd := 0, arg := 0, limit := 1, count := 0, seen := 0, stall := 0, cancelled := false } }
theorem witness_marked_contexts : (mMark true false).cx.haltMark = true ∧ ((mMark false true).cx.haltMark = false ∧ (mMark false true).cx.stop = true) ∧
    (let u := mMark false false
     u.cx.live = true ∧ u.cx.stopped = false ∧ u.cx.wait.isSome = true ∧ u.cx.xfer = none ∧ u.cx.rpa = false ∧ u.cx.after = none ∧ u.cx.bnd = false ∧ u.cx.stop = false ∧ u.cx.haltMark = false ∧
       u.sl.ctxs.any (fun x => x.stepping) = false) := by decide +kernel

/-- Split-phase accesses: in a body; an address of no form, misaligned, refused, admitted; the station's word at user privilege; a slot misaligned, out of the partition and in it;
64 operations outstanding. -/
noncomputable def mMany : State := { mOpen with ops := List.replicate 64 (anOp 0 1 0x8000 0 (.mem (acc 0 0x8000000000000000 8 0 0 0)) .flight) }
theorem witness_Split_phase_accesses_begin : mBody.cx.rpa = true ∧ mUser.cx.prv = false ∧ (31 : GReg) = 31 ∧ (2 : BitVec 2).getLsbD 1 = true ∧ (1 : BitVec 2).getLsbD 0 = true ∧
    (isCoreSpace 0 = false ∧ isGlobal 0 = false) ∧ isGlobal 0x8000000000000004 = true ∧ (0x8000000000000004 : Word).toNat % 8 ≠ 0 ∧ isCoreSpace 0x4000000000000000 = true ∧
    (mOpen.cx.rpa = false ∧ mOpen.injectRefusal 0x8000000000000000 = none ∧ mOpen.outstanding < 64 ∧ m0.injectRefusal 0x8000000000000000 = some 4) ∧
    (mMany.injectRefusal 0x8000000000000000 = none ∧ 64 ≤ mMany.outstanding) ∧ ((0x8020 : Word).toNat % 64 ≠ 0 ∧ (0x60000 : Word).toNat % 64 = 0 ∧ ¬ (0x60000 : Word).toNat < 0x60000) ∧
    (∀ x ∈ [0x8000, 0x5FFC0], x % 64 = 0 ∧ x < 0x60000 ∧ mOpen.sl.inPart x 64 = true) ∧ (∀ x ∈ [0x8000, 0x5FE00], x % 64 = 0 ∧ x < 0x60000 ∧ mOpen.sl.inPart x 512 = true) ∧
    ((withR mOpen [(1, 0x8000000000000000), (2, 0x8000)]).readG 1 = 0x8000000000000000 ∧ (withR mOpen [(1, 0x8000000000000000), (2, 0x8000)]).readG 2 = 0x8000) ∧
    Unheld mOpen 0 (coreKey 0 0x8000) 512 := by
  and_intros
  all_goals first | decide +kernel | exact unheld_of (by decide +kernel)

/-- Injection entries: a payload misaligned, out of range, of no flits, of one; without and with a place for it. An exchange window open at tick 0, and transfers that depart at 0, too early,
at cycle 4, odd, after it; a full injector. -/
noncomputable def mEntry (fab : Fabric) (w : Nat) : State := { m0.putGood (coreKey 0 0x70000) 64 w with fab := fab }
noncomputable def mWin : State := { mOpen with core := { mOpen.core with slices := mOpen.core.slices.set 0 { mOpen.sl with disc := true, opened := true, window := some 0, eff := { mOpen.sl.eff with xlen := 2 } } } }
noncomputable def mInj : State := { mWin with core := { mWin.core with inj := List.replicate 64 ⟨0, 8, 1, 64, 0, 0, 0, iss0⟩ } }
theorem witness_Messages_and_transfers_begin : mBody.cx.rpa = true ∧ m0.cx.rpa = false ∧
    (∀ p ∈ [(0x10 * 2 ^ 128, 0x10, 0), (0x60000 * 2 ^ 128 + 2 ^ 24, 0x60000, 1), (0x8000 * 2 ^ 128 + 16 * 2 ^ 24, 0x8000, 16), (0, 0, 0)], let w := (mEntry mOpen.fab p.1).mem.rd (coreKey 0 (0x70000 + 64 * 0)) 64
      w / 2 ^ 128 % 2 ^ 21 = p.2.1 ∧ w / 2 ^ 24 % 32 = p.2.2) ∧ (0x10 % 32 ≠ 0 ∧ 0x60000 % 32 = 0 ∧ 0x8000 % 32 = 0 ∧ m0.sl.inPart 0x8000 (32 * 16) = true) ∧
    (mEntry m0.fab 0).postRefusal 0 = some 4 ∧ (mEntry mOpen.fab (2 ^ 24 + 0x8000 * 2 ^ 128)).postRefusal (2 ^ 24 + 0x8000 * 2 ^ 128) = none ∧
    Unheld (mEntry mOpen.fab (2 ^ 24 + 0x8000 * 2 ^ 128)) 0 (coreKey 0 0x8000) 32 ∧ (m0.sl.rqTail = m0.sl.rqHead) ∧ (7 : GReg) ≠ 0 ∧
    (64 ≤ (64 : BitVec 8).toNat ∧ (15 : BitVec 5).toNat + 1 ≤ 16 ∧ (let pe := mWin.pathEntry mWin.core.id 64
      entryValid pe = true ∧ pe.toNat / 2 ^ 188 % 8 = 0)) ∧ (mWin.sl.opened = true ∧ m0.sl.opened = false ∧ mWin.sl.eff.xlen.toNat * mWin.ticksN = 1024) ∧
    ((mWin.pace.toNat - (mWin.sl.window.getD 0).toNat) * mWin.ticksN + mWin.fcyc = 0 ∧ (0 : Word).toNat < 0 + 4 ∧ 0 + 4 ≤ (4 : Word).toNat ∧ (1022 : Word).toNat < 1024 ∧ (1022 : Word).toNat % 2 = 0 ∧
      (3 : Word).toNat % 2 = 1 ∧ 1024 ≤ (1024 : Word).toNat) ∧ mWin.hushFor mWin.sl.gang ((mWin.sl.window.getD 0).toNat + 4 / mWin.ticksN) = false ∧
    (64 ≤ mInj.core.inj.length ∧ mWin.core.inj.length < 64) := by
  and_intros
  all_goals first | decide +kernel | exact unheld_of (by decide +kernel)

/-- A full matrix queue; the offsets and lengths at their bounds; a slice without a bank. -/
noncomputable def mMq : State := { m0 with core := { m0.core with mq := List.replicate 8 ⟨.mzero, iss0, 0⟩ } }
theorem witness_Matrix_commands_are_queued : mBody.cx.rpa = true ∧ m0.cx.rpa = false ∧ m0.sl.acc = true ∧ (let s := m0.setSl { m0.sl with acc := false }
      s.sl.acc = false ∧ s.cx.rpa = false) ∧ (8 ≤ mMq.core.mq.length ∧ m0.core.mq.length < 8) ∧ ((0 : BitVec 2).toNat < (1 : BitVec 2).toNat ∧ (3 : BitVec 2).toNat ≤ (3 : BitVec 2).toNat) ∧
    (m0.fullService = false ∧ { m0 with fullService := true }.fullService = true) ∧ (∀ x ∈ [0, 0x8000, 0x5F000], x % 64 = 0 ∧ x < 0x60000 ∧ m0.sl.inPart x (32 * 128) = true) ∧
    (1020 % 8 ≠ 0 ∧ 1024 < 1016 + 16 ∧ 1008 % 8 = 0 ∧ 1008 + 16 ≤ 1024) ∧ (0 < 8 ∧ 1024 < 1032 ∧ 8 % 8 = 0 ∧ 1024 ≤ 1024) ∧
    ((12 : BitVec 4) ≠ 15 ∧ ((7 : BitVec 4).toNat < 8 ∨ 12 < (7 : BitVec 4).toNat) ∧ 4 ≤ (4 : BitVec 4).toNat ∧ (3 : BitVec 4).toNat < 4) ∧ (128 % 256 = 128 ∧ 127 % 256 ≠ 128) ∧
    (∀ x ∈ [0x8000, 0x5F000], x % 512 = 0 ∧ x < 0x60000 ∧ m0.sl.inPart x 4096 = true) := by decide +kernel

/-- Cistern requests: a record misaligned, out of range, in place; a slot; the own station reached or not; 64 outstanding. -/
theorem witness_Cistern_requests_begin : mBody.cx.rpa = true ∧ mOpen.cx.rpa = false ∧ ((0x8010 : Word).toNat % 32 ≠ 0 ∧ (0x60000 : Word).toNat % 32 = 0 ∧ ¬ (0x60000 : Word).toNat < 0x60000) ∧
    (∀ x ∈ [0x8000, 0x5FF00], x % 32 = 0 ∧ x < 0x60000 ∧ mOpen.sl.inPart x 256 = true) ∧ (0x8020 : Word).toNat % 64 ≠ 0 ∧ (m0.globalRefusal = some 4 ∧ mOpen.globalRefusal = none) ∧
    (mMany.globalRefusal = none ∧ 64 ≤ mMany.outstanding) ∧ mOpen.outstanding < 64 ∧ Unheld mOpen 0 (coreKey 0 0x8000) 256 := by
  and_intros
  all_goals first | decide +kernel | exact unheld_of (by decide +kernel)
/-- A state at the start of a tick, with a pace count; a module in a power state. -/
noncomputable def atTick (s : State) (p : Word) : State := { s with tickDone := false, pace := p }
noncomputable def powered (f : Power → Power) : State := { mDisc with power := f mDisc.power }
/-- An armed record: pre-empt gang 1 at tick 0, with other fields as given. -/
def rec1 (v : Nat) : Armed :=
  { id := 5, seq := 0, recd := BitVec.ofNat 512 (v + 1 + 2 ^ 16), portal := 0, k := 0, attempt := 0, tried := false, ready := true, acted := false, straggled := false, undone := false, moved := 0, undoAt := none,
    reports := [], collecting := false, final := none, due := 0 }
noncomputable def armed (s : State) (l : List Armed) : State := { s with starter := { s.starter with armed := l } }
/-- The bench's slice in gang 1; at a pace tick of its own: idle with its deadline past; with a window due to open; with one due to close. -/
noncomputable def mGang : State := m0.setSl { m0.sl with gang := 1 }
noncomputable def mIdle : State := m0.setSl { m0.sl with st := .idle }
noncomputable def mOpens : State := atTick (mDisc.setSl { mDisc.sl with go := some ⟨1, 5, 4, 2⟩ }) 4
noncomputable def mCloses : State := atTick (mDisc.setSl { mDisc.sl with window := some 2, eff := { mDisc.sl.eff with xlen := 2 } }) 4
theorem superstep_m0 : Superstep (atTick m0 4) := by unfold Superstep; decide +kernel
theorem witness_Power_events : (let s := powered (fun p => { p with target := some 20 })
      s.power.target ≠ none ∧ s.power.forced = false ∧ ∃ h < 40, ∃ c ∈ s.core :: s.rest, slabOf c.id = h ∧ ∃ x ∈ c.slices.toList, x.resident = true ∧ x.disc = true) ∧
    (powered (fun p => { p with supply := true })).power.supply = true ∧ (let s := powered (fun p => { p with halted := true })
      s.power.halted = true ∧ s.queue = [] ∧ ({ s with queue := [.stepRaise] } : State).queue = Instr.stepRaise :: [] ∧ ∀ b f im, Instr.stepRaise ≠ .powerUp b f im) ∧
    (let s : State := { atTick m0 4 with starter := { m0.starter with clk := 0 } }
     s.fullService = false ∧ s.starter.clk = 0 ∧ s.fcyc = 0 ∧ s.tickDone = false ∧ Superstep s) ∧
    ((atTick m0 4).fcyc = 0 ∧ (atTick m0 4).tickDone = false ∧ (atTick mIdle 4).releaseDue (atTick mIdle 4).core.slices[(0 : Fin 16)] = true ∧ mOpens.opens mOpens.core.slices[(0 : Fin 16)] = true ∧
      mCloses.closes mCloses.core.slices[(0 : Fin 16)] = true ∧ (armed (atTick mGang 0) [rec1 0]).actionDue (rec1 0) = true ∧ (armed (atTick mGang 1) [rec1 0]).straggles (rec1 0) = true) ∧
    (let s : State := { powered (fun p => { p with tripped := 1 }) with fullService := true }
     s.fullService = true ∧ s.power.tripped.getLsbD 0 = true ∧ s.power.tripped.getLsbD 39 = false ∧ s.power.forced = false) := by
  refine ⟨by decide +kernel, by decide +kernel, ⟨by decide +kernel, by decide +kernel, rfl, fun b f im => by simp⟩, ⟨by decide +kernel, by decide +kernel, by decide +kernel, by decide +kernel, ?_⟩, by and_intros <;> decide +kernel, by decide +kernel⟩
  unfold Superstep
  decide +kernel

/-- A pace slice below its target 80 µs after it was set; the same at a tick within its window, so no superstep boundary; a halted module that serves a power-up, a power write and a root
record; the start of a hush tick, with every port trained, and its last cycle; a release that no switch holds. -/
theorem witness_hush_and_forced_steps : (let s : State := { powered (fun p => { p with target := some 20 }) with fullService := true, time := 200000 }
      s.fullService = true ∧ s.power.forced = false ∧ s.power.override = false ∧ s.power.since + 200000 ≤ s.time ∧
        ∃ h : Fin 40, (∃ c ∈ s.core :: s.rest, slabOf c.id = h.val ∧ ∃ x ∈ c.slices.toList, x.resident = true ∧ x.disc = true) ∧ s.power.base[h] ≠ s.power.target.getD s.power.standing) ∧
    (let s : State := { atTick (mDisc.setSl { mDisc.sl with window := some 2, eff := { mDisc.sl.eff with xlen := 2 } }) 3 with
      fullService := true, power := { mDisc.power with target := some 20, forced := true } }
     s.fcyc = 0 ∧ s.tickDone = false ∧ s.fullService = true ∧ s.power.forced = true ∧ s.power.override = false ∧ s.power.tripped.getLsbD 0 = false ∧ s.superstep = false) ∧
    (∀ i ∈ ([.powerUp blankConfig [] [], .registerWrite (.power 0), .registerWrite .rootRecord] : List Instr),
      ({ powered (fun p => { p with halted := true }) with queue := [i] } : State).queue = i :: []) ∧
    (let s : State := { atTick m0 4 with starter := { m0.starter with clk := 0 }, fab := { m0.fab with lp := ⟨(List.range 64).map (fun q => (q, 9))⟩ } }
     s.fullService = false ∧ s.hush = false ∧ s.starter.clk = 0 ∧ s.fcyc = 0 ∧ s.tickDone = false ∧ (∀ h < 40, s.joined.getLsbD h = true → s.calibrated.getLsbD h = true) ∧ ∀ q < 64, s.fab.lp.get q ≠ 0) ∧
    (let s : State := { m0 with hush := true, fcyc := 511 }
     s.hush = true ∧ s.ticksN ≤ s.fcyc + 1) ∧
    (atTick mIdle 4).releases 0 0 = true := by
  and_intros <;> decide +kernel

/-- A block that is signed with its digest; a module not yet valid, and a valid one whose slab 39 may join; a frame to be copied. -/
def goodBlock : ConfigBlock := { blankConfig with signed := true, digest := true, modId := 5 }
noncomputable def mValid : State := { m0 with valid := true, config := goodBlock, redirect := [(3, 1048576, false)] }
theorem witness_Module_service_events : (goodBlock.signed = true ∧ goodBlock.digest = true) ∧ ¬ (blankConfig.signed = true ∧ blankConfig.digest = true) ∧ m0.valid = false ∧
    (mValid.valid = true ∧ (39 : BitVec 6).toNat < 40 ∧ mValid.failed.getLsbD 39 = false ∧ mValid.joined.getLsbD 39 = false ∧ mValid.fcyc = 0) ∧
    mValid.redirect.find? (fun x => x.1 == 3 && !x.2.2) = some (3, 1048576, false) ∧ (7 : Word).getLsbD 0 = true ∧ (6 : Word).getLsbD 0 = false := by decide +kernel

/-- A stack named for retirement, and one past its threshold; an even port latency; a frame that was last mapped elsewhere. -/
theorem witness_Module_stacks : { m0 with retired := 1 }.retired.getLsbD 0 = true ∧
    (let s : State := { m0 with config := { m0.config with errMax := 0 }, stackErrs := ⟨[(0, 1)]⟩ }
     s.config.errMax < (s.stackErrs.get 0).toNat) ∧ 250 % 2 = 0 ∧
    (let s : State := { m0 with frames := ⟨[(3, 7)]⟩ }
     s.frames.get 3 ≠ 0 ∧ s.frames.get 3 ≠ 8) := by decide +kernel

/-- A packet with its route's first segments and its other header fields; where it is. -/
def pkt (segn segs kind low : Nat) (body : BitVec 4096) : Packet := ⟨BitVec.ofNat 256 (segn * 2 ^ 252 + segs * 2 ^ 148 + kind * 2 ^ 145 + low), body, 0⟩
noncomputable def flies (p : Packet) (row col : Nat) (arr : Option Nat) (s : State) : State :=
  { s with fab := { s.fab with flights := [⟨9, p, row, col, 4, 0, arr, 1, [], 0, none, none, none, none, none, false, [], 0, none, none, []⟩] } }
noncomputable def theFlight (s : State) : Option Flight := s.fab.flights.find? (fun z => z.id == 9)
/-- At (1, 1): three hops east, then one to a core; the last hop east with a segment left; no segment; a last segment of hops; hops beyond the grid's edge; a terminal segment with
hops; to core (1, 1) itself; to another core; a copy without its group. A scheduled packet at core 0 that its partition admits and one that it does not; a message that enters and one
from another module that is refused; a start message that fits and one that does not; a transfer due to depart. -/
noncomputable def mQueue : State := mOpen.setSl { mOpen.sl with rqBase := 0x400, rqSlots := 16, rqMax := 1 }
noncomputable def mLeaves : State := { mWin with fcyc := 4, core := { mWin.core with inj := [⟨0x8000, 4, 1, 64, 0, 0, 0, iss0⟩] } }
theorem witness_Fabric_events : (∀ p ∈ [pkt 2 (1024 + 3) 1 0 0, pkt 2 (1024 + 1) 1 0 0, pkt 0 0 1 0 0, pkt 1 (1024 + 1) 1 0 0, pkt 1 (4096 + 1) 1 0 0, pkt 1 4096 1 (129 * 2 ^ 96) 0, pkt 1 4096 1 0 0,
      pkt 1 (7 * 1024) 1 (2 ^ 144) 0], (theFlight (flies p 1 1 none m0)).isSome = true) ∧
    (let p := pkt 2 (1024 + 3) 1 0 0
     p.segn ≠ 0 ∧ p.seg0 / 1024 < 4 ∧ p.seg0 % 1024 ≠ 0 ∧ (p.seg0 % 1024 = 1 → p.segn ≠ 1)) ∧ ((pkt 2 (1024 + 1) 1 0 0).seg0 % 1024 = 1 ∧ (pkt 2 (1024 + 1) 1 0 0).segn ≠ 1) ∧
    ((pkt 0 0 1 0 0).segn = 0 ∧ (pkt 1 (1024 + 1) 1 0 0).segn = 1 ∧ (pkt 1 (1024 + 1) 1 0 0).seg0 % 1024 = 1) ∧ ((pkt 1 (4096 + 1) 1 0 0).seg0 / 1024 = 4 ∧ (pkt 1 (4096 + 1) 1 0 0).seg0 % 1024 ≠ 0) ∧
    ((pkt 1 4096 1 (129 * 2 ^ 96) 0).segn = 1 ∧ (pkt 1 4096 1 (129 * 2 ^ 96) 0).did = coreAtPos 1 1 ∧ (pkt 1 4096 1 (129 * 2 ^ 96) 0).dcls = 0) ∧ (pkt 1 4096 1 0 0).did ≠ coreAtPos 1 1 ∧
    ((pkt 1 (7 * 1024) 1 (2 ^ 144) 0).mc = true ∧ (m0.fab.group.get ((coreAtPos 1 1).toNat * 256 + 0)).getLsbD 7 = false) ∧
    ((pkt 1 4096 3 (7 * 2 ^ 128) 0).malformed = true ∧ (pkt 1 4096 1 0 0).malformed = false) ∧
    (let p := pkt 1 4096 4 (2 ^ 131 + 1024) 7
     p.kind = 4 ∧ (theFlight (flies p 0 0 (some 4) mOpen)).bind (·.arrived) = some 4 ∧ deciding (mOpen.coreTable 0) p.srgn p.smod p.h = some openEntry ∧ openEntry.getLsbD 9 = true ∧
       p.opx % 16384 * 32 + 32 * p.len ≤ 393216 ∧ (mOpen.spaceSlice 0 (p.opx % 16384 * 32) (32 * p.len) openEntry).isSome = true ∧ deciding (m0.coreTable 0) p.srgn p.smod p.h = none) ∧
    (let p := pkt 1 4096 3 (2 ^ 131) 7
     p.kind = 3 ∧ p.opx / 1048576 % 2 = 0 ∧ mQueue.messageRefusal 0 p = none ∧ m0.messageRefusal 0 (pkt 1 4096 3 (2 ^ 131 + 2 ^ 84) 7) ≠ none ∧ (pkt 1 4096 3 (2 ^ 131 + 2 ^ 84) 7).smod ≠ m0.modId) ∧
    (let p := pkt 1 4096 3 (2 ^ 131 + 31 * 65536) 0
     p.kind = 3 ∧ p.opx / 1048576 % 2 = 1 ∧ p.smod = m0.modId ∧ p.h = false ∧ p.score.toNat % 16384 = 0 ∧ p.srgn = 0 ∧ p.len = 1 ∧ p.opx / 65536 = 31 ∧ p.body.toNat % 2 ^ 256 < 16 ∧
       ¬ ((pkt 1 4096 3 (2 ^ 131 + 31 * 65536) 16).body.toNat % 2 ^ 256 < 16) ∧ (let s := m0.setSl { m0.sl with st := .held }
         (s.sliceAt 0 0).v = true ∧ (s.sliceAt 0 0).st = .held ∧ (s.sliceAt 0 0).gang = 0)) ∧
    (let y : XSend := ⟨0x8000, 4, 1, 64, 0, 0, 0, iss0⟩
     (mLeaves.coreAt 0).inj = y :: [] ∧ y.win.toNat ≤ mLeaves.pace.toNat ∧ (mLeaves.pace.toNat - y.win.toNat) * mLeaves.ticksN + mLeaves.fcyc = y.depart ∧
       mLeaves.hushFor y.iss.gang (y.win.toNat + y.depart / mLeaves.ticksN) = false ∧ (∀ z ∈ mLeaves.fab.flights, z.track = []) ∧ y.n ≤ 16) := by
  and_intros <;> decide +kernel
/-- A packet whose head waits at (1, 1), with nothing in its way; an open-plane head in an odd cycle; headers malformed and not, in warm-up those of a host node; a port of a host node; a
scheduled packet with a payload flit still to come, an empty one, and one that has closed; transfers whose module can be reached and not. -/
theorem witness_Fabric_planes : ((theFlight (flies (pkt 2 (1024 + 3) 1 0 0) 1 1 none m0)).elim false
      (fun x => x.arrived == none && decide (x.row < 640) && decide (x.col < 1024) && x.latched == none && x.rq.isNone) = true ∧
      ∀ z ∈ (flies (pkt 2 (1024 + 3) 1 0 0) 1 1 none m0).fab.flights, z.id ≠ 9 → z.track = []) ∧
    (let s : State := { flies (pkt 2 (1024 + 3) 1 0 0) 1 1 none m0 with fcyc := 5 }
     (theFlight s).elim false (fun x => s.granted x 1) = true ∧ m0.fcyc % 2 = 0) ∧
    (m0.hush = false ∧ (pkt 1 4096 3 (7 * 2 ^ 128) 0).malformed = true ∧ (pkt 1 4096 3 (2 ^ 31) 0).malformed = false ∧ (pkt 1 4096 3 (2 ^ 31) 0).segn ≠ 0 ∧ (pkt 1 4096 3 (2 ^ 31) 0).h = true ∧
      (m0.fab.hostPort.get 3).toNat = 0 ∧ (({ m0.fab with hostPort := ⟨[(3, 10)]⟩ } : Fabric).hostPort.get 3).toNat ≠ 0 ∧ (pkt 1 4096 4 0 0).kind = 4) ∧
    (∀ n ∈ [0, 1, 2], (pkt 1 4096 4 (n * 2 ^ 131) 0).len = n ∧ (pkt 1 4096 4 (n * 2 ^ 131) 0).kind = 4) ∧
    (let y : XSend := ⟨0x8000, 4, 1, 64, 0, 0, 0, iss0⟩
     (entryValid (mLeaves.pathEntry 0 y.path.toNat) = true ∧ mLeaves.reachable (BitVec.ofNat 12 (fld (mLeaves.pathEntry 0 y.path.toNat).toNat 79 68)) = true) ∧
      { mLeaves with fab := m0.fab }.reachable 0 = false) := by
  and_intros <;> decide +kernel
/-- The tables through which the bench's slice reaches global memory: PASID directory in frame 16, stage 1 from frame 20, stage 2 from frame 4, both mapping the first GiB to itself; the last leaf as
given. -/
noncomputable def mWalk (leaf2 : Nat) : State :=
  let s : State := { mOpen.setSl { mOpen.sl with eff := { mOpen.sl.eff with s2f := 4 } } with pasidBase := 16 }
  ((((s.putGood (hbmKey 0 (4 * 65536)) 8 (8 * 2 ^ 24 + 1)).putGood (hbmKey 0 (8 * 65536)) 8 leaf2).putGood (hbmKey 0 (16 * 65536)) 8 (20 * 2 ^ 24 + 1)).putGood
    (hbmKey 0 (20 * 65536)) 8 (24 * 2 ^ 24 + 1)).putGood (hbmKey 0 (24 * 65536)) 8 0x3F
/-- The same with a second GiB, mapped through stage 1 to intermediate GiB 1 and through the given stage-2 leaf. -/
noncomputable def mWalk2 (leaf2 : Nat) : State := ((mWalk 0x3F).putGood (hbmKey 0 (24 * 65536 + 8)) 8 (0x3F + 16384 * 2 ^ 24)).putGood (hbmKey 0 (8 * 65536 + 8)) 8 leaf2
/-- One operation of the bench's slice in a state. -/
noncomputable def withOp (s : State) (o : Op) : State := { s with ops := [o] }
noncomputable def memOp (a : Access) (st : Stage) : Op := anOp 7 1 0x8000 0 (.mem a) st
def ga (v : Word) : Access := acc 0 (0x8000000000000000 + v) 8 0 0 0
def sa (v : Word) : Access := acc 1 (0x8000000000000000 + v) 8 5 0 0
noncomputable def walkOf (s : State) (v kind : Nat) : Option Walked :=
  match walk s 0 4 v kind with
  | .ok w => some w
  | .bad _ => none
/-- The operation stands; a core-space access is refused and admitted; the tables refuse and admit; the last addresses; a walk that faults, and walks that end in the module, in a replica, in
another module; homes; a replicated store on its way; answers of a foreign and an own operation; an invalidation of each kind; a kick of a pump with room and of a full one. -/
theorem witness_Request_events : ((withOp (mWalk 0x3F) (memOp (ga 0x800000) .flight)).ops.find? (fun (p : Op) => p.id == 7)).isSome = true ∧
    (let a := acc 0 0x4000000000008000 8 0 0 0
     isCoreSpace a.addr = true ∧ spaceMod a.addr = mOpen.modId ∧ mOpen.spaceRefusal (memOp a .flight) a = none ∧ m0.spaceRefusal (memOp a .flight) a = some 0 ∧ a.size ≤ 8 ∧
       firstPoison mOpen.pois (coreKey (spaceCore a.addr) (fld a.addr.toNat 18 0)) a.size = none) ∧
    (isGlobal (ga 0x800000).addr = true ∧ (mWalk 0x3F).tlb = [] ∧ (mWalk 0x3F).copies = [] ∧ (mWalk 0x3F).stationRefusal 0 0 0 0 false 0 = none ∧ m0.stationRefusal 0 0 0 0 false 0 = some 0) ∧
    (0x81F0000000000000 % 2 ^ 57 = 0x01F0000000000000 ∧ 31744 ≤ (0x81FFFFFFFFFFFFF8 % 2 ^ 57) / 2 ^ 42 ∧ 0x81FFFFFFFFFFFFF8 % 2 ^ 57 ≠ 0x01F0000000000000 ∧ (ga 0x800000).addr.toNat % 2 ^ 57 / 2 ^ 42 < 31744) ∧
    ((mWalk 0x3F).effFor (memOp (ga 0x800000) .flight).iss).s2f.toNat = 4 ∧ walkOf (mWalk 0x3F) 0x40000000 0 = none ∧
    ((walkOf (mWalk 0x3F) 0x800000 0).map (fun w => (fld w.bits2.toNat 7 6, w.bits2.getLsbD 9)) = some (0, false) ∧
      (walkOf (mWalk2 0x23F) 0x40800000 0).map (fun w => (fld w.bits2.toNat 7 6, w.bits2.getLsbD 9)) = some (0, true) ∧
      (walkOf (mWalk2 0x23F) 0x40800000 1).map (fun w => fld w.bits2.toNat 7 6) = some 0 ∧
      (walkOf (mWalk2 (0x7F + 9 * 4096)) 0x40800000 0).map (fun w => (fld w.bits2.toNat 7 6, fld w.bits2.toNat 23 12)) = some (1, 9) ∧ (mWalk 0x3F).reachable 9 = false ∧
      (walkOf (mWalk2 (0xBF + 9 * 4096)) 0x40800000 0).map (fun w => fld w.bits2.toNat 7 6) = some 2 ∧
      (let s : State := { mWalk2 (0x7F + 9 * 4096) with fullService := true, fab := { mOpen.fab with present := ⟨[(0, 1), (9, 1)]⟩ } }
       s.reachable 9 = true)) ∧
    (let k := hbmKey 0 0x800000
     (mWalk 0x3F).stationRefusal (homeSlab (k - hbmKey 0 0)) (homeStation (k - hbmKey 0 0)) 0 0 false 0 = none ∧ m0.stationRefusal (homeSlab (k - hbmKey 0 0)) (homeStation (k - hbmKey 0 0)) 0 0 false 0 = some 0 ∧
       firstPoison m0.pois (hbmKey 0 (redirected m0 (k - hbmKey 0 0))) 8 = none ∧ firstPoison [k] (hbmKey 0 (redirected m0 (k - hbmKey 0 0))) 8 = some k ∧ (sa 0x800000).kind = 1 ∧ (ga 0x800000).kind ≠ 1) ∧
    ((memOp (ga 0x800000) (.reply (.done 5 0))).foreign = false ∧ { memOp (ga 0x800000) (.away false) with foreign := true }.foreign = true ∧ m0.issuerThere (memOp (ga 0x800000) (.away false)).iss = true ∧
      (memOp (ga 0x800000) (.away false)).kind ≠ 0 ∧ (mStack (some ⟨7, none⟩)).cx.spill = some ⟨7, none⟩ ∧ ((0x8200 : Nat) + 512 ≤ 0x9000)) ∧
    (∀ v ∈ [0, 2 ^ 62, 2 ^ 63], v / 2 ^ 62 ≠ 3) ∧ (3 * 2 ^ 62) / 2 ^ 62 = 3 ∧ stationWord = 0x81F0000000000000 ∧ (mWalk 0x3F).stationRefusal 0 0 0 0 false 1 = none ∧
    ((m0.pumpAt 0).queue.length < 8 ∧ 8 ≤ (mFull.pumpAt 0).queue.length) := by
  and_intros <;> decide +kernel
/-- Module 9, present in full service, and a route to it from edge station 0 of slab 0: by the port one column west and 127 rows north, or by a port where none is. -/
noncomputable def mAway (segs : Nat) : State :=
  { m0 with fullService := true, fab := { mOpen.fab with present := ⟨[(0, 1), (9, 1)]⟩, path := ⟨[((coreAtPos 127 4).toNat * 256 + 16, BitVec.ofNat 192 (2 ^ 191 + segs))]⟩ } }
/-- Requests that meet poison and that do not; a translation that a station holds, also for a store; requests that are refused for want of a module, that leave, and that are lost; replicas; a host
node's answer, and the end of a message outside. -/
theorem witness_Request_ways : (readsPoison mPois (coreKey 0 0x8000) (ga 0) = some (coreKey 0 0x8000) ∧ readsPoison mPois (coreKey 0 0x8000) (sa 0) = none ∧
      readsPoison mPois (coreKey 0 0x8000) ⟨0, 0x8000000000000000, 512, 0, 0, BitVec.ofNat 512 (2 ^ 512 - 256), 0, 0⟩ = none) ∧
    (let c : CachedTr := { slab := 0, station := 0, pasid := 0, s2f := 4, page := 0x80, rgn := 0, leaf1 := 0, leaf2 := 0, bits1 := 0xFFF, bits2 := 0xFFF, phys := 0x800000, big1 := true, big2 := true }
     c.slab.toNat = 0 ∧ c.station.toNat = 0 ∧ c.page = 0x800000 / 65536 ∧ c.bits1.getLsbD 11 = true ∧ c.bits2.getLsbD 11 = true) ∧
    ((mWalk 0x3F).leavesBy (0, 0) ((mWalk 0x3F).homePacket 0 false 9 0) = .inl 4 ∧
      (mAway (3 * 2 ^ 184 + (3073 + 127 * 2 ^ 13 + 6144 * 2 ^ 26) * 2 ^ 80)).leavesBy (0, 0) ((mAway 0).homePacket 0 false 9 0) = .inr none ∧
      (mAway (2 ^ 184 + 6144 * 2 ^ 80)).leavesBy (0, 0) ((mAway 0).homePacket 6 false 9 0) = .inr (some (127, 4))) ∧
    (∀ l ∈ [1, 39], (memOp (sa 0x800000) (.replicas (hbmKey 0 0x800000) l 0 0)).stage = .replicas (hbmKey 0 0x800000) l 0 0 ∧ (sa 0x800000).kind = 1) ∧
    (∀ h ∈ [true, false], (memOp (ga 0x800000) (.away h)).stage = .away h ∧ (anOp 7 0 0 0 (.post (pkt 1 4096 3 0 0) none) (.away h)).stage = .away h) ∧
    { memOp (sa 0x800000) (.reply (.done 0 0)) with mc0 := true }.mc0 = true := by
  and_intros <;> decide +kernel
/-- The Starter's entry of COORD 9, with further bits of its record; a clock status; the entry's gang held or suspended. -/
def rec9 (v : Nat) : Armed := rec1 (v + 9 * 2 ^ 244)
noncomputable def clocked (c : BitVec 2) (s : State) : State := { s with starter := { s.starter with clk := c } }
noncomputable def standing (s : State) (st : SliceSt) : State := s.setSl { s.sl with st := st, started := true }
/-- A notice at the controller: its kind of report, attempt, gang, T. -/
noncomputable def mNotice (what : Nat) (s : State) : State := flies (pkt 1 4096 3 (5 * 2 ^ 128) (BitVec.ofNat 4096 (2 ^ 48 + what * 2 ^ 40))) 0 0 (some 5) s
/-- The domain of the Announces; the trim; isolation; a due record with holdover and without, of another COORD, with each action; a straggler with and without a further attempt; a collection that is complete,
short and under the proceed policy; an undo; an outcome 64 ticks old; a record to place; a notice of a stranger and of a present module: an undo and a report. -/
theorem witness_Starter_events : (m0.config.ptpDomain ≠ m0.config.ptpDomain + 1 ∧ m0.starter.expired = false ∧ { m0.starter with expired := true }.expired = true) ∧
    (let s : State := clocked 0 { m0 with starter := { m0.starter with trim := -50000 } }
     s.modId = s.config.refMod ∧ s.starter.clk = 0 ∧ -50000 ≤ s.starter.trim ∧ s.starter.trim ≤ 50000 ∧ ((-49900 : Int) - s.starter.trim).natAbs ≤ 100) ∧ (clocked 1 m0).starter.clk ≠ 0 ∧
    (m0.isolated = false ∧ { m0 with isolated := true }.isolated = true) ∧
    (let s := clocked 1 (armed (standing mGang .ready) [rec9 64])
     s.starter.armed.find? (fun b => b.id == 5) = some (rec9 64) ∧ s.actionDue (rec9 64) = true ∧ s.starter.clk = 1 ∧ (rec9 64).f 6 6 = 1 ∧ (rec9 64).coord ≠ s.modId ∧ (rec1 0).coord = s.modId) ∧
    (∀ p ∈ [(0, SliceSt.held), (1, .ready), (1, .running), (1, .idle), (2, .suspended), (2, .stopped), (3, .running)],
      let a : Armed := { rec9 0 with recd := BitVec.ofNat 512 (p.1 + 2 ^ 16 + 9 * 2 ^ 244) }
      let s := armed (standing mGang p.2) [a]
      s.starter.armed.find? (fun b => b.id == 5) = some a ∧ s.actionDue a = true ∧ (s.starter.clk ≠ 1 ∨ a.f 6 6 ≠ 1) ∧ s.gangSlices a.gang = [(0, 0)] ∧ a.doing = p.1 ∧
        ((s.sliceAt 0 0).attached && (s.sliceAt 0 0).halted) = false ∧ (s.sliceAt 0 0).st = p.2) ∧
    (let s := armed (atTick (standing mGang .held) 1) [rec9 0]
     let r := rec9 (32 + 2 ^ 224)
     s.straggles (rec9 0) = true ∧ (rec9 0).retries = false ∧ s.gangSlices (rec9 0).gang = [(0, 0)] ∧ (s.sliceAt 0 0).st = .held ∧ s.straggles r = true ∧ r.retries = true ∧ r.coord ≠ s.modId) ∧
    (let s := atTick mGang 64
     let a (v : Nat) (l : List Report) : Armed := { rec1 (v + 2 ^ 232) with collecting := true, reports := l, acted := true }
     s.lastTick (a 0 []) + 64 ≤ s.pace.toNat ∧ ((a 0 [⟨3, true⟩]).reports.filter (fun r => r.acted)).length = (a 0 [⟨3, true⟩]).nmem ∧
       ((a 0 []).reports.filter (fun r => r.acted)).length ≠ (a 0 []).nmem ∧ (a 0 []).strg ≠ 1 ∧ (a 0 []).act ≠ 3 ∧ (a 0 []).acted = true ∧ (a 16 []).strg = 1) ∧
    (let a : Armed := { rec1 0 with recd := BitVec.ofNat 512 (2 ^ 16), acted := true, undoAt := some 0 }
     let s := armed (standing mGang .ready) [a]
     a.undoAt = some 0 ∧ (0 : Word).toNat ≤ s.pace.toNat ∧ a.retries = false ∧ { rec1 (32 + 2 ^ 224) with undoAt := some 0 }.retries = true ∧ s.gangSlices a.gang = [(0, 0)] ∧ a.acted = true ∧ a.act = 0 ∧
       (s.sliceAt 0 0).st = .ready) ∧
    ((0 : Word).toNat + 64 ≤ (atTick mGang 64).pace.toNat ∧ { rec1 0 with final := some 0 }.final = some 0) ∧
    (let a : Armed := { rec1 0 with recd := BitVec.ofNat 512 (2 ^ 16), ready := false }
     a.act = 0 ∧ a.tried = false ∧ a.final = none ∧ (armed mGang [a]).starter.armed.find? (fun b => b.id == 5) = some a) ∧
    (let f (s : State) : Bool := (theFlight s).elim false (fun f => f.pkt.kind == 3 && f.pkt.dcls == 5 && f.arrived == some 5 && f.pkt.smod == 0 && !f.pkt.h)
     let home : State := { mGang with fab := { mGang.fab with present := ⟨[(0, 1)]⟩ } }
     let a : Armed := rec1 (2 * 2 ^ 232)
     f (mNotice 3 mGang) = true ∧ mGang.fab.present.get 0 ≠ 1 ∧ f (mNotice 3 home) = true ∧ home.fab.present.get 0 = 1 ∧ a.matches (2 ^ 48 + 3 * 2 ^ 40) = true ∧ a.matches (2 ^ 48 + 2 ^ 40) = true ∧
       fld (2 ^ 48 + 3 * 2 ^ 40) 47 40 = 3 ∧ fld (2 ^ 48 + 3 * 2 ^ 40) 39 32 = a.attempt % 256 ∧ a.coord = home.modId ∧ a.reports.length + 1 < a.nmem ∧ ∀ r ∈ a.reports, r.m ≠ (0 : BitVec 12)) := by
  and_intros <;> decide +kernel
/-- Messages of another domain and on the inactive port, none heard before, and on the active one; a trim that has room and is needed; a slice held for the record and one that is not; a record
with no placement before it and one behind a LAUNCH; COORD's collection without its own action, with and without a further attempt. -/
theorem witness_Starter_choices : (let s : State := { m0 with starter := { m0.starter with port := 0 } }
      m0.config.ptpDomain ≠ m0.config.ptpDomain + 1 ∧ s.starter.port = 0 ∧ s.starter.port ≠ 1 ∧ { m0 with starter := { m0.starter with port := 2 } }.starter.port = 2) ∧
    (let s : State := clocked 0 { m0 with time := 5000000000, starter := { m0.starter with trim := 100, trimAt := 0, ofs := 5 } }
     s.modId = s.config.refMod ∧ s.starter.clk = 0 ∧ 0 < s.starter.ofs.toInt ∧ s.starter.trim ≤ 150 ∧ ((150 : Int) - s.starter.trim).natAbs ≤ min 100 ((s.time - s.starter.trimAt) * 100 / 2500000000)) ∧
    ((rec1 0).holds { m0.sl with st := .held, arm := some 5 } = true ∧ (rec1 0).holds { m0.sl with st := .held, arm := none } = false) ∧
    (mGang.placesBefore 0 = false ∧ ({ mGang with cmds := [{ p := 1, n := 0, seq := 0, bytes := 1, result := none, waits := [], parts := [], pos := 0, low := none, bad := 0, badSt := 0, due := 0 }] } : State).placesBefore 1 = true) ∧
    (let a (v : Nat) : Armed := { rec1 (v + 2 ^ 232) with collecting := true }
     (a 0).acted = false ∧ (a 0).retries = false ∧ (a (32 + 2 ^ 224)).retries = true ∧ ((a 0).reports.filter (fun r => r.acted)).length ≠ (a 0).nmem ∧ (a 0).strg ≠ 1 ∧ (a 0).act ≠ 3) := by
  and_intros <;> decide +kernel
/-- A notify write at edge station 0 of slab 0 from host node 9. -/
noncomputable def mNotify (opx v : Nat) (s : State) : State := flies (pkt 1 4096 1 (2 ^ 128 + 9 * 2 ^ 84 + 2 ^ 31 + opx) (BitVec.ofNat 4096 v)) (stationPos 0 0).1 (stationPos 0 0).2 (some 5) s
/-- The tables of `mWalk2` with its second GiB in the memory of host node 9; a tenant region 1 under the root, slice 0 of core 0 its own; portal 1 of host node 9 for it, rings of 16 at its second GiB, one
command to fetch, with further bits of its descriptor. -/
def aRegion (id : BitVec 12) (rcb : Word) : Region := { id := id, uid := 0, rcb := rcb, parent := 0, rect := false, slab := 0, eff := { Eff.zero with s2f := 4 }, subc := 0, ckeys := 0, hbmpg := 1048576, doneBox := 0, hnode := none, killed := false, why := 0, placed := 0 }
noncomputable def mHost (d : Nat) : State :=
  let s := mWalk2 (0xBF + 9 * 4096)
  { s.setSl { s.sl with rgn := 1, gang := 1 } with
    valid := true, regions := [aRegion 0 0xF00, aRegion 1 0x1000, aRegion 2 0x2000], joined := 1, fab := { s.fab with base := [openEntry, openEntry + 2 ^ 14], unitBase := [openEntry, openEntry + 2 ^ 14] },
    portals := ⟨[(1, BitVec.ofNat 256 (2 ^ 255 + 4 * 2 ^ 248 + 9 * 2 ^ 236 + 2 ^ 224 + 0x40800 * 2 ^ 147 + 0x40801 * 2 ^ 102 + 2 ^ 32 + d))]⟩ }
noncomputable def ownerOf (s : State) : State := { s with portals := ⟨(0, BitVec.ofNat 256 (2 ^ 253)) :: s.portals.cells⟩ }
/-- A command of portal 1 in progress: its bytes, its result; the state that holds it. -/
def cmd (v : Nat) : Cmd := { p := 1, n := 0, seq := 0, bytes := BitVec.ofNat 512 v, result := none, waits := [], parts := [], pos := 0, low := none, bad := 0, badSt := 0, due := 0 }
noncomputable def does (c : Cmd) (s : State) : State := { s with cmds := [c] }
noncomputable def can (c : Cmd) (s : State) : Bool := (does c s).mayRun c && (does c s).cmds.find? (fun (e : Cmd) => e.p == 1 && e.n == 0) == some c
/-- A block of the tenant's first GiB, a child of region 1: no rectangle, or one core in class 3. -/
def rcb0 : Nat := 0x1000 + 2 ^ 724
def rcb1 : Nat := 0x1000 + 2 ^ 724 + (2 ^ 63 + 0x900000) * 2 ^ 192 + 100 * 2 ^ 640 + 10 * 2 ^ 672 + 0x5FF * 2 ^ 688 + 2 ^ 768 + 2 ^ 776 + 64 * 2 ^ 784 + 4 * 2 ^ 802 + 2 ^ 832 + 3 * 2 ^ 908
noncomputable def mTree (v : Nat) (s : State) : State :=
  let t := (s.setSl Slice.fresh).putGood (hbmKey 0 0x800000) 256 v
  { t with core := { t.core with running := none } }
noncomputable def launched (s : State) (root : Word) : Placed := (s.launchTree 0 (s.portalNode 1) root (s.portalSpace 1).1 (s.portalSpace 1).2 false 1 0 none).2
/-- A place of a portal's ring translates to good host memory; the host node then may refuse the access, a free choice (log 69): both ways are shown. -/
noncomputable def onHostRing (s : State) (p : BitVec 6) (va n acc : Nat) : Bool :=
  match walk s (s.portalSpace p).1.toNat (s.portalSpace p).2.toNat va acc with
  | .bad _ => false
  | .ok w =>
    let w := w.onHost (s.portalNode p)
    decide (fld w.bits2.toNat 7 6 = 2) && (firstPoison s.pois (w.key s) n).isNone
theorem ring_either {s : State} {p : BitVec 6} {va n acc : Nat} (h : onHostRing s p va n acc = true) :
    (s.ringKey p va n acc).2.isSome = !Config.hostRefuses s.draws := by
  unfold onHostRing at h
  unfold State.ringKey State.hostSaysNo
  split at h
  · cases h
  · rename_i w0 hw
    simp only [Bool.and_eq_true, decide_eq_true_eq, Option.isNone_iff_eq_none] at h
    cases hr : Config.hostRefuses s.draws <;> simp [hw, h.1, h.2]
/-- A place of a stack is free where the intervals in use are all below the stack, but for one of four frames. -/
theorem firstFree_none {used : List (Nat × Nat)} {slab a : Nat} : ∀ {n : Nat}, firstFree used slab a n = none → ∀ m < n,
    (used.all fun u => decide (slab * 1048576 + (a + (732420 - m)) % 732421 < u.1) || decide (u.1 + u.2 ≤ slab * 1048576 + (a + (732420 - m)) % 732421)) = false
  | 0, _, m, hm => absurd hm (Nat.not_lt_zero m)
  | n + 1, h, m, hm => by
    simp only [firstFree] at h
    split at h
    · cases h
    · rename_i hc
      rcases Nat.lt_succ_iff_lt_or_eq.mp hm with hm | rfl
      · exact firstFree_none h m hm
      · exact Bool.eq_false_iff.mpr hc
theorem firstFree_there {used : List (Nat × Nat)} {slab a r : Nat} (h : ∀ u ∈ used, u = (r, 4) ∨ u.1 + u.2 ≤ slab * 1048576) :
    (firstFree used slab a 732421).isSome = true := by
  refine Option.isSome_iff_ne_none.mpr fun hn => ?_
  have key (t : Nat) (ht : t < 732421) : r ≤ slab * 1048576 + t ∧ slab * 1048576 + t < r + 4 := by
    have hm := firstFree_none hn ((a % 732421 + 1464841 - t) % 732421) (Nat.mod_lt _ (by decide))
    have e : (a + (732420 - (a % 732421 + 1464841 - t) % 732421)) % 732421 = t := by omega
    rw [e, List.all_eq_false] at hm
    obtain ⟨u, hu, hc⟩ := hm
    simp only [Bool.or_eq_true, decide_eq_true_eq, not_or, Nat.not_lt, Nat.not_le] at hc
    rcases h u hu with rfl | hl
    · exact hc
    · omega
  have h0 := key 0 (by decide)
  have h4 := key 4 (by decide)
  omega
theorem pick_one {s : State} {slab : Nat} (h : ∀ u ∈ s.occupied, u = (Config.rootTable.toNat, 4) ∨ u.1 + u.2 ≤ slab * 1048576) :
    (s.pickFrames slab 1 s.occupied).isSome = true := by
  have hf := firstFree_there (a := (Config.ringFrame (s.draws + 0)).toNat) h
  rw [State.pickFrames.eq_2]
  revert hf
  generalize firstFree s.occupied slab (Config.ringFrame (s.draws + 0)).toNat 732421 = r
  intro hf
  cases r with
  | none => cases hf
  | some f => rfl
/-- A notify that is accepted and one beyond the ring, and one before the configuration is valid; a reset notify from the portal's node and from another; a ring that translates and one
that does not; a command of each status. -/
theorem witness_Host_portals : (let s := mNotify 64 1 (mHost 0)
      (theFlight s).elim false Flight.isNotify = true ∧ 1 / 2 ^ 32 ≠ 2 ^ 31 ∧ (theFlight s).elim false (fun x => s.notifyAllowed x.pkt) = true ∧ fld (s.portals.get 1).toNat 101 101 = 0 ∧
        (1 + 2 ^ 32 - fld (s.portals.get 1).toNat 31 0) % 2 ^ 32 ≤ 16 ∧ (1 + 2 ^ 32 - fld (s.portals.get 1).toNat 63 32) % 2 ^ 32 ≤ 16 ∧ ¬ (17 + 2 ^ 32 - fld (s.portals.get 1).toNat 31 0) % 2 ^ 32 ≤ 16) ∧
    ((2 ^ 63 + 3) / 2 ^ 32 = 2 ^ 31 ∧ (theFlight (mNotify 128 (2 ^ 63) (mHost 0))).elim true (fun x => (mNotify 128 (2 ^ 63) (mHost 0)).notifyAllowed x.pkt) = false) ∧
    ((mHost 0).valid = true ∧ { mHost 0 with valid := false }.valid = false) ∧
    ((mHost 0).mayFetch 1 = true ∧ onHostRing (mHost 0) 1 0x40800000 64 0 = true ∧ ((mHost (0xFF800 * 2 ^ 147)).ringKey 1 0x140000000 64 0).2.isNone = true) ∧
    ((2 ^ 254 : Nat).testBit 254 = true ∧ fld (2 ^ 32) 51 32 ≠ 0 ∧ (∀ v ∈ [0, 9], fld v 7 0 = 0 ∨ 8 < fld v 7 0) ∧ operandBad (1 + 2 ^ 10) = true ∧ (let v := 7 + 2 * 2 ^ 128 + 2 * 2 ^ 136 + 4 * 2 ^ 440
      operandBad v = false ∧ fld v 7 0 = 7 ∧ fld v 135 128 = 2 ∧ fld v 143 136 = 2 ∧ (mHost 0).portals.get 2 = 0) ∧ (let v := 7 + 3 * 2 ^ 128
      operandBad v = false ∧ fld v 135 128 = 3 ∧ fld v 143 136 = 0 ∧ (ownerOf (mHost 0)).portals.get 0 = BitVec.ofNat 256 (2 ^ 253)) ∧ operandBad (4 + 2 ^ 128) = false ∧ fld (4 + 2 ^ 128) 7 0 ≠ 7) := by
  and_intros <;> decide +kernel
/-- Each command in a state that carries it out, with each of its outcomes: a completion on its ring and without one; a launch of nothing, of an empty region, of one core, held by a clearing, and waiting; an
arming refused and accepted; kills, queries, copies, key pools, configurations, a resume. -/
noncomputable def mPool1 : State := { mHost 0 with joined := 2, regions := [aRegion 0 0xF00, { aRegion 1 0x1000 with ckeys := 16, slab := 1 }] }
theorem witness_Host_pools : (mPool1.pickFrames (mPool1.poolSlab { aRegion 1 0x1000 with ckeys := 16, slab := 1 }).toNat (poolFrames 16 4 8) mPool1.occupied).isSome = true := by
  have h : poolFrames 16 4 8 = 1 ∧ mPool1.poolSlab { aRegion 1 0x1000 with ckeys := 16, slab := 1 } = 1 := by decide +kernel
  rw [h.1, h.2]
  refine pick_one fun u hu => ?_
  unfold State.occupied at hu
  rcases List.mem_cons.mp hu with rfl | hu
  · exact .inr (by decide +kernel)
  rcases List.mem_cons.mp hu with rfl | hu
  · exact .inl rfl
  · exact .inr ((by decide +kernel : ∀ u ∈ (rootsIn mPool1.regions).flatMap (fun f => mPool1.mappedUnder f.toNat ++ mPool1.nodesUnder f.toNat) ++
      mPool1.pools.flatMap (fun q => q.frames.map (fun f => (f.toNat, 1))) ++ mPool1.redirect.map (fun r => (r.2.1.toNat, 1)),
      u.1 + u.2 ≤ (1 : BitVec 6).toNat * 1048576) u hu)
theorem witness_Host_commands : (let c : Cmd := { cmd 4 with result := some (0, 0, 0, 0) }
      can c (mHost 0) = false ∧ (does c (mHost 0)).cmds.find? (fun (e : Cmd) => e.p == 1 && e.n == 0) = some c ∧ onHostRing { (mHost 0) with cmds := [] } 1 0x40801000 32 1 = true ∧
        (State.ringKey { (mHost (0xFF7FF * 2 ^ 102)) with cmds := [] } 1 0x140000000 32 1).2.isNone = true ∧ c.bytes.getLsbD 8 = false ∧
        (let r : Cmd := { cmd (7 + 3 * 2 ^ 128 + 2 ^ 136) with result := some (0, 0, 0, 0) }
         r.op = 7 ∧ r.f 135 128 = 3 ∧ r.result = some (0, 0, 0, 0))) ∧
    ((mHost 0).regionAt 0x3000 = none ∧ ((mHost 0).regionAt 0x2000).map (fun r => (mHost 0).under r.id 1) = some false ∧ (mHost 0).regionAt 0x1000 = some (aRegion 1 0x1000) ∧ (mHost 0).under 1 1 = true) ∧
    (can (cmd (1 + 0x800000 * 2 ^ 128)) (mHost 0) = true ∧ launched (mHost 0) 0x800001 = .status 4 ∧ launched (mTree rcb0 (mHost 0)) 0x800000 = .slices [] ∧ launched (mTree rcb1 (mHost 0)) 0x800000 = .slices [(0, 0)] ∧
      (let s := mTree rcb1 (mHost 0)
       launched { s with core := { s.core with share := some 0, shareClr := some (0, 9) } } 0x800000 = .waits)) ∧
    (let c : Cmd := { cmd 1 with waits := [(0, 0)] }
     can c (mHost 0) = true ∧ c.waits ≠ [] ∧ c.waits.all (fun w => ((mHost 0).sliceAt w.1 w.2).st != .held) = true ∧ c.waits.any (fun w => (((mHost 0).setSl { (mHost 0).sl with st := .held }).sliceAt w.1 w.2).st == .held) = true) ∧
    (let r : BitVec 512 := BitVec.ofNat 512 (1 + 2 ^ 16 + 2 ^ 64 + 2 ^ 232 + 0x1000 * 2 ^ 256 + 0x800000 * 2 ^ 320)
     can (cmd (2 + r.toNat * 2 ^ 128)) (mHost 0) = true ∧ (mHost 0).armRefusal 1 r = some 1 ∧ ({ mHost 0 with fullService := true } : State).armRefusal 1 r = none) ∧
    (can (cmd (3 + 0x1000 * 2 ^ 192)) (mHost 0) = true ∧ (mHost 0).slicesOf ((mHost 0).subtree 1) = [(0, 0)] ∧ ((mHost 0).setSl Slice.fresh).slicesOf ((mHost 0).subtree 1) = [] ∧ (aRegion 1 0x1000).id ≠ 0 ∧ (aRegion 0 0xF00).id = 0) ∧
    (can (cmd (3 + 2 ^ 128 + 2 ^ 192)) (mHost 0) = true ∧ (mHost 0).gangSlices 2 = [] ∧ (mHost 0).gangSlices 1 = [(0, 0)] ∧ (∀ a ∈ (mHost 0).starter.armed, ¬ (a.gang = 1 ∧ a.open = true)) ∧
      (let s := armed (mHost 0) [rec1 0]
       (rec1 0).gang = 1 ∧ (rec1 0).open = true ∧ s.cancellable (rec1 0) = false ∧ s.cancellable { rec1 0 with k := 9 } = true)) ∧
    (let c (i : Nat) : Cmd := { cmd (3 + i * 2 ^ 128) with waits := [(0, 0)], parts := [(0, 0, 4096)] }
     can (c 0) (mHost 0) = true ∧ can (c 1) (mHost 0) = true ∧ (c 1).f 135 128 < 2 ∧ (c 0).waits.all (mHost 0).gone = true ∧ (c 0).waits.all ((mHost 0).setSl { (mHost 0).sl with st := .leaving }).gone = false ∧
       (c 0).parts.all (mHost 0).delivered = true ∧ (c 0).parts.all (withOp (mHost 0) (memOp ⟨0, 0x4000000000000000, 8, 0, 0, 0, 0, 0⟩ .flight)).delivered = false) ∧
    ((∀ i < 4, can (cmd (4 + i * 2 ^ 128 + (if i = 3 then 0x1000 * 2 ^ 192 else 0))) (mHost 0) = true ∧ (cmd (4 + i * 2 ^ 128)).op = 4 ∧ (cmd (4 + i * 2 ^ 128)).f 135 128 = i)) ∧
    (let c : Cmd := cmd (5 + 0x800000 * 2 ^ 128 + 0x801000 * 2 ^ 192 + 8 * 2 ^ 256)
     let bad : Cmd := cmd (5 + 0x140000000 * 2 ^ 128 + 0x801000 * 2 ^ 192 + 8 * 2 ^ 256)
     can c (mHost 0) = true ∧ can bad (mHost 0) = true ∧ c.pos < c.f 295 256 ∧ { c with pos := 8 }.f 295 256 ≤ { c with pos := 8 }.pos ∧ ((mHost 0).copyWalk bad (bad.f 184 128) 0).isLeft = true ∧ (mHost 0).copies = [] ∧
       (((mHost 0).copyWalk c (c.f 184 128) 0).elim (fun _ => false) (fun w => (((mHost 0).setAcDt w 0).draw.copyWalk c (c.f 248 192) 1).elim (fun _ => false) (fun to_ => (to_.keys (mHost 0)).length == 1))) = true) ∧
    (let c (nkey : Nat) : Cmd := cmd (6 + 0x1000 * 2 ^ 128 + 3 * 2 ^ 192 + 2 ^ 208 + nkey * 2 ^ 224)
     let q (waits : List Nat) : Pool := { rgn := 1, num := 3, n := 8, d := 4, lossy := false, nst := 1, nkey := 16, slab := 0, frames := [], keys := [], readers := [], waiting := waits }
     can (c 0) (mHost 0) = true ∧ can (c 16) (mHost 0) = true ∧ (q [1]).busy = true ∧ (q []).busy = false ∧ ((mHost 0).chain 4096 1).any (fun y => y.id != 0 && decide (y.ckeys < (mHost 0).keysUsed y.id 1 3 + 16)) = true ∧
       (let s : State := { mHost 0 with regions := [aRegion 0 0xF00, { aRegion 1 0x1000 with ckeys := 16 }] }
        (s.chain 4096 1).any (fun y => y.id != 0 && decide (y.ckeys < s.keysUsed y.id 1 3 + 16)) = false ∧ poolFrames 16 4 8 = 1 ∧ (2 : Nat) ^ 32 ≠ 0 ∧ poolFrames (2 ^ 32 - 1) 4 8 = 37748736)) ∧
    (∀ i ∈ [1, 2, 3, 4, 5], let c := cmd (7 + i * 2 ^ 128 + 2 ^ 136)
      can c (mHost 0) = true ∧ c.op = 7 ∧ c.f 135 128 = i) ∧
    (can (cmd (8 + 0x1000 * 2 ^ 128)) (mHost 0) = true ∧ (let s := (mHost 0).setSl { (mHost 0).sl with st := .stopped }
      (s.slicesOf (s.subtree 1)).filter (fun w => ((s.sliceAt w.1 w.2).st == .suspended || (s.sliceAt w.1 w.2).st == .stopped) && !((s.sliceAt w.1 w.2).attached && (s.sliceAt w.1 w.2).halted)) = [(0, 0)])) ∧
    (let s := mTree rcb1 (mHost 0)
     let e : Eff := { Eff.zero with cls := 3, bud := 100, per := 10, spkb := 64, iskb := 4, clen := 1 }
     ((s.coreAt 0).fit e).isSome = true ∧ (tableInsert (s.coreTable 0) (placementEntry 1 s.modId)).isSome = true ∧ 8 * e.clen.toNat ≤ e.iskb.toNat * 1024 ∧
       ((s.coreAt 0).fit e).elim false (fun p => decide (p.2.1 * 4096 + 512 ≤ 393216)) = true) := by
  and_intros <;> decide +kernel
/-- The bench's context 0 in a wait that has run out or not; a slice 0 by an update of it; its core by one. -/
noncomputable def waits (k : WaitKind) (arg : Word) (s : State) : State := s.setCx { s.cx with wait := some { kind := k, rd := 1, arg := arg, limit := 1, count := 1, seen := 0, stall := 0, cancelled := false } }
noncomputable def slc (f : Slice → Slice) (s : State) : State := s.setSl (f s.sl)
noncomputable def inCore (f : Core → Core) (s : State) : State := { s with core := f s.core }
noncomputable def sop (r : Req) : Op := anOp 7 0 0x8000 0 r .flight
/-- A release; a budget run out in class 3 and in class 0; a switch to idle and one to slice 0 that ends; a slice come to rest; a share to clear; the last arrival of one and the first of four; a go message for a
slice that is there and for one that has left; a window that opens and closes beside waits; expired waits; halts and resumptions. -/
theorem witness_Slice_events : ((atTick mIdle 4).releaseDue ((atTick mIdle 4).sliceAt 0 0) = true) ∧
    (let s := slc (fun x => { x with brem := 0 }) m0
     let x := s.sliceAt 0 0
     x.v = true ∧ x.st = .running ∧ x.brem = 0 ∧ x.disc = false ∧ (s.coreAt 0).switch = none ∧ x.cls ≠ 3 ∧ (slc (fun x => { x with cls := 3 }) s).sl.cls = 3) ∧
    (let s (p : SwPhase) (inc : Option (Fin 16)) := inCore (fun c => { c with switch := some { out := none, inc := inc, phase := p, left := 0 } }) (slc (fun x => { x with ctxs := x.ctxs.set 0 { x.ctxs[(0 : Fin 11)] with stopped := true } }) m0)
     ((s .pointer none).coreAt 0).switchOver = true ∧ ((s .restore (some 0)).coreAt 0).switchOver = true ∧ (m0.sliceAt 0 0).acc = true ∧ (m0.sliceAt 0 0).v = true ∧ (m0.sliceAt 0 0).st = .running ∧
       ((s .restore (some 0)).sliceAt 0 0).ctxs[(0 : Fin 11)].live = true ∧ ((s .restore (some 0)).sliceAt 0 0).ctxs[(0 : Fin 11)].stopped = true) ∧
    ((slc (fun x => { x with st := .leaving, ctxs := Vector.replicate 11 Ctx.fresh }) m0).mayLeave 0 0 = true) ∧ ((inCore (fun c => { c with share := some 0, shareClr := some (0, 9) }) m0).coreAt 0).shareClr ≠ none ∧
    (let s (n : Nat) := withOp (slc (fun x => { x with crows := BitVec.ofNat 8 n, ccols := BitVec.ofNat 8 n }) m0) (sop (.arrival 1 5 0))
     (s 1).ops.find? (fun (p : Op) => p.id == 7) = some (sop (.arrival 1 5 0)) ∧ (s 1).memberAt ((s 1).sliceAt 0 0).lead 0 0 = some 0 ∧ (s 1).memberAt ((s 1).sliceAt 0 0).lead 5 0 = none ∧
       ((s 1).sliceAt 0 0).crows.toNat * ((s 1).sliceAt 0 0).ccols.toNat ≤ 1 ∧ 1 < ((s 2).sliceAt 0 0).crows.toNat * ((s 2).sliceAt 0 0).ccols.toNat ∧ ((s 1).sliceAt 0 0).arrivals = []) ∧
    (let o := sop (.go { num := 1, v := 5, w := 4, tick := 0 })
     (withOp m0 o).ops.find? (fun (p : Op) => p.id == 7) = some o ∧ m0.issuerThere o.iss = true ∧ (slc (fun x => { x with rgn := 3 }) m0).issuerThere o.iss = false) ∧
    (let s := waits .sbar 1 mOpens
     s.opens (s.sliceAt 0 0) = true ∧ (s.sliceAt 0 0).go = some { num := 1, v := 5, w := 4, tick := 2 } ∧ (s.coreAt 0).running = some 0 ∧ ((s.sliceAt 0 0).ctxs[(0 : Fin 11)].wait.map (fun w => (w.kind, w.arg))) = some (.sbar, 1)) ∧
    (let s := waits .xend 0 mCloses
     s.closes (s.sliceAt 0 0) = true ∧ ((s.sliceAt 0 0).ctxs[(0 : Fin 11)].wait.map (·.kind)) = some .xend) ∧
    (∀ k ∈ [WaitKind.cwait, .qwait, .hjoin, .sbar, .xend, .mwait], ((waits k 0 m0).expiredWait 0 0 0).isSome = true) ∧
    (let s := waits .cwait 0x8000 m0
     let o : Op := anOp 7 1 0x8000 0 (.tld 0 0 0 0 true false) .queued
     (s.expiredWait 0 0 0).elim false (fun w => ((s.focus 0 0).cancelTarget w).isNone && ((withOp s o).focus 0 0).cancelTarget w == some o) = true ∧ (0 : CoreId) = s.core.id) ∧
    (let s := slc (fun x => { x with attached := true }) m0
     (s.sliceAt 0 0).attached = true ∧ (s.sliceAt 0 0).halted = false ∧ (s.sliceAt 0 0).resident = true ∧ (s.sliceAt 0 0).ctxs[(0 : Fin 11)].live = true ∧ (s.sliceAt 0 0).ctxs[(0 : Fin 11)].unvec = false) ∧
    (let s := slc (fun x => { x with attached := true, halted := true, st := .suspended }) m0
     (s.sliceAt 0 0).halted = true ∧ (s.sliceAt 0 0).resident = true ∧ (s.sliceAt 0 0).st = .suspended) := by
  and_intros <;> decide +kernel

/-- A pool of region 0 with 16 keys, one reader at most; a key with samples; the bench with it. -/
def aPool (keys : List Key) (rd : List Word) (waiting : List Nat) : Pool :=
  { rgn := 0, num := 3, n := 8, d := 4, lossy := false, nst := 1, nkey := 16, slab := 0, frames := [], keys := keys, readers := rd.map (fun t => ⟨0, 5, 0, t⟩), waiting := waiting }
def aSample (t h : Word) (first : Bool) : Sample := { t := t, recd := 1, h := h, hp := 2, first := first }
def aKey (l : List Sample) (t h : Word) : Key := { idx := 0, samples := l, l := t, h := h, writer := none }
noncomputable def mPool (p : Pool) : State := { mOpen with pools := [p] }
noncomputable def cop (r : Req) (st : Stage) : Op := anOp 7 16 0x8000 0x9000 r st
def theKey : Word := 0x30000000
/-- Requests of each kind; refusals at both stations and of keys; a key full and blocked, empty, with one sample read at, before and beyond it; readers; cancels; completions. -/
theorem witness_Cistern_events : (∀ r ∈ [Req.tst theKey 1 0 0, .tadv theKey 1, .tld theKey 1 0 0 false false, .tlow theKey 1], (cop r .flight).writes = true ∨ (cop r .flight).isTld = true ∨ (cop r .flight).isTlow = true) ∧
    (let o := cop (.tadv theKey 1) .flight
     m0.stationRefusal o.station.1 o.station.2 o.iss.rgn o.smod o.host 6 = some 0 ∧ mOpen.stationRefusal o.station.1 o.station.2 o.iss.rgn o.smod o.host 6 = none ∧ mOpen.stationRefusal 0 0 o.iss.rgn o.smod o.host 6 = none ∧
       { o with foreign := true }.foreign = true ∧ (withOp mOpen o).ops.find? (fun (p : Op) => p.id == 7) = some o ∧ o.smod = mOpen.modId) ∧
    ((0x0100000000000000 : Word).toNat / 2 ^ 56 ≠ 0 ∧ theKey.toNat / 2 ^ 56 = 0 ∧ keyMod (0x90000000000 * 16) ≠ m0.modId ∧ mOpen.reachable 9 = false ∧ keyMod theKey = m0.modId ∧ mOpen.poolOf theKey = none ∧
      (mPool (aPool [] [] [])).poolOf theKey = some (aPool [] [] []) ∧ (aPool [] [] []).waiting = []) ∧
    ((aPool [] [] []).key 0).writer = none ∧ { aKey [] 0 0 with writer := some (5, 0) }.writer ≠ some (0, 0) ∧ ((8 : BitVec 32).getLsbD 3 = true ∧ ∀ g < 3, (8 : BitVec 32).getLsbD g = false) ∧
    (let q := aKey [aSample 5 6 true, aSample 7 8 false, aSample 9 9 false, aSample 11 11 false] 11 11
     let p := aPool [q] [5] []
     p.key 0 = q ∧ (11 : Word).toInt ≤ q.l.toInt ∧ q.l.toInt < (12 : Word).toInt ∧ q.h.toInt ≤ (12 : Word).toInt ∧ p.d ≤ q.samples.length ∧ p.blocked q = true ∧ (mPool p).left (cop (.tst theKey 12 0 0) .flight) = false ∧
       (aPool [aKey [] minStamp minStamp] [] []).blocked (aKey [] minStamp minStamp) = false ∧ (minStamp).toInt < (12 : Word).toInt) ∧
    (let q := aKey [aSample 5 9 true] 5 9
     (8 : Word).toInt ≤ q.h.toInt ∧ q.h.toInt < (10 : Word).toInt ∧ q.samples.getLast? = some (aSample 5 9 true) ∧ q.samples.find? (fun y => y.t == 5) = some (aSample 5 9 true) ∧ q.samples.find? (fun y => y.t == 3) = none ∧
       (3 : Word).toInt < (aSample 5 9 true).t.toInt ∧ (aSample 5 9 true).t.toInt < (9 : Word).toInt ∧ (9 : Word) = (aSample 5 9 true).h ∧ (9 : Word).toInt < (12 : Word).toInt ∧
       (12 : Word).toInt ≤ q.l.toInt + (7 : Word).toNat ∧ q.l.toInt + (6 : Word).toNat < (12 : Word).toInt) ∧
    (let others (p : Pool) := p.readers.filter (fun r => !(r.m == (0 : BitVec 12) && r.core == (0 : CoreId) && r.slc == (0 : Fin 16)))
     16 ≤ (others (aPool [] (List.replicate 16 5) [])).length ∧ (others (aPool [] [] [])).length < 16) ∧
    (let o : Op := { cop (.tst theKey 12 0 0) .queued with cancel := some 0 }
     o.cancel ≠ none ∧ (mPool (aPool [] [] [7])).poolOf o.keyOf = some (aPool [] [] [7]) ∧ (aPool [] [] [7]).waiting = [7]) ∧
    (let o := cop (.tld theKey 5 0 0 false false) (.reply (.done (BitVec.ofNat 4096 (8 * 2 ^ 2056)) 0))
     o.foreign = false ∧ o.pump = none ∧ m0.issuerThere o.iss = true ∧ o.isTld = true ∧ coreKey 0 0x9000 ≥ coreKey 0 0x8000 + 16 ∧ { o with pump := some 3 }.pump = some 3 ∧ (6 + 256 * 2) % 256 ≠ 12) := by
  and_intros <;> decide +kernel

/-- Requests that are cancelled: answered, away, lost with no context that waits; an answer of code 0x0C for a context that waits for it; a record with a poisoned granule. -/
theorem witness_Cistern_cancels : (∀ st ∈ [Stage.reply (.done 0 0), .away false, .lost], { cop (.tst theKey 12 0 0) st with cancel := some 0 }.cancel ≠ none ∧ { cop (.tst theKey 12 0 0) st with cancel := some 0 }.stage = st) ∧
    (let o := cop (.tst theKey 12 0 0) (.reply (.fault 12 0 0 0))
     m0.cancelledAt o = [] ∧ o.iss.core = m0.core.id ∧ (12 : Word).toNat % 256 = 12 ∧
       (m0.setCx { m0.cx with wait := some { kind := .cwait, rd := 1, arg := 0x8000, limit := 1, count := 1, seen := 0, stall := 0, cancelled := true } }).cancelledAt o = [0]) ∧
    ((cop (.tst theKey 12 0 4) .flight).req = .tst theKey 12 0 4 ∧ (4 : BitVec 32).getLsbD 2 = true ∧ ∀ h < 2, (4 : BitVec 32).getLsbD h = false) := by
  and_intros <;> decide +kernel

/-- Commands of the matrix queue of the bench: cleared, behind a fault; operands poisoned; shares and banks owned and not. -/
noncomputable def mMat (k : MKind) : State := inCore (fun c => { c with mq := [{ what := k, iss := iss0, entered := 0 }], share := some 0 }) m0
theorem witness_Matrix_events : (((mMat .mzero).coreAt 0).mq.length = 1 ∧ (((mMat .mzero).coreAt 0).mq.all (fun m => m.iss.core == 0 && (mMat .mzero).issuerThere m.iss) = true)) ∧ (m0.sliceAt 0 0).mflt = none ∧ (mFlt.sliceAt 0 0).mflt ≠ none ∧
    ((firstPoison mPois.pois (coreKey 0 0x8000) (32 * 64)).isSome = true ∧ firstPoison m0.pois (coreKey 0 0x8000) (32 * 64) = none ∧ 0 + 64 ≤ 1024) ∧
    ((m0.coreAt 0).share ≠ some 0 ∧ ((mMat .mzero).coreAt 0).share = some 0 ∧ ((slc (fun x => { x with bank := some .f32 }) m0).sliceAt 0 0).bank = some .f32 ∧ BankTy.f32 ≠ pairBank 6 ∧ (m0.sliceAt 0 0).bank = none) ∧
    ((mPois.mmaPoison 0 6 0x8000 0 0 false 16 0 0).isSome = true ∧ m0.mmaPoison 0 6 0x8000 0 0 false 16 0 0 = none) ∧ ((0 : BitVec 4) ≠ 15 ∧ (0x9000 : Word).toNat + drainBytes 0 ≤ (0x20000 : Word).toNat) := by
  and_intros <;> decide +kernel

/-- A packet that has its route leaves the state as it is. -/
theorem pumpTo_none {s : State} {st : Nat × Nat} {p : Packet} (h : (s.pumpTo st p).2 = none) : s.pumpTo st p = (s, none) := by
  revert h
  unfold State.pumpTo
  split
  · dsimp only
    cases s.routeFrom (stationPos st.1 st.2).1 (stationPos st.1 st.2).2 p with
    | inr sub => simp
    | inl q => dsimp only; cases follow q.segs (stationPos st.1 st.2).1 (stationPos st.1 st.2).2 <;> simp
  · cases s.leavesBy st p with
    | inl sub => simp
    | inr d => cases d <;> simp
/-- A byte of core space of the pump's own module that the core's table admits is where its address says. -/
theorem spot_own {s : State} {u : PumpId} {iss : Issuer} {a : Word} {n acc : Nat} (h : isCoreSpace a = true) (hm : spaceMod a = s.modId)
    (ht : (s.pumpTo (pumpStation u) (s.spacePacket a)).2 = none)
    (hr : s.spaceRefusal (s.pumpOp u iss 0 (.kick 0 0)) (plainAccess (if acc = 3 then 0 else if acc = 4 then 1 else 2) a n 0 0 0 0) = none) :
    s.pumpSpot u iss a n acc = (s, .inr ⟨coreKey (spaceCore a) (fld a.toNat 18 0), false, false, false, false⟩) := by
  unfold State.pumpSpot
  simp only [h, hm, pumpTo_none ht, if_true, hr, ne_eq, not_true, if_false]
/-- Pump 0 of the bench with one job: its kind, its element size, addresses in core 0 and its length. -/
def jobV (op z src dst len idx : Nat) : Nat := op + z * 2 ^ 8 + (2 ^ 62 + src) * 2 ^ 64 + (2 ^ 62 + dst) * 2 ^ 128 + len * 2 ^ 192 + (2 ^ 62 + idx) * 2 ^ 256
noncomputable def aJob : Job := ⟨iss0, 0x10000, 1, none, 0, none, none, none, false, 0⟩
noncomputable def mJob (op z : Nat) (j : Job) : State :=
  { mOpen.putGood (coreKey 0 0x10000) 64 (jobV op z 0x8000 0x9000 (if op = 7 then 32768 else 16) 0xA000) with pumps := [⟨0, [j], none⟩] }
/-- Every access of the jobs below: admitted, in this module's core space, of a granule without poison. -/
theorem witness_Pump_events : (∀ op < 8, (mJob op 2 aJob).jobRuns 0 aJob op = true ∧ (mJob op 2 aJob).pumpAt 0 = ⟨0, [aJob], none⟩) ∧
    (∀ v ∈ [0x8000, 0x8001, 0x9000, 0xA000], isCoreSpace (BitVec.ofNat 64 (2 ^ 62 + v)) = true ∧ spaceMod (BitVec.ofNat 64 (2 ^ 62 + v)) = (mJob 0 2 aJob).modId ∧
      ∀ acc ∈ [2, 3, 4], (mJob 0 2 aJob).spaceRefusal ((mJob 0 2 aJob).pumpOp 0 aJob.iss 0 (.kick 0 0)) (plainAccess (if acc = 3 then 0 else if acc = 4 then 1 else 2) (BitVec.ofNat 64 (2 ^ 62 + v)) (if acc = 3 then 1 else 8) 0 0 0 0) = none ∧
        ((mJob 0 2 aJob).pumpTo (pumpStation 0) ((mJob 0 2 aJob).spacePacket (BitVec.ofNat 64 (2 ^ 62 + v)))).2 = none) ∧
    (firstPoison (mJob 1 2 aJob).pois (coreKey 0 0xA000) 4 = none ∧ (0x9000 : Nat) % 4 = 0) ∧ (mJob 5 2 aJob).recBytes 0 ≤ 256 ∧
    (let j : Job := { aJob with asked := some 3, ans := some (.done (BitVec.ofNat 4096 (4 * 2 ^ 2048)) 0) }
     (mJob 5 2 j).jobRuns 0 j 5 = true ∧ (mJob 6 2 j).jobRuns 0 j 6 = true ∧ 4 * 2 ^ 2048 / 2 ^ 2048 % 256 = 4) ∧
    (let j (c : Word) : Job := { aJob with asked := some 3, ans := some (.fault c 0 0 0) }
     (mJob 5 2 (j 10)).jobRuns 0 (j 10) 5 = true ∧ (mJob 6 2 (j 10)).jobRuns 0 (j 10) 6 = true ∧ (10 : Word).toNat % 256 ≠ 16 ∧ (mJob 6 2 (j (16 + 256 * 5))).jobRuns 0 (j (16 + 256 * 5)) 6 = true) ∧
    (let j : Job := { aJob with outcome := some (infoOf 0 0 0 0 0) }
     ((mJob 0 2 j).jobOver j).isSome = true ∧ j.chan ≠ 0 ∧ (mJob 0 2 j).issuerThere j.iss = true ∧ ((mJob 9 2 aJob).jobOver aJob).isSome = true) := by
  and_intros <;> decide +kernel
/-- Bytes without poison in places that are found are read whole. -/
theorem read_own {s : State} {u : PumpId} {iss : Issuer} : ∀ {n : Nat} {a : Word}, (∀ i < n, ∃ k, s.pumpSpot u iss (a + BitVec.ofNat 64 i) 1 3 = (s, .inr ⟨k, false, false, false, false⟩) ∧
    poisoned s.pois (8 * (s.real k / 8)) = false) → ∃ v, s.pumpRead u iss a n = (s, ⟨n, v, 0, none⟩)
  | 0, _, _ => ⟨0, rfl⟩
  | n + 1, a, h => by
    obtain ⟨k, hk, hp⟩ := h 0 (Nat.succ_pos n)
    obtain ⟨v, hv⟩ := read_own (n := n) (a := a + 1) fun i hi => by
      have := h (i + 1) (Nat.succ_lt_succ hi)
      rwa [show a + BitVec.ofNat 64 (i + 1) = a + 1 + BitVec.ofNat 64 i by rw [BitVec.ofNat_add, BitVec.add_comm (BitVec.ofNat 64 i), ← BitVec.add_assoc]; rfl] at this
    rw [show a + BitVec.ofNat 64 0 = a by simp] at hk
    refine ⟨s.peek (s.real k) 1 + 256 * v, ?_⟩
    unfold State.pumpRead
    simp only [hk, State.spotByte, Bool.false_eq_true, if_false, hp, hv]
    rfl
theorem word_own {s : State} {u : PumpId} {iss : Issuer} {n : Nat} {a : Word} {v : Nat} (h : s.pumpRead u iss a n = (s, ⟨n, v, 0, none⟩)) : s.pumpWord u iss a n = (s, .inr v) := by
  simp [State.pumpWord, h]
/-- The index of the jobs of the bench, a word in core 0, is read; its destination is found for an update. A job that is over, with no mailbox and with one, its first half stored; a release that
need not wait. -/
theorem witness_Pump_places : (∃ v, (mJob 1 2 aJob).pumpWord 0 aJob.iss (BitVec.ofNat 64 (2 ^ 62 + 0xA000)) 4 = (mJob 1 2 aJob, .inr v)) ∧
    (∃ v, (mJob 1 2 aJob).pumpRead 0 aJob.iss (BitVec.ofNat 64 (2 ^ 62 + 0x8000)) 4 = (mJob 1 2 aJob, ⟨4, v, 0, none⟩)) ∧
    (mJob 4 2 aJob).pumpSpot 0 aJob.iss (BitVec.ofNat 64 (2 ^ 62 + 0x9000)) 4 2 = (mJob 4 2 aJob, .inr ⟨coreKey 0 0x9000, false, false, false, false⟩) ∧
    (∃ v c, (mJob 1 2 aJob).pumpSpot 0 aJob.iss 0 1 3 = (v, .inl c)) ∧
    (let j (b : Bool) : Job := { aJob with outcome := some (infoOf 0 0 0 0 0), half := b }
     ((mJob 0 2 (j true)).jobOver (j true)).isSome = true ∧ (mJob 0 2 (j true)).pumpReleased 0 = true ∧ hasBox (BitVec.ofNat 512 (0x8000 * 2 ^ 320)) = true ∧ hasBox 0 = false) := by
  have own (b : Nat) (hb : b = 0x8000 ∨ b = 0xA000) : ∃ v, (mJob 1 2 aJob).pumpRead 0 aJob.iss (BitVec.ofNat 64 (2 ^ 62 + b)) 4 = (mJob 1 2 aJob, ⟨4, v, 0, none⟩) := by
    refine read_own fun i hi => ?_
    have h : ∀ b ∈ [0x8000, 0xA000], ∀ i < 4, isCoreSpace (BitVec.ofNat 64 (2 ^ 62 + b) + BitVec.ofNat 64 i) = true ∧ spaceMod (BitVec.ofNat 64 (2 ^ 62 + b) + BitVec.ofNat 64 i) = (mJob 1 2 aJob).modId ∧
        (mJob 1 2 aJob).spaceRefusal ((mJob 1 2 aJob).pumpOp 0 aJob.iss 0 (.kick 0 0)) (plainAccess (if 3 = 3 then 0 else if 3 = 4 then 1 else 2) (BitVec.ofNat 64 (2 ^ 62 + b) + BitVec.ofNat 64 i) 1 0 0 0 0) = none ∧
        ((mJob 1 2 aJob).pumpTo (pumpStation 0) ((mJob 1 2 aJob).spacePacket (BitVec.ofNat 64 (2 ^ 62 + b) + BitVec.ofNat 64 i))).2 = none ∧
        (mJob 1 2 aJob).pois = [] := by decide +kernel
    obtain ⟨h1, h2, h3, h5, h4⟩ := h b (by simpa using hb) i hi
    exact ⟨_, spot_own h1 h2 h5 h3, by rw [h4]; rfl⟩
  obtain ⟨v, hv⟩ := own 0xA000 (.inr rfl)
  refine ⟨⟨v, word_own hv⟩, own 0x8000 (.inl rfl), spot_own ?_ ?_ ?_ ?_, ⟨mJob 1 2 aJob, 7, ?_⟩, ?_⟩ <;> decide +kernel
theorem witness_Cistern_matrix_and_pump_events : (mJob 0 2 aJob).pumpSpot 0 aJob.iss (BitVec.ofNat 64 (2 ^ 62 + 0x8000)) 1 3 = (mJob 0 2 aJob, .inr ⟨coreKey 0 0x8000, false, false, false, false⟩) ∧
    (mJob 0 2 aJob).pumpSpot 0 aJob.iss (BitVec.ofNat 64 (2 ^ 62 + 0x9000)) 8 4 = (mJob 0 2 aJob, .inr ⟨coreKey 0 0x9000, false, false, false, false⟩) := by
  have h := witness_Pump_events.2.1
  have h8 := h 0x8000 (by decide)
  have h9 := h 0x9000 (by decide)
  exact ⟨spot_own h8.1 h8.2.1 (h8.2.2 3 (by decide)).2 (h8.2.2 3 (by decide)).1, spot_own h9.1 h9.2.1 (h9.2.2 4 (by decide)).2 (h9.2.2 4 (by decide)).1⟩

/-! ## Clauses on what is held, settles, is told, or is on its way -/

/-- A vector access in its beats: a load for a register, one for an operation, a store with a tag; in its last beat or before. -/
noncomputable def mBeat (load : Bool) (op : Option Nat) (tag : Option (Nat × BitVec 16)) (last : Nat) : State :=
  let t := withOp m0 (memOp (acc 1 0x8000000000800000 512 0 0 0) .held)
  { t with core := { t.core with beats := some ⟨0, 0, load, 0, 5, [⟨coreKey 0 0x8000, 0, 8, 255⟩, ⟨coreKey 0 0x8008, 8, 8, 255⟩], last, tag, op⟩ } }
theorem witness_Vector_beats : (∀ x ∈ [mBeat true none none 0, mBeat true (some 7) none 9, mBeat false none (some (0x8000, 7)) 0], x.core.beats.isSome = true ∧
      (x.core.beats.elim [] (·.pieces)).Pairwise (fun p q => p.off + p.n ≤ q.off ∧ p.key + p.n ≤ q.key) ∧
      ∀ p ∈ x.core.beats.elim [] (·.pieces), 0 < p.n ∧ p.off + p.n ≤ 512 ∧ ∀ c : Fin 11, x.core.slices[(0 : Fin 16)].ctxs[c].live = true →
        coreKey 0 (x.core.slices[(0 : Fin 16)].ctxs[c].wp.toNat + 0x190) ≤ p.key) ∧
    (mBeat true none none 0).core.beats.map (fun b => (b.load, b.op, b.tag, decide (b.last ≤ 0))) = some (true, none, none, true) ∧
    (mBeat true (some 7) none 9).core.beats.map (fun b => (b.load, b.op, decide (b.last ≤ 0))) = some (true, some 7, false) ∧
    (∃ a, (memOp (acc 1 0x8000000000800000 512 0 0 0) .held).req = .mem a) ∧
    (mBeat false none (some (0x8000, 7)) 0).core.beats.map (fun b => (b.load, b.tag)) = some (false, some (0x8000, 7)) ∧ (mBeat false none none 0).core.cyc = 0 ∧
    (m0.cx.spill = none ∧ mPois.cx.spill = none ∧ mFour.cx.spill = none) := by
  refine ⟨by decide +kernel, by decide +kernel, by decide +kernel, ⟨_, rfl⟩, by decide +kernel, by decide +kernel, by decide +kernel⟩
/-- A completion slot that is free to be written, and one behind an access in progress. -/
theorem witness_slots_held_and_free : Unheld mOpen 0 (coreKey 0 0x8000) 8 ∧ mOpen.crosses (coreKey 0 0x9000) 512 = false ∧ ¬ Unheld mBusy 0 (coreKey 0 0x8000) 8 :=
  ⟨unheld_of (by decide +kernel), by decide +kernel, fun h => absurd h.1 (by decide +kernel)⟩
/-- A present NaN, in a masked and an unmasked element; slices in each state of service; an earlier result that a swap waits for; special registers outside a held bundle and in one. -/
theorem witness_What_waits : (let s := vregs m0 [(1, 0x7FC00000), (2, 1)]
      fNaN .f32 (elNat 12 (s.readV 1) (8 * 0 + 0)) = true ∧ (s.readV (BitVec.ofNat 4 2)).getLsbD (8 * 0 + 0) = true ∧ s.vregs [1, 2] = true ∧ Int.bmod 0 256 ≠ -128) ∧
    (m0.sl.st = .running ∧ (m0.setSl { m0.sl with st := .stopped }).sl.st = .stopped ∧ mBatch.sl.st = .running) ∧
    (let s := withR (m0.setCx { m0.cx with dist := 2, pend := [⟨3, 0, 0, 9, .g 2 7, none⟩] }) [(1, 16384)]
     s.owesBefore = true ∧ s.cx.prv = true ∧ s.cx.rpa = false ∧ s.readG 1 = 16384 ∧ s.sl.inPart 16384 (wsBytes (s.sl.declared s.core.curCtx)) = true) ∧
    (m0.cx.cap = none ∧ m0.capture.cx.cap = m0.capture.cx.cap) ∧ (m0.cx.owing m0.core.cyc = false ∧ mVec.cx.owing mVec.core.cyc = false) := by
  decide +kernel
/-- A supply fault of 1 s, and one just begun; a halted module that serves a Sync. -/
theorem witness_Supply_over : (let s := powered (fun p => { p with supply := true })
      let t : State := { s with time := 1250000000 }
      t.power.supply = true ∧ t.power.halted = false ∧ t.fullService = false ∧ t.power.since + 1250000000 ≤ t.time ∧ t.queue = [] ∧ ({ t with fcyc := 0, tickDone := false } : State).fcyc = 0 ∧
        ¬ s.power.since + 1250000000 ≤ s.time) ∧ (∃ x, Instr.syncMessage ⟨⟨true, 0⟩, 0, 0⟩ = .syncMessage x) ∧
    (∀ tick ∈ [2, 1], (memOp (sa 0x800000) (.replicas (hbmKey 0 0x800000) 39 0 tick)).stage = .replicas (hbmKey 0 0x800000) 39 0 tick ∧ ((atTick m0 3).pace.toNat < tick + 2 ↔ tick = 2)) := by
  refine ⟨by decide +kernel, ⟨_, rfl⟩, ?_⟩
  intro tick h
  refine ⟨rfl, ?_⟩
  revert tick
  decide +kernel
/-- At the router of off-module port 1 in warm-up, a scheduled packet about to leave; a copy that has its output; a scheduled packet with payload flits and a hop of its way; a start message that no
entry lets in, of the control core's root slice and of another module; an entry that lets start messages in; transfers whose path entry is no core's. -/
theorem witness_Fabric_ways : (let s := flies (pkt 1 6144 4 (2 ^ 131) 0) 0 32 none m0
      s.fullService = false ∧ (theFlight s).elim false (fun x => (portAtPos x.row x.col).isSome && x.pkt.segn == 1 && x.pkt.seg0 / 1024 == 6 && x.pkt.seg0 % 1024 == 0 && x.pkt.kind == 4 &&
        x.latched.isNone && x.only.isNone) = true) ∧
    (theFlight (flies (pkt 1 (7 * 1024) 1 (2 ^ 144) 0) 1 1 none m0)).elim false (fun x => x.only.isNone && x.pkt.mc) = true ∧
    (theFlight (flies (pkt 2 (1024 + 3) 4 (2 * 2 ^ 131) 0) 1 1 none m0)).elim false (fun x => x.pkt.kind == 4) = true ∧
    (let p := pkt 1 4096 3 (2 ^ 131 + 31 * 65536) 0
     deciding (mOpen.coreTable 0) p.srgn p.smod p.h = some openEntry ∧ openEntry.getLsbD 10 = true ∧ deciding (m0.coreTable 0) p.srgn p.smod p.h = none ∧ p.smod = m0.modId ∧ p.h = false ∧
       p.score.toNat % 16384 = 0 ∧ p.srgn = 0 ∧ p.sslc = 0 ∧ (pkt 1 4096 3 (2 ^ 131 + 2 ^ 84) 0).smod ≠ m0.modId ∧
       (theFlight (flies p 0 0 (some 4) m0)).elim false (fun x => x.arrived == some 4 && x.pkt.kind == 3) = true) ∧
    (let pe : BitVec 192 := BitVec.ofNat 192 (2 ^ 191 + 5 * 2 ^ 188)
     entryValid pe = true ∧ fld pe.toNat 190 188 ≠ 0) ∧
    (fld (mLeaves.pathEntry 0 64).toNat 190 188 = 0 ∧ mLeaves.reachable (BitVec.ofNat 12 (fld (mLeaves.pathEntry 0 64).toNat 79 68)) = true) := by
  and_intros <;> decide +kernel
/-- The best master heard, and another; an armed entry of the gang that cannot be cancelled beside one that can; the share of a slice that came to rest, kept and taken over; a context that a halt stops. -/
theorem witness_Choices : (let s : State := { m0 with starter := { m0.starter with port := 0, master := some 3 } }
      s.starter.master = some 3 ∧ s.starter.master ≠ some 4 ∧ s.starter.port = 0) ∧ ((cmd (3 + 2 ^ 128)).pos = 0 ∧ (rec1 0).gang = 1) ∧
    (let c := fun s : State => s.coreAt 0
     (c (inCore (fun c => { c with share := some 0, shareClr := some (0, 9) }) m0)).share = some 0 ∧ (c (inCore (fun c => { c with share := some 1, shareClr := some (0, 9) }) m0)).share ≠ some 0 ∧
       (c (inCore (fun c => { c with share := some 1, shareClr := some (0, 9) }) m0)).shareClr = some (0, 9)) ∧
    ((2 ^ 254 : Nat).testBit 254 = true ∧ (0 : Nat).testBit 254 = false) := by
  and_intros <;> decide +kernel
/-- A cancel behind the answer of another module's request; a matrix unit at work on the core; no slice of the queue that has left; a job whose request is lost. -/
theorem witness_Cancels_and_losses : (let o : Op := { cop (.tst theKey 12 0 0) (.reply (.done 0 0)) with cancel := some 0, foreign := true }
      o.cancel ≠ none ∧ o.foreign = true ∧ o.stage = .reply (.done 0 0)) ∧ (((mMat .mzero).coreAt 0).gone = []) ∧
    (let s : State := { mMat .mzero with munits := [{ cluster := 0, pos := 0, left := 1, active := some 0, ends := 9, snap := (mMat .mzero).mem }] }
     ∃ n ∈ s.munits, n.active = some 0) ∧
    ((aJob.asked = none ∧ { aJob with outcome := some (infoOf 0 0 0 0 0), half := true }.asked = none) ∧
      (let s : State := { mAway (2 ^ 184 + 6144 * 2 ^ 80) with pumps := [⟨0, [aJob], none⟩] }
       let box : Word := BitVec.ofNat 64 (2 ^ 62 + 9 * 2 ^ 50)
       let d : BitVec 512 := BitVec.ofNat 512 (box.toNat * 2 ^ 320)
       let j : Job := { aJob with desc := some d, outcome := some (infoOf 0 0 0 0 0), half := true }
       (s.jobOver j).isSome = true ∧ s.jobDesc j = d ∧ hasBox d = true ∧ descBox d = box ∧ spaceMod box = 9 ∧ (s.pumpTo (pumpStation 0) (s.spacePacket box)).2 = some 0)) := by
  refine ⟨⟨by simp, rfl, rfl⟩, by decide +kernel, ⟨_, List.mem_singleton_self _, rfl⟩, ⟨rfl, rfl⟩, ?_⟩
  and_intros <;> decide +kernel

end Sys2Proof.Tests
end

section
/-! Laws.ScalarInteger: what the quotients, remainders and bit fields of the scalar slot compute, as integers and as bits (R347, R350), and
the obligations about them. -/

namespace Sys2Proof.Laws.ScalarInteger
open Sys2Proof Sys2Proof.Machine

/-! ## Registers as bits and as integers of n bits -/

theorem getLsbD_ofNat_word (x : Nat) {i : Nat} (hi : i < 64) : (BitVec.ofNat 64 x).getLsbD i = x.testBit i := by
  rw [BitVec.getLsbD_ofNat, decide_eq_true hi, Bool.true_and]

theorem intN_eq_toInt (n : Nat) (a : Word) : intN n a = (a.setWidth n).toInt := (BitVec.toInt_setWidth a).symm
theorem natN_eq_toNat (n : Nat) (a : Word) : natN n a = (a.setWidth n).toNat := (BitVec.toNat_setWidth n a).symm
theorem signExtend_ofInt (n : Nat) (x : Int) : (BitVec.ofInt n x).signExtend 64 = sxN n x := by
  rw [sxN, BitVec.signExtend, BitVec.toInt_ofInt]

/-- Both forms of an operation are one: at n bits, then sign-extended (R225). -/
theorem wide_eq_signExtend (w : Bool) (f : Op2) (a b : Word) :
    wide w f a b = (f (opBits w) (a.setWidth (opBits w)) (b.setWidth (opBits w))).signExtend 64 := by
  cases w with
  | false => simp [wide, opBits]
  | true => rfl

/-- An operation that computes the integer x of the integers of its operands has the register result of x. -/
theorem wide_eq_sxN {w : Bool} {f : Op2} {x : Int} (a b : Word)
    (h : f (opBits w) (a.setWidth (opBits w)) (b.setWidth (opBits w)) = BitVec.ofInt (opBits w) x) :
    wide w f a b = sxN (opBits w) x := by
  rw [wide_eq_signExtend, h, signExtend_ofInt]

theorem sxN_eq_of_dvd_sub {n : Nat} {x y : Int} (h : (2 ^ n : Int) ∣ x - y) : sxN n x = sxN n y := by
  rw [sxN, sxN, Int.bmod_eq_bmod_iff_bmod_sub_eq_zero.mpr]
  exact Int.bmod_eq_zero_of_dvd (by exact_mod_cast h)

/-! ## Quotients and remainders (R347) -/

/-- The signed quotient of R347. Its remainder is `tmod` of the library, which is the dividend by zero too. -/
def quotInt (a b : Int) : Int := if b = 0 then -1 else a.tdiv b
/-- The unsigned quotient of R347, of n bits. Its remainder is `%` of the library. -/
def quotNat (n a b : Nat) : Nat := if b = 0 then 2 ^ n - 1 else a / b

theorem toInt_eq_zero_iff {n : Nat} {x : BitVec n} : x.toInt = 0 ↔ x = 0 :=
  ⟨fun h => BitVec.eq_of_toInt_eq (by simpa using h), fun h => by simp [h]⟩
theorem toNat_eq_zero_iff {n : Nat} {x : BitVec n} : x.toNat = 0 ↔ x = 0 := by
  rw [← BitVec.toNat_inj]; simp

theorem allOnes_eq_ofInt (n : Nat) : BitVec.allOnes n = BitVec.ofInt n (-1) := by
  rw [← BitVec.neg_one_eq_allOnes, BitVec.ofInt_neg]
  exact congrArg (- ·) (BitVec.ofInt_natCast n 1).symm
theorem allOnes_eq_ofNat (n : Nat) : BitVec.allOnes n = BitVec.ofNat n (2 ^ n - 1) :=
  BitVec.eq_of_toNat_eq (by
    rw [BitVec.toNat_allOnes, BitVec.toNat_ofNat, Nat.mod_eq_of_lt (Nat.sub_lt (Nat.two_pow_pos n) Nat.one_pos)])

theorem opDiv_eq (n : Nat) (x y : BitVec n) : opDiv n x y = BitVec.ofInt n (quotInt x.toInt y.toInt) := by
  unfold opDiv quotInt
  by_cases h : y = 0
  · simp [h, allOnes_eq_ofInt]
  · rw [if_neg h, if_neg (mt toInt_eq_zero_iff.mp h)]
theorem opRem_eq (n : Nat) (x y : BitVec n) : opRem n x y = BitVec.ofInt n (x.toInt.tmod y.toInt) := by
  unfold opRem
  by_cases h : y = 0
  · simp [h]
  · rw [if_neg h]
theorem opDivn_eq (n : Nat) (x y : BitVec n) : opDivn n x y = BitVec.ofInt n (quotNat n x.toNat y.toNat : Nat) := by
  unfold opDivn quotNat
  rw [BitVec.ofInt_natCast]
  by_cases h : y = 0
  · simp [h, allOnes_eq_ofNat]
  · rw [if_neg h, if_neg (mt toNat_eq_zero_iff.mp h)]
theorem opRemn_eq (n : Nat) (x y : BitVec n) : opRemn n x y = BitVec.ofInt n (x.toNat % y.toNat : Nat) := by
  unfold opRemn
  rw [BitVec.ofInt_natCast]
  by_cases h : y = 0
  · simp [h]
  · rw [if_neg h]

theorem gives_div (s : State) (rd ra rb : GReg) (w : Bool) :
    Gives s (.div rd ra rb w) .a rd (sxN (opBits w) (quotInt (intN (opBits w) (s.readG ra)) (intN (opBits w) (s.readG rb)))) (divLat w) := by
  rw [intN_eq_toInt, intN_eq_toInt, ← wide_eq_sxN _ _ (opDiv_eq _ _ _)]; rfl
theorem gives_rem (s : State) (rd ra rb : GReg) (w : Bool) :
    Gives s (.rem rd ra rb w) .a rd (sxN (opBits w) ((intN (opBits w) (s.readG ra)).tmod (intN (opBits w) (s.readG rb)))) (divLat w) := by
  rw [intN_eq_toInt, intN_eq_toInt, ← wide_eq_sxN _ _ (opRem_eq _ _ _)]; rfl
theorem gives_divn (s : State) (rd ra rb : GReg) (w : Bool) :
    Gives s (.divn rd ra rb w) .a rd
      (sxN (opBits w) (quotNat (opBits w) (natN (opBits w) (s.readG ra)) (natN (opBits w) (s.readG rb)) : Nat)) (divLat w) := by
  rw [natN_eq_toNat, natN_eq_toNat, ← wide_eq_sxN _ _ (opDivn_eq _ _ _)]; rfl
theorem gives_remn (s : State) (rd ra rb : GReg) (w : Bool) :
    Gives s (.remn rd ra rb w) .a rd
      (sxN (opBits w) (natN (opBits w) (s.readG ra) % natN (opBits w) (s.readG rb) : Nat)) (divLat w) := by
  rw [natN_eq_toNat, natN_eq_toNat, ← wide_eq_sxN _ _ (opRemn_eq _ _ _)]; rfl

theorem tmod_eq_zero_or_neg_iff (a b : Int) : a.tmod b = 0 ∨ (a.tmod b < 0 ↔ a < 0) := by
  rw [← Int.sign_neg_iff, ← Int.sign_neg_iff, ← Int.sign_eq_zero_iff_zero, Int.sign_tmod]
  split <;> simp

/-- The quotient and remainder of one division: the identity of R347, truncated toward zero. -/
theorem quotInt_identity {a b : Int} (hb : b ≠ 0) :
    a = b * quotInt a b + a.tmod b ∧ (a.tmod b).natAbs < b.natAbs ∧ (a.tmod b = 0 ∨ (a.tmod b < 0 ↔ a < 0)) := by
  refine ⟨?_, ?_, tmod_eq_zero_or_neg_iff a b⟩
  · rw [quotInt, if_neg hb, Int.mul_tdiv_add_tmod]
  · rw [Int.natAbs_tmod]
    exact Nat.mod_lt _ (Int.natAbs_pos.mpr hb)
theorem quotNat_identity (n a : Nat) {b : Nat} (hb : b ≠ 0) : a = b * quotNat n a b + a % b ∧ a % b < b := by
  rw [quotNat, if_neg hb]
  exact ⟨(Nat.div_add_mod a b).symm, Nat.mod_lt a (Nat.pos_of_ne_zero hb)⟩

/-- The one quotient that n bits do not hold, 2^(n-1), has the register result of -2^(n-1). -/
theorem sxN_quotInt_overflow {n : Nat} (hn : 0 < n) : sxN n (quotInt (-2 ^ (n - 1)) (-1)) = sxN n (-2 ^ (n - 1)) := by
  obtain ⟨m, rfl⟩ : ∃ m, n = m + 1 := ⟨n - 1, by omega⟩
  refine sxN_eq_of_dvd_sub ?_
  have hq : quotInt (-2 ^ m) (-1) = 2 ^ m := by simp [quotInt]
  rw [Nat.add_sub_cancel, hq, Int.sub_neg, Int.pow_succ]
  exact ⟨1, by omega⟩

theorem opBits_pos (w : Bool) : 0 < opBits w := by cases w <;> decide

/-- Settles O17: the four results are the truncated quotient and remainder and the natural ones, with the library's identities. -/
theorem divisionNeverTraps : Obligations.Division_never_traps := by
  refine ⟨fun s rd ra rb w => ⟨_, _, _, _, gives_div s rd ra rb w, gives_rem s rd ra rb w, gives_divn s rd ra rb w,
    gives_remn s rd ra rb w, ?_, ?_, ?_, fun hb => quotInt_identity hb, fun hb => quotNat_identity _ _ hb⟩, by decide⟩
  · intro hb
    simp [hb, quotInt]
  · intro hb
    simp [hb, quotNat]
  · rintro ⟨ha, hb⟩
    rw [ha, hb]
    exact ⟨sxN_quotInt_overflow (opBits_pos w), by rw [Int.tmod_neg, Int.tmod_one]⟩

/-! ## Bit fields (R350) -/

theorem testBit_binsOf {d a pos width i : Nat} :
    (binsOf d a pos width).testBit i = if pos ≤ i ∧ i < pos + width then a.testBit (i - pos) else d.testBit i := by
  have hd : d = 2 ^ pos * (2 ^ width * (d / 2 ^ pos / 2 ^ width) + d / 2 ^ pos % 2 ^ width) + d % 2 ^ pos := by
    rw [Nat.div_add_mod, Nat.div_add_mod]
  have hb : binsOf d a pos width = 2 ^ pos * (2 ^ width * (d / 2 ^ pos / 2 ^ width) + a % 2 ^ width) + d % 2 ^ pos := by
    unfold binsOf
    rw [Nat.mul_add] at hd
    rw [Nat.mul_add, Nat.mul_comm _ (2 ^ pos), Nat.mul_comm _ (2 ^ pos)]
    omega
  rw [hb, Nat.testBit_two_pow_mul_add _ (Nat.mod_lt _ (Nat.two_pow_pos _)),
    Nat.testBit_two_pow_mul_add _ (Nat.mod_lt _ (Nat.two_pow_pos _)), Nat.testBit_mod_two_pow, Nat.testBit_mod_two_pow,
    Nat.testBit_div_two_pow, Nat.testBit_div_two_pow]
  by_cases h1 : i < pos
  · have h2 : ¬ (pos ≤ i ∧ i < pos + width) := by omega
    simp [h1, h2]
  · by_cases h2 : i < pos + width
    · have h3 : i - pos < width := by omega
      simp [h1, h2, h3]
    · have h3 : ¬ i - pos < width := by omega
      have h4 : i - pos - width + width + pos = i := by omega
      simp [h1, h2, h3, h4]

theorem decodeA_of_major_8 {w : Nat} (h : fld w 31 26 = 8) :
    decodeA w = if fld w 15 10 + fld w 9 4 + 1 ≤ 64 then .instr (.bext (bv 5 w 21) (bv 5 w 16) (bv 6 w 10) (bv 6 w 4)) else .bad .operand := by
  simp only [decodeA, h]
theorem decodeA_of_major_9 {w : Nat} (h : fld w 31 26 = 9) :
    decodeA w = if fld w 15 10 + fld w 9 4 + 1 ≤ 64 then .instr (.bins (bv 5 w 21) (bv 5 w 16) (bv 6 w 10) (bv 6 w 4)) else .bad .operand := by
  simp only [decodeA, h]

theorem gives_bext (s : State) (rd ra : GReg) (pos wd : BitVec 6) :
    Gives s (.bext rd ra pos wd) .a rd (BitVec.ofNat 64 ((s.readG ra).toNat / 2 ^ pos.toNat % 2 ^ (wd.toNat + 1))) 1 := rfl
theorem gives_bins (s : State) (rd ra : GReg) (pos wd : BitVec 6) :
    Gives s (.bins rd ra pos wd) .a rd
      (BitVec.ofNat 64 (binsOf (s.readG rd).toNat (s.readG ra).toNat pos.toNat (wd.toNat + 1))) 1 := rfl

/-- The codes of the two majors, by whether the field fits in the register. -/
theorem bitField_decode {w : Nat} (h : fld w 31 26 = 8 ∨ fld w 31 26 = 9) :
    decodeA w = if fld w 15 10 + (fld w 9 4 + 1) ≤ 64 then
        .instr (if fld w 31 26 = 8 then .bext (bv 5 w 21) (bv 5 w 16) (bv 6 w 10) (bv 6 w 4)
          else .bins (bv 5 w 21) (bv 5 w 16) (bv 6 w 10) (bv 6 w 4))
      else .bad .operand := by
  rcases h with h | h
  · simp [decodeA_of_major_8 h, h, Nat.add_assoc]
  · simp [decodeA_of_major_9 h, h, Nat.add_assoc]

/-- Settles O19, bit by bit. -/
theorem bitFields : Obligations.Bit_fields := by
  refine ⟨fun w _ h => ⟨fun hw => ?_, fun hw => ?_⟩, fun s rd ra pos wd _ => ⟨⟨_, gives_bext s rd ra pos wd, fun i hi => ?_⟩,
    ⟨_, gives_bins s rd ra pos wd, fun i hi => ?_⟩⟩, by decide, fun s => gives_bext s 2 3 40 7⟩
  · rw [bitField_decode h, if_neg (by omega)]; rfl
  · rw [bitField_decode h, if_pos hw]
  · rw [getLsbD_ofNat_word _ hi, Nat.testBit_mod_two_pow, Nat.testBit_div_two_pow, BitVec.testBit_toNat, Nat.add_comm i]
    simp only [Nat.lt_succ_iff]
  · rw [getLsbD_ofNat_word _ hi, testBit_binsOf, BitVec.testBit_toNat, BitVec.testBit_toNat]
    simp only [← Nat.add_assoc, Nat.lt_succ_iff]

end Sys2Proof.Laws.ScalarInteger
end

section
/-! Laws.ScalarFloat: what the codes of the scalar formats stand for in the order of their magnitudes, and the obligations about the float
operations that do not round (R356, R357). -/

namespace Sys2Proof.Laws.ScalarFloat
open Sys2Proof Sys2Proof.Machine Sys2Proof.Laws.ScalarInteger

/-! ## What a float instruction answers (R206, R351, R352) -/

theorem pickTrap_fpTrap (s : State) (f : FFlags) (l : Nat) :
    pickTrap (s.fpTrap f l) = if fpEnabled s f = 0 then none
      else some { rank := 18, info := infoOf 21 (fpEnabled s f * 256) 0 0 0, late := l - 1 } := by
  unfold State.fpTrap fpEnabled
  by_cases hten : s.cx.fpc.toNat / 256 % 32 = 0
  · simp [hten, pickTrap]
  · by_cases hen : f.toNat % 32 &&& s.cx.fpc.toNat / 256 % 32 = 0 <;> simp [hten, hen, when_, pickTrap]

/-- A result v and flags f that are known to be v' and f'. -/
theorem fpGives_of_fpu {s : State} {i : Instr} {rd : GReg} {v v' : Word} {f f' : FFlags} {l : Nat}
    (h : exec i s = s.fpu rd v f l) (hv : v = v') (hf : f = f') : FpGives s i rd v' f' l := by
  subst hv hf
  rw [FpGives, h, State.fpu, State.guarded, pickTrap_fpTrap]
  exact ⟨fun hz => by rw [if_pos hz], fun hz => by rw [if_neg hz]⟩
theorem fpGives_of_fpuF {s : State} {i : Instr} {rd : GReg} {r : Nat × FFlags} {c l : Nat} {f : FFlags}
    (h : exec i s = s.fpuF rd r l) (hr : r = (c, f)) : FpGives s i rd (BitVec.ofNat 64 c) f l :=
  fpGives_of_fpu h (by rw [hr]) (by rw [hr])

@[simp] theorem scalarFmt_e4 (t : BitVec 2) : (scalarFmt t).e4 = false := by revert t; decide
theorem scalarFmt_eb_pos (t : BitVec 2) : 0 < (scalarFmt t).eb := by revert t; decide
theorem codeF_lt (s : State) (t : BitVec 2) (r : GReg) : s.codeF t r < 2 ^ (scalarFmt t).width := Nat.mod_lt _ (Nat.two_pow_pos _)
theorem testBit_codeF (s : State) (t : BitVec 2) (r : GReg) (i : Nat) :
    (s.codeF t r).testBit i = (decide (i < (scalarFmt t).width) && (s.readG r).getLsbD i) := by
  rw [State.codeF, Nat.testBit_mod_two_pow, BitVec.testBit_toNat]

/-! ## The fields of a code -/

/-- The exponent field of a code. -/
def expo (f : Fmt) (c : Nat) : Nat := c / 2 ^ f.mb % 2 ^ f.eb
/-- A code without its sign bit. -/
def mag (f : Fmt) (c : Nat) : Nat := c % 2 ^ (f.eb + f.mb)
/-- How many units of the subnormal grid the number with magnitude bits m counts. -/
def gridUnits (mb m : Nat) : Nat := (if m / 2 ^ mb = 0 then m % 2 ^ mb else 2 ^ mb + m % 2 ^ mb) * 2 ^ (m / 2 ^ mb - 1)
/-- A magnitude with a sign. -/
def signed (neg : Bool) (m : Nat) : Int := if neg then -(m : Int) else m

theorem fOrd_eq (f : Fmt) (c : Nat) : fOrd f c = signed (fSign f c) (mag f c) := rfl
theorem fKey_eq (f : Fmt) (c : Nat) : fKey f c = signed (fSign f c) (mag f c) - (fSign f c).toNat := by
  unfold fKey signed mag
  cases fSign f c <;> simp

theorem mag_div (f : Fmt) (c : Nat) : mag f c / 2 ^ f.mb = expo f c := by
  rw [mag, Nat.add_comm, Nat.pow_add, Nat.mod_mul_right_div_self, expo]
theorem mag_mod (f : Fmt) (c : Nat) : mag f c % 2 ^ f.mb = c % 2 ^ f.mb := by
  rw [mag, Nat.mod_mod_of_dvd _ (Nat.pow_dvd_pow 2 (Nat.le_add_left _ _))]
theorem mag_eq (f : Fmt) (c : Nat) : mag f c = expo f c * 2 ^ f.mb + c % 2 ^ f.mb := by
  rw [← mag_div, ← mag_mod, Nat.div_add_mod']
theorem expo_lt (f : Fmt) (c : Nat) : expo f c < 2 ^ f.eb := Nat.mod_lt _ (Nat.two_pow_pos _)
theorem infCode_pos {f : Fmt} (hb : 0 < f.eb) : 0 < f.infCode :=
  Nat.mul_pos (Nat.sub_pos_of_lt (Nat.one_lt_two_pow (Nat.ne_of_gt hb))) (Nat.two_pow_pos _)
theorem fNaN_eq (f : Fmt) (c : Nat) : fNaN f c = (decide (expo f c = 2 ^ f.eb - 1) && decide (c % 2 ^ f.mb ≠ 0)) := by
  unfold fNaN expo
  rw [Bool.eq_iff_iff]
  simp only [bne_iff_ne, beq_iff_eq, Bool.and_eq_true, decide_eq_true_eq]

/-! ## What a code stands for (R226) -/

section Decode
variable {f : Fmt} {c d : Nat} (he : f.e4 = false)
include he

theorem decodeF_nan (hn : fNaN f c = true) : decodeF f c = .nan (fSig f c) := by
  simp only [fNaN_eq, Bool.and_eq_true, decide_eq_true_eq] at hn
  obtain ⟨hx, hf⟩ := hn
  have hm : f.mb - 1 < f.mb := by
    rcases Nat.eq_zero_or_pos f.mb with h | h
    · simp [h, Nat.mod_one] at hf
    · omega
  have hx' := hx
  unfold expo at hx'
  simp [decodeF, he, hx', hf, fSig, fNaN_eq, hx, Nat.testBit_mod_two_pow, hm]
theorem decodeF_inf (hx : expo f c = 2 ^ f.eb - 1) (hf : c % 2 ^ f.mb = 0) : decodeF f c = .inf (fSign f c) := by
  unfold expo at hx
  simp [decodeF, he, hx, hf, fSign]
theorem decodeF_fin (hx : expo f c ≠ 2 ^ f.eb - 1) :
    decodeF f c = .fin (fSign f c) (if expo f c = 0 then c % 2 ^ f.mb else 2 ^ f.mb + c % 2 ^ f.mb) (f.qmin + (expo f c - 1 : Nat)) := by
  unfold expo at hx ⊢
  by_cases h0 : c / 2 ^ f.mb % 2 ^ f.eb = 0
  · rw [h0] at hx
    simp [decodeF, he, hx, h0, fSign]
  · simp [decodeF, he, hx, h0, fSign]

/-- A code that is no NaN is an infinity, or a number of units of the subnormal grid that its magnitude alone gives. -/
theorem decodeF_of_not_nan (hn : fNaN f c = false) :
    (mag f c = f.infCode ∧ decodeF f c = .inf (fSign f c)) ∨
    (mag f c < f.infCode ∧ ∃ m k : Nat, decodeF f c = .fin (fSign f c) m (f.qmin + k) ∧ m * 2 ^ k = gridUnits f.mb (mag f c)) := by
  by_cases hx : expo f c = 2 ^ f.eb - 1
  · have hf : c % 2 ^ f.mb = 0 := by simpa [fNaN_eq, hx] using hn
    exact .inl ⟨by rw [mag_eq, hx, hf, Nat.add_zero, Fmt.infCode], decodeF_inf he hx hf⟩
  · refine .inr ⟨?_, _, _, decodeF_fin he hx, by rw [gridUnits, mag_div, mag_mod]⟩
    have hlt : expo f c < 2 ^ f.eb - 1 := by have := expo_lt f c; omega
    calc mag f c = expo f c * 2 ^ f.mb + c % 2 ^ f.mb := mag_eq f c
      _ < (expo f c + 1) * 2 ^ f.mb := by
        rw [Nat.succ_mul]; exact Nat.add_lt_add_left (Nat.mod_lt _ (Nat.two_pow_pos _)) _
      _ ≤ f.infCode := Nat.mul_le_mul_right _ hlt

theorem isNan_decodeF : (decodeF f c).isNan = fNaN f c := by
  cases hn : fNaN f c with
  | true => rw [decodeF_nan he hn]; rfl
  | false => rcases decodeF_of_not_nan he hn with ⟨-, h⟩ | ⟨-, m, k, h, -⟩ <;> rw [h] <;> rfl
theorem isSig_decodeF : (decodeF f c).isSig = fSig f c := by
  cases hn : fNaN f c with
  | true => rw [decodeF_nan he hn]; rfl
  | false =>
    have hs : fSig f c = false := by rw [fSig, hn, Bool.false_and]
    rcases decodeF_of_not_nan he hn with ⟨-, h⟩ | ⟨-, m, k, h, -⟩ <;> rw [h, hs] <;> rfl
theorem neg_decodeF (hn : fNaN f c = false) : (decodeF f c).neg = fSign f c := by
  rcases decodeF_of_not_nan he hn with ⟨-, h⟩ | ⟨-, m, k, h, -⟩ <;> rw [h] <;> rfl

end Decode

/-! ## The order of numbers is the order of magnitudes -/

theorem gridUnits_lt (mb m : Nat) : gridUnits mb m < 2 ^ mb * 2 ^ (m / 2 ^ mb) := by
  have hf : m % 2 ^ mb < 2 ^ mb := Nat.mod_lt _ (Nat.two_pow_pos _)
  unfold gridUnits
  cases m / 2 ^ mb with
  | zero => simpa using hf
  | succ e =>
    calc (2 ^ mb + m % 2 ^ mb) * 2 ^ e < (2 ^ mb * 2) * 2 ^ e := Nat.mul_lt_mul_of_pos_right (by omega) (Nat.two_pow_pos _)
      _ = 2 ^ mb * 2 ^ (e + 1) := by rw [Nat.mul_assoc, ← Nat.pow_succ']
theorem le_gridUnits {mb m : Nat} (h : m / 2 ^ mb ≠ 0) : 2 ^ mb * 2 ^ (m / 2 ^ mb - 1) ≤ gridUnits mb m := by
  rw [gridUnits, if_neg h]
  exact Nat.mul_le_mul_right _ (Nat.le_add_right _ _)

/-- A greater magnitude is a greater number: by its exponent, or by its fraction where the exponents are equal. -/
theorem gridUnits_lt_of_lt (mb : Nat) {m n : Nat} (hmn : m < n) : gridUnits mb m < gridUnits mb n := by
  rcases Nat.eq_or_lt_of_le (Nat.div_le_div_right (c := 2 ^ mb) (Nat.le_of_lt hmn)) with hex | hex
  · have hfr : m % 2 ^ mb < n % 2 ^ mb := by
      have hm := Nat.div_add_mod m (2 ^ mb)
      have hn := Nat.div_add_mod n (2 ^ mb)
      rw [hex] at hm
      omega
    unfold gridUnits
    rw [hex]
    refine Nat.mul_lt_mul_of_pos_right ?_ (Nat.two_pow_pos _)
    split
    · exact hfr
    · exact Nat.add_lt_add_left hfr _
  · calc gridUnits mb m < 2 ^ mb * 2 ^ (m / 2 ^ mb) := gridUnits_lt mb m
      _ ≤ 2 ^ mb * 2 ^ (n / 2 ^ mb - 1) := Nat.mul_le_mul_left _ (Nat.pow_le_pow_right Nat.two_pos (Nat.le_sub_one_of_lt hex))
      _ ≤ gridUnits mb n := le_gridUnits (Nat.ne_zero_of_lt hex)
theorem gridUnits_lt_iff {mb m n : Nat} : gridUnits mb m < gridUnits mb n ↔ m < n := by
  refine ⟨fun h => ?_, gridUnits_lt_of_lt mb⟩
  rcases Nat.lt_trichotomy m n with hlt | rfl | hgt
  · exact hlt
  · exact absurd h (Nat.lt_irrefl _)
  · exact absurd (gridUnits_lt_of_lt mb hgt) (Nat.lt_asymm h)
theorem gridUnits_zero (mb : Nat) : gridUnits mb 0 = 0 := by
  rw [gridUnits, Nat.zero_div, if_pos rfl, Nat.zero_mod, Nat.zero_mul]
theorem gridUnits_pos_iff {mb m : Nat} : 0 < gridUnits mb m ↔ 0 < m := by
  have h := gridUnits_lt_iff (mb := mb) (m := 0) (n := m)
  rwa [gridUnits_zero] at h

theorem signed_gridUnits_lt_iff {mb : Nat} {x y : Bool} {m n : Nat} :
    signed x (gridUnits mb m) < signed y (gridUnits mb n) ↔ signed x m < signed y n := by
  have hmn := gridUnits_lt_iff (mb := mb) (m := m) (n := n)
  have hnm := gridUnits_lt_iff (mb := mb) (m := n) (n := m)
  have hm := gridUnits_pos_iff (mb := mb) (m := m)
  have hn := gridUnits_pos_iff (mb := mb) (m := n)
  cases x <;> cases y <;> simp only [signed, Bool.false_eq_true, if_true, if_false] <;> omega

/-- In the units of any grid at or below its exponent, a number counts the units of the lowest grid divided by a power of two. -/
theorem unitsAt_mul_two_pow {q : Int} {j k : Nat} (neg : Bool) (m : Nat) (h : j ≤ k) :
    unitsAt neg m (q + k) (q + j) * (2 ^ j : Nat) = signed neg (m * 2 ^ k) := by
  have hk : (q + k - (q + j)).toNat = k - j := by omega
  have hp : ((m * 2 ^ (k - j) : Nat) : Int) * (2 ^ j : Nat) = (m * 2 ^ k : Nat) := by
    rw [← Int.natCast_mul, Nat.mul_assoc, ← Nat.pow_add, Nat.sub_add_cancel h]
  unfold unitsAt signed
  rw [hk]
  cases neg with
  | false => exact hp
  | true => exact (Int.neg_mul _ _).trans (congrArg (- ·) hp)

theorem unitsAt_lt_iff {q : Int} {x y : Bool} {m n j k : Nat} :
    unitsAt x m (q + j) (min (q + j) (q + k)) < unitsAt y n (q + k) (min (q + j) (q + k)) ↔
      signed x (m * 2 ^ j) < signed y (n * 2 ^ k) := by
  have hq : min (q + j) (q + k) = q + (min j k : Nat) := by omega
  rw [hq, ← unitsAt_mul_two_pow (q := q) x m (Nat.min_le_left j k), ← unitsAt_mul_two_pow (q := q) y n (Nat.min_le_right j k)]
  exact (Int.mul_lt_mul_right (Int.natCast_pos.mpr (Nat.two_pow_pos _))).symm

section SignedOrder
variable {x y : Bool} {m i : Nat}

theorem signed_lt_signed_self (hi : 0 < i) : signed x i < signed y i ↔ x = true ∧ y = false := by
  cases x <;> cases y <;> simp [signed]
  omega
theorem signed_lt_of_mag_lt (h : m < i) : signed x i < signed y m ↔ x = true := by
  cases x <;> cases y <;> simp [signed] <;> omega
theorem lt_signed_of_mag_lt (h : m < i) : signed y m < signed x i ↔ x = false := by
  cases x <;> cases y <;> simp [signed] <;> omega

end SignedOrder

/-- Numbers are equal where neither is below the other. -/
theorem eqV_eq_not_ltV {a b : FV} (ha : a.isNan = false) (hb : b.isNan = false) : eqV a b = (!ltV a b && !ltV b a) := by
  cases a with
  | nan => cases ha
  | inf x =>
    cases b with
    | nan => cases hb
    | inf y => revert x y; decide
    | fin => cases x <;> rfl
  | fin n m e =>
    cases b with
    | nan => cases hb
    | inf y => cases y <;> rfl
    | fin n' m' e' =>
      simp only [eqV, ltV, Int.min_comm e' e, ← decide_not, ← Bool.decide_and, decide_eq_decide]
      omega
theorem ltV_of_nan {a b : FV} (h : (a.isNan || b.isNan) = true) : ltV a b = false := by
  cases a with
  | nan => rfl
  | inf | fin => cases b with
    | nan => rfl
    | inf | fin => cases h
theorem eqV_of_nan {a b : FV} (h : (a.isNan || b.isNan) = true) : eqV a b = false := by
  cases a with
  | nan => rfl
  | inf | fin => cases b with
    | nan => rfl
    | inf | fin => cases h

/-- The operand that R356 returns: a number before a NaN, of two numbers the first where p holds. -/
def numberOr (f : Fmt) (c d : Nat) (p : Prop) [Decidable p] : Nat :=
  if fNaN f c then (if fNaN f d then f.nan else d) else if fNaN f d then c else if p then c else d

section Order
variable {f : Fmt} {c d : Nat} (he : f.e4 = false) (hb : 0 < f.eb)
include he

theorem minMaxC_eq {mx : Bool} {p : Prop} [Decidable p] (hc : c < 2 ^ f.width) (hd : d < 2 ^ f.width)
    (hp : fNaN f c = false → fNaN f d = false →
      (p ↔ (if mx then ltZ (decodeF f c) (decodeF f d) else ltZ (decodeF f d) (decodeF f c)) = false)) :
    minMaxC f mx c d = (numberOr f c d p, flagIf (fSig f c || fSig f d) fNV) := by
  unfold minMaxC numberOr
  simp only [isNan_decodeF he, isSig_decodeF he, apply_ite (· % 2 ^ f.width), Nat.mod_eq_of_lt hc, Nat.mod_eq_of_lt hd]
  cases hnc : fNaN f c with
  | true => cases fNaN f d <;> rfl
  | false =>
    cases hnd : fNaN f d with
    | true => rfl
    | false => simp only [hp hnc hnd, Bool.false_eq_true, if_false, ← Bool.not_eq_true, ite_not]

include hb

theorem isZero_decodeF (hn : fNaN f c = false) : (decodeF f c).isZero = decide (mag f c = 0) := by
  rcases decodeF_of_not_nan he hn with ⟨hm, h⟩ | ⟨-, m, k, h, hu⟩
  · have := infCode_pos hb
    rw [h, hm]
    simp [FV.isZero, Nat.ne_of_gt this]
  · have hz : m = 0 ↔ mag f c = 0 := by
      have := gridUnits_pos_iff (mb := f.mb) (m := mag f c)
      have := Nat.two_pow_pos k
      rw [← hu, Nat.mul_pos_iff_of_pos_right this] at *
      omega
    rw [h, FV.isZero, Bool.eq_iff_iff, beq_iff_eq, decide_eq_true_iff]
    exact hz

theorem ltV_decodeF (hc : fNaN f c = false) (hd : fNaN f d = false) :
    ltV (decodeF f c) (decodeF f d) = decide (fOrd f c < fOrd f d) := by
  have hi := infCode_pos hb
  rw [fOrd_eq, fOrd_eq]
  rcases decodeF_of_not_nan he hc with ⟨hm, h⟩ | ⟨hm, m, j, h, hu⟩ <;>
    rcases decodeF_of_not_nan he hd with ⟨hm', h'⟩ | ⟨hm', n, k, h', hu'⟩ <;> rw [h, h', ltV]
  · simp [hm, hm', signed_lt_signed_self hi]
  · simp [hm, signed_lt_of_mag_lt hm']
  · simp [hm', lt_signed_of_mag_lt hm]
  · simp only [unitsAt_lt_iff, hu, hu', signed_gridUnits_lt_iff]
theorem eqV_decodeF (hc : fNaN f c = false) (hd : fNaN f d = false) :
    eqV (decodeF f c) (decodeF f d) = decide (fOrd f c = fOrd f d) := by
  rw [eqV_eq_not_ltV ((isNan_decodeF he).trans hc) ((isNan_decodeF he).trans hd), ltV_decodeF he hb hc hd, ltV_decodeF he hb hd hc,
    ← decide_not, ← decide_not, ← Bool.decide_and, decide_eq_decide]
  omega

/-- Below in the order of R356: below in that of IEEE 754, or a negative zero and a positive one. -/
theorem ltZ_decodeF (hc : fNaN f c = false) (hd : fNaN f d = false) :
    ltZ (decodeF f c) (decodeF f d) = decide (fKey f c < fKey f d) := by
  rw [ltZ, ltV_decodeF he hb hc hd, isZero_decodeF he hb hc, isZero_decodeF he hb hd, neg_decodeF he hc, neg_decodeF he hd,
    fKey_eq, fKey_eq, fOrd_eq, fOrd_eq]
  rw [Bool.eq_iff_iff]
  simp only [Bool.or_eq_true, Bool.and_eq_true, decide_eq_true_eq, Bool.not_eq_true']
  cases fSign f c <;> cases fSign f d <;>
    simp only [signed, Bool.toNat_false, Bool.toNat_true, if_true, if_false, reduceCtorEq, and_true, and_false, or_false] <;>
    omega

theorem minC_eq (hc : c < 2 ^ f.width) (hd : d < 2 ^ f.width) :
    minMaxC f false c d = (numberOr f c d (fKey f c ≤ fKey f d), flagIf (fSig f c || fSig f d) fNV) :=
  minMaxC_eq he hc hd fun hnc hnd => by simp [ltZ_decodeF he hb hnd hnc]
theorem maxC_eq (hc : c < 2 ^ f.width) (hd : d < 2 ^ f.width) :
    minMaxC f true c d = (numberOr f c d (fKey f d ≤ fKey f c), flagIf (fSig f c || fSig f d) fNV) :=
  minMaxC_eq he hc hd fun hnc hnd => by simp [ltZ_decodeF he hb hnc hnd]

end Order

/-! ## Minimum, maximum and sign (R356) -/

theorem decodeA_of_major_12 {w : Nat} (h : fld w 31 26 = 12) : decodeA w = decA12 w := by
  simp only [decodeA, h]

/-- The low k bits of one number below the others of a second. -/
theorem testBit_mod_add_div_mul (a b k i : Nat) :
    (a % 2 ^ k + b / 2 ^ k * 2 ^ k).testBit i = if i < k then a.testBit i else b.testBit i := by
  rw [Nat.add_comm, Nat.mul_comm, Nat.testBit_two_pow_mul_add _ (Nat.mod_lt _ (Nat.two_pow_pos _)), Nat.testBit_mod_two_pow,
    Nat.testBit_div_two_pow]
  by_cases h : i < k
  · simp [h]
  · rw [if_neg h, if_neg h, Nat.sub_add_cancel (Nat.le_of_not_lt h)]

/-- The sign is the highest bit of a code. -/
theorem width_sub_one (f : Fmt) : f.width - 1 = f.eb + f.mb := by unfold Fmt.width; omega
theorem lt_width_iff {f : Fmt} {i : Nat} : i < f.width ↔ i ≤ f.eb + f.mb := by unfold Fmt.width; omega

section
variable (s : State) (rd ra rb : GReg) (t : BitVec 2)

theorem fpGives_fmin :
    let f := scalarFmt t
    let a := s.codeF t ra
    let b := s.codeF t rb
    FpGives s (.fmin rd ra rb t) rd (BitVec.ofNat 64 (numberOr f a b (fKey f a ≤ fKey f b))) (flagIf (fSig f a || fSig f b) fNV) 1 :=
  fpGives_of_fpuF rfl (minC_eq (scalarFmt_e4 t) (scalarFmt_eb_pos t) (codeF_lt s t ra) (codeF_lt s t rb))
theorem fpGives_fmax :
    let f := scalarFmt t
    let a := s.codeF t ra
    let b := s.codeF t rb
    FpGives s (.fmax rd ra rb t) rd (BitVec.ofNat 64 (numberOr f a b (fKey f b ≤ fKey f a))) (flagIf (fSig f a || fSig f b) fNV) 1 :=
  fpGives_of_fpuF rfl (maxC_eq (scalarFmt_e4 t) (scalarFmt_eb_pos t) (codeF_lt s t ra) (codeF_lt s t rb))
theorem gives_fabs : Gives s (.fabs rd ra t) .a rd (BitVec.ofNat 64 (s.codeF t ra % (scalarFmt t).top)) 1 := rfl
theorem gives_fneg : Gives s (.fneg rd ra t) .a rd (BitVec.ofNat 64 (s.codeF t ra ^^^ (scalarFmt t).top)) 1 := rfl
theorem gives_fcpsgn : Gives s (.fcpsgn rd ra rb t) .a rd
    (BitVec.ofNat 64 (s.codeF t ra % (scalarFmt t).top + s.codeF t rb / (scalarFmt t).top * (scalarFmt t).top)) 1 := rfl

theorem getLsbD_fabs {i : Nat} (hi : i < 64) : (BitVec.ofNat 64 (s.codeF t ra % (scalarFmt t).top)).getLsbD i =
    (decide (i < (scalarFmt t).width - 1) && (s.readG ra).getLsbD i) := by
  rw [getLsbD_ofNat_word _ hi, Fmt.top, width_sub_one, Nat.testBit_mod_two_pow, testBit_codeF]
  by_cases h : i < (scalarFmt t).eb + (scalarFmt t).mb
  · simp [h, lt_width_iff, Nat.le_of_lt h]
  · simp [h]
theorem getLsbD_fneg {i : Nat} (hi : i < 64) : (BitVec.ofNat 64 (s.codeF t ra ^^^ (scalarFmt t).top)).getLsbD i =
    (if i = (scalarFmt t).width - 1 then !(s.readG ra).getLsbD i else decide (i < (scalarFmt t).width) && (s.readG ra).getLsbD i) := by
  rw [getLsbD_ofNat_word _ hi, Fmt.top, width_sub_one, Nat.testBit_xor, Nat.testBit_two_pow, testBit_codeF]
  by_cases h : i = (scalarFmt t).eb + (scalarFmt t).mb
  · simp [h, lt_width_iff]
  · simp [h, Ne.symm h]
theorem getLsbD_fcpsgn {i : Nat} (hi : i < 64) :
    (BitVec.ofNat 64 (s.codeF t ra % (scalarFmt t).top + s.codeF t rb / (scalarFmt t).top * (scalarFmt t).top)).getLsbD i =
    (if i = (scalarFmt t).width - 1 then (s.readG rb).getLsbD i else decide (i < (scalarFmt t).width) && (s.readG ra).getLsbD i) := by
  rw [getLsbD_ofNat_word _ hi, Fmt.top, width_sub_one, testBit_mod_add_div_mul, testBit_codeF, testBit_codeF]
  rcases Nat.lt_trichotomy i ((scalarFmt t).eb + (scalarFmt t).mb) with h | h | h
  · simp [h, lt_width_iff, Nat.ne_of_lt h]
  · simp [h, lt_width_iff]
  · simp [Nat.lt_asymm h, Nat.ne_of_gt h, lt_width_iff, Nat.not_le_of_gt h]

end

/-- Settles O23: both comparisons are those of `fKey`, and the three sign operations change the one bit. -/
theorem floatMinimumMaximumAndSign : Obligations.Float_minimum_maximum_and_sign := by
  refine ⟨fun w _ h => ?_, fun s rd ra rb t => ⟨fpGives_fmin s rd ra rb t, fpGives_fmax s rd ra rb t,
    ⟨_, gives_fabs s rd ra t, fun _ => getLsbD_fabs s ra t⟩, ⟨_, gives_fneg s rd ra t, fun _ => getLsbD_fneg s ra t⟩,
    ⟨_, gives_fcpsgn s rd ra rb t, fun _ => getLsbD_fcpsgn s ra rb t⟩⟩⟩
  rw [decodeA_of_major_12 h]
  refine ⟨?_, ?_, ?_, ?_, ?_⟩ <;> (intro hop; simp only [decA12, hop])

/-! ## Class and comparison (R357) -/

section
variable {f : Fmt} {c d : Nat} (he : f.e4 = false)
include he

theorem classBit_eq : classBit f c =
    if expo f c = 2 ^ f.eb - 1 then
      (if c % 2 ^ f.mb = 0 then (if fSign f c then 0 else 7) else if c.testBit (f.mb - 1) then 9 else 8)
    else if expo f c ≠ 0 then (if fSign f c then 1 else 6)
    else if c % 2 ^ f.mb ≠ 0 then (if fSign f c then 2 else 5) else (if fSign f c then 3 else 4) := by
  unfold classBit
  by_cases hx : expo f c = 2 ^ f.eb - 1
  · rw [if_pos hx]
    by_cases hf : c % 2 ^ f.mb = 0
    · rw [decodeF_inf he hx hf, if_pos hf]
    · have hn : fNaN f c = true := by simp [fNaN_eq, hx, hf]
      rw [decodeF_nan he hn, if_neg hf, fSig, hn]
      cases c.testBit (f.mb - 1) <;> rfl
  · rw [if_neg hx, decodeF_fin he hx]
    by_cases h0 : expo f c = 0
    · have hf : c % 2 ^ f.mb < 2 ^ f.mb := Nat.mod_lt _ (Nat.two_pow_pos _)
      simp [h0, hf]
    · have hm : ¬ 2 ^ f.mb + c % 2 ^ f.mb < 2 ^ f.mb := Nat.not_lt.mpr (Nat.le_add_right _ _)
      simp [h0, hm]

theorem cmpFlags_true : cmpFlags true (decodeF f c) (decodeF f d) = flagIf (fSig f c || fSig f d) fNV := by
  simp only [cmpFlags, isSig_decodeF he, if_true]
theorem cmpFlags_false : cmpFlags false (decodeF f c) (decodeF f d) = flagIf (fNaN f c || fNaN f d) fNV := by
  simp only [cmpFlags, isNan_decodeF he, Bool.false_eq_true, if_false]

end

section Compare
variable {f : Fmt} {c d : Nat}

/-- A truth value that is false beside a NaN and the order's between numbers, as the result of R357. -/
theorem bit01_eq_of_order {b : Bool} {p : Prop} [Decidable p] (hn : (fNaN f c || fNaN f d) = true → b = false)
    (hp : fNaN f c = false → fNaN f d = false → b = decide p) :
    bit01 b = if (fNaN f c || fNaN f d) = false ∧ p then 1 else 0 := by
  cases h : fNaN f c || fNaN f d with
  | true => simp [hn h, bit01]
  | false =>
    obtain ⟨hc, hd⟩ := Bool.or_eq_false_iff.mp h
    simp [hp hc hd, bit01]

variable (he : f.e4 = false) (hb : 0 < f.eb)
include he

theorem ltV_decodeF_nan (h : (fNaN f c || fNaN f d) = true) : ltV (decodeF f c) (decodeF f d) = false :=
  ltV_of_nan (by rwa [isNan_decodeF he, isNan_decodeF he])
theorem eqV_decodeF_nan (h : (fNaN f c || fNaN f d) = true) : eqV (decodeF f c) (decodeF f d) = false :=
  eqV_of_nan (by rwa [isNan_decodeF he, isNan_decodeF he])

include hb

theorem bit01_eqV : bit01 (eqV (decodeF f c) (decodeF f d)) =
    if (fNaN f c || fNaN f d) = false ∧ fOrd f c = fOrd f d then 1 else 0 :=
  bit01_eq_of_order (eqV_decodeF_nan he) (eqV_decodeF he hb)
theorem bit01_ltV : bit01 (ltV (decodeF f c) (decodeF f d)) =
    if (fNaN f c || fNaN f d) = false ∧ fOrd f c < fOrd f d then 1 else 0 :=
  bit01_eq_of_order (ltV_decodeF_nan he) (ltV_decodeF he hb)
theorem bit01_leV : bit01 (ltV (decodeF f c) (decodeF f d) || eqV (decodeF f c) (decodeF f d)) =
    if (fNaN f c || fNaN f d) = false ∧ fOrd f c ≤ fOrd f d then 1 else 0 := by
  refine bit01_eq_of_order (fun h => ?_) (fun hc hd => ?_)
  · rw [ltV_decodeF_nan he h, eqV_decodeF_nan he h, Bool.false_or]
  · rw [ltV_decodeF he hb hc hd, eqV_decodeF he hb hc hd, ← Bool.decide_or, decide_eq_decide]
    exact Int.le_iff_lt_or_eq.symm

end Compare

section
variable (s : State) (rd ra rb : GReg) (t : BitVec 2)

theorem gives_fclass : Gives s (.fclass rd ra t) .a rd (BitVec.ofNat 64 (2 ^ classBit (scalarFmt t) (s.codeF t ra))) 1 := rfl
theorem fpGives_feq :
    let f := scalarFmt t
    let a := s.codeF t ra
    let b := s.codeF t rb
    FpGives s (.feq rd ra rb t) rd (if (fNaN f a || fNaN f b) = false ∧ fOrd f a = fOrd f b then 1 else 0)
      (flagIf (fSig f a || fSig f b) fNV) 2 :=
  fpGives_of_fpu rfl (bit01_eqV (scalarFmt_e4 t) (scalarFmt_eb_pos t)) (cmpFlags_true (scalarFmt_e4 t))
theorem fpGives_flt :
    let f := scalarFmt t
    let a := s.codeF t ra
    let b := s.codeF t rb
    FpGives s (.flt rd ra rb t) rd (if (fNaN f a || fNaN f b) = false ∧ fOrd f a < fOrd f b then 1 else 0)
      (flagIf (fNaN f a || fNaN f b) fNV) 2 :=
  fpGives_of_fpu rfl (bit01_ltV (scalarFmt_e4 t) (scalarFmt_eb_pos t)) (cmpFlags_false (scalarFmt_e4 t))
theorem fpGives_fle :
    let f := scalarFmt t
    let a := s.codeF t ra
    let b := s.codeF t rb
    FpGives s (.fle rd ra rb t) rd (if (fNaN f a || fNaN f b) = false ∧ fOrd f a ≤ fOrd f b then 1 else 0)
      (flagIf (fNaN f a || fNaN f b) fNV) 2 :=
  fpGives_of_fpu rfl (bit01_leV (scalarFmt_e4 t) (scalarFmt_eb_pos t)) (cmpFlags_false (scalarFmt_e4 t))

end

/-- Settles O24: the class by the fields of the code, the comparisons by `fOrd`. -/
theorem floatClassAndCompare : Obligations.Float_class_and_compare := by
  refine ⟨fun w _ h => ?_, fun s rd ra rb t =>
    ⟨?_, fpGives_feq s rd ra rb t, fpGives_flt s rd ra rb t, fpGives_fle s rd ra rb t⟩⟩
  · rw [decodeA_of_major_12 h]
    refine ⟨?_, ?_, ?_, ?_⟩ <;> (intro hop; simp only [decA12, hop])
  · have hclass := gives_fclass s rd ra t
    rw [classBit_eq (scalarFmt_e4 t)] at hclass
    exact hclass

end Sys2Proof.Laws.ScalarFloat
end
